-- ==== Sys2Proof/Word.lean ====
section
/-! DEFINITION. The word types of the WX9 (00 R6: every multi-byte value is little-endian). -/

namespace Sys2Proof

/-- A byte of storage. -/
abbrev Byte := BitVec 8
/-- A 32-bit word: an instruction word, a vector lane, an FP32 value's bits. -/
abbrev W32 := BitVec 32
/-- A 64-bit word: a general register, an object pointer (01 R31), a queue entry. -/
abbrev W64 := BitVec 64

end Sys2Proof
end

