-- ==== Sys2Proof/Syntax.lean ====
section
/-! DEFINITION. The instructions and the table's other steps as syntax: one constructor of `Instr` per row of the
opcode table. Register numbers and codes are already pulled out of the words (02 R45 to R61); a field whose
value 31 means a literal is a `Src`. -/

namespace Sys2Proof

/-- A destination field of the control strand (R45): a register, or 31, which discards the result. -/
inductive Dst where
  | x (r : Fin 31)
  | none
  deriving DecidableEq, Repr

/-- A source field of the control strand (R45): a register, or 31 with a literal of one word (L = 0, sign-extended)
or of two words (L = 1). -/
inductive Src where
  | x (r : Fin 31)
  | lit32 (w : W32)
  | lit64 (w : W64)
  deriving DecidableEq, Repr

/-- The ord field (R47). -/
inductive Ord where
  | none | acq | rel | acqRel
  deriving DecidableEq, Repr

/-- The scope field (R47), 000 to 100. -/
inductive Scope where
  | core | cluster | die | package | fabric
  deriving DecidableEq, Repr

/-- The condition codes of `cmp` and `cmpi` (R50). -/
inductive Cond where
  | eq | ne | lt | le | gt | ge | ltn | len | gtn | gen
  deriving DecidableEq, Repr

/-- The class, ord, scope and off6 fields of format CM (R46). -/
structure MemQ where
  cls : BitVec 4
  ord : Ord
  scope : Scope
  off : BitVec 6
  deriving DecidableEq, Repr

/-- The class, ord and scope fields of format CA (R46). -/
structure AtomQ where
  cls : BitVec 4
  ord : Ord
  scope : Scope
  deriving DecidableEq, Repr

/-- The engine codes of `shwr`, `lywr` and `shswap` (R97), which are also the four engine strands. -/
inductive Engine where
  | vector | matrixA | matrixB | copy
  deriving DecidableEq, Repr

/-- The command rings (R82): 0 matrix A, 1 matrix B, 2 copy. -/
inductive RingNo where
  | matrixA | matrixB | copy
  deriving DecidableEq, Repr

/-- The five strands of a core (01 R20). -/
inductive Strand where
  | control | vector | matrixA | matrixB | copy
  deriving DecidableEq, Repr

/-- The operations of majors 0x20 to 0x2A, and the AOP codes of `fatom` (R290, R350). -/
inductive AtomOp where
  | add | fadd | xchg | cas | min | max | minn | maxn | and | or | xor
  deriving DecidableEq, Repr

/-- A vector register operand (R52): V0 to V31, or the indexed form of cluster c and offset o. -/
inductive VReg where
  | v (n : Fin 32)
  | ind (c : Fin 4) (o : Fin 8)
  deriving DecidableEq, Repr

/-- A vector destination (R52): a register, or 0x44, which discards the result. -/
inductive VDst where
  | reg (r : VReg)
  | none
  deriving DecidableEq, Repr

/-- A vector source (R52): a register, a popped operand-queue image, zero, or a broadcast literal. -/
inductive VSrc where
  | reg (r : VReg)
  | oq (n : Fin 4)
  | zero
  | lit (w : W32)
  deriving DecidableEq, Repr

/-- The pred and pn fields (R51). -/
structure Guard where
  p : Fin 8
  pn : Bool
  deriving DecidableEq, Repr

/-- The fields of the qualifier prefix (R53); for the memory group type, round, sat and ftz hold the ordering (R144). -/
structure Qual where
  type : BitVec 4
  round : BitVec 3
  sat : Bool
  ftz : Bool
  spec : Bool
  sg : Fin 4
  sgen : Bool
  sh : Fin 8
  deriving DecidableEq, Repr

/-- The start of a `vwalk` (R159). -/
inductive WalkStart where
  | zero
  | cursor (sg : Fin 4)
  | lit (seq : W32)
  deriving DecidableEq, Repr

/-- The await and raise fields of a step word (R56); 15 is none. -/
structure Sems where
  aw : BitVec 4
  rs : BitVec 4
  deriving DecidableEq, Repr

/-- An operand descriptor of the `mma` family (R182). `fixed` is the SRC bit. -/
structure OpDesc where
  ty : BitVec 4
  fixed : Bool
  pop : Bool
  ring : Fin 8
  slot : Fin 8
  addr : BitVec 20
  deriving DecidableEq, Repr

/-- The operation fields and extension words of the `mma` family (R185, R192). -/
structure MmaArgs where
  tile : BitVec 6
  sh : Fin 8
  fa : Fin 8
  fb : Fin 8
  opA : OpDesc
  opB : OpDesc
  sau : Bool
  sbu : Bool
  saidx : BitVec 14
  sbidx : BitVec 14
  deriving DecidableEq, Repr

/-- ACT of an epilogue (R197). -/
inductive Act where
  | none | relu | silu | sigm | tanh
  deriving DecidableEq, Repr

/-- The fields common to the epilogues (R197). `hi` is extension word 2 [31:16]: PITCH or COL0. -/
structure EpArgs where
  tile : BitVec 6
  sh : Fin 8
  f : Fin 8
  act : Act
  bias : Bool
  hi : BitVec 16
  otype : BitVec 4
  round : BitVec 3
  sat : Bool
  fe : Bool
  scidx : BitVec 7
  cls : BitVec 4
  scope : Scope
  baddr : BitVec 12
  gen : BitVec 8
  kill : Bool
  deriving DecidableEq, Repr

/-- The full/empty mode of a copy step (R59). -/
inductive FeMode where
  | dataAndBits | dataOnly | setFull | setEmpty | requireFull
  deriving DecidableEq, Repr

/-- The fields common to the data-moving copy steps (R299). -/
structure MoveQ where
  fe : FeMode
  scope : Scope
  pb : Bool
  dl : Fin 4
  deriving DecidableEq, Repr

/-- The fields common to the fabric copy steps (R348). -/
structure FabQ where
  fe : FeMode
  pb : Bool
  dl : Fin 4
  deriving DecidableEq, Repr

/-- The immediate of `shmov` and `shadd` (R60): imm13, or a literal word. -/
inductive SImm where
  | imm (v : BitVec 13)
  | lit (w : W32)
  deriving DecidableEq, Repr

/-- One of the 128 cores of the package, by logical number (01 R27). -/
abbrev CoreId := Fin 128


/-- What a performed write does to the full/empty bit of its location: keep it, set it full or empty, or carry the source's. -/
inductive FeAct where
  | keep | full | empty | carry
  deriving DecidableEq, Repr

/-- What a copy step needs of a location of a remote object before it starts (10 R297): to read it, to read it full (mode 100), to read its words as
steps, to write it, or to write it with its bit; or, of a sampler's table entry before a token is emitted, to update it (08 R234). -/
inductive EndNeed where
  | read | readFull | exec | write | bitWrite | table
  deriving DecidableEq, Repr

/-- What a strand asks of a remote home (13 R378): a load, a store of masked bytes, an atomic with its operand and expected value,
a waiting or consuming load, a filling store, the state of a bit, an update of a sampler's table entry (08 R239), a vector full/empty form (0 wait, 1 consume, 2 fill) on
several words, with the masked bytes a fill writes to each, the elements of a vector load or store (05 R163), or the checks of a copy step that is
to start. -/
inductive RemoteOp where
  | load (n : Nat)
  | store (data : List (Byte × Byte))
  | atomic (op : AtomOp) (v e : W64)
  | wait
  | consume
  | fill (data : W64)
  | state
  | table (bias : Bool) (v : W32)
  | feWords (form : Nat) (ptrs : List W64) (data : List (List (Byte × Byte)))
  | gather (n : Nat) (ptrs : List W64)
  | scatter (elems : List (W64 × List (Byte × Byte)))
  | check (needs : List (W64 × EndNeed))
  deriving DecidableEq, Repr

/-- A home's answer for one element of a vector load or store: its value, a poisoned location, or a refusal (12 R342). -/
inductive LaneReply where
  | value (v : Nat)
  | poisoned
  | refused
  deriving DecidableEq, Repr

/-- A home's answer: the value (a load's or an atomic's old one), the values of several words, an answer for each element, not ready, an empty
location that a copy step needs full, a poisoned location, or a refusal (12 R342). -/
inductive RemoteReply where
  | value (v : Nat)
  | many (vs : List Nat)
  | each (rs : List LaneReply)
  | notReady
  | empty (ptr : W64)
  | poisoned
  | refused
  deriving DecidableEq, Repr

/-- A location's contents on the way: data, bit and poison mark. -/
structure LocData where
  data : W64
  full : Bool
  poison : Bool
  deriving DecidableEq, Repr

/-- A write of masked bytes within one location of a remote object, what it does to the bit, the source bit it may carry, and the
poison mark it brings: set, cleared where the bytes fill the location, or left. -/
structure PutWord where
  ptr : W64
  bytes : List (Byte × Byte)
  fe : FeAct
  full : Bool
  mark : Option Bool
  deriving DecidableEq, Repr

/-- A row sent by `eprow` or `epadd` (06 R200, 12 R364). `add` is `epadd`; a squash has no data. -/
structure RowMsg where
  h : BitVec 24
  row : BitVec 28
  col0 : Nat
  otype : BitVec 4
  n : Nat
  gen : BitVec 8
  mv : W32
  add : Bool
  fe : Bool
  data : List Byte
  poison : Bool
  deriving DecidableEq, Repr

/-- A collective's message (12 R354, R356): its destination core, the rank it comes from, and the locations it brings, from a byte
offset within its slot. -/
structure CollMsg where
  coll : W32
  core : CoreId
  rank : Nat
  off : Nat
  locs : List LocData
  deriving DecidableEq, Repr

/-- What a fabric message does at its destination: it writes, reads or updates an object's locations, moors or withdraws a strand of
the sender (13 R378), brings a row, or brings a collective's data. -/
inductive FabBody where
  | puts (ws : List PutWord)
  | get (ptr : W64) (n : Nat) (needFull : Bool)
  | atom (ptr : W64) (op : AtomOp) (v e : W64)
  | access (ptr : W64) (op : RemoteOp)
  | moor (ptr : W64) (wantEmpty : Bool) (core : CoreId) (strand : Strand)
  | unmoor (core : CoreId) (strand : Strand)
  | row (r : RowMsg)
  | coll (m : CollMsg)
  deriving DecidableEq, Repr

/-- A fabric message: its sender package and its number there, its destination package, and the issuing task's context. -/
structure FabMsg where
  src : BitVec 12
  dst : BitVec 12
  ctx : Nat
  id : Nat
  body : FabBody
  deriving DecidableEq, Repr

/-- A message's answer: landed; failed with a reason (12 R365); the locations of a get, or its first empty one; an atomic's old
value; a strand's answer; a redirect of a row; a bounce, or a refusal of a collective's slot (12 R354). -/
inductive FabReply where
  | landed
  | failed (reason : Nat)
  | data (locs : List LocData)
  | empty (ptr : W64)
  | old (v : W64)
  | access (r : RemoteReply)
  | redirect (pkg : BitVec 12) (h : BitVec 24)
  | bounced
  | slotRefused
  deriving DecidableEq, Repr


/-- A shard's contribution (08 R252): its sender's package and cluster, the root's cluster, COLL, SHIDX and TIMEOUT, its MX and SM, its
entries in the order sent, its failure mark, and the ids for which its count table has an entry (first and number). -/
structure ShardMsg where
  src : BitVec 12
  cl : Fin 16
  root : Fin 16
  coll : W32
  shard : Nat
  timeout : Nat
  mx : W32
  sm : W32
  cands : List (W32 × W32)
  failed : Bool
  covers : Option (Nat × Nat)
  deriving DecidableEq, Repr

/-- The root's answer to a shard (08 R253, R254): a token and whether to count it, or INCOMPLETE. -/
structure ShardReply where
  coll : W32
  shard : Nat
  token : Option (W32 × Bool)
  deriving DecidableEq, Repr

/-- A task that spans this package, admitted by another one (11 R321): that package, its number there, its context and its record. -/
structure FarTask where
  pkg : BitVec 12
  id : Nat
  ctx : Nat
  record : List (BitVec 8)
  deriving DecidableEq, Repr

/-- What firmware gives a context it creates (13 R376, R381, R387; 14 R406). -/
structure ContextCfg where
  otbase : Nat
  otlen : Nat
  dsmBase : Nat
  dsmSize : Nat
  clmBase : Nat
  clmSize : Nat
  mlbase : Nat
  pool : Nat
  stvec : W64
  trefl : W64
  ckpool : W64
  deriving DecidableEq, Repr

/-- A management-core access to CD HBM (13 R397): by device address, or through a context's object table. -/
inductive HbmAccess where
  | direct (addr : Nat)
  | object (ctx : Fin 64) (ptr : W64)
  deriving DecidableEq, Repr

/-- An ECC error of storage (14 R414): a corrected single-bit error, in a core's SRAM or outside the cores; an uncorrectable one in a
location, in a tagged register, its shadow or a lane, in a lane of an image of an operand queue, in an ACC row, in a core's untagged state (scale memory
among it), in a cache block of an attention die, or in a sampler. -/
inductive Ecc where
  | corrected (core : Option CoreId)
  | location (loc : Nat)
  | register (core : CoreId) (r : Fin 31)
  | shadow (core : CoreId) (r : Fin 7)
  | lane (core : CoreId) (v : Fin 32) (l : Fin 1024)
  | image (core : CoreId) (q : Fin 4) (k : Nat) (l : Fin 1024)
  | accRow (core : CoreId) (tile row : Fin 64)
  | untagged (core : CoreId) (strand : Strand)
  | block (ad : Fin 2) (seq b : Nat)
  | sampler (cl : Fin 16)
  deriving DecidableEq, Repr

/-- One constructor per row of the opcode table: the instructions of the five code sections, and the steps that no
instruction word names (completions, arrivals, expiries, host and firmware actions), which carry what the step acts on. -/
inductive Instr where
  | add (d : Dst) (a b : Src) -- ADD R87
  | sub (d : Dst) (a b : Src) -- SUB R87
  | mul (d : Dst) (a b : Src) -- MUL R87
  | mulh (d : Dst) (a b : Src) -- MULH R87
  | mulhn (d : Dst) (a b : Src) -- MULHN R87
  | div (d : Dst) (a b : Src) -- DIV R87
  | divn (d : Dst) (a b : Src) -- DIVN R87
  | rem (d : Dst) (a b : Src) -- REM R87
  | remn (d : Dst) (a b : Src) -- REMN R87
  | and (d : Dst) (a b : Src) -- AND R87
  | or (d : Dst) (a b : Src) -- OR R87
  | xor (d : Dst) (a b : Src) -- XOR R87
  | andn (d : Dst) (a b : Src) -- ANDN R87
  | shl (d : Dst) (a b : Src) -- SHL R87
  | shr (d : Dst) (a b : Src) -- SHR R87
  | sar (d : Dst) (a b : Src) -- SAR R87
  | rol (d : Dst) (a b : Src) -- ROL R87
  | min (d : Dst) (a b : Src) -- MIN R87
  | max (d : Dst) (a b : Src) -- MAX R87
  | minn (d : Dst) (a b : Src) -- MINN R87
  | maxn (d : Dst) (a b : Src) -- MAXN R87
  | adds (d : Dst) (a b : Src) -- ADDS R87
  | subs (d : Dst) (a b : Src) -- SUBS R87
  | addsn (d : Dst) (a b : Src) -- ADDSN R87
  | subsn (d : Dst) (a b : Src) -- SUBSN R87
  | muls (d : Dst) (a b : Src) -- MULS R87
  | abs (d : Dst) (a : Src) -- ABS R87
  | neg (d : Dst) (a : Src) -- NEG R87
  | clz (d : Dst) (a : Src) -- CLZ R87
  | ctz (d : Dst) (a : Src) -- CTZ R87
  | popc (d : Dst) (a : Src) -- POPC R87
  | sext8 (d : Dst) (a : Src) -- SEXT8 R87
  | sext16 (d : Dst) (a : Src) -- SEXT16 R87
  | sext32 (d : Dst) (a : Src) -- SEXT32 R87
  | mov (d : Dst) (a : Src) -- MOV R87
  | addi (d : Dst) (a : Src) (imm : BitVec 15) -- ADDI R88
  | andi (d : Dst) (a : Src) (imm : BitVec 15) -- ANDI R88
  | ori (d : Dst) (a : Src) (imm : BitVec 15) -- ORI R88
  | xori (d : Dst) (a : Src) (imm : BitVec 15) -- XORI R88
  | shli (d : Dst) (a : Src) (amount : BitVec 6) -- SHLI R88
  | shri (d : Dst) (a : Src) (amount : BitVec 6) -- SHRI R88
  | sari (d : Dst) (a : Src) (amount : BitVec 6) -- SARI R88
  | roli (d : Dst) (a : Src) (amount : BitVec 6) -- ROLI R88
  | movi (d : Dst) (imm : BitVec 15) -- MOVI R88
  | cmp (k : Fin 8) (a b : Src) (c : Cond) -- CMP R89
  | cmpi (k : Fin 8) (a : Src) (c : Cond) (imm : BitVec 11) -- CMPI R89
  | sel (d : Dst) (a b : Src) (k : Fin 8) -- SEL R91
  | kand (d a b : Fin 8) -- KAND R90
  | kor (d a b : Fin 8) -- KOR R90
  | kxor (d a b : Fin 8) -- KXOR R90
  | knot (d a : Fin 8) -- KNOT R90
  | kmov (d a : Fin 8) -- KMOV R90
  | padd (d : Dst) (a b : Src) -- PADD R92
  | psub (d : Dst) (a b : Src) -- PSUB R92
  | phdl (d : Dst) (a : Src) -- PHDL R92
  | poff (d : Dst) (a : Src) -- POFF R92
  | pmake (d : Dst) (a b : Src) -- PMAKE R92
  | paddi (d : Dst) (a : Src) (imm : BitVec 15) -- PADDI R92
  | ld (d : Dst) (base : Src) (q : MemQ) -- LD R283
  | ld32 (d : Dst) (base : Src) (q : MemQ) -- LD32 R283
  | ld32s (d : Dst) (base : Src) (q : MemQ) -- LD32S R283
  | ld16 (d : Dst) (base : Src) (q : MemQ) -- LD16 R283
  | ld16s (d : Dst) (base : Src) (q : MemQ) -- LD16S R283
  | ld8 (d : Dst) (base : Src) (q : MemQ) -- LD8 R283
  | ld8s (d : Dst) (base : Src) (q : MemQ) -- LD8S R283
  | ldwait (d : Dst) (base : Src) (q : MemQ) -- LDWAIT R286
  | ldcons (d : Dst) (base : Src) (q : MemQ) -- LDCONS R286
  | st (v base : Src) (q : MemQ) -- ST R283
  | st32 (v base : Src) (q : MemQ) -- ST32 R283
  | st16 (v base : Src) (q : MemQ) -- ST16 R283
  | st8 (v base : Src) (q : MemQ) -- ST8 R283
  | stfill (v base : Src) (q : MemQ) -- STFILL R286
  | fence (mask : BitVec 16) -- FENCE R293
  | cireq (a b : Src) -- CIREQ R294
  | aadd (d : Dst) (base b : Src) (q : AtomQ) -- AADD R290
  | afadd (d : Dst) (base b : Src) (q : AtomQ) -- AFADD R290
  | axchg (d : Dst) (base b : Src) (q : AtomQ) -- AXCHG R290
  | acas (e base b : Src) (q : AtomQ) -- ACAS R290
  | amin (d : Dst) (base b : Src) (q : AtomQ) -- AMIN R290
  | amax (d : Dst) (base b : Src) (q : AtomQ) -- AMAX R290
  | aminn (d : Dst) (base b : Src) (q : AtomQ) -- AMINN R290
  | amaxn (d : Dst) (base b : Src) (q : AtomQ) -- AMAXN R290
  | aand (d : Dst) (base b : Src) (q : AtomQ) -- AAND R290
  | aor (d : Dst) (base b : Src) (q : AtomQ) -- AOR R290
  | axor (d : Dst) (base b : Src) (q : AtomQ) -- AXOR R290
  | b (disp : BitVec 26) -- B R93
  | call (disp : BitVec 26) -- CALL R93
  | bc (k : Fin 8) (disp : BitVec 22) -- BC R93
  | bcn (k : Fin 8) (disp : BitVec 22) -- BCN R93
  | jr (a : Src) -- JR R94
  | callr (a : Src) -- CALLR R94
  | ret -- RET R94
  | jtab (a b : Src) (len : BitVec 15) -- JTAB R95
  | qrd (d : Dst) (q : Fin 8) -- QRD R96
  | qwr (q : Fin 8) (a : Src) -- QWR R96
  | qtryrd (d : Dst) (q : Fin 8) -- QTRYRD R96
  | qtrywr (q : Fin 8) (a : Src) -- QTRYWR R96
  | shwr (r : Fin 8) (a : Src) (e : Engine) -- SHWR R99
  | lywr (r : Fin 8) (a : Src) (e : Engine) -- LYWR R99
  | shswap (e : Engine) -- SHSWAP R100
  | csel (d : Dst) (a : Src) (k : Fin 8) -- CSEL R101
  | pchk (k : Fin 8) (a : Src) -- PCHK R101
  | pclr (d : Dst) (a : Src) -- PCLR R101
  | srr (d : Dst) (n : BitVec 15) -- SRR R102
  | srw (n : BitVec 15) (a : Src) -- SRW R102
  | crcfgWrite (ring : RingNo) (a : Src) -- CRCFG_WRITE R83
  | crrpWrite (ring : RingNo) (a : Src) -- CRRP_WRITE R83
  | crwpWrite (ring : RingNo) (a : Src) -- CRWP_WRITE R83
  | mcinvWrite (a : Src) -- MCINV_WRITE R379
  | vstatWrite (a : Src) -- VSTAT_WRITE R411
  | mlcfgWrite (a : Src) -- MLCFG_WRITE R387
  | uiret -- UIRET R105
  | smwait (d : Dst) (a : Src) (n : Fin 15) -- SMWAIT R330
  | smadd (d : Dst) (a : Src) (n : Fin 15) -- SMADD R330
  | mxlock (n : Fin 8) -- MXLOCK R332
  | mxfree (n : Fin 8) -- MXFREE R332
  | dbar (d : Dst) (a : Src) -- DBAR R333
  | moor (d : Dst) (a b : Src) -- MOOR R339
  | yieldPoint (a : Src) -- YIELD_POINT R323
  | yieldEnd (a : Src) -- YIELD_END R323
  | launch (d : Dst) (a b : Src) -- LAUNCH R317
  | allocRing (d : Dst) (a b : Src) -- ALLOC_RING R335
  | allocBump (d : Dst) (a b : Src) -- ALLOC_BUMP R335
  | allocStatus (d : Dst) (a b : Src) -- ALLOC_STATUS R335
  | freeRing (a b : Src) -- FREE_RING R335
  | freeBump (a b : Src) -- FREE_BUMP R335
  | attn (a b : Src) -- ATTN R211
  | atcommit (a b : Src) -- ATCOMMIT R221
  | atdrop (a b : Src) -- ATDROP R221
  | exalloc (d : Dst) (a b : Src) -- EXALLOC R222
  | exfree (a b : Src) -- EXFREE R223
  | exinv (d : Dst) (a b : Src) -- EXINV R224
  | sample (a b : Src) -- SAMPLE R247
  | sbind (a b : Src) -- SBIND R251
  | hins (d : Dst) (a b : Src) -- HINS R361
  | htop (d : Dst) (a b : Src) -- HTOP R362
  | hclr (a b : Src) -- HCLR R362
  | obqry (d : Dst) (a b : Src) -- OBQRY R394
  | obprobe (d : Dst) (a b : Src) -- OBPROBE R395
  | trap (a : Src) -- TRAP R413
  | retsReturn (a : Src) -- RETS_RETURN R413
  | retsEnd (a : Src) -- RETS_END R413
  | snap (a : Src) -- SNAP R413
  | rpctlRdst (d : Dst) (a b : Src) -- RPCTL_RDST R425
  | rpctlCk (d : Dst) (a b : Src) -- RPCTL_CK R425
  | rpctlRdhash (d : Dst) (a b : Src) -- RPCTL_RDHASH R425
  | rpctlConfig (d : Dst) (a b : Src) -- RPCTL_CONFIG R425
  | rpctlStop (d : Dst) (a b : Src) -- RPCTL_STOP R425
  | vld (q : Option Qual) (d : VDst) (ly : Fin 8) (off : VSrc) (g : Guard) -- VLD R163
  | vst (q : Option Qual) (v : VReg) (ly : Fin 8) (off : VSrc) (g : Guard) -- VST R163
  | vldwait (q : Option Qual) (d : VDst) (ly : Fin 8) (off : VSrc) (g : Guard) -- VLDWAIT R164
  | vldcons (q : Option Qual) (d : VDst) (ly : Fin 8) (off : VSrc) (g : Guard) -- VLDCONS R164
  | vstfill (q : Option Qual) (v : VReg) (ly : Fin 8) (off : VSrc) (g : Guard) -- VSTFILL R164
  | vgath (q : Option Qual) (d : VDst) (ly : Fin 8) (off : VSrc) (g : Guard) -- VGATH R163
  | vscat (q : Option Qual) (v : VReg) (ly : Fin 8) (off : VSrc) (g : Guard) -- VSCAT R163
  | mma (w : Sems) (m : MmaArgs) -- MMA R192
  | mmaz (w : Sems) (m : MmaArgs) -- MMAZ R192
  | mmasg (w : Sems) (m : MmaArgs) -- MMASG R187
  | fset (w : Sems) (n : Fin 8) (v : W32) -- FSET R193
  | fqrd (w : Sems) (n : Fin 8) -- FQRD R193
  | mthr (w : Sems) (v : W32) -- MTHR R193
  | scld (w : Sems) (fmt : Fin 3) (count1 : BitVec 14) (src : W32) (cls : BitVec 4) (didx : BitVec 14) -- SCLD R194
  | acczero (w : Sems) (tile count1 : BitVec 6) -- ACCZERO R195
  | epil (w : Sems) (e : EpArgs) (dst : W32) -- EPIL R199
  | epobj (w : Sems) (e : EpArgs) (ly : Fin 8) (row0 : BitVec 29) -- EPOBJ R199
  | eprow (w : Sems) (e : EpArgs) (taddr : BitVec 20) -- EPROW R200
  | epadd (w : Sems) (e : EpArgs) (taddr : BitVec 20) -- EPADD R200
  | accst (w : Sems) (tile : BitVec 6) (addr : W32) (cls : BitVec 4) (scope : Scope) -- ACCST R196
  | accld (w : Sems) (tile : BitVec 6) (addr : W32) (cls : BitVec 4) (scope : Scope) -- ACCLD R196
  | mqwr (w : Sems) (tag : BitVec 14) -- MQWR R201
  | mqwrSt (w : Sems) -- MQWR_ST R201
  | mrel (w : Sems) -- MREL R201
  | msync (w : Sems) -- MSYNC R201
  | mjmp (w : Sems) (count disp : BitVec 8) -- MJMP R201
  | tmov (w : Sems) (m : MoveQ) (lys lyd : Fin 8) (soff doff : W32) (count1 : BitVec 24) -- TMOV R303
  | tmov2d (w : Sems) (m : MoveQ) (lys lyd : Fin 8) (rec : W32) -- TMOV2D R304
  | rrot (w : Sems) (m : MoveQ) (dist : Fin 8) (saddr daddr : W32) (count1 : BitVec 20) -- RROT R305
  | gath (w : Sems) (m : MoveQ) (lys lyd : Fin 8) (iaddr : W32) (rowb : BitVec 17) (rows1 : BitVec 16) -- GATH R306
  | scat (w : Sems) (m : MoveQ) (lys lyd : Fin 8) (iaddr : W32) (rowb : BitVec 17) (rows1 : BitVec 16) -- SCAT R306
  | rpush (w : Sems) (m : MoveQ) (lys rg : Fin 8) (soff : W32) -- RPUSH R307
  | cfill (w : Sems) (m : MoveQ) (lyd : Fin 8) (doff : W32) (count1 : BitVec 24) (pat : W32) -- CFILL R308
  | crstr (w : Sems) (m : MoveQ) (lys : Fin 8) (ring : RingNo) (soff : W32) (words1 : BitVec 16) -- CRSTR R309
  | csync (w : Sems) (pop : Bool) -- CSYNC R310
  | cqwr (w : Sems) (tag : BitVec 14) -- CQWR R310
  | fwr (w : Sems) (m : FabQ) (lys lyd : Fin 8) (soff doff : W32) (pkg : BitVec 12) (count1 : BitVec 20) -- FWR R349
  | frd (w : Sems) (m : FabQ) (lys lyd : Fin 8) (soff doff : W32) (pkg : BitVec 12) (count1 : BitVec 20) -- FRD R349
  | fatom (w : Sems) (aop : AtomOp) (lyd : Fin 8) (doff oaddr : W32) (pkg : BitVec 12) -- FATOM R350
  | lbregBuffer (w : Sems) (rec : W32) -- LBREG_BUFFER R352
  | lbregPort (w : Sems) (rec : W32) -- LBREG_PORT R352
  | lbregClose (w : Sems) (rec : W32) -- LBREG_CLOSE R367
  | lbregOpen (w : Sems) (rec : W32) -- LBREG_OPEN R367
  | lbregRedirect (w : Sems) (rec : W32) -- LBREG_REDIRECT R365
  | lbrelBuffer (w : Sems) (key : W32) -- LBREL_BUFFER R353
  | lbrelPort (w : Sems) (h : BitVec 24) -- LBREL_PORT R353
  | a2av (w : Sems) (m : FabQ) (desc : W32) -- A2AV R356
  | rscat (w : Sems) (m : FabQ) (desc : W32) -- RSCAT R356
  | agath (w : Sems) (m : FabQ) (desc : W32) -- AGATH R356
  | bcast (w : Sems) (m : FabQ) (desc : W32) -- BCAST R356
  | pgmovUp (w : Sems) (h : BitVec 24) (k staddr : W32) -- PGMOV_UP R384
  | pgmovDown (w : Sems) (h : BitVec 24) (k staddr : W32) -- PGMOV_DOWN R384
  | feset (w : Sems) (m : MoveQ) (lyd : Fin 8) (doff : W32) (count1 : BitVec 24) -- FESET R388
  | obcopy (w : Sems) (h : BitVec 24) (k : W32) (nslot : BitVec 24) -- OBCOPY R385
  | vadd (q : Option Qual) (d : VDst) (a b : VSrc) (g : Guard) -- VADD R148
  | vsub (q : Option Qual) (d : VDst) (a b : VSrc) (g : Guard) -- VSUB R148
  | vmul (q : Option Qual) (d : VDst) (a b : VSrc) (g : Guard) -- VMUL R148
  | vfma (q : Option Qual) (d : VDst) (a b : VSrc) (g : Guard) -- VFMA R148
  | vfnma (q : Option Qual) (d : VDst) (a b : VSrc) (g : Guard) -- VFNMA R148
  | vmin (q : Option Qual) (d : VDst) (a b : VSrc) (g : Guard) -- VMIN R148
  | vmax (q : Option Qual) (d : VDst) (a b : VSrc) (g : Guard) -- VMAX R148
  | vabs (q : Option Qual) (d : VDst) (a : VSrc) (g : Guard) -- VABS R148
  | vneg (q : Option Qual) (d : VDst) (a : VSrc) (g : Guard) -- VNEG R148
  | vadds (q : Option Qual) (d : VDst) (a b : VSrc) (g : Guard) -- VADDS R148
  | vsubs (q : Option Qual) (d : VDst) (a b : VSrc) (g : Guard) -- VSUBS R148
  | vmulh (q : Option Qual) (d : VDst) (a b : VSrc) (g : Guard) -- VMULH R148
  | vceq (q : Option Qual) (pd : Fin 8) (a b : VSrc) (g : Guard) -- VCEQ R149
  | vcne (q : Option Qual) (pd : Fin 8) (a b : VSrc) (g : Guard) -- VCNE R149
  | vclt (q : Option Qual) (pd : Fin 8) (a b : VSrc) (g : Guard) -- VCLT R149
  | vcle (q : Option Qual) (pd : Fin 8) (a b : VSrc) (g : Guard) -- VCLE R149
  | vcgt (q : Option Qual) (pd : Fin 8) (a b : VSrc) (g : Guard) -- VCGT R149
  | vcge (q : Option Qual) (pd : Fin 8) (a b : VSrc) (g : Guard) -- VCGE R149
  | vsel (q : Option Qual) (d : VDst) (a b : VSrc) (g : Guard) -- VSEL R147
  | vcsel (q : Option Qual) (d : VDst) (a b : VSrc) (g : Guard) -- VCSEL R147
  | vcvt (q : Option Qual) (d : VDst) (a : VSrc) (dir : Fin 4) (g : Guard) -- VCVT R151
  | vmov (q : Option Qual) (d : VDst) (a : VSrc) (g : Guard) -- VMOV R150
  | vand (q : Option Qual) (d : VDst) (a b : VSrc) (g : Guard) -- VAND R150
  | vor (q : Option Qual) (d : VDst) (a b : VSrc) (g : Guard) -- VOR R150
  | vxor (q : Option Qual) (d : VDst) (a b : VSrc) (g : Guard) -- VXOR R150
  | vnot (q : Option Qual) (d : VDst) (a : VSrc) (g : Guard) -- VNOT R150
  | vshl (q : Option Qual) (d : VDst) (a b : VSrc) (g : Guard) -- VSHL R150
  | vshr (q : Option Qual) (d : VDst) (a b : VSrc) (g : Guard) -- VSHR R150
  | vsar (q : Option Qual) (d : VDst) (a b : VSrc) (g : Guard) -- VSAR R150
  | vxrot (q : Option Qual) (d : VDst) (a b : VSrc) (g : Guard) -- VXROT R154
  | vxbc (q : Option Qual) (d : VDst) (a b : VSrc) (g : Guard) -- VXBC R154
  | vxred (q : Option Qual) (d : VDst) (a : VSrc) (op : Fin 6) (g : Guard) -- VXRED R155
  | vyrot (q : Option Qual) (d : VDst) (a b : VSrc) (g : Guard) -- VYROT R154
  | vybc (q : Option Qual) (d : VDst) (a b : VSrc) (g : Guard) -- VYBC R154
  | vyred (q : Option Qual) (d : VDst) (a : VSrc) (op : Fin 6) (g : Guard) -- VYRED R155
  | vwalk (sg : Fin 4) (ly : Fin 8) (start : WalkStart) -- VWALK R159
  | vsgred (q : Option Qual) (d : VDst) (a : VSrc) (op : Fin 6) (g : Guard) -- VSGRED R161
  | vsgscan (q : Option Qual) (d : VDst) (a : VSrc) (op : Fin 6) (g : Guard) -- VSGSCAN R161
  | vpack (q : Option Qual) (d : VDst) (a : VSrc) (kind : Fin 2) (g : Guard) -- VPACK R152
  | vperm (q : Option Qual) (d : VDst) (a b : VSrc) (g : Guard) -- VPERM R156
  | vtrans (q : Option Qual) (d : VDst) (a : VSrc) (g : Guard) -- VTRANS R156
  | vshuf (q : Option Qual) (d : VDst) (a b : VSrc) (g : Guard) -- VSHUF R156
  | vrcp (q : Option Qual) (d : VDst) (a : VSrc) (g : Guard) -- VRCP R153
  | vrsqrt (q : Option Qual) (d : VDst) (a : VSrc) (g : Guard) -- VRSQRT R153
  | vsqrt (q : Option Qual) (d : VDst) (a : VSrc) (g : Guard) -- VSQRT R153
  | vexp2 (q : Option Qual) (d : VDst) (a : VSrc) (g : Guard) -- VEXP2 R153
  | vlog2 (q : Option Qual) (d : VDst) (a : VSrc) (g : Guard) -- VLOG2 R153
  | vtanh (q : Option Qual) (d : VDst) (a : VSrc) (g : Guard) -- VTANH R153
  | vsigm (q : Option Qual) (d : VDst) (a : VSrc) (g : Guard) -- VSIGM R153
  | vqrd (q : Option Qual) (oq : Fin 4) (ly : Fin 8) (off : VSrc) (g : Guard) -- VQRD R165
  | vpand (d a b : Fin 8) -- VPAND R167
  | vpor (d a b : Fin 8) -- VPOR R167
  | vpxor (d a b : Fin 8) -- VPXOR R167
  | vpnot (d a : Fin 8) -- VPNOT R167
  | vloop (stages : Fin 8) (mask : BitVec 4) (n : VSrc) -- VLOOP R169
  | vlend -- VLEND R169
  | vbset (c : Fin 4) (v : VSrc) -- VBSET R139
  | vbadd (c : Fin 4) (v : VSrc) -- VBADD R139
  | vsmwait (n : Fin 15) (v : VSrc) -- VSMWAIT R172
  | vsmadd (n : Fin 15) (v : VSrc) -- VSMADD R172
  | vqget (d : VDst) (mode : Fin 2) (g : Guard) -- VQGET R173
  | vqput (v : VSrc) (mode : Fin 3) -- VQPUT R173
  | sld (d a : Fin 16) (idx : BitVec 13) -- SLD R240
  | scst (a b : Fin 16) -- SCST R235
  | sadd (d a b : Fin 16) -- SADD R237
  | ssub (d a b : Fin 16) -- SSUB R237
  | smul (d a b : Fin 16) -- SMUL R237
  | sfma (d a b : Fin 16) -- SFMA R237
  | smax (d a b : Fin 16) -- SMAX R237
  | smin (d a b : Fin 16) -- SMIN R237
  | sexp2 (d a : Fin 16) -- SEXP2 R237
  | slog2 (d a : Fin 16) -- SLOG2 R237
  | srcp (d a : Fin 16) -- SRCP R237
  | sbc (d a : Fin 16) -- SBC R237
  | sxred (d a : Fin 16) (op : Fin 3) -- SXRED R237
  | smov (d a : Fin 16) -- SMOV R237
  | shmov (d : Fin 16) (v : SImm) -- SHMOV R238
  | shadd (d a : Fin 16) (v : SImm) -- SHADD R238
  | shmul (d a b : Fin 16) -- SHMUL R238
  | scmp (d a b : Fin 16) (c : Fin 11) -- SCMP R237
  | ssel (d a b : Fin 16) -- SSEL R237
  | stbl (d a : Fin 16) (table : Fin 2) -- STBL R239
  | stbw (a b : Fin 16) (table : Fin 2) -- STBW R239
  | smask (d a : Fin 16) -- SMASK R239
  | spsort (a : Fin 16) -- SPSORT R240
  | scsum (d : Fin 16) -- SCSUM R240
  | sdrawDraw (d a b : Fin 16) -- SDRAW_DRAW R241
  | sdrawCut (d a b : Fin 16) -- SDRAW_CUT R241
  | sgen (d : Fin 16) (g : Fin 4) (mode : Fin 2) -- SGEN R242
  | saccept (d a b : Fin 16) (n : BitVec 5) (g : Fin 4) -- SACCEPT R243
  | sbnz (a : Fin 16) (disp : BitVec 13) -- SBNZ R244
  | sjmp (disp : BitVec 13) -- SJMP R244
  | sendToken (a : Fin 16) -- SEND_TOKEN R245
  | sendCount (a : Fin 16) -- SEND_COUNT R245
  | sendBlock (a : Fin 16) -- SEND_BLOCK R245
  | sendNone (a : Fin 16) -- SEND_NONE R245
  | ssoft (d : Fin 16) -- SSOFT R240
  | attnAccept (ad : Fin 2) (id : Nat) -- ATTN_ACCEPT R210
  | attnComplete (ad : Fin 2) (id : Nat) -- ATTN_COMPLETE R217
  | exclusiveAccept (ad : Fin 2) (id : Nat) -- EXCLUSIVE_ACCEPT R210
  | exinvSwitch (ad : Fin 2) (seq : Nat) -- EXINV_SWITCH R224
  | exinvDrain (ad : Fin 2) (seq : Nat) -- EXINV_DRAIN R224
  | gateRelease (c : CoreId) (t : Strand) -- GATE_RELEASE R426
  | vqrdImageArrival (c : CoreId) (oq k : Fin 4) -- VQRD_IMAGE_ARRIVAL R165
  | leaseGrant (c : CoreId) -- LEASE_GRANT R178
  | matrixStepComplete (c : CoreId) (b : Bool) (id : Nat) -- MATRIX_STEP_COMPLETE R56
  | copyStepComplete (c : CoreId) (id : Nat) -- COPY_STEP_COMPLETE R296
  | collectiveMessageArrival (msg : FabMsg) -- COLLECTIVE_MESSAGE_ARRIVAL R354
  | bounceResend (id : Nat) -- BOUNCE_RESEND R354
  | collectiveComplete (c : CoreId) (id : Nat) -- COLLECTIVE_COMPLETE R357
  | collectiveTimeout (c : CoreId) (id : Nat) -- COLLECTIVE_TIMEOUT R357
  | obcopySwitch (c : CoreId) (id : Nat) -- OBCOPY_SWITCH R385
  | sampleAccept (cl : Fin 16) -- SAMPLE_ACCEPT R230
  | samplerBlock (cl : Fin 16) -- SAMPLER_BLOCK R230
  | samplerFinalPhase (cl : Fin 16) -- SAMPLER_FINAL_PHASE R230
  | watchdogExhausted (cl : Fin 16) -- WATCHDOG_EXHAUSTED R232
  | sampleComplete (cl : Fin 16) -- SAMPLE_COMPLETE R249
  | shardContribution (msg : ShardMsg) -- SHARD_CONTRIBUTION R252
  | shardTokenArrival (cl : Fin 16) (r : ShardReply) -- SHARD_TOKEN_ARRIVAL R253
  | rootTimeout (cl : Fin 16) -- ROOT_TIMEOUT R254
  | shardReplyTimeout (cl : Fin 16) -- SHARD_REPLY_TIMEOUT R254
  | contributionHoldTimeout (cl : Fin 16) (k : Nat) -- CONTRIBUTION_HOLD_TIMEOUT R252
  | rowArrival (msg : FabMsg) -- ROW_ARRIVAL R365
  | rowAck (id : Nat) (reply : FabReply) -- ROW_ACK R200
  | fabricMessageArrival (msg : FabMsg) -- FABRIC_MESSAGE_ARRIVAL R349
  | fabricAtomicHome (msg : FabMsg) -- FABRIC_ATOMIC_HOME R292
  | fabricReply (id : Nat) (reply : FabReply) -- FABRIC_REPLY R343
  | fabricReplyTimeout (id : Nat) -- FABRIC_REPLY_TIMEOUT R344
  | waitRetry (c : CoreId) (t : Strand) -- WAIT_RETRY R287
  | moorWakeAttempt (c : CoreId) (t : Strand) -- MOOR_WAKE_ATTEMPT R338
  | moorPoolRetry (c : CoreId) (t : Strand) -- MOOR_POOL_RETRY R387
  | feExpire (c : CoreId) (t : Strand) -- FE_EXPIRE R338
  | moorExpire (c : CoreId) -- MOOR_EXPIRE R339
  | stepWaitExpire (c : CoreId) (t : RingNo) -- STEP_WAIT_EXPIRE R190
  | replayHoldExpire (c : CoreId) (t : Strand) -- REPLAY_HOLD_EXPIRE R426
  | swapPoint (c : CoreId) (e : Engine) -- SWAP_POINT R100
  | userEventDelivery (c : CoreId) -- USER_EVENT_DELIVERY R104
  | asyncTrapDelivery (c : CoreId) (e : Option Ecc) -- ASYNC_TRAP_DELIVERY R405
  | pagerPromotion (ctx h k : Nat) -- PAGER_PROMOTION R383
  | tqtailWrite (q : Fin 64) (v : W64) -- TQTAIL_WRITE R315
  | tqctlWrite (q : Fin 64) (v : W64) -- TQCTL_WRITE R315
  | registerWrite (off : Nat) (v : W64) (fw : Bool) -- REGISTER_WRITE R7
  | hostBar4Write (off : Nat) (data : List (BitVec 8)) -- HOST_BAR4_WRITE R347
  | hostBar4Read (off n : Nat) -- HOST_BAR4_READ R347
  | hostFeByteWrite (off : Nat) (v : BitVec 8) -- HOST_FE_BYTE_WRITE R347
  | taskAdmission (far : Option FarTask) -- TASK_ADMISSION R316
  | taskDispatch -- TASK_DISPATCH R322
  | tokenAging (id : Nat) -- TOKEN_AGING R321
  | preemptionDecision (far : Option (Nat × Fin 3)) -- PREEMPTION_DECISION R326
  | drainTimeout (id : Nat) -- DRAIN_TIMEOUT R328
  | checkpointSave (id : Nat) -- CHECKPOINT_SAVE R420
  | taskKill (id : Nat) -- TASK_KILL R328
  | restore -- RESTORE R422
  | coreShareEnd (c : CoreId) -- CORE_SHARE_END R323
  | taskRetire (id : Nat) (far : List (BitVec 16)) -- TASK_RETIRE R324
  | taskComplete (id : Nat) -- TASK_COMPLETE R325
  | ckrqctlGo (v : W64) -- CKRQCTL_GO R424
  | bootctlGo (v : W64) -- BOOTCTL_GO R399
  | firmwareVerifyDone -- FIRMWARE_VERIFY_DONE R398
  | attctlGo (v : W64) -- ATTCTL_GO R402
  | attestationResponse -- ATTESTATION_RESPONSE R401
  | measurementExtend (i : Fin 8) (d : BitVec 256) (label : BitVec 128) -- MEASUREMENT_EXTEND R400
  | powerCapWrite (w : BitVec 16) -- POWER_CAP_WRITE R397
  | routeWrite (dst : BitVec 12) (port : Fin 16) -- ROUTE_WRITE R397
  | firmwareDma (write : Bool) (addr n : Nat) (data : List (BitVec 8)) -- FIRMWARE_DMA R397
  | firmwareHbmAccess (write : Bool) (acc : HbmAccess) (n : Nat) (data : List (BitVec 8)) -- FIRMWARE_HBM_ACCESS R397
  | contextCreate (ctx : Fin 64) (cfg : ContextCfg) -- CONTEXT_CREATE R376
  | contextDestroy (ctx : Fin 64) -- CONTEXT_DESTROY R381
  | coldReset (faulty : BitVec 16) -- COLD_RESET R398
  | throttleDown -- THROTTLE_DOWN R17
  | throttleUp -- THROTTLE_UP R17
  | thermalTrip -- THERMAL_TRIP R18
  | bellPin -- BELL_PIN R428
  | bellMessage (src : BitVec 12) -- BELL_MESSAGE R428
  | snapshotLatch -- SNAPSHOT_LATCH R429
  | fabricBringUp (pkg : BitVec 12) (group : Nat) (ports : BitVec 16) -- FABRIC_BRING_UP R30
  deriving DecidableEq, Repr

end Sys2Proof
end

