-- ==== Sys2Proof/Machine/CoreTypes.lean ====
section
/-! DEFINITION. The state of one core as plain data: its five strands, queues, semaphores, rings and engines. -/

namespace Sys2Proof.Machine

/-- The fourteen trap classes (14 R403). -/
inductive TrapClass where
  | illegal | priv | align | objMiss | shape | perm | poison | allocExh | feExpire | watchdog | integrity | fabric | replayDiv | brk
  deriving DecidableEq, Repr

/-- A trap or a reported fault: its class and its fault address (0 where the class has none). -/
structure Trap where
  cls : TrapClass
  addr : W64
  deriving DecidableEq, Repr

/-- A general register: value and poison tag (03 R69, R72); tag 0 is clean. -/
structure XVal where
  val : W64
  tag : BitVec 4
  deriving DecidableEq, Repr

/-- A completion event of the user-interrupt queue (03 R103). -/
structure UEvent where
  source : BitVec 8
  status : BitVec 8
  tag : W32
  deriving DecidableEq, Repr

/-- An asynchronous trap waiting for a boundary, or held while the strand runs at S (14 R405, R409). `src` is SCAUSE.SRC;
`miss` is the handle and sub-tile of an OBJ_MISS (13 R383). -/
structure AsyncTrap where
  src : BitVec 3
  trap : Trap
  miss : Option (Nat × Nat)
  deriving DecidableEq, Repr

/-- A shape register (03 R97). -/
structure ShapeReg where
  ext : Vector W32 4
  rank : BitVec 8
  deriving DecidableEq, Repr

/-- A layout register (03 R98). -/
structure LayoutReg where
  ptr : W64
  stride : Vector W64 4
  type : BitVec 4
  kind : BitVec 2
  rowtab : W64
  deriving DecidableEq, Repr

def ShapeReg.zero : ShapeReg := { ext := Vector.replicate 4 0, rank := 0 }
def LayoutReg.zero : LayoutReg := { ptr := 0, stride := Vector.replicate 4 0, type := 0, kind := 0, rowtab := 0 }

/-- SH0 to SH7 and LY0 to LY7 of one set (03 R97). -/
structure RegSet where
  sh : Vector ShapeReg 8
  ly : Vector LayoutReg 8
  deriving DecidableEq, Repr

def RegSet.zero : RegSet := { sh := Vector.replicate 8 .zero, ly := Vector.replicate 8 .zero }

/-- An engine's current and shadow sets and whether an exchange is pending (03 R100). -/
structure EngineSets where
  cur : RegSet
  shadow : RegSet
  swap : Bool
  deriving DecidableEq, Repr

def EngineSets.zero : EngineSets := { cur := .zero, shadow := .zero, swap := false }

/-- A command ring's registers (03 R82). LSIZE 0 means the ring is absent. `level` holds, for each advance of the copy
ring's write pointer, the pointer it reached and whether it was made at S (13 R389). -/
structure CmdRing where
  run : Bool
  halt : Bool
  lsize : BitVec 5
  base : BitVec 20
  rp : W32
  wp : W32
  sLevel : List (W32 × Bool)
  deriving DecidableEq, Repr

def CmdRing.absent : CmdRing := { run := false, halt := false, lsize := 0, base := 0, rp := 0, wp := 0, sLevel := [] }

/-- An operand ring (11 R334): `slots` lists the reserved slots in order, each by the push that reserved it and whether
that push has completed. -/
structure OpRing where
  base : Nat
  ss : Nat
  ns : Nat
  hd : Nat
  filled : Nat
  resv : List (Nat × Bool)
  deriving DecidableEq, Repr

/-- An armed completion-interrupt request (10 R294). `target` is the operation it has attached to, for kinds 5, 6 and 8. -/
structure Armed where
  kind : Nat
  ptr : W32
  tag : W32
  target : Option Nat
  deriving DecidableEq, Repr

/-- What the expiry of a wait does: the FE_EXPIRE trap, `moor`'s result 0 in its destination (11 R339), or the REPLAY_DIV
trap of a held atomic (14 R426). -/
inductive Expiry where
  | trap
  | moor (d : Dst)
  | replay
  deriving DecidableEq, Repr

/-- A strand's running wait (11 R338): its first attempt and its budget (fixed as it begins, 03 R81), the fault address and
the words of the waiting instruction, for its expiry, and what that does.
A wait on a full/empty state (`fe`) also has the retries in place it may make and has made, the time of its last attempt, and
whether it is moored, woken, or retrying because the pool was full. -/
structure Wait where
  start : Nat
  budget : Nat
  ea : W64
  words : Nat
  expiry : Expiry
  fe : Bool
  limit : Nat
  retries : Nat
  last : Nat
  moored : Bool
  woken : Bool
  full : Bool
  deriving DecidableEq, Repr

/-- A waiter of a semaphore in arrival order (11 R331): `take` is what a release subtracts (1 for a step's await). A
released waiter keeps the value it was released against. -/
structure SemWaiter where
  strand : Strand
  need : W32
  take : Bool
  released : Option W32
  deriving DecidableEq, Repr

/-- What the control strand is doing (11 R323, R328): running, stopped by a stop request, or ended with a user code. -/
inductive CtlStatus where
  | running
  | stopped
  | ended (user : BitVec 8)
  deriving DecidableEq, Repr

/-- What the vector strand is doing (05 R173, 14 R411). `idle` is a core with no vector strand running. -/
inductive VecStatus where
  | running
  | trapped
  | stopped
  | ended
  deriving DecidableEq, Repr

/-- The control strand (03 R69 to R81, R103; 14 R406 to R411; 13 R392). -/
structure Ctl where
  x : Vector XVal 31
  sx : Vector XVal 7
  k : Vector Bool 8
  pc : BitVec 18
  sup : Bool
  status : CtlStatus
  dz : Bool
  sat : Bool
  pw : Bool
  hd : Bool
  specEn : Bool
  rbud : Vector (BitVec 16) 5
  mbud : Vector W32 5
  uiEn : Bool
  uiOvf : Bool
  uiActive : Bool
  uiVec : BitVec 18
  uiEpc : BitVec 18
  uiCause : UEvent
  events : List UEvent
  armed : List Armed
  pending : List AsyncTrap
  held : List AsyncTrap
  stvec : BitVec 18
  stvecEn : Bool
  sepc : BitVec 18
  snpc : BitVec 18
  causeSrc : BitVec 3
  causeAsync : Bool
  causeClass : BitVec 4
  sfaddr : W64
  sscr : Vector W64 4
  treflMask : BitVec 16
  treflAddr : BitVec 18
  vstatStopped : Bool
  vstatClass : BitVec 4
  vstatAddr : BitVec 18
  errCorr : W32
  errUnc : W32
  ctxid : Nat
  miss : W64
  wait : Option Wait
  deriving DecidableEq, Repr

/-- A vector lane (05 R132): 32 bits and a poison tag. -/
structure Lane where
  bits : W32
  tag : BitVec 4
  deriving DecidableEq, Repr

/-- A vector register: 1,024 lanes in lane-index order and the fault address (05 R132, R133). -/
structure VecReg where
  lanes : Vector Lane 1024
  faddr : W64
  deriving DecidableEq, Repr

def VecReg.zero : VecReg := { lanes := Vector.replicate 1024 { bits := 0, tag := 0 }, faddr := 0 }

/-- A row entry of a segment register (05 R158). -/
structure SegRow where
  srcrow : W32
  seg : BitVec 16
  last : Bool
  first : Bool
  valid : Bool
  deriving DecidableEq, Repr

/-- A segment register: 16 row entries and the cursor (05 R158). -/
structure SegReg where
  rows : Vector SegRow 16
  done : Bool
  seq : BitVec 16
  pos : W32
  deriving DecidableEq, Repr

def SegReg.zero : SegReg :=
  { rows := Vector.replicate 16 { srcrow := 0, seg := 0, last := false, first := false, valid := false }, done := false, seq := 0, pos := 0 }

/-- An image of an operand queue (05 R165): reserved, its load not yet made, or made and on its way; or arrived. `id` numbers the image; `todo` gives each
active lane's object pointer, its nibble for FP4, or the fault its address formed with. -/
inductive OqImage where
  | reserved (id : Nat) (todo : List (Nat × W64 × Nat × Option Trap)) (type : BitVec 4)
  | loaded (r : VecReg)
  | arrived (r : VecReg)
  deriving DecidableEq, Repr

/-- The loop unit (05 R168). DESIGN CHOICE (log 69): `lj` does not wrap. R168 gives LJ 32 bits, and for a count near 2^32 its last value K + S - 2 passes them. -/
structure LoopUnit where
  act : Bool
  ls : Nat
  lmask : BitVec 4
  lfirst : Nat
  lk : Nat
  lj : Nat
  lstart : BitVec 18
  lvpc : BitVec 18
  lentryb : Vector (BitVec 3) 4
  lstop : Bool
  lbase : Nat
  deriving DecidableEq, Repr

def LoopUnit.idle : LoopUnit :=
  { act := false, ls := 0, lmask := 0, lfirst := 0, lk := 0, lj := 0, lstart := 0, lvpc := 0, lentryb := Vector.replicate 4 0,
    lstop := false, lbase := 0 }

/-- A pending index-base write (05 R138). -/
structure BaseWrite where
  base : Fin 4
  val : BitVec 3
  count : Nat
  deriving DecidableEq, Repr

/-- The vector strand (05 R132, R134, R168). P0 reads all true. `issued` says that an instruction has issued and not retired (03 R100). -/
structure Vec where
  v : Vector VecReg 32
  b : Vector (BitVec 3) 4
  bw : List BaseWrite
  p : Vector (BitVec 1024) 8
  sg : Vector SegReg 4
  oq : Vector (List OqImage) 4
  flagSat : Bool
  flagNx : Bool
  flagUf : Bool
  flagOf : Bool
  flagDz : Bool
  flagNv : Bool
  loop : LoopUnit
  pc : BitVec 18
  status : VecStatus
  skip : Bool
  issued : Bool
  wait : Option Wait
  deriving DecidableEq, Repr

/-- MST (06 R189). -/
structure Mst where
  nanout : BitVec 16
  clamp : BitVec 16
  rowfail : BitVec 16
  prows : BitVec 8
  sat : Bool
  of : Bool
  nv : Bool
  deriving DecidableEq, Repr

def Mst.zero : Mst := { nanout := 0, clamp := 0, rowfail := 0, prows := 0, sat := false, of := false, nv := false }

/-- A write an operation still has to make to a location (06 R199, 10 R300): performed at any moment before its
completion, in any order (09 R272). `src` is a source location still to be read, or the masked bytes to write and the poison mark they
bring: set, cleared where they fill the location, or left (10 R298). -/
inductive MoveSrc where
  | location (loc : Nat)
  | bytes (data : List (Byte × Byte)) (mark : Option Bool)
  deriving DecidableEq, Repr

/-- A write still to be made: the location it goes to, where its data comes from, and what it does to the bit. -/
structure PendMove where
  dst : Nat
  src : MoveSrc
  fe : FeAct
  deriving DecidableEq, Repr

/-- An object sub-tile an access translated under: context, handle, sub-tile and version (13 R386). -/
structure ObjUse where
  ctx : Nat
  h : Nat
  k : Nat
  ver : W32
  deriving DecidableEq, Repr

/-- Where a location that a get brings goes: storage, a command ring (its low and its high word, where they are streamed), a remote object, or a
collective's source region at an offset. -/
inductive MoveDst where
  | loc (key : Nat)
  | words (lo hi : Option Nat)
  | coll (off : Nat)
  | far (home : Nat) (ptr : W64)
  deriving DecidableEq, Repr

/-- A step an engine strand has started and that has not completed (06 R176, 10 R296): its opcode row, its ring pointer and words,
its start, its raise field; the writes still to be made, its operand-ring pops, the messages not yet answered, what gets have brought that waits
for the others (10 R300, R304, R306; by message number), the operand ring that a push fills, the write pointer a `crstr` leaves, the object
sub-tiles it translated and whether to write them (13 R386), its pending bytes (10 R301) with their level, the remote pointer it names, and the failure it completes with. `order` is set
for a step that waits for the earlier ones (06 R201). -/
structure Flight where
  id : Nat
  op : Instr
  rp : W32
  words : Nat
  startAt : Nat
  raise : BitVec 4
  moves : List PendMove
  pops : List (Fin 8)
  msgs : List Nat
  got : List (Nat × MoveDst × FeAct × LocData)
  push : Option (Fin 8)
  wpTo : Option (Fin 3 × W32)
  uses : List (ObjUse × Bool)
  pb : Option (Fin 4 × Nat)
  far : W64
  failed : Option Trap
  order : Bool
  deriving DecidableEq, Repr

/-- A step word an engine strand has fetched and not yet started (10 R296, 13 R390): when, and its budget (03 R81). -/
structure Fetched where
  at_ : Nat
  budget : Nat
  op : Instr
  words : Nat
  deriving DecidableEq, Repr

/-- A matrix or copy strand's own state (06 R188; the copy strand uses none of F, theta, MLC and MST). -/
structure EngStrand where
  f : Vector W32 8
  theta : W32
  mlc : Option (BitVec 8)
  mst : Mst
  fetched : Option Fetched
  flights : List Flight
  report : List W64
  deriving DecidableEq, Repr

def EngStrand.reset : EngStrand :=
  { f := Vector.replicate 8 0x3F800000, theta := 0, mlc := none, mst := .zero, fetched := none, flights := [], report := [] }

/-- An accumulator tile (06 R188): its live bit, its row poison bits and its 64 x 64 entries in row-major order. -/
structure AccTile where
  live : Bool
  pois : BitVec 64
  vals : Vector W32 4096
  deriving DecidableEq, Repr

def AccTile.zero : AccTile := { live := false, pois := 0, vals := Vector.replicate 4096 0 }

/-- What a step of the `mma` family does to its tile: it accumulates, replaces, or accumulates into selected entries (06 R187, R192). -/
inductive MmaKind where
  | add | replace | seg
  deriving DecidableEq, Repr

/-- The extents of a step: N, M and K (06 R181). -/
structure MmaShape where
  n : Nat
  m : Nat
  k : Nat
  deriving DecidableEq, Repr

/-- A multiply step that has started, until the next step of its core's array or its retirement (06 R184): its strand, fields, shape, operand addresses
and step number, its tile as it stood before, and the core's SPM as it stood at its start where its operands lie. -/
structure Reread where
  strand : Strand
  args : MmaArgs
  kind : MmaKind
  shape : MmaShape
  ta : Nat
  tb : Nat
  tick : Nat
  tile : AccTile
  old : List Host.Cell
  oldPois : List Nat
  deriving DecidableEq, Repr

/-- The array lease (06 R178): free; in arbitration since an s-cycle, for a strand; or held by one, with the array steps it has
started. `true` is matrix B. A count of 32 ends the lease, as `mrel` does. -/
inductive Lease where
  | free
  | arb (strandB : Bool) (since : Nat)
  | held (strandB : Bool) (count : Nat)
  deriving DecidableEq, Repr

/-- One core. `forked` lists its attention and sample operations that have not completed. -/
structure Core where
  ctl : Ctl
  vec : Vec
  mata : EngStrand
  matb : EngStrand
  copy : EngStrand
  rings : Vector CmdRing 3
  sets : Vector EngineSets 4
  q : Vector (List W64) 8
  sm : Vector W32 15
  smw : Vector (List SemWaiter) 15
  mx : Vector Bool 8
  rg : Vector (Option OpRing) 8
  bp : Nat
  imglen : Nat
  acc : Vector AccTile 64
  scale : Vector (BitVec 32) 16384
  lease : Lease
  leaseLast : Bool
  reread : Option Reread
  dom : Vector (BitVec 24 × Nat × Nat) 4
  lcidCore : BitVec 7
  physCluster : BitVec 4
  physCore : BitVec 4
  task : Option Nat
  forked : List Nat
  stop : Bool
  shareDone : Bool
  rhCtl : W64
  rhVec : W64
  deriving DecidableEq, Repr

/-- Who moves next: the model's own choice, since the spec leaves the interleaving of the agents open. A strand fetches
and runs, or retries a wait; a sampler runs its program's next word; an issued store, or one write of a started operation,
is performed; a control strand's load is performed early; a cached copy is made or dropped; or a step that no instruction word names comes about. -/
inductive Turn where
  | strand (core : CoreId) (s : Strand)
  | sampler (cl : Fin 16)
  | perform (k : Nat)
  | early (core : CoreId)
  | move (core : CoreId) (s : Strand) (flight : Nat) (k : Nat)
  | cacheFill (site : Option (Fin 16)) (ctx h : Nat) (k : Option Nat)
  | cacheDrop (n : Nat)
  | event (i : Instr)
  deriving DecidableEq, Repr, Inhabited

end Sys2Proof.Machine
end

