-- ==== Sys2Proof/Machine/MemTypes.lean ====
section
/-! DEFINITION. Memory as plain data in one canonical form, the stores issued and not yet performed, and the objects'
translation state. -/

namespace Sys2Proof.Machine

/-- The package's storage by physical address (01 R19; the keys are laid out in Mem.lean): the bytes that are not 0 in
rising order of address, the empty locations and the poisoned locations in rising order. -/
structure Mem where
  cells : List Host.Cell
  empt : List Nat
  pois : List Nat
  deriving DecidableEq, Repr

/-- The memory types (09 R269). -/
inductive MType where
  | normal | writeCombining | device | stronglyOrdered
  deriving DecidableEq, Repr

/-- A store that has been issued and not yet performed (09 R257 to R262). The bytes are those of one access within one location, each with
the mask of its bits that are written (an FP4 element is half a byte); a store of a whole location by one 8-byte access `clears` its
poison mark (10 R282). A release is `rel` at cluster scope or wider and `near` at core scope (R264); a store that is performed at core scope
only, because a near release of its strand has been performed, is `shown` (R257, R264). -/
structure PendStore where
  core : CoreId
  strand : Strand
  addr : Nat
  data : List (Byte × Byte)
  clears : Bool
  cls : BitVec 4
  rel : Bool
  near : Bool
  mtype : MType
  use : Option ObjUse
  shown : Bool
  deriving DecidableEq, Repr

/-- What a strand has issued and not yet performed, in program order: stores, the load of an operand-queue image that a miss or a remote home
keeps back (05 R165; its number, class and element pointers), and the fences between them. -/
inductive Pend where
  | store (p : PendStore)
  | load (core : CoreId) (id : Nat) (cls : BitVec 4) (ptrs : List W64)
  | fence (core : CoreId) (strand : Strand) (mask : BitVec 16)
  deriving DecidableEq, Repr

/-- A plain load of a control strand that was performed before loads that stand earlier in its program (09 R261, R262): where it stands, its base
register, pointer, size and class, and the value it read. -/
structure Early where
  core : CoreId
  pc : BitVec 18
  base : Fin 31
  ea : W64
  size : Nat
  cls : BitVec 4
  value : Nat
  deriving DecidableEq, Repr

/-- An entry of a context's mooring list that is in use (11 R337, 13 R387), in mooring order: the strand of a package that it names, its key word, the
state awaited, and its index in the list. The list itself stands in device memory. -/
structure Mooring where
  pkg : BitVec 12
  ctx : Nat
  key : W64
  core : CoreId
  strand : Strand
  wantEmpty : Bool
  idx : Nat
  deriving DecidableEq, Repr

/-- A context's state as firmware keeps it (13 R376, R381, R387; 14 R406). -/
structure Context where
  otbase : Nat
  otlen : Nat
  dsmBase : Nat
  dsmSize : Nat
  clmBase : Nat
  clmSize : Nat
  mlbase : Nat
  pool : Nat
  stvec : W64
  trefl : W64
  ckpool : W64
  deriving DecidableEq, Repr

/-- Which manifest cache holds a copy (01 R34): a cluster's, or the die's. -/
abbrev CacheSite := Option (Fin 16)

/-- A cached copy of an object record, or of a residency-map entry (13 R379), in one of the manifest caches. -/
inductive Cached where
  | record (site : CacheSite) (ctx h : Nat) (bytes : List Byte)
  | entry (site : CacheSite) (ctx h k : Nat) (w0 w1 : W64)
  deriving DecidableEq, Repr

def Cached.site (x : Cached) : CacheSite := match x with | .record s .. => s | .entry s .. => s
def Cached.ctx (x : Cached) : Nat := match x with | .record _ c .. => c | .entry _ c .. => c
def Cached.h (x : Cached) : Nat := match x with | .record _ _ h _ => h | .entry _ _ h .. => h

/-- An outstanding miss (13 R383) and the core whose control strand it was delivered to, if any. -/
structure Miss where
  ctx : Nat
  h : Nat
  k : Nat
  core : Option CoreId
  deriving DecidableEq, Repr

/-- A sub-tile whose write-type translations are held while it moves (13 R384, R385), and the copy step that moves it. -/
structure Hold where
  ctx : Nat
  h : Nat
  k : Nat
  core : CoreId
  step : Nat
  deriving DecidableEq, Repr

/-- A strand's access to a remote record, sent to its home and not yet answered, or answered (12 R342 to R344). `id` numbers its message; `lane` is the
lane of a vector instruction, 0 on the control strand. -/
structure Remote where
  id : Nat
  core : CoreId
  strand : Strand
  lane : Nat
  home : Nat
  ctx : Nat
  ptr : W64
  op : RemoteOp
  start : Nat
  reply : Option RemoteReply
  deriving DecidableEq, Repr

/-- The record or replay mode of a context (14 R425, R426). `mode` is 0 off, 1 record, 2 replay; `last` is the strand the
last chunk names. -/
structure Replay where
  log : W64
  loglen : Nat
  mode : Nat
  watched : List Nat
  pos : W32
  run : BitVec 20
  endLog : Bool
  ovf : Bool
  unlog : Bool
  cur : Option (BitVec 32)
  deriving DecidableEq, Repr

def Replay.off : Replay :=
  { log := 0, loglen := 0, mode := 0, watched := [], pos := 0, run := 0, endLog := false, ovf := false, unlog := false, cur := none }

/-- What a snapshot holds of a core (14 R429): the program counters of the control and vector strands, RP and WP of its rings, a state byte
for each strand, the lease state and count, SM0 to SM14, QSTAT[31:0], the pending bytes of DOM0 to DOM3, and the attention, sample and
copy steps in flight. -/
structure SnapCore where
  pcs : BitVec 18 × BitVec 18
  rings : List (W32 × W32)
  strands : List Nat
  lease : Nat × Nat
  sm : List W32
  qstat : W32
  bytes : List Nat
  flights : Nat × Nat × Nat
  deriving DecidableEq, Repr

/-- What a snapshot holds of a Tamlux port (14 R429): flits sent and received, credits, and bounces. -/
structure SnapPort where
  sent : W64
  received : W64
  credits : W64
  bounces : W64
  deriving DecidableEq, Repr, Inhabited

/-- The snapshot window as it latched (14 R429): SCYC, source, tag, trap class and logical core; the cores; the window's occupancy, head and
tail of each enabled queue, and the running tasks; each sampler's context, charge and queued operations; each attention die's
operations in flight and draining versions; and the ports. -/
structure Snapshot where
  scyc : Nat
  source : Nat
  tag : W32
  cls : BitVec 4
  core : Nat
  cores : List SnapCore
  occupancy : Nat
  queues : List (Nat × W32 × W32)
  running : List Nat
  samplers : List (Option Nat × Nat × Nat)
  dies : List (Nat × List W32)
  ports : List SnapPort
  deriving DecidableEq, Repr

/-- The bell and the snapshot registers (14 R428, R429). A ring waiting for its latch is its s-cycle, source, tag, trap class and
logical core. -/
structure Bell where
  tag : W32
  arm : Bool
  rung : Bool
  fwd : Bool
  srcFab : Bool
  srcPin : Bool
  srcTrap : Bool
  srcSnap : Bool
  rings : List (Nat × Nat × W32 × BitVec 4 × Nat)
  sent : Nat
  window : Option Snapshot
  deriving DecidableEq, Repr

def Bell.reset : Bell :=
  { tag := 0, arm := false, rung := false, fwd := false, srcFab := false, srcPin := false, srcTrap := false, srcSnap := false,
    rings := [], sent := 0, window := none }

/-- A domain barrier (11 R333): level, members, the members that have arrived, the pending-byte counter and the phase.
`passed` lists the members that may leave with the new phase. -/
structure Barrier where
  level : Fin 4
  id : BitVec 24
  members : List CoreId
  remote : Bool
  arrived : List CoreId
  passed : List CoreId
  bytes : Nat
  phase : W32
  deriving DecidableEq, Repr

end Sys2Proof.Machine
end

