-- ==== Sys2Proof/Config.lean ====
section
/-! DEFINITION. What an implementation fixes and what the spec leaves open. Each `opaque` has no body: no proof can use a
value of it. -/

namespace Sys2Proof.Config

/-- The physical core that is disabled in each cluster (01 R27, R28): fixed at manufacture. -/
opaque disabledCore : Fin 16 → Fin 9

/-- Which agent moves at each step, by step number: the spec fixes no interleaving (03 R70, 09 R266). -/
opaque schedule : Nat → Machine.Turn

/-- The s-cycles that pass with one step, by step number: timing the spec leaves to the implementation (03 R70, 10 R284). -/
opaque elapsed : Nat → Nat

/-- The pattern low-bit tolerance gives a result, by step number and element (04 R129). -/
opaque toleranceBits : Nat → Nat → BitVec 32

/-- Whether a multiply step that is between its start and its retirement finds a sector of an operand, by the step number of its start and the sector's
address, as a write made since has left it: the spec lets each sector be read before or after (06 R184). -/
opaque sectorLate : Nat → Nat → Bool

/-- Whether a fused multiply-add of 0 and an infinity with a quiet NaN addend raises NV: IEEE 754-2019 leaves it to the
implementation (04 R107, R121). -/
opaque fmaNanInvalid : Bool

/-- The order in which the element stores of one vector store are issued, by step number and lane: the spec orders them for
`vscat` only (05 R163). -/
opaque laneOrder : Nat → Nat → Nat

/-- Whether a context exists on another package of the group, by package and context (11 R314): the other packages are outside
the model. -/
opaque contextPresent : Nat → Nat → Bool

/-- Whether a domain barrier that spans packages has closed on the others, by step number (11 R333): the other packages are
outside the model. -/
opaque remoteArrived : Nat → Bool

/-- The reports of the other packages that a task which is being killed spans, by step number: as many as have come, each the low half of a STATUS word
(11 R324, R328); and how many children launched by a task's cores on other packages are outstanding, by step number (11 R318). -/
opaque remoteReports : Nat → List (BitVec 16)
opaque remoteChildren : Nat → Nat

/-- Whether the host has exposed a run of its memory to the device, by host address and length (13 R382): the host is outside the
model. -/
opaque hostExposed : Nat → Nat → Bool

/-- The core that holds a rank of a domain on another package, by domain identifier and rank (01 R25): placement there is outside the
model. -/
opaque rankCore : Nat → Nat → CoreId

/-- Where the search for an unused entry of a mooring list begins, by s-cycle (13 R387 does not say which entry a new one takes). -/
opaque moorSlot : Nat → Nat

/-- The statistics word of a result row that an uncorrectable error spoiled, by operation number and word (07 R215 gives none). -/
opaque attnStats : Nat → Nat → W32

/-- Where the search for a free sequence record begins, by step number: the spec does not say which index a new record takes
(07 R222). -/
opaque newRecord : Nat → Nat

/-- The words of the bound set: bases and limits of HDMA0 to HDMA15, FWREG, PCAPMAX and FSPAN (13 R396), by the step of the cold reset:
the boot ROM writes them, and the spec gives no value. -/
opaque boundWord : Nat → Nat → W64

/-- The fused digest of the firmware key, and the fused minimum version (13 R398). -/
opaque keyDigest : BitVec 256
opaque minVersion : W32

/-- Whether an SLH-DSA-SHA2-192s signature verifies (13 R398): public key, message, signature. FIPS 205 is outside the spec. -/
opaque slhVerify : List (BitVec 8) → List (BitVec 8) → List (BitVec 8) → Bool

/-- The device's SLH-DSA-SHA2-192s signature of a message (13 R401): its key is fused. -/
opaque slhSign : List (BitVec 8) → List (BitVec 8)

/-- The device certificate (13 R401, R402), cut to 65,536 bytes. -/
opaque certificate : List (BitVec 8)

/-- Whether the other packages that a task spans have a place for it, by step number (11 R320): they are outside the model. -/
opaque remotePlace : Nat → Bool

/-- The bytes of the parts of the snapshot window from what latched, by their place in the part (14 R429 gives each part's offset, size and contents, and
not their layout in it): the header, a core, the ferrymaster, a sampler, an attention die, a port. -/
opaque snapHead : Option (Nat × Nat × BitVec 32 × BitVec 4 × Nat) → Nat → BitVec 8
opaque snapCore : Option Machine.SnapCore → Nat → BitVec 8
opaque snapFerry : Option (Nat × List (Nat × BitVec 32 × BitVec 32) × List Nat) → Nat → BitVec 8
opaque snapSampler : Option (Option Nat × Nat × Nat) → Nat → BitVec 8
opaque snapDie : Option (Nat × List (BitVec 32)) → Nat → BitVec 8
opaque snapPort : Option Machine.SnapPort → Nat → BitVec 8

/-- What a Tamlux port has counted when a snapshot latches, by step number and port (14 R429): which port carries a message, when its flits go and the
credits of the link are outside the model. -/
opaque portCounts : Nat → Nat → Machine.SnapPort

/-- The data bits of a faulting lane of an operand-queue image, by the s-cycle of its load and the lane (05 R165 gives the tag alone). -/
opaque imageBits : Nat → Nat → BitVec 32

/-- The labels of the boot ROM's two measurement entries (13 R400 gives none). -/
opaque bootLabel : Bool → BitVec 128

/-- Where the search for an unused identifier of a task or a domain begins, by step number (01 R24, 11 R317): any unused one may be given. -/
opaque idStart : Nat → Nat

/-- What the ferrymaster reads from an object whose home is another package, by step number and offset: data and full/empty bit (11 R316,
R322). The other packages are outside the model. -/
opaque remoteByte : Nat → Nat → BitVec 8
opaque remoteFull : Nat → Nat → Bool

/-- The bytes of a register section of a core's checkpoint image, by its number (control strand, per-core state, vector registers, operand queues, shape
and layout sets, matrix strands), from the core and the phase number of its DOM0; and the core and phase number that those sections hold together
(14 R420 gives their contents and sizes and not the layout inside one). -/
opaque sectionBytes : Nat → Machine.Core → BitVec 32 → List (BitVec 8)
opaque sectionsRead : List (BitVec 8) → Option (Machine.Core × BitVec 32)

end Sys2Proof.Config
end

