-- ==== Sys2Proof/Machine/AttnTypes.lean ====
section
/-! DEFINITION. The attention dies' state: sequence records with their cached tokens, the chunk allocator, and the operations on them
(07 R202 to R224). -/

namespace Sys2Proof.Machine

/-- An extent (R203, R205). -/
structure Extent where
  base : Nat
  len : Nat
  stride : Nat
  deriving DecidableEq, Repr

/-- A key row of a committed token (R207): E4M3 elements and, for each group of 32, the exponent of its scale; none is NaN. -/
structure KeyRow where
  elems : List Byte
  exps : List (Option Int)
  deriving DecidableEq, Repr

/-- The exponent of a value channel of a block (R208). -/
inductive ValScale where
  | zero
  | exp (k : Int)
  | nan
  deriving DecidableEq, Repr

/-- A value channel of a block: its exponent, and an E4M3 element for each committed token. -/
structure ValChannel where
  scale : ValScale
  elems : List Byte
  deriving DecidableEq, Repr

/-- A cache block of 32 positions (R204); `bad` is an uncorrectable error in it (R215). -/
structure CacheBlock where
  keys : List KeyRow
  vals : List ValChannel
  bad : Bool
  deriving DecidableEq, Repr

/-- A staged token (R204): its BF16 rows as received, and whether a poisoned word was among them. -/
structure Staged where
  key : List (BitVec 16)
  val : List (BitVec 16)
  bad : Bool
  deriving DecidableEq, Repr

/-- A relocation that is copying (R224): the extent, its new chunk, and the semaphore to raise on the issuing core. -/
structure Relocation where
  ext : Nat
  base : Nat
  raise : BitVec 4
  core : CoreId
  deriving DecidableEq, Repr

/-- A sequence record (R203). `draining` lists the old chunks, by size exponent and base, with the version that uses each. -/
structure SeqRec where
  seq : Nat
  ctx : Nat
  d : Nat
  lc : Nat
  staged : List Staged
  exts : List Extent
  ver : W32
  moving : Option Relocation
  draining : List (W32 × Nat × Nat)
  deriving DecidableEq, Repr

/-- An `attn` descriptor (R211). -/
structure AttnDesc where
  qaddr : Nat
  raddr : Nat
  kvaddr : Nat
  staddr : Nat
  scale : W32
  tau : W32
  window : W32
  qpos : Nat
  depth : Nat
  group : Nat
  new : Nat
  stats : Bool
  raise : BitVec 4
  dcode : Nat
  cmask : BitVec 16
  deriving DecidableEq, Repr

/-- What an accepted `attn` computes from (R210, R212): the failure it ends with, or LC, the staged tokens, the extents, the version and the query rows
with their poison. -/
inductive AttnSnap where
  | failed (cls : BitVec 4)
  | taken (lc : Nat) (staged : List Staged) (exts : List Extent) (ver : W32) (rows : List (List (BitVec 16) × Bool))
  deriving DecidableEq, Repr

/-- An `attn` operation in flight. -/
structure AttnOp where
  id : Nat
  core : CoreId
  ctx : Nat
  h : W64
  desc : AttnDesc
  snap : Option AttnSnap
  deriving DecidableEq, Repr

/-- What a control strand asks of an attention die and waits for (R220). -/
inductive AskOp where
  | commit (h n : W64)
  | drop (h n : W64)
  | alloc (h req : W64)
  | free (h first : W64)
  | move (h req : W64)
  deriving DecidableEq, Repr

/-- A die's reply: a trap, or K0 and the result register's value where the instruction writes them. -/
inductive AskReply where
  | trap (cls : BitVec 4)
  | done
  | result (k0 : Bool) (v : W64)
  deriving DecidableEq, Repr

/-- An instruction waiting for a die: its number in the order of issue, its reply, and the `attn` operations that the reply comes after (R220). -/
structure Ask where
  id : Nat
  core : CoreId
  ctx : Nat
  op : AskOp
  reply : Option AskReply
  after : List Nat
  deriving DecidableEq, Repr

/-- An attention die. `free` lists the free chunks, by size exponent and base (R206), and `cells` the cache blocks by address, in rising order. -/
structure AttnDie where
  recs : List SeqRec
  free : List (Nat × Nat)
  cells : List (Nat × CacheBlock)
  ops : List AttnOp
  asks : List Ask
  deriving DecidableEq, Repr

/-- A die at cold reset: no record, and its HBM of 192 GiB, less 1 GiB, free in chunks of 1 GiB (R206, 01 R11). -/
def AttnDie.reset : AttnDie :=
  { recs := [], free := (List.range 191).map fun i => (30, i * 2 ^ 30), cells := [], ops := [], asks := [] }

end Sys2Proof.Machine
end

