-- ==== Sys2Proof/Machine/FabTypes.lean ====
section
/-! DEFINITION. The fabric unit's state: registrations, and the messages that the package has sent (12 R342 to R368). -/

namespace Sys2Proof.Machine

/-- A landing buffer (12 R352), keyed by context, COLL and core. -/
structure LandBuf where
  ctx : Nat
  coll : W32
  core : CoreId
  ptr : W64
  len : Nat
  deriving DecidableEq, Repr

/-- An expert port (12 R352, R365 to R368), keyed by context and handle; `core` registered it. -/
structure Port where
  ctx : Nat
  h : BitVec 24
  core : CoreId
  ver : W32
  tag : W64
  rows : Nat
  spn : Nat
  spill : W64
  flog : W64
  fln : Nat
  rcnt : W32
  closed : Bool
  redirect : Option (BitVec 12 × BitVec 24 × W32)
  deriving DecidableEq, Repr

/-- A message of a started step: the step's core, strand and flight, the s-cycle of its first transmission, whether its
destination has had it, the answer made in the package when it is its own destination, whether the step still waits for it, the
places a get fills, the mooring budget its strand had (03 R81), and the bounces, the time of the next sending and the redirect it has had. -/
structure FabEntry where
  msg : FabMsg
  core : CoreId
  strand : Strand
  flight : Nat
  start : Nat
  delivered : Bool
  reply : Option FabReply
  live : Bool
  dests : List (MoveDst × FeAct)
  budget : Nat
  bounces : Nat
  resendAt : Option Nat
  redirected : Bool
  deriving DecidableEq, Repr

/-- A collective step that is running on a core (12 R355 to R357). `kind` is 0 `a2av`, 1 `rscat`, 2 `agath`, 3 `bcast`. `sends` gives the
destination rank, the source offset and the bytes of each piece, `own` the source offset and bytes of the rank's own piece, `slots` the
receive offset and bytes of each source rank, `keys` the storage of the receive region by location, `src` the source region read so
far, and `ready` whether it has all been read and the own copy made. -/
structure CollRun where
  core : CoreId
  flight : Nat
  ctx : Nat
  coll : W32
  level : Fin 4
  kind : Nat
  red : Nat
  ord : Bool
  timeout : Nat
  rank : Nat
  fe : FeMode
  staddr : W32
  sends : List (Nat × Nat × Nat)
  own : Nat × Nat
  slots : List (Nat × Nat)
  keys : List (Option Nat)
  src : List (Nat × LocData)
  ready : Bool
  landed : List Nat
  bounces : Nat
  reason : Nat
  start : Nat
  deriving DecidableEq, Repr

/-- An `epadd` row that has been decided and is being added (06 R200, 17 R450): its message, the object it translated, and the elements still to be
added, each by its storage and its bytes. Each is one atomic add, made at any moment before the row is acknowledged, in any order. -/
structure RowAdd where
  msg : FabMsg
  use : ObjUse
  left : List (Nat × List Byte)
  deriving DecidableEq, Repr

/-- The fabric unit. `out` holds the answers given to other packages, by package and message number, and `wakes` the wakes sent to their
strands, oldest first. -/
structure Fabric where
  fbtmo : W32
  bufs : List LandBuf
  ports : List Port
  net : List FabEntry
  colls : List CollRun
  adds : List RowAdd
  out : List (BitVec 12 × Nat × FabReply)
  wakes : List (BitVec 12 × CoreId × Strand)
  deriving DecidableEq, Repr

def Fabric.reset : Fabric := { fbtmo := 1048576, bufs := [], ports := [], net := [], colls := [], adds := [], out := [], wakes := [] }

end Sys2Proof.Machine
end

