-- ==== Sys2Proof/Machine/FwTypes.lean ====
section
/-! DEFINITION. The state of the management core and the host port: boot, bound set, measurements, attestation, power and clocks
(01 R15 to R18, 13 R396 to R402, 14 R415, R424). -/

namespace Sys2Proof.Machine

/-- The bound set (R396): the host windows for firmware DMA (base and limit), and the words FWREG, PCAPMAX and FSPAN. -/
structure BoundSet where
  hdma : Vector (W64 × W64) 16
  fwreg : W64
  pcapmax : W64
  fspan : W64
  lock : Bool
  deriving DecidableEq, Repr

/-- An entry of the measurement log (R400): register, digest and label. -/
structure MeasEntry where
  reg : Fin 8
  digest : BitVec 256
  label : BitVec 128
  deriving DecidableEq, Repr

/-- BOOTCTL.STATE (R399). -/
inductive BootState where
  | waiting | verifying | running | rejected
  deriving DecidableEq, Repr

/-- What a host or firmware read brought: its bytes, and whether a poisoned location was among them. -/
structure ReadBack where
  bytes : List Byte
  poisoned : Bool
  deriving DecidableEq, Repr

/-- The management core and the host port. `mailbox` is the boot mailbox in memory's canonical form, `nonceHeld` the nonce of the request
that is being served, `aclk` the arithmetic clock in MHz, and `down` the thermal trip. -/
structure Fw where
  boot : BootState
  reason : BitVec 8
  mailbox : List Host.Cell
  bounds : BoundSet
  meas : Vector (BitVec 256) 8
  log : List MeasEntry
  nonce : BitVec 256
  nonceHeld : BitVec 256
  attBusy : Bool
  attLen : W32
  attResp : List Byte
  pcap : Nat
  routes : List (BitVec 12 × Fin 16)
  fwgrant : W64
  bvDma : BitVec 16
  bvPower : BitVec 16
  bvRoute : BitVec 16
  bvData : BitVec 16
  sepkgCorr : W32
  sepkgUnc : W32
  ckrqptr : W64
  ckrqStatus : BitVec 8
  ckrqQueue : Fin 64
  aclk : Nat
  down : Bool
  hostRead : ReadBack
  fwRead : ReadBack
  deriving DecidableEq, Repr

end Sys2Proof.Machine
end

