-- ==== Sys2Proof/Machine/SampTypes.lean ====
section
/-! DEFINITION. The samplers' state: sequence contexts, queued operations, and the operation that runs (08 R225 to R254). -/

namespace Sys2Proof.Machine

/-- A bound sequence context (R226) and the device context it belongs to (R227). -/
structure SampCtx where
  owner : Nat
  key : W64
  ctr : W64
  tcount : W64
  tbias : W64
  tmask : W64
  tbase : Nat
  tlen : Nat
  pbase : Nat
  plen : Nat
  final : Nat
  budget : Nat
  fb : Bool
  params : Vector W32 8
  deriving DecidableEq, Repr

/-- A segment of logits: near address, count and first id (R247). -/
structure SampSeg where
  addr : Nat
  count : Nat
  id0 : Nat
  deriving DecidableEq, Repr

/-- A `sample` descriptor (R247). -/
structure SampDesc where
  resaddr : Nat
  auxaddr : Nat
  ltype : Nat
  raise : BitVec 4
  shard : Bool
  cmask : BitVec 16
  segs : List SampSeg
  coll : W32
  nsh : Nat
  shidx : Nat
  kc : Nat
  rootpkg : BitVec 12
  rootcl : Fin 16
  timeout : Nat
  deriving DecidableEq, Repr

/-- A queued operation: its number, core, device context, context index, descriptor, and whether another operation with its COLL was
alive on the sampler as it arrived. -/
structure SampJob where
  id : Nat
  core : CoreId
  ctx : Nat
  idx : Nat
  desc : SampDesc
  second : Bool
  deriving DecidableEq, Repr

/-- An `sbind` that waits (R250): its place in the order of arrival, its core and its context index. -/
structure SampBind where
  id : Nat
  core : CoreId
  idx : Nat
  deriving DecidableEq, Repr

/-- Where the running operation stands (R230, R232, R252, R253): before its next block; running its program on a block; a root that lacks
contributions; before its final phase; running its final phase; out of budget, in the final phase or not; a shard that has contributed,
since when; or ended, with outcome, code and token. -/
inductive SampPhase where
  | load
  | block
  | gather
  | ready
  | final
  | exhausted (fin : Bool)
  | sent (since : Nat)
  | ended (outcome code : Nat) (token : W32)
  deriving DecidableEq, Repr

/-- The floating-point flags FLAGS (R230). -/
structure SampFlags where
  sat : Bool
  nx : Bool
  uf : Bool
  of : Bool
  dz : Bool
  nv : Bool
  deriving DecidableEq, Repr

def SampFlags.clear : SampFlags := { sat := false, nx := false, uf := false, of := false, dz := false, nv := false }

/-- A 64-byte sector as it was read (R249): its storage address, bytes and poison marks. -/
structure Sector where
  key : Nat
  bytes : List Byte
  bad : List Bool
  deriving DecidableEq, Repr

/-- A recorded table update (R239): to TBIAS or TCOUNT, its id and its addend. -/
structure TabUpdate where
  bias : Bool
  id : W32
  val : W32
  deriving DecidableEq, Repr

/-- The running operation (R225, R230). `cand` holds the entries in use, `seg`, `off` and `blk` the next block, `pc` the word offset in the
program, `charge` the watchdog's charge, `held` that the instruction at `pc` has been charged and waits, `committing` that the checks of
a commit have passed, `done` the table updates performed since, `fell` that the program was abandoned, and `gath` the contributions a root holds. -/
structure SampRun where
  job : SampJob
  sc : SampCtx
  start : Nat
  w : Vector (Vector W32 64) 16
  h : Vector W32 16
  g : Vector W64 4
  cand : List (W32 × W32)
  mx : W32
  sm : W32
  flags : SampFlags
  upd : List TabUpdate
  accepted : W32
  charge : Nat
  phase : SampPhase
  seg : Nat
  off : Nat
  blk : Nat
  pc : Nat
  held : Bool
  committing : Bool
  done : Nat
  fell : Bool
  gath : List ShardMsg
  sectors : List Sector
  deriving DecidableEq, Repr

/-- A sampler. `illegal` is what the last completion with status ILLEGAL reported: its operation, and the address of the program word (02 R41). `held` lists the contributions that came before the root's operation, with their arrival, and `finished` the finished
collectives with the shards that have not contributed (R252, R254, 14 R419). -/
structure Sampler where
  ctxs : List (Nat × SampCtx)
  queue : List SampJob
  binds : List SampBind
  run : Option SampRun
  held : List (Nat × ShardMsg)
  finished : List (W32 × List Nat)
  illegal : Option (Nat × Nat)
  deriving DecidableEq, Repr

def Sampler.reset : Sampler := { ctxs := [], queue := [], binds := [], run := none, held := [], finished := [], illegal := none }

/-- The samplers, the contributions and answers on their way within the package, and those sent to other packages. -/
structure Samplers where
  units : Vector Sampler 16
  contribs : List ShardMsg
  replies : List (Fin 16 × ShardReply)
  outContribs : List (BitVec 12 × ShardMsg)
  outReplies : List (BitVec 12 × Fin 16 × ShardReply)
  deriving DecidableEq, Repr

def Samplers.reset : Samplers := { units := Vector.replicate 16 .reset, contribs := [], replies := [], outContribs := [], outReplies := [] }

end Sys2Proof.Machine
end

