-- ==== Sys2Proof/Machine/TaskTypes.lean ====
section
/-! DEFINITION. The ferrymaster's state: task queues, the window of admitted tasks and their saved contexts. -/

namespace Sys2Proof.Machine

/-- A task queue's registers (11 R315). -/
structure TaskQueue where
  base : W64
  en : Bool
  src : Bool
  ctx : Nat
  lsize : Nat
  fault : BitVec 4
  tail : W32
  head : W32
  deriving DecidableEq, Repr

def TaskQueue.reset : TaskQueue :=
  { base := 0, en := false, src := false, ctx := 0, lsize := 0, fault := 0, tail := 0, head := 0 }

/-- A declared range of a task record (11 R312). -/
structure TaskRange where
  w : Bool
  handle : Nat
  lo0 : Nat
  hi0 : Nat
  lo1 : Nat
  hi1 : Nat
  deriving DecidableEq, Repr

/-- A task record (11 R311). -/
structure TaskRec where
  image : W64
  imglen : Nat
  centry : Nat
  ventry : W32
  rings : List (W32 × W32)
  slimg : Nat
  size : Nat
  pkg0 : Nat
  npkg : Nat
  prio : Nat
  grant : BitVec 8
  phint : BitVec 8
  mbud : Nat
  remain : Nat
  clmsave : Nat
  compl : W64
  arg0 : W64
  arg1 : W64
  ranges : List TaskRange
  deriving DecidableEq, Repr

/-- The states of R329 from admission on. -/
inductive TaskState where
  | admitted | ready | running | draining | stopping | killing | saved | retired | complete
  deriving DecidableEq, Repr

/-- A saved task (14 R420 to R423): the slot of rank 0 and the slots it takes in its context's pool, its header slot included;
the core images in DOM1 order with their SPM contents; the CLM saves in the order of the clusters' ranks; and the phase numbers of
DOM1 to DOM3, then of each core's DOM0. While the task is still stopping, only the slots are taken. -/
structure Checkpoint where
  first : Nat
  slots : Nat
  cores : List Core
  spm : List Mem
  clm : List Mem
  phases : List W32
  deriving DecidableEq, Repr

/-- A task of the window (11 R316). `order` is its admission order; `disp` counts dispatches, later ones larger; `cores` is its domain in
rank order; `far` is the package that admitted it and its number there, when that is another one (11 R321). -/
structure Task where
  id : Nat
  queue : Nat
  ctx : Nat
  recd : TaskRec
  state : TaskState
  tokens : Nat
  agedAt : Nat
  order : Nat
  parent : Option Nat
  children : Nat
  cores : List CoreId
  disp : Nat
  drainAt : Nat
  user : BitVec 8
  kind : BitVec 2
  cls : BitVec 4
  ckpt : Option Checkpoint
  far : Option (BitVec 12 × Nat)
  deriving DecidableEq, Repr

/-- A child enqueued by `launch` and not yet admitted (11 R317): its queue and slot, its identifier, its parent, and the core
whose strand launched it. -/
structure Launched where
  queue : Nat
  slot : W32
  id : Nat
  parent : Option Nat
  core : CoreId
  deriving DecidableEq, Repr

/-- The ferrymaster (11 R315 to R329). `turnQ` is the queue the round robin looks at next. -/
structure Ferry where
  queues : Vector TaskQueue 64
  fmdrain : W32
  tasks : List Task
  launched : List Launched
  turnQ : Nat
  nextOrder : Nat
  nextDisp : Nat
  deriving DecidableEq, Repr

def Ferry.reset : Ferry :=
  { queues := Vector.replicate 64 .reset, fmdrain := 4096, tasks := [], launched := [], turnQ := 0, nextOrder := 0, nextDisp := 0 }

end Sys2Proof.Machine
end

