-- ==== Sys2Proof/Machine/State.lean ====
section
/-! DEFINITION. The state of one package as plain data, the reasons a step can stop, and the machine right after cold reset. -/

namespace Sys2Proof.Machine

/-- Reasons for a step to stop with a fault. There are none: every trap, error and expiry of the spec leaves a next state, and a
package whose clocks have stopped (01 R18) stays as it is until a cold reset. Safe: nothing is cut off. -/
inductive Fault where
  deriving DecidableEq, Repr

/-- A step without a meaning. -/
inductive Refusal where
  /-- Raised by an arm of `exec` whose instruction has no meaning yet. Safe: no run goes through it. -/
  | notModelled (mnemonic : String)
  deriving DecidableEq, Repr

/-- The agent a fetched instruction runs for: a core's strand, or a cluster's sampler. -/
structure Agent where
  core : CoreId
  strand : Strand
  deriving DecidableEq, Repr

/-- The package's machine state. -/
structure Mach where
  cores : Vector Core 128
  mem : Mem
  pend : List Pend
  early : List Early
  scyc : Nat
  pkg : BitVec 12
  group : Nat
  ports : BitVec 16
  withdrawn : BitVec 16
  ctxs : Vector (Option Context) 64
  mcache : List Cached
  misses : List Miss
  moorings : List Mooring
  remotes : List Remote
  holds : List Hold
  replays : Vector Replay 64
  barriers : List Barrier
  bell : Bell
  ferry : Ferry
  fab : Fabric
  attn : Vector AttnDie 2
  samp : Samplers
  nextOp : Nat
  deriving DecidableEq, Repr

/-- The whole state. `turn` says which agent moves next, `cur` which agent a fetched instruction runs for, and `tick` numbers
the steps, as an index of the free values; these three are the model's own. -/
structure State where
  mach : Mach
  fw : Fw
  turn : Turn
  cur : Agent
  tick : Nat
  deriving DecidableEq, Repr

def XVal.zero : XVal := { val := 0, tag := 0 }

/-- The control strand at cold reset; dispatch sets it again (03 R71, 11 R322). -/
def Ctl.reset : Ctl :=
  { x := Vector.replicate 31 .zero, sx := Vector.replicate 7 .zero, k := Vector.replicate 8 false, pc := 0, sup := false,
    status := .ended 0, dz := false, sat := false, pw := false, hd := false, specEn := false,
    rbud := Vector.replicate 5 64, mbud := Vector.replicate 5 16777216,
    uiEn := false, uiOvf := false, uiActive := false, uiVec := 0, uiEpc := 0, uiCause := { source := 0, status := 0, tag := 0 },
    events := [], armed := [], pending := [], held := [],
    stvec := 0, stvecEn := false, sepc := 0, snpc := 0, causeSrc := 0, causeAsync := false, causeClass := 0, sfaddr := 0,
    sscr := Vector.replicate 4 0, treflMask := 0, treflAddr := 0, vstatStopped := false, vstatClass := 0, vstatAddr := 0,
    errCorr := 0, errUnc := 0, ctxid := 0, miss := 0, wait := none }

/-- The vector strand at cold reset and at dispatch (05 R132). -/
def Vec.reset : Vec :=
  { v := Vector.replicate 32 .zero, b := Vector.replicate 4 0, bw := [], p := Vector.replicate 8 0, sg := Vector.replicate 4 .zero,
    oq := Vector.replicate 4 [], flagSat := false, flagNx := false, flagUf := false, flagOf := false, flagDz := false, flagNv := false,
    loop := .idle, pc := 0, status := .ended, skip := false, issued := false, wait := none }

/-- The physical cluster and core of a logical core (01 R27, R30): logical local number n is the n-th physical core that is
not the disabled one. -/
def physOf (n : CoreId) : BitVec 4 × BitVec 4 :=
  let cl : Fin 16 := ⟨n.val / 8, by omega⟩
  let k := n.val % 8
  (BitVec.ofNat 4 cl.val, BitVec.ofNat 4 (if k < (Config.disabledCore cl).val then k else k + 1))

/-- A core at cold reset: no task runs on it. -/
def Core.reset (n : CoreId) : Core :=
  { ctl := .reset, vec := .reset, mata := .reset, matb := .reset, copy := .reset,
    rings := Vector.replicate 3 .absent, sets := Vector.replicate 4 .zero, q := Vector.replicate 8 [], sm := Vector.replicate 15 0,
    smw := Vector.replicate 15 [], mx := Vector.replicate 8 false, rg := Vector.replicate 8 none, bp := 0, imglen := 0,
    acc := Vector.replicate 64 .zero, scale := Vector.replicate 16384 0, lease := .free, leaseLast := true, reread := none,
    dom := Vector.replicate 4 (0, 0, 0), lcidCore := BitVec.ofNat 7 n.val, physCluster := (physOf n).1, physCore := (physOf n).2,
    task := none, forked := [], stop := false, shareDone := false, rhCtl := 0, rhVec := 0 }

/-- The package after cold reset (01 R29, 13 R398). -/
def Mach.reset : Mach :=
  { cores := Vector.ofFn Core.reset, mem := { cells := [], empt := [], pois := [] }, pend := [], early := [], scyc := 0, pkg := 0, group := 1,
    ports := 0xFFFF, withdrawn := 0, ctxs := Vector.replicate 64 none, mcache := [], misses := [], moorings := [], remotes := [], holds := [],
    replays := Vector.replicate 64 .off, barriers := [], bell := .reset, ferry := .reset, fab := .reset, attn := Vector.replicate 2 .reset, samp := .reset, nextOp := 1 }

/-- The bound set the boot ROM writes and locks (13 R396): fixed by the part, with PCAPMAX at most 2,200 W, and at least the 1,200 W
below which no cap is set (01 R16; log 51). -/
def BoundSet.boot (tick : Nat) : BoundSet :=
  { hdma := Vector.ofFn fun i : Fin 16 => (Config.boundWord tick (2 * i.val), Config.boundWord tick (2 * i.val + 1)),
    fwreg := Config.boundWord tick 32, pcapmax := BitVec.ofNat 64 (max 1200 (min ((Config.boundWord tick 33).toNat % 65536) 2200)),
    fspan := BitVec.ofNat 64 ((Config.boundWord tick 34).toNat % 2 ^ 40), lock := true }

/-- The management core and the host port after cold reset: the boot ROM waits for an image (13 R398, R399). -/
def Fw.reset (tick : Nat) : Fw :=
  { boot := .waiting, reason := 0, mailbox := [], bounds := .boot tick, meas := Vector.replicate 8 0, log := [], nonce := 0, nonceHeld := 0,
    attBusy := false, attLen := 0, attResp := [], pcap := 1200, routes := [], fwgrant := 0, bvDma := 0, bvPower := 0, bvRoute := 0, bvData := 0,
    sepkgCorr := 0, sepkgUnc := 0, ckrqptr := 0, ckrqStatus := 0, ckrqQueue := 0, aclk := 700, down := false,
    hostRead := { bytes := [], poisoned := false }, fwRead := { bytes := [], poisoned := false } }

/-- The machine right after cold reset. -/
def State.reset : State :=
  { mach := .reset, fw := .reset 0, turn := Config.schedule 0, cur := { core := 0, strand := .control }, tick := 1 }

end Sys2Proof.Machine
end

