-- ==== Sys2Proof/Machine/Mem.lean ====
section
/-! DEFINITION. Memory: bytes, full/empty bits and poison marks of the package's storage, and the order in which issued
stores are performed (09 R255 to R270). -/

namespace Sys2Proof.Machine

/-! Physical addresses (12 R346 for DSM and CLM; the windows for SPM and host memory are the model's own). -/

def hbmEnd : Nat := 0x3000000000
def dsmKey (b : Nat) : Nat := 0x3000000000 + b
def clmKey (cl b : Nat) : Nat := 0x3004000000 + 0x800000 * cl + b
def spmKey (c : CoreId) (b : Nat) : Nat := 0x5000000000 + 0x100000 * c.val + b
def hostKey (a : Nat) : Nat := 0x10000000000000000 + a

/-- The aligned 8-byte location of an address (09 R255), by its first byte's address. -/
def locOf (a : Nat) : Nat := a - a % 8

/-! Bytes in the canonical form: rising addresses, no byte 0 listed. -/

/-- An unlisted byte reads as this. -/
def unlisted : Byte := 0

def cellsRead : List Host.Cell → Nat → Byte
  | [], _ => unlisted
  | (k, v) :: r, a => if k = a then v else cellsRead r a

/-- The list with the byte at a replaced; writing what an unlisted byte reads as removes the entry. -/
def cellsWrite : List Host.Cell → Nat → Byte → List Host.Cell
  | [], a, b => if b = unlisted then [] else [(a, b)]
  | (k, v) :: r, a, b =>
    if a < k then (if b = unlisted then (k, v) :: r else (a, b) :: (k, v) :: r)
    else if a = k then (if b = unlisted then r else (k, b) :: r)
    else (k, v) :: cellsWrite r a b

/-- The canonical form, for entries above a bound. -/
def cellsWfFrom : Option Nat → List Host.Cell → Bool
  | _, [] => true
  | lo, (k, v) :: r => (match lo with | none => true | some l => decide (l < k)) && v != unlisted && cellsWfFrom (some k) r

/-- A rising list of locations with one added. -/
def locInsert : List Nat → Nat → List Nat
  | [], a => [a]
  | k :: r, a => if a < k then a :: k :: r else if a = k then k :: r else k :: locInsert r a

/-- The list without a location. -/
def locErase : List Nat → Nat → List Nat
  | [], _ => []
  | k :: r, a => if a = k then r else k :: locErase r a

def locsWfFrom : Option Nat → List Nat → Bool
  | _, [] => true
  | lo, k :: r => (match lo with | none => true | some l => decide (l < k)) && locsWfFrom (some k) r

/-- The canonical form of memory. -/
def memWf (m : Mem) : Bool := cellsWfFrom none m.cells && locsWfFrom none m.empt && locsWfFrom none m.pois

def memByte (m : Mem) (a : Nat) : Byte := cellsRead m.cells a
def memSetByte (m : Mem) (a : Nat) (b : Byte) : Mem := { m with cells := cellsWrite m.cells a b }

/-- The location is full (10 R285). -/
def memFull (m : Mem) (loc : Nat) : Bool := !m.empt.contains loc
def memSetFull (m : Mem) (loc : Nat) (full : Bool) : Mem :=
  { m with empt := if full then locErase m.empt loc else locInsert m.empt loc }

/-- The location is marked poisoned (10 R282). -/
def memPoisoned (m : Mem) (loc : Nat) : Bool := m.pois.contains loc
def memSetPoison (m : Mem) (loc : Nat) (p : Bool) : Mem :=
  { m with pois := if p then locInsert m.pois loc else locErase m.pois loc }

/-- n bytes from an address, lowest first. -/
def memBytes (m : Mem) (a : Nat) : Nat → List Byte
  | 0 => []
  | n + 1 => memByte m a :: memBytes m (a + 1) n

/-- Bytes stored from an address. -/
def memSetBytes (m : Mem) (a : Nat) : List Byte → Mem
  | [] => m
  | b :: r => memSetBytes (memSetByte m a b) (a + 1) r

/-- The number whose little-endian bytes these are (00 R6). -/
def leNat : List Byte → Nat
  | [] => 0
  | b :: r => b.toNat + 256 * leNat r

/-- The n little-endian bytes of a number (00 R6). -/
def leBytes (v : Nat) : Nat → List Byte
  | 0 => []
  | n + 1 => BitVec.ofNat 8 v :: leBytes (v / 256) n

def memNat (m : Mem) (a n : Nat) : Nat := leNat (memBytes m a n)
def mem32 (m : Mem) (a : Nat) : W32 := BitVec.ofNat 32 (memNat m a 4)
def mem64 (m : Mem) (a : Nat) : W64 := BitVec.ofNat 64 (memNat m a 8)
def memSet64 (m : Mem) (a : Nat) (v : W64) : Mem := memSetBytes m a (leBytes v.toNat 8)

/-- Zero bytes over a run of n. -/
def memZero (m : Mem) (a n : Nat) : Mem :=
  { cells := m.cells.filter fun c => c.1 < a || a + n ≤ c.1,
    empt := m.empt.filter fun l => l < a || a + n ≤ l,
    pois := m.pois.filter fun l => l < a || a + n ≤ l }

/-- The part of memory from an address over n bytes, moved to address `dst`. -/
def memSlice (m : Mem) (a n dst : Nat) : Mem :=
  { cells := (m.cells.filter fun c => a ≤ c.1 && c.1 < a + n).map fun c => (c.1 - a + dst, c.2),
    empt := (m.empt.filter fun l => a ≤ l && l < a + n).map fun l => l - a + dst,
    pois := (m.pois.filter fun l => a ≤ l && l < a + n).map fun l => l - a + dst }

/-- Memory with a run of n bytes at `dst`, its bits and its marks, replaced by a slice. -/
def memPaste (m : Mem) (sl : Mem) (dst n : Nat) : Mem :=
  let z := memZero m dst n
  { cells := sl.cells.foldl (fun cs c => cellsWrite cs c.1 c.2) z.cells,
    empt := sl.empt.foldl locInsert z.empt,
    pois := sl.pois.foldl locInsert z.pois }

/-! Stores issued and not yet performed. -/

/-- What an access does to its location (09 R255): a read-modify-write reads and writes it indivisibly. -/
inductive AccKind where
  | load | store | rmw
  deriving DecidableEq, Repr

/-- An access whose order against its strand's earlier accesses is asked: its location, class, whether it is a release at cluster scope or
wider, its memory type, its kind, and the masks of the fences that stand between. -/
structure Access where
  loc : Nat
  cls : BitVec 4
  rel : Bool
  mtype : MType
  kind : AccKind
  masks : List (BitVec 16)
  deriving DecidableEq, Repr

/-- R261 and R269: an earlier store (its location, class and type) is performed before the access. Plain stores to write-combining memory are
unordered among themselves within a class; a read-modify-write is ordered as on normal memory. -/
def mustPrecede (loc : Nat) (cls : BitVec 4) (mt : MType) (b : Access) : Bool :=
  loc == b.loc || b.rel ||
  (cls == b.cls && !(b.kind == .store && mt == .writeCombining && b.mtype == .writeCombining)) ||
  (mt == .device && b.mtype == .device) || mt == .stronglyOrdered || b.mtype == .stronglyOrdered ||
  b.masks.any fun m => m.getLsbD cls.toNat && m.getLsbD b.cls.toNat

/-- The access that a pending store is. -/
def PendStore.access (p : PendStore) : Access :=
  { loc := locOf p.addr, cls := p.cls, rel := p.rel, mtype := p.mtype, kind := .store, masks := [] }

/-- A pending store is performed before the access. -/
def PendStore.precedes (p : PendStore) (b : Access) : Bool := mustPrecede (locOf p.addr) p.cls p.mtype b

/-- A pending store of a strand. -/
def PendStore.of (core : CoreId) (strand : Strand) (p : PendStore) : Bool := p.core == core && p.strand == strand

def Pend.access? (core : CoreId) (strand : Strand) : Pend → Option Access
  | .store p => if p.of core strand then some p.access else none
  | _ => none

/-- The stores of a strand that must be performed before the accesses `reqs`, and the rest, given the pending list newest first. A store that
must be performed first brings with it the stores ordered before it; the earlier stores that a near release among them leaves behind
are `shown` (R264). -/
def flushSplit (core : CoreId) (strand : Strand) : Bool → List Pend → List Access → List PendStore → List Pend → List PendStore × List Pend
  | _, [], _, now, keep => (now, keep)
  | sh, .fence c t mask :: r, reqs, now, keep =>
    flushSplit core strand sh r (if c = core ∧ t = strand then reqs.map fun b => { b with masks := mask :: b.masks } else reqs) now (.fence c t mask :: keep)
  | sh, .load c id cls ptrs :: r, reqs, now, keep => flushSplit core strand sh r reqs now (.load c id cls ptrs :: keep)
  | sh, .store p :: r, reqs, now, keep =>
    if p.of core strand then
      if reqs.any p.precedes then flushSplit core strand (sh || p.near) r (p.access :: reqs) (p :: now) keep
      else flushSplit core strand sh r reqs now (.store { p with shown := p.shown || sh } :: keep)
    else flushSplit core strand sh r reqs now (.store p :: keep)

/-- A fence is dropped once nothing of its strand stands before it. -/
def dropFences : List Pend → List Pend → List Pend
  | _, [] => []
  | before, p :: r =>
    match p with
    | .fence c t _ =>
      if before.any (fun q => (q.access? c t).isSome || (match q with | .load d .. => c == d && t == .vector | _ => false)) then p :: dropFences before r
      else dropFences before r
    | _ => p :: dropFences (p :: before) r

/-- The bits of a byte that a mask names replaced. -/
def maskByte (old mask v : Byte) : Byte := (old &&& ~~~mask) ||| (v &&& mask)

/-- A run of masked bytes written from an address. -/
def memSetMasked (m : Mem) (a : Nat) : List (Byte × Byte) → Mem
  | [] => m
  | (mask, v) :: r => memSetMasked (memSetByte m a (maskByte (memByte m a) mask v)) (a + 1) r

/-- A performed store of whole bytes (10 R281, R282): a full location's write clears its poison mark. -/
def storeMem (m : Mem) (addr : Nat) (data : List Byte) : Mem :=
  let m1 := memSetBytes m addr data
  if data.length = 8 then memSetPoison m1 (locOf addr) false else m1

/-- A pending store performed; the full/empty bit stays (10 R283). -/
def PendStore.perform (p : PendStore) (m : Mem) : Mem :=
  let m1 := memSetMasked m p.addr p.data
  if p.clears then memSetPoison m1 (locOf p.addr) false else m1

/-- Whole bytes as masked ones. -/
def wholeBytes (bs : List Byte) : List (Byte × Byte) := bs.map fun b => (0xFF, b)

/-- What stands between two items of the list: the masks of a strand's fences. -/
def masksBetween (l : List Pend) (c : CoreId) (t : Strand) : List (BitVec 16) :=
  l.filterMap fun
    | .fence c' t' mask => if c' = c ∧ t' = t then some mask else none
    | _ => none

/-- The k-th pending item may be performed now: it is a store that no earlier store of its strand must precede, and no load of the strand
is kept back before it (R261, Load before store). -/
def performable (l : List Pend) (k : Nat) : Bool :=
  match l[k]? with
  | some (.store p) =>
    (List.range k).all fun j =>
      match l[j]? with
      | some (.store q) =>
        !(q.of p.core p.strand && q.precedes { p.access with masks := masksBetween ((l.take k).drop (j + 1)) p.core p.strand })
      | some (.load c ..) => !(c == p.core && p.strand == .vector)
      | _ => true
  | _ => false

/-- The list after its k-th item, a store, is performed: the earlier stores that a near release leaves behind are `shown` (R264). -/
def afterPerform (l : List Pend) (k : Nat) (p : PendStore) : List Pend :=
  dropFences [] ((l.zipIdx.filterMap fun x =>
    if x.2 = k then none
    else match x.1 with
      | .store q => some (.store (if p.near && decide (x.2 < k) && q.of p.core p.strand then { q with shown := true } else q))
      | y => some y))

end Sys2Proof.Machine
end

