-- ==== Sys2Proof/Machine/Objects.lean ====
section
/-! DEFINITION. Near addresses, the capability list, object records and translation (01 R31 to R37, 13 R371 to R383). -/

namespace Sys2Proof.Machine

/-! Fields of words. -/

/-- Bits hi to lo of a number. -/
def bits (v hi lo : Nat) : Nat := v / 2 ^ lo % 2 ^ (hi - lo + 1)
def bit (v i : Nat) : Bool := v / 2 ^ i % 2 == 1
def b2n (b : Bool) : Nat := if b then 1 else 0

/-- A number below 2^n read as signed. -/
def sgn (n v : Nat) : Int := if v < 2 ^ (n - 1) then (v : Int) else (v : Int) - 2 ^ n

/-- An integer as n bits, wrapping. -/
def wrapN (n : Nat) (v : Int) : Nat := (v % 2 ^ n).toNat

def ptrHandle (p : W64) : Nat := p.toNat / 2 ^ 40
def ptrOff (p : W64) : Nat := p.toNat % 2 ^ 40
def mkPtr (h off : Nat) : W64 := BitVec.ofNat 64 (h * 2 ^ 40 + off)

/-- The physical handle (R377). -/
def physHandle : Nat := 0xFFFFFF

/-! The capability list (R35 to R37). -/

def onesIn (v : Nat) : Nat → Nat
  | 0 => 0
  | n + 1 => b2n (bit v n) + onesIn v n

/-- The eleven records in order: ID and DATA. The enabled-cluster mask leaves out withdrawn clusters (R29). -/
def capRecords (m : Mach) : List (Nat × Nat) :=
  [(0, 11), (1, (0xFFFF - m.withdrawn.toNat) + 7 * 2 ^ 16), (2, 0 + 60 * 2 ^ 8 + 192 * 2 ^ 16), (2, 1 + 60 * 2 ^ 8 + 192 * 2 ^ 16),
   (3, 192 + 64 * 2 ^ 16 + 8 * 2 ^ 32 + 1024 * 2 ^ 48), (4, 6 + 16 * 2 ^ 4 + 2 ^ 10), (5, m.ports.toNat + 4096 * 2 ^ 16),
   (6, 1 + 2 ^ 8 + 2 ^ 16 + 2 ^ 24 + 2 ^ 32), (7, 15), (8, 3), (9, 64 + 24 * 2 ^ 8 + 64 * 2 ^ 16)]

/-- A byte of the capability list; past the last record it reads 0. -/
def capByte (m : Mach) (off : Nat) : Byte :=
  match (capRecords m)[off / 16]? with
  | some (id, data) =>
    let next := if off / 16 = 10 then 0 else 16
    let v := id + 2 ^ 16 + next * 2 ^ 32 + data * 2 ^ 64
    BitVec.ofNat 8 (v / 256 ^ (off % 16))
  | none => 0

/-! Where an access lands. -/

/-- The kinds of access whose permissions R280 and R395 tell apart; `bitWrite` is a copy mode that sets bits. -/
inductive Kind where
  | read | write | atomic | consume | fill | exec | bitWrite
  deriving DecidableEq, Repr

/-- A translated access: storage at a physical address, a place in the capability list, or a remote object (R378). -/
inductive Place where
  | store (key : Nat) (mtype : MType) (use : Option ObjUse)
  | cap (off : Nat)
  | remote (home : Nat) (mtype : MType)
  deriving DecidableEq, Repr

/-- Why a translation gives no place: a fault, a miss of a sub-tile (R383), or a hold while the sub-tile moves (R385). -/
inductive NoPlace where
  | fault (t : Trap)
  | miss (ctx h k : Nat)
  | held
  deriving DecidableEq, Repr

def trapOf (c : TrapClass) (a : W64) : NoPlace := .fault { cls := c, addr := a }

def Kind.writes : Kind → Bool
  | .read => false
  | .exec => false
  | _ => true

/-- Who translates: the core, its context, the manifest cache it looks in first (the die's for an agent of no cluster), whether at S, and whether for
the lighter (peer windows are the lighter's only, R32). -/
structure Asker where
  core : CoreId
  ctx : Nat
  site : CacheSite
  sup : Bool
  lighter : Bool
  deriving DecidableEq, Repr

def clusterOf (c : CoreId) : Nat := c.val / 8

/-- The cluster of a core. -/
def clusterFin (c : CoreId) : Fin 16 := ⟨c.val / 8, by omega⟩

/-- A window of 64 KiB granules holds the s bytes from b (R381). -/
def inWindow (base size b s : Nat) : Bool := decide (base * 65536 ≤ b) && decide (b + s ≤ (base + size) * 65536)

/-- The cores of the task that runs on a core, or the core itself when none does. -/
def taskCores (m : Mach) (c : CoreId) : List CoreId :=
  match m.cores[c].task with
  | none => [c]
  | some t => ((m.ferry.tasks.find? (·.id == t)).map (·.cores)).getD [c]

/-- A near access of s bytes (R31 to R33, R381). -/
def nearPlace (m : Mach) (w : Asker) (p : W64) (s : Nat) (kind : Kind) : Except NoPlace Place :=
  let o := ptrOff p
  let e := o + s
  let perm : Except NoPlace Place := .error (trapOf .perm p)
  let ok (key : Nat) : Except NoPlace Place := .ok (.store key .normal none)
  if e ≤ 0x100000 then ok (spmKey w.core o)
  else if 0x10000000 ≤ o ∧ e ≤ 0x10800000 then
    match m.ctxs[w.ctx]? with
    | some (some cx) => if inWindow cx.clmBase cx.clmSize (o - 0x10000000) s then ok (clmKey (clusterOf w.core) (o - 0x10000000)) else perm
    | _ => perm
  else if 0x20000000 ≤ o ∧ e ≤ 0x24000000 then
    match m.ctxs[w.ctx]? with
    | some (some cx) => if inWindow cx.dsmBase cx.dsmSize (o - 0x20000000) s then ok (dsmKey (o - 0x20000000)) else perm
    | _ => perm
  else if 0x30000000 ≤ o ∧ e ≤ 0x30800000 then
    let n := (o - 0x30000000) / 0x100000
    let off := (o - 0x30000000) % 0x100000
    if h : clusterOf w.core * 8 + n < 128 then
      let peer : CoreId := ⟨clusterOf w.core * 8 + n, h⟩
      if w.lighter && decide (off + s ≤ 0x100000) && (taskCores m w.core).contains peer && !m.withdrawn.getLsbD (clusterOf w.core) then
        ok (spmKey peer off)
      else perm
    else perm
  else if 0x3F000000 ≤ o ∧ e ≤ 0x3F001000 then
    if kind.writes then perm else .ok (.cap (o - 0x3F000000))
  else perm

/-! Object records (R371 to R374). -/

/-- An object record's fields. -/
structure ObjRec where
  attr : Nat
  rmap : Nat
  ext : List Nat
  stride : List Int
  ste : List Nat
  ver : W32
  home : Nat
  resvd : Bool
  deriving DecidableEq, Repr

def ObjRec.rank (r : ObjRec) : Nat := bits r.attr 53 51
def ObjRec.type (r : ObjRec) : Nat := bits r.attr 49 46
def ObjRec.tiled (r : ObjRec) : Bool := bit r.attr 50
def ObjRec.feEmpty (r : ObjRec) : Bool := bit r.attr 60

def mtypeOf (v : Nat) : MType :=
  match v with
  | 0 => .normal
  | 1 => .writeCombining
  | 2 => .device
  | _ => .stronglyOrdered

/-- The byte size of an element type (R373). -/
def esizeOf (t : Nat) : Nat :=
  match t with
  | 0 | 10 | 13 => 4
  | 1 | 2 | 9 | 12 => 2
  | _ => 1

def ObjRec.esize (r : ObjRec) : Nat := esizeOf r.type

/-- An extent as it counts in a product: 1 at and above the rank. -/
def ObjRec.extAt (r : ObjRec) (i : Nat) : Nat := if i < r.rank then r.ext.getD i 0 else 1
def ObjRec.tAt (r : ObjRec) (i : Nat) : Nat := if i < r.rank then 2 ^ r.ste.getD i 0 else 1
/-- The sub-tile grid (R373). -/
def ObjRec.grid (r : ObjRec) (i : Nat) : Nat := (r.extAt i + r.tAt i - 1) / r.tAt i
def ObjRec.tiles (r : ObjRec) : Nat := r.grid 0 * r.grid 1 * r.grid 2 * r.grid 3
def ObjRec.elems (r : ObjRec) : Nat := r.extAt 0 * r.extAt 1 * r.extAt 2 * r.extAt 3
/-- STSIZE (R373). -/
def ObjRec.stsize (r : ObjRec) : Nat := r.esize * (r.tAt 0 * r.tAt 1 * r.tAt 2 * r.tAt 3)
def ObjRec.strideAt (r : ObjRec) (i : Nat) : Int := r.stride.getD i 0

/-- A record from its 128 bytes (R371, R372). -/
def parseRec (bs : List Byte) : ObjRec :=
  let n (a k : Nat) : Nat := leNat ((bs.drop a).take k)
  { attr := n 0 8, rmap := n 8 8, ext := [n 16 4, n 20 4, n 24 4, n 28 4],
    stride := [sgn 64 (n 32 8), sgn 64 (n 40 8), sgn 64 (n 48 8), sgn 64 (n 56 8)],
    ste := [n 64 1, n 65 1, n 66 1, n 67 1], ver := BitVec.ofNat 32 (n 68 4), home := n 72 2 % 4096,
    resvd := (n 0 8 % 2 ^ 46 != 0) || (n 72 2 / 4096 != 0) || (n 74 22 != 0) }

/-- The least and greatest storage offset an element of a sub-tile has under the strides (R373, R375). -/
def ObjRec.span (r : ObjRec) : Int × Int :=
  let steps : List (Nat × Int) :=
    if r.tiled then [(r.tAt 0 / 64 - 1, r.strideAt 0), (r.tAt 1 / 16 - 1, r.strideAt 1), (r.tAt 2 - 1, r.strideAt 2), (r.tAt 3 - 1, r.strideAt 3)]
    else [(r.tAt 0 - 1, r.strideAt 0), (r.tAt 1 - 1, r.strideAt 1), (r.tAt 2 - 1, r.strideAt 2), (r.tAt 3 - 1, r.strideAt 3)]
  let lo := steps.foldl (fun a x => a + min 0 ((x.1 : Int) * x.2)) 0
  let hi := steps.foldl (fun a x => a + max 0 ((x.1 : Int) * x.2)) (if r.tiled then (1023 * r.esize : Nat) else 0)
  (lo, hi)

/-- An invalid record (R373), in a fabric group of the given size. -/
def ObjRec.invalid (r : ObjRec) (group : Nat) : Bool :=
  !bit r.attr 63 || r.rank == 0 || decide (4 < r.rank) || r.type == 7 || decide (13 < r.type) || r.resvd ||
  ((List.range 4).any fun i => decide (r.rank ≤ i) && (r.ext.getD i 0 != 0 || r.ste.getD i 0 != 0)) ||
  (r.ste.any fun s => decide (24 < s)) ||
  decide (r.stsize < 65536) || decide (16777216 < r.stsize) ||
  (r.tiled && (decide (r.rank < 2) || decide (r.ste.getD 0 0 < 6) || decide (r.ste.getD 1 0 < 4))) ||
  decide (r.span.1 < 0) || decide ((r.stsize : Int) - r.esize < r.span.2) ||
  r.rmap % 64 != 0 || decide (hbmEnd < r.rmap + 16 * r.tiles) || decide (group ≤ r.home)

/-- A cached copy of a record, and of an entry, that a cache holds. -/
def Cached.record? (site : CacheSite) (ctx h : Nat) (x : Cached) : Option (List Byte) :=
  match x with
  | .record s c h' bs => if s = site ∧ c = ctx ∧ h' = h then some bs else none
  | .entry .. => none
def Cached.entry? (site : CacheSite) (ctx h k : Nat) (x : Cached) : Option (W64 × W64) :=
  match x with
  | .entry s c h' k' w0 w1 => if s = site ∧ c = ctx ∧ h' = h ∧ k' = k then some (w0, w1) else none
  | .record .. => none

/-- What a lookup finds: in the cluster's cache, else in the die's, else in memory (R34, R379). -/
def cachedOr (m : Mach) (site : CacheSite) (at_ : CacheSite → Cached → Option α) (mem : α) : α :=
  ((m.mcache.findSome? (at_ site)).orElse fun _ => m.mcache.findSome? (at_ none)).getD mem

/-- The bytes of a record: a cached copy while there is one (R379), else memory. -/
def recBytes (m : Mach) (site : CacheSite) (ctx : Nat) (cx : Context) (h : Nat) : List Byte :=
  cachedOr m site (fun s => Cached.record? s ctx h) (memBytes m.mem (cx.otbase + 128 * h) 128)

/-- A residency-map entry: a cached copy while there is one, else memory (R379, R380). -/
def mapEntry (m : Mach) (site : CacheSite) (ctx h k : Nat) (r : ObjRec) : W64 × W64 :=
  cachedOr m site (fun s => Cached.entry? s ctx h k) (mem64 m.mem (r.rmap + 16 * k), mem64 m.mem (r.rmap + 16 * k + 8))

def entryRes (w0 : W64) : Bool := w0.getLsbD 63
def entryBusy (w0 : W64) : Bool := w0.getLsbD 61
def entrySlot (w0 : W64) : Nat := w0.toNat % 2 ^ 40

/-- The record of a handle of a context (R376): none above OTLEN, and records 0 and 0xFFFFFF are never read as objects. -/
def objRec? (m : Mach) (site : CacheSite) (ctx h : Nat) : Option ObjRec :=
  match m.ctxs[ctx]? with
  | some (some cx) => if h < cx.otlen ∧ h ≠ 0 ∧ h ≠ physHandle then some (parseRec (recBytes m site ctx cx h)) else none
  | _ => none

/-- Locate of R375: the sub-tile and the storage offset of byte o of the byte image. -/
def ObjRec.locate (r : ObjRec) (o : Nat) : Nat × Int :=
  let e := o / r.esize
  let b := o % r.esize
  let c0 := e % r.extAt 0
  let c1 := e / r.extAt 0 % r.extAt 1
  let c2 := e / (r.extAt 0 * r.extAt 1) % r.extAt 2
  let c3 := e / (r.extAt 0 * r.extAt 1 * r.extAt 2) % r.extAt 3
  let t (c i : Nat) : Nat := c / r.tAt i
  let w (c i : Nat) : Nat := c % r.tAt i
  let k := t c0 0 + r.grid 0 * (t c1 1 + r.grid 1 * (t c2 2 + r.grid 2 * t c3 3))
  let so : Int :=
    if r.tiled then
      ((w c0 0 / 64 : Nat) : Int) * r.strideAt 0 + ((w c1 1 / 16 : Nat) : Int) * r.strideAt 1 + (w c2 2 : Int) * r.strideAt 2 + (w c3 3 : Int) * r.strideAt 3
        + ((64 * (w c1 1 % 16) + w c0 0 % 64) * r.esize : Nat)
    else (w c0 0 : Int) * r.strideAt 0 + (w c1 1 : Int) * r.strideAt 1 + (w c2 2 : Int) * r.strideAt 2 + (w c3 3 : Int) * r.strideAt 3
  (k, so + b)

/-- The permissions an access needs (R280, R372, R395). -/
def permOk (attr : Nat) (kind : Kind) : Bool :=
  match kind with
  | .read => bit attr 54
  | .write => bit attr 55
  | .atomic => bit attr 58
  | .consume => bit attr 54 && bit attr 56
  | .fill => bit attr 55 && bit attr 56
  | .exec => bit attr 54 && bit attr 57
  | .bitWrite => bit attr 55 && bit attr 56

/-- Every further element of an access lies in the same sub-tile at consecutive storage offsets (R375). -/
def runOk (r : ObjRec) (o s k : Nat) (so : Int) : Bool :=
  (List.range (s / r.esize)).all fun j =>
    let o2 := (o / r.esize + 1 + j) * r.esize
    if o2 < o + s then
      let (k2, so2) := r.locate o2
      k2 == k && so2 == so + ((o2 - o : Nat) : Int)
    else true

/-- Translation of a nonzero handle (R375, R377, R378): checks 5 and 6 of R279. -/
def objPlace (m : Mach) (w : Asker) (p : W64) (s : Nat) (kind : Kind) : Except NoPlace Place :=
  let h := ptrHandle p
  let o := ptrOff p
  if h = physHandle then
    if !w.sup || decide (hbmEnd < o + s) then .error (trapOf .perm p) else .ok (.store o .normal none)
  else
    match objRec? m w.site w.ctx h with
    | none => .error (trapOf .perm p)
    | some r =>
      if r.invalid m.group then .error (trapOf .perm p)
      else if r.home ≠ m.pkg.toNat then
        if permOk r.attr kind then .ok (.remote r.home (mtypeOf (bits r.attr 62 61))) else .error (trapOf .perm p)
      else if r.esize * r.elems < o + s then .error (trapOf .shape p)
      else
        let (k, so) := r.locate o
        if !runOk r o s k so || so.toNat % s != 0 then .error (trapOf .shape p)
        else
          let (w0, _) := mapEntry m w.site w.ctx h k r
          if !entryRes w0 then .error (.miss w.ctx h k)
          else if !permOk r.attr kind then .error (trapOf .perm p)
          else if kind.writes && m.holds.any (fun x => x.ctx == w.ctx && x.h == h && x.k == k) then .error .held
          else .ok (.store (entrySlot w0 + so.toNat) (mtypeOf (bits r.attr 62 61)) (some { ctx := w.ctx, h := h, k := k, ver := r.ver }))

/-- Checks 4 to 6 of R279 on an access of s bytes. -/
def place (m : Mach) (w : Asker) (p : W64) (s : Nat) (kind : Kind) : Except NoPlace Place :=
  if ptrHandle p = 0 then nearPlace m w p s kind else objPlace m w p s kind

/-- Checks 3 to 7 of R279: alignment, the place, and the poison mark, which an 8-byte store passes (R282). -/
def checked (m : Mach) (w : Asker) (p : W64) (s : Nat) (kind : Kind) : Except NoPlace Place :=
  if ptrOff p % s ≠ 0 then .error (trapOf .align p)
  else
    match place m w p s kind with
    | .error e => .error e
    | .ok pl =>
      match pl with
      | .store key _ _ =>
        if memPoisoned m.mem (locOf key) && !((kind == .write || kind == .fill) && s == 8) then .error (trapOf .poison p) else .ok pl
      | _ => .ok pl

/-- The byte offset of an object pointer moved by a signed amount; a result outside 0 to 2^40 - 1 is PERM at the pointer
(R279, R299). -/
def ptrAdd (p : W64) (d : Int) : Except NoPlace W64 :=
  let o : Int := (ptrOff p : Int) + d
  if o < 0 ∨ (2 ^ 40 : Int) ≤ o then .error (trapOf .perm p) else .ok (mkPtr (ptrHandle p) o.toNat)

end Sys2Proof.Machine
end

