-- ==== Sys2Proof/Machine/Ops.lean ====
section
/-! DEFINITION. The shared operations: registers, program counters, traps and the return from one, queues, semaphores,
waits, and a strand's loads and stores. -/

namespace Sys2Proof.Machine

/-! Codes. -/

/-- The code of a trap class (R403). -/
def TrapClass.code : TrapClass → BitVec 4
  | .illegal => 1
  | .priv => 2
  | .align => 3
  | .objMiss => 4
  | .shape => 5
  | .perm => 6
  | .poison => 7
  | .allocExh => 8
  | .feExpire => 9
  | .watchdog => 10
  | .integrity => 11
  | .fabric => 12
  | .replayDiv => 13
  | .brk => 14

/-- The class of a code; 0 and 15 name none (R403). -/
def classOf? (c : BitVec 4) : Option TrapClass :=
  match c.toNat with
  | 1 => some .illegal
  | 2 => some .priv
  | 3 => some .align
  | 4 => some .objMiss
  | 5 => some .shape
  | 6 => some .perm
  | 7 => some .poison
  | 8 => some .allocExh
  | 9 => some .feExpire
  | 10 => some .watchdog
  | 11 => some .integrity
  | 12 => some .fabric
  | 13 => some .replayDiv
  | 14 => some .brk
  | _ => none

/-- The class a poison tag names; a nonzero tag is always a class's code (R72). -/
def tagClass (t : BitVec 4) : TrapClass := (classOf? t).getD .poison

def strandNo (s : Strand) : Nat :=
  match s with
  | .control => 0
  | .vector => 1
  | .matrixA => 2
  | .matrixB => 3
  | .copy => 4

/-! Updates of one part of the state. -/

def State.core (s : State) (c : CoreId) : Core := s.mach.cores[c]
def State.onMach (s : State) (f : Mach → Mach) : State := { s with mach := f s.mach }
def Mach.onCore (m : Mach) (c : CoreId) (f : Core → Core) : Mach := { m with cores := m.cores.set c (f m.cores[c]) }
def Mach.onCtl (m : Mach) (c : CoreId) (f : Ctl → Ctl) : Mach := m.onCore c fun k => { k with ctl := f k.ctl }
def Mach.onVec (m : Mach) (c : CoreId) (f : Vec → Vec) : Mach := m.onCore c fun k => { k with vec := f k.vec }
def State.onCore (s : State) (c : CoreId) (f : Core → Core) : State := s.onMach fun m => m.onCore c f
def State.onCtl (s : State) (c : CoreId) (f : Ctl → Ctl) : State := s.onMach fun m => m.onCtl c f
def State.onVec (s : State) (c : CoreId) (f : Vec → Vec) : State := s.onMach fun m => m.onVec c f

/-- The control strand a fetched control instruction runs on. -/
def State.ctl (s : State) : Ctl := (s.core s.cur.core).ctl

/-! General registers (R69, R45). -/

def Ctl.setX (k : Ctl) (r : Fin 31) (v : XVal) : Ctl := { k with x := k.x.set r v }

/-- A write to a destination field: 31 discards the result (R45). -/
def Ctl.write (k : Ctl) (d : Dst) (v : XVal) : Ctl :=
  match d with
  | .x r => k.setX r v
  | .none => k

def clean (v : W64) : XVal := { val := v, tag := 0 }

/-- A source: a register with its tag, or a literal, which is always clean (R45, R73). -/
def Ctl.src (k : Ctl) (v : Src) : XVal :=
  match v with
  | .x r => k.x[r]
  | .lit32 w => clean (w.signExtend 64)
  | .lit64 w => clean w

def Ctl.setK (k : Ctl) (i : Fin 8) (b : Bool) : Ctl := { k with k := k.k.set i b }

/-- The exchange of X24 to X30 with their shadows, values and tags (R104, R105, R410). -/
def Ctl.exchange (k : Ctl) : Ctl :=
  { k with
    x := Vector.ofFn fun i : Fin 31 => if h : 24 ≤ i.val then k.sx[i.val - 24]'(by omega) else k.x[i]
    sx := Vector.ofFn fun i : Fin 7 => k.x[i.val + 24]'(by omega) }

/-! The program counter: an 18-bit word index (bits [19:2]). -/

/-- Literal words after the header, from the source fields (R45). -/
def litWords : List Src → Nat
  | [] => 0
  | .x _ :: r => litWords r
  | .lit32 _ :: _ => 1
  | .lit64 _ :: _ => 2

/-- The byte address of a word index. -/
def pcAddr (pc : BitVec 18) : W64 := BitVec.ofNat 64 (4 * pc.toNat)

/-- The PERM of a program counter that leaves SPM (R42). -/
def pastSpm : Trap := { cls := .perm, addr := 0x100000 }

/-! The mooring list (R268, R337, R387): buckets and entries stand in device memory. -/

/-- The first of the numbers 1 to n, in order from a start, that is not in use. -/
def freshFrom (used : List Nat) (n : Nat) : Nat → Nat → Nat
  | 0, start => start % n + 1
  | fuel + 1, start => if used.contains (start % n + 1) then freshFrom used n fuel (start + 1) else start % n + 1

/-- The key word of the location at a pointer, for a core's strand (R387): an object location by its pointer; a near one by its address and
the core that owns the SPM, 8 times the cluster of a CLM, or 0. -/
def moorKey (c : CoreId) (p : W64) : W64 :=
  let o := ptrOff p - ptrOff p % 8
  if ptrHandle p = 0 then
    BitVec.ofNat 64 (o % 2 ^ 32 + (if o < 0x100000 then c.val else if o < 0x20000000 then 8 * clusterOf c else 0) * 2 ^ 32)
  else mkPtr (ptrHandle p) o

/-- The bucket of a key (R387). -/
def bucketOf (key : W64) : Nat :=
  ((if ptrHandle key = 0 then key.toNat % 2 ^ 39 else ptrOff key) / 8 + 977 * ptrHandle key) % 4096

def Context.bucketAt (x : Context) (b : Nat) : Nat := x.mlbase + 8 * b
def Context.entryAt (x : Context) (idx : Nat) : Nat := x.mlbase + 32768 + 16 * idx
/-- The list stands in HBM: only there is it written. -/
def Context.listFits (x : Context) : Bool := decide (x.mlbase + 32768 + 16 * x.pool ≤ hbmEnd)

/-- No entry. -/
def noEntry : Nat := 0xFFFF

/-- A bucket's word: HEAD and TAIL. -/
def bucketWord (head tail : Nat) : W64 := BitVec.ofNat 64 (head + tail * 2 ^ 16)

/-- Word 1 of an entry. -/
def Mooring.word1 (e : Mooring) (next : Nat) : W64 :=
  BitVec.ofNat 64 (next + b2n e.wantEmpty * 2 ^ 41 + strandNo e.strand * 2 ^ 42 + e.core.val * 2 ^ 45 + e.pkg.toNat * 2 ^ 52)

/-- The index an entry links to. -/
def nextOf (m : Mem) (x : Context) (idx : Nat) : Nat := (mem64 m (x.entryAt idx + 8)).toNat % 2 ^ 16

/-- An entry's link replaced. -/
def setNext (m : Mem) (x : Context) (idx next : Nat) : Mem := memSetBytes m (x.entryAt idx + 8) (leBytes next 2)

/-- The entries of a bucket in the order of their links. -/
def chainOf (m : Mem) (x : Context) : Nat → Nat → List Nat
  | 0, _ => []
  | fuel + 1, i => if x.pool ≤ i then [] else i :: chainOf m x fuel (nextOf m x i)

/-- The list of a context with every bucket empty, as MLCFG and the context's creation leave it. -/
def Context.emptyList (x : Context) (m : Mem) : Mem :=
  if x.listFits then memSetBytes m x.mlbase ((List.range 4096).flatMap fun _ => leBytes (bucketWord noEntry noEntry).toNat 8) else m

/-- A new entry linked at TAIL; `first` says that its bucket is empty. -/
def linkEntry (m : Mem) (x : Context) (e : Mooring) (first : Bool) : Mem :=
  let at_ := x.bucketAt (bucketOf e.key)
  let w := (mem64 m at_).toNat
  let m1 := memSet64 (memSet64 m (x.entryAt e.idx) e.key) (x.entryAt e.idx + 8) (e.word1 noEntry)
  if first then memSet64 m1 at_ (bucketWord e.idx e.idx)
  else memSet64 (setNext m1 x (w / 2 ^ 16 % 2 ^ 16) e.idx) at_ (bucketWord (w % 2 ^ 16) e.idx)

/-- An entry taken out of its bucket. -/
def unlinkEntry (m : Mem) (x : Context) (e : Mooring) : Mem :=
  let at_ := x.bucketAt (bucketOf e.key)
  let w := (mem64 m at_).toNat
  let chain := chainOf m x x.pool (w % 2 ^ 16)
  let i := chain.idxOf e.idx
  if chain.length ≤ i then m
  else
    let next := nextOf m x e.idx
    let last := chain.length = i + 1
    let tail := if last then (if i = 0 then noEntry else chain.getD (i - 1) noEntry) else w / 2 ^ 16 % 2 ^ 16
    if i = 0 then memSet64 m at_ (bucketWord (if last then noEntry else next) tail)
    else memSet64 (setNext m x (chain.getD (i - 1) 0) (if last then noEntry else next)) at_ (bucketWord (w % 2 ^ 16) tail)

/-- A live context. -/
def Mach.ctx? (m : Mach) (ctx : Nat) : Option Context := (m.ctxs[ctx]?).getD none

/-- Entries that leave their lists. -/
def Mach.unmoor (m : Mach) (gone : Mooring → Bool) : Mach :=
  { m with
    mem := (m.moorings.filter gone).foldl (fun mem e => match m.ctx? e.ctx with | some x => unlinkEntry mem x e | none => mem) m.mem
    moorings := m.moorings.filter fun e => !gone e }

/-- A byte of device memory in which the device keeps a live context's mooring list. -/
def Mach.inList (m : Mach) (a : Nat) : Bool :=
  m.ctxs.toList.any fun x => match x with | some x => decide (x.mlbase ≤ a) && decide (a < x.mlbase + 32768 + 16 * x.pool) | none => false

/-- The location a key names now: an object location is translated afresh, since entries are keyed by identity. -/
def Mach.resolveKey (m : Mach) (ctx : Nat) (key : W64) : Option Nat :=
  let h := ptrHandle key
  let o := ptrOff key
  if h = 0 then
    let a := key.toNat % 2 ^ 32
    let n := key.toNat / 2 ^ 32 % 128
    some (if a < 0x100000 then spmKey (Fin.ofNat 128 n) a else if a < 0x20000000 then clmKey (n / 8) (a - 0x10000000) else dsmKey (a - 0x20000000))
  else if h = physHandle then some o
  else
    match objRec? m none ctx h with
    | none => none
    | some r =>
      let (k, so) := r.locate o
      let (w0, _) := mapEntry m none ctx h k r
      if entryRes w0 then some (locOf (entrySlot w0 + so.toNat)) else none

def strandOf (n : Nat) : Strand :=
  match n with
  | 0 => .control
  | 1 => .vector
  | 2 => .matrixA
  | 3 => .matrixB
  | _ => .copy

/-- An entry as device memory holds it. -/
def readEntry (m : Mem) (x : Context) (ctx idx : Nat) : Mooring :=
  let w := (mem64 m (x.entryAt idx + 8)).toNat
  { pkg := BitVec.ofNat 12 (w / 2 ^ 52), ctx := ctx, key := mem64 m (x.entryAt idx), core := Fin.ofNat 128 (w / 2 ^ 45 % 128), strand := strandOf (w / 2 ^ 42 % 8),
    wantEmpty := bit w 41, idx := idx }

/-- The buckets in use, by context, in mooring order of their first entries. -/
def Mach.usedBuckets (m : Mach) : List (Nat × Nat) := (m.moorings.map fun e => (e.ctx, bucketOf e.key)).eraseDups

/-- The entries of the lists, as device memory holds them: those of the buckets in use. -/
def Mach.listEntries (m : Mach) : List Mooring :=
  m.usedBuckets.flatMap fun b =>
    match m.ctx? b.1 with
    | none => []
    | some x => (chainOf m.mem x x.pool ((mem64 m.mem (x.bucketAt b.2)).toNat % 2 ^ 16)).map (readEntry m.mem x b.1)

/-! Withdrawals (R86, R174, R288, R333). -/

/-- Remote accesses numbered from here on are those of `vqrd` images; below, a lane of the instruction that runs. -/
def imageLane : Nat := 2 ^ 20

/-- What an instruction that retires leaves behind of its wait: its record, its place among semaphore waiters, and its answered remote
accesses. -/
def Mach.endWait (m : Mach) (c : CoreId) (t : Strand) : Mach :=
  let m1 := m.onCore c fun k => { k with smw := k.smw.map fun l => l.filter fun w => w.strand != t }
  let m2 := { m1 with remotes := m1.remotes.filter fun r => !(r.core == c && r.strand == t && decide (r.lane < imageLane)) }
  match t with
  | .control => m2.onCtl c fun k => { k with wait := none }
  | .vector => m2.onVec c fun v => { v with wait := none, issued := false }
  | _ => m2

/-- A withdrawn wait: besides, its mooring entry, its barrier arrival and its place in a sampler's queue are taken back, and a load
performed early is forgotten (R86, R250, R288, R333). -/
def Mach.withdraw (m : Mach) (c : CoreId) (t : Strand) : Mach :=
  let m1 := (m.unmoor fun e => e.pkg == m.pkg && e.core == c && e.strand == t).endWait c t
  match t with
  | .control =>
    { m1 with
      barriers := m1.barriers.map fun b => { b with arrived := b.arrived.filter (· != c) }
      samp := { m1.samp with units := m1.samp.units.map fun (x : Sampler) => { x with binds := x.binds.filter fun b => b.core != c } }
      early := m1.early.filter fun e => e.core != c }
  | _ => m1

/-- A vector strand's blocked instruction is abandoned by a trap elsewhere in its context, unless a message of it is out: it is executed again
with a fresh budget (R174, R338). -/
def Mach.abandonVec (m : Mach) (d : CoreId) : Mach :=
  if m.cores[d].vec.issued && !(m.remotes.any fun r => r.core == d && r.strand == .vector && decide (r.lane < imageLane)) then m.withdraw d .vector else m

/-- A trap taken in a context: the vector strands of the context that wait. -/
def Mach.trapIn (m : Mach) (c : CoreId) : Mach :=
  (List.finRange 128).foldl (fun m d => if m.cores[d].ctl.ctxid = m.cores[c].ctl.ctxid then m.abandonVec d else m) m

/-! Traps (R403 to R411). -/

/-- What a task's end by a trap does to a core: its strands stop as for a kill (R408, R328). -/
def Core.halt (k : Core) : Core :=
  { k with stop := true, ctl := { k.ctl with status := (match k.ctl.status with | .running => .stopped | x => x), wait := none, held := [], pending := [] } }

/-- The task that runs on a core ends with KIND 01 and a class (R408): its strands stop, and it retires once they have
(R328). A core without a task stops alone. -/
def Mach.endByTrap (m : Mach) (c : CoreId) (cls : BitVec 4) : Mach :=
  let m0 := m.withdraw c .control
  match m0.cores[c].task with
  | none => m0.onCore c Core.halt
  | some t =>
    let cores := taskCores m0 c
    let m1 := cores.foldl (fun m d => (m.withdraw d .control).onCore d Core.halt) m0
    { m1 with ferry := { m1.ferry with tasks := m1.ferry.tasks.map fun x =>
        if x.id = t then { x with state := .killing, kind := 1, cls := cls } else x } }

/-- Entry to the supervisor (R407). -/
def Ctl.enterS (k : Ctl) (epc npc : BitVec 18) (src : BitVec 3) (async : Bool) (t : Trap) : Ctl :=
  { k with sepc := epc, snpc := npc, causeSrc := src, causeAsync := async, causeClass := t.cls.code, sfaddr := t.addr,
           sup := true, pc := k.stvec }

/-- The reflection of a trap to task code (R410): the exchange, then X29 := CLASS and X30 := fault address, both clean. -/
def Ctl.reflect (k : Ctl) (t : Trap) : Ctl :=
  let k1 := k.exchange
  { k1 with x := (k1.x.set 29 (clean (t.cls.code.setWidth 64))).set 30 (clean t.addr), uiEpc := k.pc, uiActive := true, pc := k.treflAddr }

/-- A trap reflects (R410): at U, outside a handler, its class's bit set. -/
def Ctl.reflects (k : Ctl) (t : Trap) : Bool := !k.sup && !k.uiActive && k.treflMask.getLsbD t.cls.code.toNat

/-- The bell rings on a source (R428): 0 `snap`, 1 a trap, 2 the pin, 3 a message. Only an armed bell and an enabled source ring;
a ring from any source but a message is forwarded with FWD. -/
def Mach.ring (m : Mach) (source : Nat) (tag : W32) (cls : BitVec 4) (core : Nat) : Mach :=
  let b := m.bell
  let en := match source with | 0 => b.srcSnap | 1 => b.srcTrap | 2 => b.srcPin | _ => b.srcFab
  if b.arm && en then
    { m with bell := { b with arm := false, rung := true, rings := b.rings ++ [(m.scyc + 32, source, tag, cls, core)],
                              sent := if b.fwd && source != 3 then b.sent + (m.group - 1) else b.sent } }
  else m

/-- A vector strand that an OBJ_MISS stopped runs on: the pager serves the miss and no trap is raised (R409). -/
def Mach.unstopMiss (m : Mach) (c : CoreId) : Mach :=
  let k := m.cores[c].ctl
  if k.vstatStopped && k.vstatClass == TrapClass.objMiss.code then
    (m.onVec c fun v => { v with status := .running }).onCtl c fun k => { k with vstatStopped := false }
  else m

/-- What was pending when the strand enters S (R409): an OBJ_MISS is left to the firmware pager, so that its access goes on without a trap, any
other trap is held in its order, and a seventeenth ends the task with its class. -/
def Mach.holdPending (m : Mach) (c : CoreId) : Mach :=
  let k := m.cores[c].ctl
  let missed := k.pending.filterMap (·.miss)
  let held := k.held ++ k.pending.filter fun a => a.trap.cls != .objMiss
  let m0 := if k.pending.any fun a => a.src == 1 && a.trap.cls == .objMiss then m.unstopMiss c else m
  let m1 := { m0 with misses := m0.misses.map fun (x : Miss) => if x.core = some c ∧ missed.contains (x.h, x.k) then { x with core := none } else x }
  match held[16]? with
  | some a => (m1.onCtl c fun k => { k with pending := [] }).endByTrap c a.trap.cls.code
  | none => m1.onCtl c fun k => { k with pending := [], held := held }

/-- Taking a synchronous trap of the control strand (R407, R408, R410): `npc` is the address after the instruction. A trap at
S, or one due for S with no supervisor installed, ends the task; the latter rings no bell (R428). The trapped instruction's wait
is withdrawn, and the vector strands of the context that wait start again (R174). -/
def Mach.takeTrap (m : Mach) (c : CoreId) (npc : BitVec 18) (t : Trap) : Mach :=
  let k := m.cores[c].ctl
  let rung := m.ring 1 0 t.cls.code c.val
  if k.reflects t then ((rung.withdraw c .control).trapIn c).onCtl c fun k => k.reflect t
  else if k.sup then rung.endByTrap c t.cls.code
  else if !k.stvecEn then m.endByTrap c t.cls.code
  else (((rung.withdraw c .control).trapIn c).onCtl c fun k => k.enterS k.pc npc 0 false t).holdPending c

/-- The miss register names the missed sub-tile (R383, R392). -/
def missWord (h k : Nat) : W64 := BitVec.ofNat 64 (h * 2 ^ 40 + k % 2 ^ 32)

/-- A miss of the control strand's own access (R383): a new miss traps OBJ_MISS precisely at U; one already outstanding is
joined, and a miss at S, or with the table full, holds the access. -/
def Mach.missControl (m : Mach) (c : CoreId) (npc : BitVec 18) (ctx h k : Nat) (ea : W64) : Mach :=
  if m.misses.any fun x => x.ctx == ctx && x.h == h && x.k == k then m
  else if 256 ≤ m.misses.length then m
  else
    let sup := m.cores[c].ctl.sup
    let m1 := { m with misses := m.misses ++ [{ ctx := ctx, h := h, k := k, core := if sup then none else some c }] }
    if sup then m1
    else (m1.onCtl c fun k' => { k' with miss := missWord h k }).takeTrap c npc { cls := .objMiss, addr := ea }

/-- An asynchronous trap arrives at a core's control strand (R405, R409): at U it waits for a boundary; at S an OBJ_MISS is
served by the firmware pager, any other is held, and a seventeenth held trap ends the task with its class. -/
def Mach.raiseAsync (m : Mach) (c : CoreId) (a : AsyncTrap) : Mach :=
  let k := m.cores[c].ctl
  if !k.sup then m.onCtl c fun k => { k with pending := k.pending ++ [a] }
  else if a.trap.cls = .objMiss then m
  else if 16 ≤ k.held.length then m.endByTrap c a.trap.cls.code
  else m.onCtl c fun k => { k with held := k.held ++ [a] }

/-- The delivery of an asynchronous trap at a boundary (R405, R407): a blocked instruction is abandoned. -/
def Mach.deliverAsync (m : Mach) (c : CoreId) (a : AsyncTrap) : Mach :=
  if !m.cores[c].ctl.stvecEn then m.endByTrap c a.trap.cls.code
  else
    ((((m.ring 1 0 a.trap.cls.code c.val).withdraw c .control).trapIn c).onCtl c fun k =>
      { (k.enterS k.pc k.pc a.src true a.trap) with
        miss := (match a.miss with | some (h, i) => missWord h i | none => k.miss) }).holdPending c

/-- The return from the supervisor (R413): mode 0 to SEPC, mode 1 to SNPC. Held traps wait for the boundary reached (R409). -/
def Ctl.returnS (k : Ctl) (next : Bool) : Ctl :=
  { k with sup := false, pc := if next then k.snpc else k.sepc, pending := k.pending ++ k.held, held := [] }

/-- A completion event arrives (R103): the queue is 16 deep, and an event past that is dropped. -/
def Ctl.pushEvent (k : Ctl) (e : UEvent) : Ctl :=
  if 16 ≤ k.events.length then { k with uiOvf := true } else { k with events := k.events ++ [e] }

/-- The delivery of a pending event at a boundary (R104). -/
def Ctl.deliverEvent (k : Ctl) (e : UEvent) (rest : List UEvent) : Ctl :=
  let k1 := k.exchange
  { k1 with events := rest, uiCause := e, uiEpc := k.pc, uiActive := true, pc := k.uiVec }

/-- How a control instruction goes on: a next machine, a trap, a trap after its message is answered (the answer is used up), a miss, or no
progress this time. -/
inductive Run where
  | done (m : Mach)
  | trap (t : Trap)
  | trapFrom (m : Mach) (t : Trap)
  | miss (ctx h k : Nat) (ea : W64)
  | stay (m : Mach)

/-- A control instruction of the strand that runs: its trap is precise, at the state before it (R404); `words` are its words. -/
def State.control (s : State) (words : Nat) (f : Mach → Run) : Host.Outcome State Fault Refusal :=
  let c := s.cur.core
  let npc := s.ctl.pc + BitVec.ofNat 18 words
  match f s.mach with
  | .done m => .next { s with mach := m }
  | .stay m => .next { s with mach := m }
  | .trap t => .next { s with mach := s.mach.takeTrap c npc t }
  | .trapFrom m t => .next { s with mach := m.takeTrap c npc t }
  | .miss ctx h k ea => .next { s with mach := s.mach.missControl c npc ctx h k ea }

/-- The end of an instruction that goes on to the next: the program counter advances past its words, and a counter that would
leave SPM traps PERM precisely at the instruction (R42). Its wait is over. -/
def Mach.advance (m : Mach) (c : CoreId) (words : Nat) : Run :=
  let k := m.cores[c].ctl
  if 2 ^ 18 ≤ k.pc.toNat + words then .trap pastSpm
  else .done (m.onCtl c fun k => { k with pc := k.pc + BitVec.ofNat 18 words, wait := none })

/-- A propagating or plain register instruction: the new control strand, then the advance. -/
def State.ctlStep (s : State) (words : Nat) (f : Ctl → Except Trap Ctl) : Host.Outcome State Fault Refusal :=
  s.control words fun m =>
    match f m.cores[s.cur.core].ctl with
    | .ok k => (m.onCtl s.cur.core fun _ => k).advance s.cur.core words
    | .error t => .trap t

/-- The first poisoned value traps with its tag's class and its value as fault address (R74). -/
def needClean : List XVal → Except Trap Unit
  | [] => .ok ()
  | v :: r => if v.tag = 0 then needClean r else .error { cls := tagClass v.tag, addr := v.val }

/-! Waits (R86, R338). -/

/-- The running wait has reached its budget. -/
def Wait.expired (w : Wait) (now : Nat) : Bool := decide (w.start + w.budget ≤ now)

/-- A wait that begins now under a strand's budgets (R81). -/
def Mach.newWait (m : Mach) (c : CoreId) (t : Strand) (ea : W64) (words : Nat) (expiry : Expiry) (fe : Bool) : Wait :=
  let k := m.cores[c].ctl
  let i := strandNo t
  { start := m.scyc, budget := (k.mbud.toList.getD i 0).toNat, ea := ea, words := words, expiry := expiry, fe := fe, limit := (k.rbud.toList.getD i 0).toNat, retries := 0, last := m.scyc,
    moored := false, woken := false, full := false }

/-- The trap of a wait that expires. -/
def Wait.trap (w : Wait) : Trap := { cls := (match w.expiry with | .replay => .replayDiv | _ => .feExpire), addr := w.ea }

/-- A blocked control instruction: it begins to wait, waits on, or traps at its budget with nothing performed (R86). -/
def Mach.blockOn (m : Mach) (c : CoreId) (fresh : Wait) : Run :=
  match m.cores[c].ctl.wait with
  | none => .stay (m.onCtl c fun k => { k with wait := some fresh })
  | some w => if w.expired m.scyc then .trap w.trap else .stay m

/-- A blocked queue, semaphore, mutex, barrier or allocator instruction. -/
def Mach.blockCtl (m : Mach) (c : CoreId) (words : Nat) : Run := m.blockOn c (m.newWait c .control 0 words .trap false)

/-! Queues (R84, R85). -/

/-- A storage location belongs to a watched object of a context whose mode is on (R426). -/
def Mach.watched (m : Mach) (ctx : Nat) (key : Nat) : Bool :=
  match m.replays[ctx]? with
  | none => false
  | some r => r.mode != 0 && r.watched.any fun h =>
    match objRec? m none ctx h with
    | none => false
    | some o => (List.range o.tiles).any fun k =>
      let (w0, _) := mapEntry m none ctx h k o
      entryRes w0 && decide (entrySlot w0 ≤ key) && decide (key < entrySlot w0 + o.stsize)

/-- A change of watched locations by something other than a logged atomic sets UNLOG (R426). -/
def Mach.unlogged (m : Mach) (keys : List Nat) : Vector Replay 64 :=
  Vector.ofFn fun i : Fin 64 =>
    let r := m.replays[i]
    if keys.any fun key => m.watched i.val key then { r with unlog := true } else r

def Mach.unlogAt (m : Mach) (key : Nat) : Mach := { m with replays := m.unlogged [key] }

/-- Stores performed, in order: they change memory, and UNLOG where they change a watched location (R257, R426). -/
def Mach.performAll (m : Mach) (now : List PendStore) (pend : List Pend) : Mach :=
  { m with mem := now.foldl (fun mem p => p.perform mem) m.mem, replays := m.unlogged (now.map (·.addr)), pend := pend }

/-- Every store of a strand performed: what a release requires of its own strand (R262, R264). -/
def Mach.flushAll (m : Mach) (c : CoreId) (t : Strand) : Mach :=
  let own : List PendStore := m.pend.filterMap fun
    | .store p => if p.of c t then some p else none
    | _ => none
  m.performAll own (m.pend.filter fun p =>
    match p with
    | .store p => !p.of c t
    | .fence c' t' _ => !(c' == c && t' == t)
    | .load .. => true)

def Mach.pushQ (m : Mach) (c : CoreId) (q : Fin 8) (v : W64) : Mach := m.onCore c fun k => { k with q := k.q.set q (k.q[q] ++ [v]) }
def Mach.popQ (m : Mach) (c : CoreId) (q : Fin 8) (rest : List W64) : Mach := m.onCore c fun k => { k with q := k.q.set q rest }

/-! Semaphores (R330, R331). -/

/-- The waiters of a semaphore examined once in arrival order against a value: each whose condition holds is released, and a
step's release subtracts 1 (R331). -/
def releaseWaiters : Nat → List SemWaiter → Nat × List SemWaiter
  | v, [] => (v, [])
  | v, w :: r =>
    if w.released.isNone ∧ w.need.toNat ≤ v then
      let v' := if w.take then v - 1 else v
      let (v2, r2) := releaseWaiters v' r
      (v2, { w with released := some (BitVec.ofNat 32 v) } :: r2)
    else
      let (v2, r2) := releaseWaiters v r
      (v2, w :: r2)

/-- An add to a semaphore with its clamp, and the releases it causes as one update (R330, R331). -/
def Core.semAdd (k : Core) (n : Fin 15) (d : Int) : Core :=
  let sum := ((k.sm[n].toNat : Int) + d)
  let v := if sum < 0 then 0 else if (2 ^ 32 - 1 : Int) < sum then 2 ^ 32 - 1 else sum.toNat
  let (v2, w2) := releaseWaiters v k.smw[n]
  { k with sm := k.sm.set n (BitVec.ofNat 32 v2), smw := k.smw.set n w2 }

/-- The add clamps (R330). -/
def Core.semClamps (k : Core) (n : Fin 15) (d : Int) : Bool :=
  let sum := ((k.sm[n].toNat : Int) + d)
  decide (sum < 0) || decide ((2 ^ 32 - 1 : Int) < sum)

/-- A step's raise field: 15 raises nothing (R56). -/
def Core.raise (k : Core) (rs : BitVec 4) : Core :=
  if h : rs.toNat < 15 then k.semAdd ⟨rs.toNat, h⟩ 1 else k

/-! A wait on a semaphore by a strand: passed with the value found, or waiting. -/

def Core.semWaiter? (k : Core) (n : Fin 15) (t : Strand) : Option SemWaiter := k.smw[n].find? (·.strand == t)

def Core.dropWaiter (k : Core) (n : Fin 15) (t : Strand) : Core :=
  { k with smw := k.smw.set n (k.smw[n].filter fun w => w.strand != t) }

/-- The value a wait found when its condition holds: at arrival, or as a later change released it. -/
def Core.semPassed (k : Core) (n : Fin 15) (t : Strand) (need : W32) : Option W32 :=
  match k.semWaiter? n t with
  | some w => w.released
  | none => if need.toNat ≤ k.sm[n].toNat then some k.sm[n] else none

/-- A strand that waits joins the waiters in arrival order; at most one wait per strand. -/
def Core.addWaiter (k : Core) (n : Fin 15) (t : Strand) (need : W32) (take : Bool) : Core :=
  match k.semWaiter? n t with
  | some _ => k
  | none => { k with smw := k.smw.set n (k.smw[n] ++ [{ strand := t, need := need, take := take, released := none }]) }

/-! Waking and mooring (R268, R337, R338). -/

def Wait.wake (w : Wait) : Wait := { w with moored := false, woken := true }

/-- A strand's wait record woken. -/
def Mach.wakeStrand (m : Mach) (c : CoreId) (t : Strand) : Mach :=
  match t with
  | .control => m.onCtl c fun k => { k with wait := k.wait.map Wait.wake }
  | .vector => m.onVec c fun v => { v with wait := v.wait.map Wait.wake }
  | _ => m

/-- A write changed a location's bit: every entry moored on it whose awaited state now holds leaves its list, and its strand is woken,
in mooring order (R268, R337). -/
def Mach.wake (m : Mach) (loc : Nat) (full : Bool) : Mach :=
  let hit (e : Mooring) : Bool := e.wantEmpty == !full && m.resolveKey e.ctx e.key == some loc
  let woken := m.listEntries.filter hit
  woken.foldl (fun m e =>
      if e.pkg = m.pkg then m.wakeStrand e.core e.strand else { m with fab := { m.fab with wakes := m.fab.wakes ++ [(e.pkg, e.core, e.strand)] } })
    (m.unmoor fun e => woken.any fun x => x.ctx == e.ctx && x.idx == e.idx)

/-- A location's bit set; a change wakes. -/
def Mach.setBit (m : Mach) (loc : Nat) (full : Bool) : Mach :=
  if memFull m.mem loc = full then m else ({ m with mem := memSetFull m.mem loc full } : Mach).wake loc full

/-- A new entry of a context's list (R337, R387), while its pool has room; a core without a context has no list, nor has a context whose list
would pass the end of HBM. -/
def Mach.addEntry (m : Mach) (pkg : BitVec 12) (ctx : Nat) (key : W64) (c : CoreId) (t : Strand) (wantEmpty : Bool) : Option Mach :=
  match m.ctx? ctx with
  | none => none
  | some x =>
    let used := (m.moorings.filter (·.ctx == ctx)).map fun e => e.idx + 1
    if !x.listFits || decide (x.pool ≤ used.length) then none
    else
      let e : Mooring := { pkg := pkg, ctx := ctx, key := key, core := c, strand := t, wantEmpty := wantEmpty,
                           idx := freshFrom used x.pool used.length (Config.moorSlot m.scyc) - 1 }
      some { m with mem := linkEntry m.mem x e (!m.usedBuckets.contains (ctx, bucketOf key)), moorings := m.moorings ++ [e] }

/-- A strand moors, or retries because its context's pool is full (R338, R387). An entry on a remote location stands in its
home's list (R378), outside this package. -/
def Mach.moor (m : Mach) (c : CoreId) (t : Strand) (ctx : Nat) (key : Option W64) (wantEmpty : Bool) (w : Wait) : Mach × Wait :=
  match key with
  | none => (m, { w with moored := true, woken := false, full := false, last := m.scyc })
  | some key =>
    match m.addEntry m.pkg ctx key c t wantEmpty with
    | none => (m, { w with full := true, woken := false, last := m.scyc })
    | some m1 => (m1, { w with moored := true, woken := false, full := false, last := m.scyc })

/-- A failed attempt of a full/empty wait (R287, R338): the first begins the wait `fresh`; a retry is counted; after the last
retry, after a wake, and at once for `moor` (R339), the strand moors. -/
def Mach.notReady (m : Mach) (c : CoreId) (t : Strand) (ctx : Nat) (key : Option W64) (wantEmpty : Bool) (w? : Option Wait)
    (fresh : Wait) (atOnce : Bool) : Mach × Wait :=
  match w? with
  | none => if atOnce || fresh.limit = 0 then m.moor c t ctx key wantEmpty fresh else (m, fresh)
  | some w =>
    if w.moored then (m, w)
    else
      let w1 := { w with retries := w.retries + 1, last := m.scyc }
      if w.woken || w.full || atOnce || decide (w.limit ≤ w1.retries) then m.moor c t ctx key wantEmpty w1 else (m, w1)

/-! Remote records (12 R342 to R344, 13 R378). -/

/-- A strand's access to a remote record: the message is sent once, and the answer is taken when it has come. -/
def Mach.remoteAsk (m : Mach) (c : CoreId) (t : Strand) (lane home ctx : Nat) (p : W64) (op : RemoteOp) : Mach × Option RemoteReply :=
  match m.remotes.find? fun r => r.core == c && r.strand == t && r.lane == lane with
  | none =>
    let r : Remote := { id := m.nextOp, core := c, strand := t, lane := lane, home := home, ctx := ctx, ptr := p, op := op, start := m.scyc, reply := none }
    ({ m with remotes := m.remotes ++ [r], nextOp := m.nextOp + 1 }, none)
  | some r =>
    match r.reply with
    | none => (m, none)
    | some a => ({ m with remotes := m.remotes.filter fun r => !(r.core == c && r.strand == t && r.lane == lane) }, some a)

/-- The same, the answer kept until the instruction retires: for an instruction of several lanes, which goes on when all have come. -/
def Mach.remotePeek (m : Mach) (c : CoreId) (t : Strand) (lane home ctx : Nat) (p : W64) (op : RemoteOp) : Mach × Option RemoteReply :=
  match m.remotes.find? fun r => r.core == c && r.strand == t && r.lane == lane with
  | none =>
    let r : Remote := { id := m.nextOp, core := c, strand := t, lane := lane, home := home, ctx := ctx, ptr := p, op := op, start := m.scyc, reply := none }
    ({ m with remotes := m.remotes ++ [r], nextOp := m.nextOp + 1 }, none)
  | some r => (m, r.reply)

/-! A strand's accesses. -/

/-- The order of loads, or of indivisible accesses, against the strand's earlier stores: those that must be performed before one
of them are performed (R262). -/
def Mach.flushReqs (m : Mach) (c : CoreId) (t : Strand) (bs : List Access) : Mach :=
  let r := flushSplit c t false m.pend.reverse bs [] []
  m.performAll r.1 (dropFences [] r.2)

/-- The same for one access. -/
def Mach.flushFor (m : Mach) (c : CoreId) (t : Strand) (b : Access) : Mach := m.flushReqs c t [b]

/-- The same for accesses of one class to every location of a run of n from `lo`. -/
def Mach.flushRange (m : Mach) (c : CoreId) (t : Strand) (lo n : Nat) (cls : BitVec 4) (mt : MType) (kind : AccKind) : Mach :=
  let hit := (m.pend.filterMap (Pend.access? c t)).filter fun a => decide (lo ≤ a.loc) && decide (a.loc < lo + 8 * n)
  m.flushReqs c t ({ loc := lo, cls := cls, rel := false, mtype := mt, kind := kind, masks := [] } :: hit)

/-- The stores that are performed at core scope only are performed at every scope: before any agent of their core moves (R257, R264). -/
def Mach.settle (m : Mach) (c : CoreId) : Mach :=
  let shown (t : Strand) (m : Mach) : List Access := m.pend.filterMap fun
    | .store p => if p.of c t && p.shown then some p.access else none
    | _ => none
  let one (m : Mach) (t : Strand) : Mach := if (shown t m).isEmpty then m else m.flushReqs c t (shown t m)
  one (one m .control) .vector

/-- The poison marks that a strand finds: a mark that its own earlier 8-byte store clears is none (R259, R282). -/
def Mach.seen (m : Mach) (c : CoreId) (t : Strand) : Mach :=
  let cleared (l : Nat) : Bool := m.pend.any fun
    | .store p => p.of c t && p.clears && locOf p.addr == l
    | _ => false
  { m with mem := { m.mem with pois := m.mem.pois.filter fun l => !cleared l } }

/-- The locations of a vector strand's loads that are kept back (05 R165), with their memory types; remote ones stand at `remoteLoc`. -/
def remoteLoc : Nat := 2 ^ 80

def Mach.heldLocs (m : Mach) (c : CoreId) (ptrs : List W64) : List (Nat × MType) :=
  let w : Asker := { core := c, ctx := m.cores[c].ctl.ctxid, site := some (clusterFin c), sup := false, lighter := false }
  ptrs.filterMap fun p =>
    match place m w p 1 .read with
    | .ok (.store key mt _) => some (locOf key, mt)
    | .ok (.remote _ mt) => some (remoteLoc, mt)
    | _ => none

/-- A load that is kept back must be performed before the access (R261): every store and read-modify-write, every release, and the loads of its
class, its locations and an ordered memory type. -/
def loadPrecedes (locs : List (Nat × MType)) (cls : BitVec 4) (b : Access) : Bool :=
  b.kind != .load || b.rel || b.cls == cls || b.mtype == .stronglyOrdered ||
  locs.any (fun l => l.1 == b.loc || l.2 == .stronglyOrdered || (l.2 == .device && b.mtype == .device)) ||
  b.masks.any fun m => m.getLsbD cls.toNat && m.getLsbD b.cls.toNat

/-- Of a pending list newest first: a load of the vector strand that is kept back must be performed before one of the accesses, or before a
store that must itself be performed before one. -/
def heldBack (m : Mach) (core : CoreId) : List Pend → List Access → Bool
  | [], _ => false
  | .fence c t mask :: r, reqs => heldBack m core r (if c = core ∧ t = .vector then reqs.map fun b => { b with masks := mask :: b.masks } else reqs)
  | .load c _ cls ptrs :: r, reqs =>
    (c == core && (let locs := m.heldLocs c ptrs; reqs.any (loadPrecedes locs cls))) || heldBack m core r reqs
  | .store p :: r, reqs => heldBack m core r (if p.of core .vector && reqs.any p.precedes then p.access :: reqs else reqs)

/-- The vector strand's accesses wait for a load that is kept back. -/
def Mach.heldVec (m : Mach) (c : CoreId) (reqs : List Access) : Bool := heldBack m c m.pend.reverse reqs

/-- The vector strand has a load that is kept back: a release waits for it. -/
def Mach.keepsLoad (m : Mach) (c : CoreId) : Bool := m.pend.any fun | .load d .. => d == c | _ => false

/-- n bytes read at a place. -/
def Mach.readPlace (m : Mach) (pl : Place) (n : Nat) : Nat :=
  match pl with
  | .store key _ _ => memNat m.mem key n
  | .cap off => leNat ((List.range n).map fun i => capByte m (off + i))
  | .remote _ _ => 0

/-- A load of a strand at a translated place: the machine with the earlier stores it waits for performed, and the value. -/
def Mach.loadAt (m : Mach) (c : CoreId) (t : Strand) (pl : Place) (n : Nat) (cls : BitVec 4) : Mach × Nat :=
  match pl with
  | .store key mt _ =>
    let m1 := m.flushFor c t { loc := locOf key, cls := cls, rel := false, mtype := mt, kind := .load, masks := [] }
    (m1, m1.readPlace pl n)
  | _ => (m, m.readPlace pl n)

/-- The value every store hash starts from, at a CONFIG and at a dispatch (R425). -/
def hashStart : W64 := 0xCBF29CE484222325

/-- The store hash of R427. -/
def hashStep (h : W64) (ea : W64) (size data : Nat) : W64 :=
  let p : W64 := 0x100000001B3
  (((((h ^^^ ea) * p) ^^^ BitVec.ofNat 64 size) * p) ^^^ BitVec.ofNat 64 data) * p

/-- The context's record or replay mode is on (R425). -/
def Mach.modeOn (m : Mach) (ctx : Nat) : Bool :=
  match m.replays[ctx]? with
  | some r => r.mode != 0
  | none => false

/-- A retired store hashes while a mode is on (R427). -/
def Mach.hash (m : Mach) (c : CoreId) (t : Strand) (ea : W64) (size data : Nat) : Mach :=
  if m.modeOn m.cores[c].ctl.ctxid then
    m.onCore c fun k =>
      match t with
      | .control => { k with rhCtl := hashStep k.rhCtl ea size data }
      | .vector => { k with rhVec := hashStep k.rhVec ea size data }
      | _ => k
  else m

/-- Where a release reaches (R264): core scope, or wider. -/
inductive Release where
  | none | near | far
  deriving DecidableEq, Repr

/-- A store issued by a strand (R257, R263): it joins the stores not yet performed. -/
def Mach.issueStore (m : Mach) (c : CoreId) (t : Strand) (key : Nat) (data : List Byte) (cls : BitVec 4) (rel : Release) (mt : MType) (use : Option ObjUse) : Mach :=
  { m with pend := m.pend ++ [Pend.store { core := c, strand := t, addr := key, data := wholeBytes data, clears := data.length == 8, cls := cls, rel := rel == .far,
                                           near := rel == .near, mtype := mt, use := use, shown := false }] }

/-- The value of a plain load: what was read early where the same load was performed before its turn, and otherwise what it reads now; the
record is used up (R261, R262). -/
def Mach.takeEarly (m : Mach) (c : CoreId) (ea : W64) (n v : Nat) : Mach × Nat :=
  match m.early.find? fun e => e.core == c with
  | some e =>
    if e.pc = m.cores[c].ctl.pc then
      ({ m with early := m.early.filter fun x => x.core != c }, if e.ea = ea ∧ e.size = n then e.value else v)
    else (m, v)
  | none => (m, v)

end Sys2Proof.Machine
end

