-- ==== Sys2Proof/Machine/Flags.lean ====
section
/-! DEFINITION. The results of the integer instructions with the CFLAGS bits they set (03 R78, R87, R92). -/

namespace Sys2Proof.Machine

/-- A result and the sticky flags it sets (R78): HD, PW, SAT and DZ. -/
structure AluOut where
  val : W64
  hd : Bool := false
  pw : Bool := false
  sat : Bool := false
  dz : Bool := false
  deriving DecidableEq, Repr

def plain (v : W64) : AluOut := { val := v }

/-- CFLAGS are sticky: an instruction sets a bit and clears none (R78). -/
def Ctl.setFlags (k : Ctl) (o : AluOut) : Ctl :=
  { k with hd := k.hd || o.hd, pw := k.pw || o.pw, sat := k.sat || o.sat, dz := k.dz || o.dz }

/-- SatS: clamp to the signed range, with SAT when clipped (R87). -/
def satS (v : Int) : AluOut :=
  if v < -(2 ^ 63 : Int) then { val := BitVec.ofInt 64 (-(2 ^ 63 : Int)), sat := true }
  else if (2 ^ 63 - 1 : Int) < v then { val := BitVec.ofInt 64 (2 ^ 63 - 1), sat := true }
  else plain (BitVec.ofInt 64 v)

/-- SatN: clamp to the unsigned range, with SAT when clipped (R87). -/
def satN (v : Int) : AluOut :=
  if v < 0 then { val := 0, sat := true }
  else if (2 ^ 64 - 1 : Int) < v then { val := BitVec.ofInt 64 (2 ^ 64 - 1), sat := true }
  else plain (BitVec.ofInt 64 v)

/-! The functions of major 0x01 (R87). -/

def aluAdd (a b : W64) : AluOut := plain (a + b)
def aluSub (a b : W64) : AluOut := plain (a - b)
def aluMul (a b : W64) : AluOut := plain (a * b)
def aluMulh (a b : W64) : AluOut := plain (BitVec.ofInt 64 (a.toInt * b.toInt / 2 ^ 64))
def aluMulhn (a b : W64) : AluOut := plain (BitVec.ofNat 64 (a.toNat * b.toNat / 2 ^ 64))
def aluDiv (a b : W64) : AluOut :=
  if b = 0 then { val := BitVec.allOnes 64, dz := true }
  else if a.toInt = -(2 ^ 63 : Int) ∧ b.toInt = -1 then { val := a, sat := true }
  else plain (BitVec.ofInt 64 (a.toInt.tdiv b.toInt))
def aluDivn (a b : W64) : AluOut :=
  if b = 0 then { val := BitVec.allOnes 64, dz := true } else plain (BitVec.ofNat 64 (a.toNat / b.toNat))
def aluRem (a b : W64) : AluOut :=
  if b = 0 then { val := a, dz := true }
  else if b.toInt = -1 then plain 0
  else plain (BitVec.ofInt 64 (a.toInt - b.toInt * a.toInt.tdiv b.toInt))
def aluRemn (a b : W64) : AluOut :=
  if b = 0 then { val := a, dz := true } else plain (BitVec.ofNat 64 (a.toNat % b.toNat))
def aluAnd (a b : W64) : AluOut := plain (a &&& b)
def aluOr (a b : W64) : AluOut := plain (a ||| b)
def aluXor (a b : W64) : AluOut := plain (a ^^^ b)
def aluAndn (a b : W64) : AluOut := plain (a &&& ~~~b)
def aluShl (a b : W64) : AluOut := plain (a <<< (b.toNat % 64))
def aluShr (a b : W64) : AluOut := plain (a >>> (b.toNat % 64))
def aluSar (a b : W64) : AluOut := plain (a.sshiftRight (b.toNat % 64))
def aluRol (a b : W64) : AluOut := plain (a.rotateLeft (b.toNat % 64))
def aluMin (a b : W64) : AluOut := plain (if a.toInt ≤ b.toInt then a else b)
def aluMax (a b : W64) : AluOut := plain (if a.toInt ≤ b.toInt then b else a)
def aluMinn (a b : W64) : AluOut := plain (if a.toNat ≤ b.toNat then a else b)
def aluMaxn (a b : W64) : AluOut := plain (if a.toNat ≤ b.toNat then b else a)
def aluAdds (a b : W64) : AluOut := satS (a.toInt + b.toInt)
def aluSubs (a b : W64) : AluOut := satS (a.toInt - b.toInt)
def aluAddsn (a b : W64) : AluOut := satN ((a.toNat : Int) + b.toNat)
def aluSubsn (a b : W64) : AluOut := satN ((a.toNat : Int) - b.toNat)
def aluMuls (a b : W64) : AluOut := satS (a.toInt * b.toInt)
def aluAbs (a : W64) : AluOut := plain (if a.toInt < 0 then -a else a)
def aluNeg (a : W64) : AluOut := plain (-a)

/-- The zero bits above the highest one bit, counted over the low n bits. -/
def leadZeros (v : Nat) : Nat → Nat
  | 0 => 0
  | n + 1 => if v / 2 ^ n % 2 = 1 then 0 else 1 + leadZeros v n

/-- The zero bits below the lowest one bit, at most n. -/
def trailZeros (v : Nat) : Nat → Nat
  | 0 => 0
  | n + 1 => if v % 2 = 1 then 0 else 1 + trailZeros (v / 2) n

def aluClz (a : W64) : AluOut := plain (BitVec.ofNat 64 (leadZeros a.toNat 64))
def aluCtz (a : W64) : AluOut := plain (BitVec.ofNat 64 (trailZeros a.toNat 64))
def aluPopc (a : W64) : AluOut := plain (BitVec.ofNat 64 (onesIn a.toNat 64))
def aluSext8 (a : W64) : AluOut := plain ((a.setWidth 8).signExtend 64)
def aluSext16 (a : W64) : AluOut := plain ((a.setWidth 16).signExtend 64)
def aluSext32 (a : W64) : AluOut := plain ((a.setWidth 32).signExtend 64)
def aluMov (a : W64) : AluOut := plain a

/-! Object pointers (R92). -/

def aluPadd (a b : W64) : AluOut :=
  let off : Int := (ptrOff a : Int) + b.toInt
  { val := mkPtr (ptrHandle a) (wrapN 40 off), pw := decide (off < 0) || decide ((2 ^ 40 : Int) ≤ off) }
def aluPsub (a b : W64) : AluOut :=
  { val := BitVec.ofInt 64 ((ptrOff a : Int) - ptrOff b), hd := ptrHandle a != ptrHandle b }
def aluPhdl (a : W64) : AluOut := plain (BitVec.ofNat 64 (ptrHandle a))
def aluPoff (a : W64) : AluOut := plain (BitVec.ofNat 64 (ptrOff a))
def aluPmake (a b : W64) : AluOut := plain (mkPtr (a.toNat % 2 ^ 24) (ptrOff b))

/-- The conditions of `cmp` and `cmpi` (R50): signed lt to ge, unsigned ltn to gen. -/
def condHolds (c : Cond) (a b : W64) : Bool :=
  match c with
  | .eq => a == b
  | .ne => a != b
  | .lt => decide (a.toInt < b.toInt)
  | .le => decide (a.toInt ≤ b.toInt)
  | .gt => decide (b.toInt < a.toInt)
  | .ge => decide (b.toInt ≤ a.toInt)
  | .ltn => decide (a.toNat < b.toNat)
  | .len => decide (a.toNat ≤ b.toNat)
  | .gtn => decide (b.toNat < a.toNat)
  | .gen => decide (b.toNat ≤ a.toNat)

end Sys2Proof.Machine
end

