-- ==== Sys2Proof/Machine/Operands.lean ====
section
/-! DEFINITION. The operand forms of the control strand: propagated register and literal sources, and the addresses of
formats CM and CA (02 R45 to R47, 03 R73, 10 R279). -/

namespace Sys2Proof.Machine

/-- A propagating instruction's write (R73): the first poisoned source goes to the destination unchanged and sets no flag;
otherwise the result, clean, with its flags. A destination of 31 discards the result and keeps the flags. -/
def Ctl.propagate (k : Ctl) (d : Dst) (srcs : List XVal) (o : AluOut) : Ctl :=
  match srcs.find? (fun v => v.tag != 0) with
  | some p => k.write d p
  | none => (k.setFlags o).write d (clean o.val)

/-- A two-source propagating instruction. -/
def State.alu2 (s : State) (d : Dst) (a b : Src) (f : W64 → W64 → AluOut) : Host.Outcome State Fault Refusal :=
  s.ctlStep (1 + litWords [a, b]) fun k => .ok (k.propagate d [k.src a, k.src b] (f (k.src a).val (k.src b).val))

/-- A single-source propagating instruction. -/
def State.alu1 (s : State) (d : Dst) (a : Src) (f : W64 → AluOut) : Host.Outcome State Fault Refusal :=
  s.ctlStep (1 + litWords [a]) fun k => .ok (k.propagate d [k.src a] (f (k.src a).val))

/-- The signed immediate of a format CI instruction (R46). -/
def immS (imm : BitVec 15) : W64 := imm.signExtend 64

/-- Offset formation of R279 for format CM: off6 scaled by the access size, added to the base's byte offset. -/
def memAddr (base : W64) (off : BitVec 6) (size : Nat) : Except Trap W64 :=
  match ptrAdd base (off.toInt * size) with
  | .ok p => .ok p
  | .error (.fault t) => .error t
  | .error _ => .error { cls := .perm, addr := base }

/-- Who a core's control strand translates as. -/
def Mach.asker (m : Mach) (c : CoreId) : Asker :=
  { core := c, ctx := m.cores[c].ctl.ctxid, site := some (clusterFin c), sup := m.cores[c].ctl.sup, lighter := false }

/-- A translated access of the control strand, or how the instruction goes on without it. -/
def Mach.withPlace (m : Mach) (c : CoreId) (ea : W64) (size : Nat) (kind : Kind) (k : Place → Run) : Run :=
  match checked (m.seen c .control) (m.asker c) ea size kind with
  | .ok pl => k pl
  | .error (.fault t) => .trap t
  | .error (.miss ctx h i) => .miss ctx h i ea
  | .error .held => .stay m

/-- A check that traps or goes on. -/
def orTrap (r : Except Trap α) (k : α → Run) : Run :=
  match r with
  | .ok v => k v
  | .error t => .trap t

/-- Sources that must be clean, in the order of R74. -/
def Ctl.clean? (k : Ctl) (srcs : List Src) : Except Trap Unit := needClean (srcs.map k.src)

end Sys2Proof.Machine
end

