-- ==== Sys2Proof/Machine/Access.lean ====
section
/-! DEFINITION. The control strand's loads, stores and atomics on a translated place, local or remote (10 R279 to R292,
13 R378), with record and replay of atomics (14 R426). -/

namespace Sys2Proof.Machine

/-- How an access of a strand goes: a value with the machine after it, a fault, a miss, or no progress this time. -/
inductive Got where
  | val (m : Mach) (v : Nat)
  | fault (m : Mach) (t : Trap)
  | miss (ctx h k : Nat)
  | wait (m : Mach)

/-- An instruction that goes on with the value of an access; a fault, with the machine in which its answer is used up, traps unless `defer`
takes it. -/
def Got.run (g : Got) (ea : W64) (k : Mach → Nat → Run) (defer : Mach → Trap → Run := .trapFrom) : Run :=
  match g with
  | .val m v => k m v
  | .fault m t => defer m t
  | .miss ctx h i => .miss ctx h i ea
  | .wait m => .stay m

/-- The answer of a remote home at the issuer (R342): a poisoned location is POISON, a refusal FABRIC, both at the pointer. -/
def remoteGot (m : Mach) (ea : W64) (a : RemoteReply) : Got :=
  match a with
  | .value v => .val m v
  | .poisoned => .fault m { cls := .poison, addr := ea }
  | _ => .fault m { cls := .fabric, addr := ea }

/-- A remote access that has an answer of a value or none: the strand's earlier stores that must come first are performed before
the message leaves. -/
def Mach.askRemote (m : Mach) (c : CoreId) (t : Strand) (lane home : Nat) (mt : MType) (ea : W64) (cls : BitVec 4) (kind : AccKind) (rel : Bool) (op : RemoteOp) :
    Mach × Option RemoteReply :=
  let m1 := m.flushFor c t { loc := remoteLoc, cls := cls, rel := rel, mtype := mt, kind := kind, masks := [] }
  m1.remoteAsk c t lane home m.cores[c].ctl.ctxid ea op

def NoPlace.got (e : NoPlace) (m : Mach) : Got :=
  match e with
  | .fault t => .fault m t
  | .miss ctx h i => .miss ctx h i
  | .held => .wait m

/-- A load of n bytes by the control strand (R281). -/
def Mach.ctlLoad (m : Mach) (c : CoreId) (ea : W64) (n : Nat) (cls : BitVec 4) : Got :=
  match checked (m.seen c .control) (m.asker c) ea n .read with
  | .error e => e.got m
  | .ok (.remote home mt) =>
    match m.askRemote c .control 0 home mt ea cls .load false (.load n) with
    | (m1, none) => .wait m1
    | (m1, some a) => remoteGot m1 ea a
  | .ok pl => let (m1, v) := m.loadAt c .control pl n cls; .val m1 v

/-- Some 8-byte location of a run is poisoned. -/
def anyPoisoned (m : Mach) (key n : Nat) : Bool := (List.range ((n + 7) / 8)).any fun i => memPoisoned m.mem (locOf key + 8 * i)

/-- A load of an image of 32 or 64 bytes, one access for each of its locations (R99, R425): the checks of a load on the whole,
and a poisoned location anywhere in it. -/
def Mach.ctlImage (m : Mach) (c : CoreId) (ea : W64) (n : Nat) : Got :=
  match checked (m.seen c .control) (m.asker c) ea n .read with
  | .error e => e.got m
  | .ok (.remote home mt) =>
    match m.askRemote c .control 0 home mt ea 0 .load false (.load n) with
    | (m1, none) => .wait m1
    | (m1, some a) => remoteGot m1 ea a
  | .ok (.store key mt use) =>
    if anyPoisoned (m.seen c .control) key n then .fault m { cls := .poison, addr := ea }
    else
      let m1 := m.flushRange c .control (locOf key) (n / 8) 0 mt .load
      .val m1 (m1.readPlace (.store key mt use) n)
  | .ok pl => .val m (m.readPlace pl n)

/-- A store of the control strand (R283): issued, with its hash (R427). -/
def Mach.ctlStore (m : Mach) (c : CoreId) (ea : W64) (n : Nat) (v : W64) (cls : BitVec 4) (rel : Release) : Got :=
  let data := leBytes v.toNat n
  match checked (m.seen c .control) (m.asker c) ea n .write with
  | .error e => e.got m
  | .ok (.store key mt use) => .val ((m.issueStore c .control key data cls rel mt use).hash c .control ea n (v.toNat % 256 ^ n)) 0
  | .ok (.remote home mt) =>
    match m.askRemote c .control 0 home mt ea cls .store (rel != .none) (.store (wholeBytes data)) with
    | (m1, none) => .wait m1
    | (m1, some (.value _)) => .val (m1.hash c .control ea n (v.toNat % 256 ^ n)) 0
    | (m1, some a) => remoteGot m1 ea a
  | .ok (.cap _) => .fault m { cls := .perm, addr := ea }

/-! The log of a context's record or replay mode (R426). -/

/-- The place of log word n, asked with a supervisor's reach of its own context. -/
def Mach.logPlace (m : Mach) (ctx : Nat) (r : Replay) (n : Nat) (kind : Kind) : Except NoPlace Place :=
  match ptrAdd r.log (4 * n) with
  | .error e => .error e
  | .ok p => checked m { core := 0, ctx := ctx, site := none, sup := true, lighter := false } p 4 kind

/-- One log word written; a place that faults is OVF, as a chunk that would pass LOGLEN is. -/
def Mach.logWrite (m : Mach) (ctx : Nat) (r : Replay) (n : Nat) (chunk : W32) : Mach :=
  match m.logPlace ctx r n .write with
  | .ok (.store key _ _) => { m with mem := memSetBytes m.mem key (leBytes chunk.toNat 4) }
  | _ => { m with replays := m.replays.setIfInBounds ctx { r with ovf := true } }

/-- A logged atomic recorded (R426): `id` is its strand identifier. -/
def Mach.record (m : Mach) (ctx : Nat) (r : Replay) (id : BitVec 12) : Mach :=
  let grow : Option W32 := r.cur.bind fun ch => if ch.toNat / 2 ^ 20 = id.toNat ∧ ch.toNat % 2 ^ 20 < 1048575 then some (ch + 1) else none
  if r.ovf then m
  else
    match grow with
    | some ch =>
      let r1 := { r with cur := some ch, run := BitVec.ofNat 20 ch.toNat }
      ({ m with replays := m.replays.setIfInBounds ctx r1 }).logWrite ctx r1 (r.pos.toNat - 1) ch
    | none =>
      if r.loglen ≤ r.pos.toNat then { m with replays := m.replays.setIfInBounds ctx { r with ovf := true } }
      else
        let ch : W32 := BitVec.ofNat 32 (id.toNat * 2 ^ 20 + 1)
        let r1 := { r with cur := some ch, run := 1, pos := r.pos + 1 }
        ({ m with replays := m.replays.setIfInBounds ctx r1 }).logWrite ctx r1 r.pos.toNat ch

/-- The replay gate's current chunk found: chunks of run 0 are skipped, and LOGLEN ends the log (R426). With a chunk that cannot
be read yet, none is current. -/
def Mach.replayNext (m : Mach) (ctx : Nat) (r : Replay) : Nat → Replay
  | 0 => { r with cur := none }
  | fuel + 1 =>
    if r.loglen ≤ r.pos.toNat then { r with endLog := true, cur := none, run := 0 }
    else
      match m.logPlace ctx r r.pos.toNat .read with
      | .ok (.store key _ _) =>
        let ch := mem32 m.mem key
        if ch.toNat % 2 ^ 20 = 0 then m.replayNext ctx { r with pos := r.pos + 1 } fuel
        else { r with cur := some ch, run := BitVec.ofNat 20 ch.toNat }
      | _ => { r with cur := none }

/-- What the mode says to a logged atomic: perform it with the machine that notes it, or hold it (R426). -/
def Mach.gate (m : Mach) (ctx : Nat) (key : Nat) (id : BitVec 12) : Option Mach :=
  if !m.watched ctx key then some (m.unlogAt key)
  else
    match m.replays[ctx]? with
    | none => some m
    | some r =>
      if r.mode = 1 then some (m.record ctx r id)
      else if r.endLog then some m
      else
        let r1 := if r.cur.isNone then m.replayNext ctx r (r.loglen + 1) else r
        match r1.cur with
        | none => if r1.endLog then some { m with replays := m.replays.setIfInBounds ctx r1 } else none
        | some ch =>
          if ch.toNat / 2 ^ 20 ≠ id.toNat then none
          else
            let left := ch.toNat % 2 ^ 20 - 1
            let r2 :=
              if left = 0 then m.replayNext ctx { r1 with pos := r1.pos + 1, cur := none, run := 0 } (r.loglen + 1)
              else { r1 with cur := some (ch - 1), run := BitVec.ofNat 20 left }
            some { m with replays := m.replays.setIfInBounds ctx r2 }

/-- The identifier of a logged atomic (R426). -/
def logId (c : CoreId) (t : Strand) : BitVec 12 := BitVec.ofNat 12 (8 * c.val + strandNo t)

end Sys2Proof.Machine
end

