-- ==== Sys2Proof/Machine/Queue.lean ====
section
/-! DEFINITION. The control strand's ends of the queue registers (03 R84 to R86, R96). -/

namespace Sys2Proof.Machine

/-- The trap of an ILLEGAL encoding or operand; it has no fault address. -/
def illegalTrap : Trap := { cls := .illegal, addr := 0 }

/-- `qrd`: the odd queues; it blocks while the queue is empty. -/
def execQrd (d : Dst) (q : Fin 8) (s : State) : Host.Outcome State Fault Refusal :=
  let c := s.cur.core
  s.control 1 fun m =>
    if q.val % 2 = 0 then .trap illegalTrap
    else
      match m.cores[c].q[q] with
      | [] => m.blockCtl c 1
      | v :: rest => ((m.popQ c q rest).onCtl c fun k => k.write d (clean v)).advance c 1

/-- `qwr`: the even queues; it blocks while the queue is full. A write is made after the strand's earlier stores (R85). -/
def execQwr (q : Fin 8) (a : Src) (s : State) : Host.Outcome State Fault Refusal :=
  let c := s.cur.core
  let words := 1 + litWords [a]
  s.control words fun m =>
    if q.val % 2 = 1 then .trap illegalTrap
    else
      orTrap (s.ctl.clean? [a]) fun _ =>
        if 8 ≤ m.cores[c].q[q].length then m.blockCtl c words
        else ((m.flushAll c .control).pushQ c q (s.ctl.src a).val).advance c words

/-- `qtryrd`: K0 says whether an entry was there; it never blocks. -/
def execQtryrd (d : Dst) (q : Fin 8) (s : State) : Host.Outcome State Fault Refusal :=
  let c := s.cur.core
  s.control 1 fun m =>
    if q.val % 2 = 0 then .trap illegalTrap
    else
      match m.cores[c].q[q] with
      | [] => (m.onCtl c fun k => k.setK 0 false).advance c 1
      | v :: rest => ((m.popQ c q rest).onCtl c fun k => (k.write d (clean v)).setK 0 true).advance c 1

/-- `qtrywr`: K0 says whether there was room; it never blocks. -/
def execQtrywr (q : Fin 8) (a : Src) (s : State) : Host.Outcome State Fault Refusal :=
  let c := s.cur.core
  let words := 1 + litWords [a]
  s.control words fun m =>
    if q.val % 2 = 1 then .trap illegalTrap
    else
      orTrap (s.ctl.clean? [a]) fun _ =>
        if 8 ≤ m.cores[c].q[q].length then (m.onCtl c fun k => k.setK 0 false).advance c words
        else (((m.flushAll c .control).pushQ c q (s.ctl.src a).val).onCtl c fun k => k.setK 0 true).advance c words

end Sys2Proof.Machine
end

