-- ==== Sys2Proof/Machine/Memory.lean ====
section
/-! DEFINITION. The control strand's loads and stores, the waiting forms, the fence and the completion-interrupt request
(10 R279 to R289, R293, R294). -/

namespace Sys2Proof.Machine

/-- The classes a speculative load defers (R75). -/
def deferrable (c : TrapClass) : Bool :=
  match c with
  | .perm | .shape | .align | .poison => true
  | _ => false

/-- A load's fault under CSPEC.EN: the class goes to the destination's tag and the fault address to its value; the load retires
with no further effect (R72, R75). Without it, or with an acquire, the fault traps. -/
def Mach.deferOr (m : Mach) (c : CoreId) (d : Dst) (ord : Ord) (words : Nat) (t : Trap) : Run :=
  if m.cores[c].ctl.specEn && ord == .none && deferrable t.cls then
    (({ m with early := m.early.filter fun e => e.core != c } : Mach).onCtl c fun k => k.write d { val := t.addr, tag := t.cls.code }).advance c words
  else .trapFrom m t

/-- A plain load (R283): `ext` extends the value to 64 bits. -/
def State.load (s : State) (d : Dst) (base : Src) (q : MemQ) (n : Nat) (ext : Nat → W64) : Host.Outcome State Fault Refusal :=
  let c := s.cur.core
  let words := 1 + litWords [base]
  s.control words fun m =>
    orTrap (s.ctl.clean? [base]) fun _ =>
      match memAddr (s.ctl.src base).val q.off n with
      | .error t => m.deferOr c d q.ord words t
      | .ok ea =>
        (m.ctlLoad c ea n q.cls).run ea
          (fun m1 v => let (m2, v1) := m1.takeEarly c ea n v; (m2.onCtl c fun k => k.write d (clean (ext v1))).advance c words)
          (fun m1 t => m1.deferOr c d q.ord words t)

def zext (v : Nat) : W64 := BitVec.ofNat 64 v
def sext (n v : Nat) : W64 := BitVec.ofInt 64 (sgn n v)

/-- `ld` (R283). -/
def execLd (d : Dst) (base : Src) (q : MemQ) (s : State) : Host.Outcome State Fault Refusal := s.load d base q 8 zext
/-- `ld32` (R283). -/
def execLd32 (d : Dst) (base : Src) (q : MemQ) (s : State) : Host.Outcome State Fault Refusal := s.load d base q 4 zext
/-- `ld32s` (R283). -/
def execLd32s (d : Dst) (base : Src) (q : MemQ) (s : State) : Host.Outcome State Fault Refusal := s.load d base q 4 (sext 32)
/-- `ld16` (R283). -/
def execLd16 (d : Dst) (base : Src) (q : MemQ) (s : State) : Host.Outcome State Fault Refusal := s.load d base q 2 zext
/-- `ld16s` (R283). -/
def execLd16s (d : Dst) (base : Src) (q : MemQ) (s : State) : Host.Outcome State Fault Refusal := s.load d base q 2 (sext 16)
/-- `ld8` (R283). -/
def execLd8 (d : Dst) (base : Src) (q : MemQ) (s : State) : Host.Outcome State Fault Refusal := s.load d base q 1 zext
/-- `ld8s` (R283). -/
def execLd8s (d : Dst) (base : Src) (q : MemQ) (s : State) : Host.Outcome State Fault Refusal := s.load d base q 1 (sext 8)

def Ord.isRel (o : Ord) : Bool :=
  match o with
  | .rel | .acqRel => true
  | _ => false

/-- A release reaches its scope (R264): an order of release at core scope, or wider. -/
def releaseOf (q : MemQ) : Release := if !Ord.isRel q.ord then .none else if q.scope = .core then .near else .far

/-- A plain store (R283). The base comes before the data in the order of R74. -/
def State.store (s : State) (v base : Src) (q : MemQ) (n : Nat) : Host.Outcome State Fault Refusal :=
  let c := s.cur.core
  let words := 1 + litWords [v, base]
  s.control words fun m =>
    orTrap (s.ctl.clean? [base, v]) fun _ =>
      orTrap (memAddr (s.ctl.src base).val q.off n) fun ea =>
        (m.ctlStore c ea n (s.ctl.src v).val q.cls (releaseOf q)).run ea fun m1 _ => m1.advance c words

/-- `st` (R283). -/
def execSt (v base : Src) (q : MemQ) (s : State) : Host.Outcome State Fault Refusal := s.store v base q 8
/-- `st32` (R283). -/
def execSt32 (v base : Src) (q : MemQ) (s : State) : Host.Outcome State Fault Refusal := s.store v base q 4
/-- `st16` (R283). -/
def execSt16 (v base : Src) (q : MemQ) (s : State) : Host.Outcome State Fault Refusal := s.store v base q 2
/-- `st8` (R283). -/
def execSt8 (v base : Src) (q : MemQ) (s : State) : Host.Outcome State Fault Refusal := s.store v base q 1

/-! The waiting forms (R286 to R289). -/

/-- A waiting form that found its location not ready: it waits in place or moors (R287). -/
def Mach.ctlNotReady (m : Mach) (c : CoreId) (key : Option W64) (wantEmpty : Bool) (ea : W64) (words : Nat) (expiry : Expiry) (atOnce : Bool) : Run :=
  let w? := m.cores[c].ctl.wait
  match w?.bind (fun w => if w.expired m.scyc then some w else none) with
  | some w =>
    match w.expiry with
    | .moor d => (m.withdraw c .control |>.onCtl c fun k => k.write d (clean 0)).advance c words
    | _ => .trap w.trap
  | none =>
    let (m1, w) := m.notReady c .control m.cores[c].ctl.ctxid key wantEmpty w? (m.newWait c .control ea words expiry true) atOnce
    .stay (m1.onCtl c fun k => { k with wait := some w })

/-- The earlier stores that a full/empty access waits for: it acts at once, so all it is ordered after are performed, and all
of the strand's for a release (R262, R264). -/
def Mach.beforeFe (m : Mach) (c : CoreId) (t : Strand) (key : Nat) (mt : MType) (cls : BitVec 4) (rel : Bool) : Mach :=
  if rel then m.flushAll c t else m.flushFor c t { loc := locOf key, cls := cls, rel := false, mtype := mt, kind := .rmw, masks := [] }

/-- An attempt of `ldwait` or `ldcons` at an address. -/
def Mach.waitLoad (m : Mach) (c : CoreId) (d : Dst) (ea : W64) (words : Nat) (consume rel : Bool) (cls : BitVec 4) : Run :=
  let finish (m : Mach) (v : Nat) : Run := (m.onCtl c fun k => k.write d (clean (zext v))).advance c words
  m.withPlace c ea 8 (if consume then .consume else .read) fun pl =>
    match pl with
    | .store key mt _ =>
      let m1 := m.beforeFe c .control key mt cls rel
      if memFull m1.mem (locOf key) then
        let v := memNat m1.mem key 8
        finish (if consume then (m1.unlogAt key).setBit (locOf key) false else m1) v
      else m.ctlNotReady c (some (moorKey c ea)) false ea words .trap false
    | .cap off => if consume then .trap { cls := .perm, addr := ea } else finish m (m.readPlace (.cap off) 8)
    | .remote home mt =>
      match m.askRemote c .control 0 home mt ea cls .rmw rel (if consume then .consume else .wait) with
      | (m1, none) => .stay m1
      | (m1, some .notReady) => m1.ctlNotReady c none false ea words .trap false
      | (m1, some a) => (remoteGot m1 ea a).run ea finish

def State.waitingLoad (s : State) (d : Dst) (base : Src) (q : MemQ) (consume : Bool) : Host.Outcome State Fault Refusal :=
  let words := 1 + litWords [base]
  s.control words fun m =>
    orTrap (s.ctl.clean? [base]) fun _ =>
      orTrap (memAddr (s.ctl.src base).val q.off 8) fun ea => m.waitLoad s.cur.core d ea words consume (Ord.isRel q.ord) q.cls

/-- `ldwait` (R286). -/
def execLdwait (d : Dst) (base : Src) (q : MemQ) (s : State) : Host.Outcome State Fault Refusal := s.waitingLoad d base q false
/-- `ldcons` (R286): data and bit are one access. -/
def execLdcons (d : Dst) (base : Src) (q : MemQ) (s : State) : Host.Outcome State Fault Refusal := s.waitingLoad d base q true

/-- `stfill` (R286): always a release; it writes an empty word and sets it full in one access. -/
def execStfill (v base : Src) (q : MemQ) (s : State) : Host.Outcome State Fault Refusal :=
  let c := s.cur.core
  let words := 1 + litWords [v, base]
  s.control words fun m =>
    orTrap (s.ctl.clean? [base, v]) fun _ =>
      orTrap (memAddr (s.ctl.src base).val q.off 8) fun ea =>
        let data := (s.ctl.src v).val
        let finish (m : Mach) : Run := (m.hash c .control ea 8 data.toNat).advance c words
        m.withPlace c ea 8 .fill fun pl =>
          match pl with
          | .store key mt _ =>
            let m1 := m.beforeFe c .control key mt q.cls true
            if memFull m1.mem (locOf key) then m.ctlNotReady c (some (moorKey c ea)) true ea words .trap false
            else finish (({ (m1.unlogAt key) with mem := storeMem m1.mem key (leBytes data.toNat 8) }).setBit (locOf key) true)
          | .cap _ => .trap { cls := .perm, addr := ea }
          | .remote home mt =>
            match m.askRemote c .control 0 home mt ea q.cls .rmw true (.fill data) with
            | (m1, none) => .stay m1
            | (m1, some .notReady) => m1.ctlNotReady c none true ea words .trap false
            | (m1, some a) => (remoteGot m1 ea a).run ea fun m2 _ => finish m2

/-- `fence` (R293): it makes no access; it orders this strand's later accesses after its earlier stores (R261). -/
def execFence (mask : BitVec 16) (s : State) : Host.Outcome State Fault Refusal :=
  let c := s.cur.core
  s.control 1 fun m => ({ m with pend := dropFences [] (m.pend ++ [Pend.fence c .control mask]) }).advance c 1

/-- `cireq` (R294): every SHAPE reports the selector. -/
def execCireq (a b : Src) (s : State) : Host.Outcome State Fault Refusal :=
  let c := s.cur.core
  let words := 1 + litWords [a, b]
  s.control words fun m =>
    orTrap (s.ctl.clean? [a, b]) fun _ =>
      let t := (s.ctl.src a).val
      let sel := (s.ctl.src b).val
      let kind := sel.toNat % 16
      let ptr : W32 := BitVec.ofNat 32 (sel.toNat / 2 ^ 32)
      let usesPtr := decide (2 ≤ kind) && decide (kind ≤ 4)
      let known := usesPtr || kind == 1 || kind == 5 || kind == 6 || kind == 8
      let late := usesPtr && decide (2 ^ 31 ≤ (ptr - (m.cores[c].rings.toList.getD (kind - 2) .absent).wp).toNat)
      if t.toNat / 2 ^ 32 ≠ 0 ∨ sel.toNat / 16 % 2 ^ 28 ≠ 0 ∨ (!usesPtr ∧ ptr ≠ 0) ∨ !known ∨ 16 ≤ s.ctl.armed.length ∨ late then
        .trap { cls := .shape, addr := sel }
      else (m.onCtl c fun k => { k with armed := k.armed ++ [{ kind := kind, ptr := ptr, tag := t.setWidth 32, target := none }] }).advance c words

end Sys2Proof.Machine
end

