-- ==== Sys2Proof/Machine/Sync.lean ====
section
/-! DEFINITION. Semaphores, mutexes, domain barriers, `moor` and `yield` (11 R323, R328, R330 to R333, R339). -/

namespace Sys2Proof.Machine

def shapeTrap : Trap := { cls := .shape, addr := 0 }

/-- `smwait` (R330): X[d] takes the value it found. -/
def execSmwait (d : Dst) (a : Src) (n : Fin 15) (s : State) : Host.Outcome State Fault Refusal :=
  let c := s.cur.core
  let words := 1 + litWords [a]
  s.control words fun m =>
    orTrap (s.ctl.clean? [a]) fun _ =>
      let v := (s.ctl.src a).val
      if 2 ^ 32 ≤ v.toNat then .trap shapeTrap
      else
        let need : W32 := v.setWidth 32
        match m.cores[c].semPassed n .control need with
        | some found =>
          ((m.onCore c fun k => k.dropWaiter n .control).onCtl c fun k => k.write d (clean (found.setWidth 64))).advance c words
        | none => (m.onCore c fun k => k.addWaiter n .control need false).blockCtl c words

/-- `smadd` (R330): a release at core scope; a clamp sets CFLAGS.SAT. -/
def execSmadd (d : Dst) (a : Src) (n : Fin 15) (s : State) : Host.Outcome State Fault Refusal :=
  let c := s.cur.core
  let words := 1 + litWords [a]
  s.control words fun m =>
    orTrap (s.ctl.clean? [a]) fun _ =>
      let v := (s.ctl.src a).val
      let i : BitVec 32 := v.setWidth 32
      if i.signExtend 64 ≠ v then .trap shapeTrap
      else
        let old := m.cores[c].sm[n]
        let sat := m.cores[c].semClamps n i.toInt
        let m1 := (m.flushAll c .control).onCore c fun k => k.semAdd n i.toInt
        (m1.onCtl c fun k => { (k.write d (clean (old.setWidth 64))) with sat := k.sat || sat }).advance c words

/-- `mxlock` (R332): the control strand is the only requester, so a free mutex is granted at once. -/
def execMxlock (n : Fin 8) (s : State) : Host.Outcome State Fault Refusal :=
  let c := s.cur.core
  s.control 1 fun m =>
    if m.cores[c].mx[n] then m.blockCtl c 1
    else (m.onCore c fun k => { k with mx := k.mx.set n true }).advance c 1

/-- `mxfree` (R332): a release at core scope; freeing a free mutex traps SHAPE. -/
def execMxfree (n : Fin 8) (s : State) : Host.Outcome State Fault Refusal :=
  let c := s.cur.core
  s.control 1 fun m =>
    if !m.cores[c].mx[n] then .trap shapeTrap
    else ((m.flushAll c .control).onCore c fun k => { k with mx := k.mx.set n false }).advance c 1

/-! Stop requests and the room a checkpoint needs (R328, 14 R421, R423). -/

/-- The clusters of a task's cores. -/
def clustersOf (cores : List CoreId) : List Nat := (cores.map clusterOf).eraseDups

/-- The slots a task's checkpoint takes: its header slot, its cores' and its CLM saves' (R421, R423). -/
def Task.slotsNeeded (t : Task) : Nat :=
  1 + t.recd.size + (clustersOf t.cores).length * ((67584 * t.recd.clmsave + 2490367) / 2490368)

/-- The lowest run of free slots of a context's pool that holds a checkpoint, by the slot of its header. -/
def Mach.freeSlots (m : Mach) (ctx need : Nat) : Option Nat :=
  match (m.ctxs[ctx]?).getD none with
  | none => none
  | some x =>
    let total := x.ckpool.toNat / 2 ^ 40
    let used : List (Nat × Nat) := m.ferry.tasks.filterMap fun t =>
      if t.ctx = ctx then t.ckpt.map fun k => (k.first - 1, k.slots) else none
    let starts := 0 :: used.map fun u => u.1 + u.2
    let good := starts.filter fun s => decide (s + need ≤ total) && used.all fun u => decide (s + need ≤ u.1) || decide (u.1 + u.2 ≤ s)
    good.min?

def Mach.onTask (m : Mach) (id : Nat) (f : Task → Task) : Mach :=
  { m with ferry := { m.ferry with tasks := m.ferry.tasks.map fun t => if t.id = id then f t else t } }

/-- A stop request reaches every strand of every core of a task (R328). -/
def Mach.requestStop (m : Mach) (t : Task) (state : TaskState) : Mach :=
  t.cores.foldl (fun m c => m.onCore c fun k => { k with stop := true }) (m.onTask t.id fun t => { t with state := state })

/-- A stop request reaches every strand of every core of a task that is to be checkpointed, and its slots of the pool are taken (R328,
14 R421). -/
def Mach.stopToSave (m : Mach) (t : Task) : Mach :=
  let ck : Option Checkpoint := (m.freeSlots t.ctx t.slotsNeeded).map fun s =>
    { first := s + 1, slots := t.slotsNeeded, cores := [], spm := [], clm := [], phases := [] }
  (m.requestStop t .stopping).onTask t.id fun t => { t with ckpt := ck }

/-- The task may be checkpointed now (R328): NOCKPT is 0 and its header and slots fit. -/
def Mach.mayCheckpoint (m : Mach) (t : Task) : Bool := !t.recd.phint.getLsbD 1 && (m.freeSlots t.ctx t.slotsNeeded).isSome

/-! Domain barriers (R333). -/

/-- The barrier of a level that a core belongs to; a core that no task runs on is a domain of its own. -/
def Mach.barrier (m : Mach) (c : CoreId) (k : Fin 4) : Barrier :=
  (m.barriers.find? fun b => b.level == k && b.members.contains c).getD
    { level := k, id := m.cores[c].dom[k].1, members := [c], remote := false, arrived := [], passed := [], bytes := 0, phase := 0 }

/-- The list of barriers with one replaced. -/
def Mach.setBarrier (m : Mach) (c : CoreId) (b : Barrier) : Mach :=
  { m with barriers := b :: m.barriers.filter fun x => !(x.level == b.level && x.members.contains c) }

/-- The phase closes: every member has arrived and the counter reads 0 (R333). `others` says whether the other packages' members
have arrived and their counters drained. -/
def Barrier.closes (b : Barrier) (others : Bool) : Bool :=
  b.members.all (fun c => b.arrived.contains c) && b.bytes == 0 && (!b.remote || others)

/-- A draining task whose barrier closes is stopped for its checkpoint at once, when it may be (R328). -/
def Mach.drainAtBarrier (m : Mach) (b : Barrier) : Mach :=
  match m.ferry.tasks.find? (fun t => t.state == .draining && t.cores.any (fun c => b.members.contains c)) with
  | some t => if m.mayCheckpoint t then m.stopToSave t else m
  | none => m

/-- A barrier examined: if it closes, the phase number rises, the arrival set empties and each member may leave. -/
def Mach.examine (m : Mach) (c : CoreId) (b : Barrier) (others : Bool) : Mach :=
  if b.closes others then
    (m.setBarrier c { b with phase := b.phase + 1, arrived := [], passed := b.members }).drainAtBarrier b
  else m.setBarrier c b

/-- Pending bytes added to or taken from a level's counter of a core (R301, R333). -/
def Mach.addBytes (m : Mach) (c : CoreId) (k : Fin 4) (d : Int) (others : Bool) : Mach :=
  let b := m.barrier c k
  m.examine c { b with bytes := ((b.bytes : Int) + d).toNat } others

/-- A member that may leave a closed barrier has not yet left it. -/
def Mach.leaving (m : Mach) (c : CoreId) : Bool := m.barriers.any fun b => b.passed.contains c

/-- `dbar` (R333). -/
def execDbar (d : Dst) (a : Src) (s : State) : Host.Outcome State Fault Refusal :=
  let c := s.cur.core
  let words := 1 + litWords [a]
  let others := Config.remoteArrived s.tick
  s.control words fun m =>
    orTrap (s.ctl.clean? [a]) fun _ =>
      let v := (s.ctl.src a).val.toNat
      if 4 ≤ v then .trap shapeTrap
      else
        let k : Fin 4 := Fin.ofNat 4 v
        let leave (m : Mach) (b : Barrier) : Run :=
          ((m.setBarrier c { b with passed := b.passed.filter (· != c) }).onCtl c fun t => t.write d (clean (b.phase.setWidth 64))).advance c words
        let b := m.barrier c k
        if b.passed.contains c then leave m b
        else
          let m1 := m.flushAll c .control
          let m2 := m1.examine c { b with arrived := if b.arrived.contains c then b.arrived else b.arrived ++ [c] } others
          let b2 := m2.barrier c k
          if b2.passed.contains c then leave m2 b2 else m2.blockCtl c words

/-! `moor` (R339). -/

/-- `moor` (R339): it makes no access and is no acquire; at its expiry X[d] := 0. -/
def execMoor (d : Dst) (a b : Src) (s : State) : Host.Outcome State Fault Refusal :=
  let c := s.cur.core
  let words := 1 + litWords [a, b]
  s.control words fun m =>
    orTrap (s.ctl.clean? [a, b]) fun _ =>
      let ea := (s.ctl.src a).val
      let want := (s.ctl.src b).val
      if 2 ≤ want.toNat then .trap shapeTrap
      else
        let empty := want == 1
        let reached (m : Mach) : Run := (m.onCtl c fun k => k.write d (clean 1)).advance c words
        m.withPlace c ea 8 .read fun pl =>
          match pl with
          | .store key _ _ =>
            if memFull m.mem (locOf key) != empty then reached m
            else m.ctlNotReady c (some (moorKey c ea)) empty ea words (.moor d) true
          | .cap _ => if empty then m.ctlNotReady c none true ea words (.moor d) true else reached m
          | .remote home mt =>
            match m.askRemote c .control 0 home mt ea 0 .load false .state with
            | (m1, none) => .stay m1
            | (m1, some .notReady) => m1.ctlNotReady c none empty ea words (.moor d) true
            | (m1, some a) => (remoteGot m1 ea a).run ea fun m2 v =>
                if (v == 1) != empty then reached m2 else m2.ctlNotReady c none empty ea words (.moor d) true

/-! `yield` (R323). -/

/-- Every operation the core forked has completed, and its vector strand has ended. -/
def Core.quiet (k : Core) : Bool :=
  k.vec.status == .ended && k.mata.flights.isEmpty && k.matb.flights.isEmpty && k.copy.flights.isEmpty && k.forked.isEmpty

/-- `yield` (R323): mode 0 a pre-emption point, modes 1 and 2 the end of the strand; any other value traps SHAPE. -/
def State.yield (s : State) (a : Src) : Host.Outcome State Fault Refusal :=
  let c := s.cur.core
  let words := 1 + litWords [a]
  s.control words fun m =>
    orTrap (s.ctl.clean? [a]) fun _ =>
      let v := (s.ctl.src a).val.toNat
      let mode := v % 4
      if bits v 7 2 ≠ 0 ∨ 2 ^ 16 ≤ v ∨ mode = 3 then .trap shapeTrap
      else if mode = 0 then
        match m.advance c words with
        | .done m1 => .done (if m1.cores[c].stop then m1.onCtl c fun k => { k with status := .stopped } else m1)
        | r => r
      else if m.cores[c].quiet then
        .done (m.onCtl c fun k => { k with status := .ended (if mode = 1 then 0 else BitVec.ofNat 8 (bits v 15 8)), wait := none })
      else m.blockCtl c words

/-- `yield` as a pre-emption point (R323). -/
def execYieldPoint (a : Src) (s : State) : Host.Outcome State Fault Refusal := s.yield a

/-- `yield` as the end of the control strand (R323). -/
def execYieldEnd (a : Src) (s : State) : Host.Outcome State Fault Refusal := s.yield a

end Sys2Proof.Machine
end

