-- ==== Sys2Proof/Machine/Alloc.lean ====
section
/-! DEFINITION. The SPM allocator (11 R334 to R336). -/

namespace Sys2Proof.Machine

def up64 (n : Nat) : Nat := (n + 63) / 64 * 64

/-- The operand rings a step word names (R335): a descriptor with SRC 0 names a ring, as a ring push does. -/
def opRings (i : Instr) : List (Fin 8) :=
  let desc (o : OpDesc) : List (Fin 8) := if o.fixed then [] else [o.ring]
  match i with
  | .mma _ m | .mmaz _ m | .mmasg _ m => desc m.opA ++ desc m.opB
  | .rpush _ _ _ rg _ => [rg]
  | _ => []

/-- A ring push to the ring is in flight, or a started step names it. -/
def Core.ringBusy (k : Core) (r : Fin 8) : Bool :=
  (k.mata.flights ++ k.matb.flights ++ k.copy.flights).any fun f => (opRings f.op).contains r

/-- What `alloc` gives: the core after it and X[d] (R335). -/
def Core.alloc (k : Core) (a kind : Nat) : Except Trap (Core × W64) :=
  let shape : Except Trap (Core × W64) := .error { cls := .shape, addr := 0 }
  let exh : Except Trap (Core × W64) := .error { cls := .allocExh, addr := 0 }
  let base := up64 k.bp
  if h : kind < 8 then
    let ss := a % 2 ^ 32
    let ns := a / 2 ^ 32 % 2 ^ 16
    if (k.rg[kind]).isSome ∨ 2 ^ 48 ≤ a ∨ ss % 64 ≠ 0 ∨ ss < 64 ∨ 65536 < ss ∨ ns < 2 ∨ 64 < ns then shape
    else if 0x100000 < base + ss * ns then exh
    else .ok ({ k with bp := base + ss * ns, rg := k.rg.set kind (some { base := base, ss := ss, ns := ns, hd := 0, filled := 0, resv := [] }) },
              BitVec.ofNat 64 base)
  else if kind = 8 then
    if 1048576 < a then shape
    else if 0x100000 < base + up64 a then exh
    else .ok ({ k with bp := base + up64 a }, BitVec.ofNat 64 base)
  else if 16 ≤ kind ∧ kind ≤ 23 then
    match k.rg.toList.getD (kind - 16) none with
    | none => shape
    | some r => .ok (k, BitVec.ofNat 64 (r.hd + r.filled * 2 ^ 8 + r.resv.length * 2 ^ 16 + r.ns * 2 ^ 24))
  else shape

/-- `alloc` in all its kinds (R335). -/
def State.allocate (s : State) (d : Dst) (a b : Src) : Host.Outcome State Fault Refusal :=
  let c := s.cur.core
  let words := 1 + litWords [a, b]
  s.control words fun m =>
    orTrap (s.ctl.clean? [a, b]) fun _ =>
      orTrap (m.cores[c].alloc (s.ctl.src a).val.toNat (s.ctl.src b).val.toNat) fun (k, v) =>
        ((m.onCore c fun _ => k).onCtl c fun t => t.write d (clean v)).advance c words

/-- `free` in all its kinds (R335): the `free` of a ring waits until nothing in flight names it. -/
def State.free (s : State) (a b : Src) : Host.Outcome State Fault Refusal :=
  let c := s.cur.core
  let words := 1 + litWords [a, b]
  s.control words fun m =>
    orTrap (s.ctl.clean? [a, b]) fun _ =>
      let v := (s.ctl.src a).val.toNat
      let kind := (s.ctl.src b).val.toNat
      let core := m.cores[c]
      if h : kind < 8 then
        if (core.rg[kind]).isNone then .trap shapeTrap
        else if core.ringBusy ⟨kind, h⟩ then m.blockCtl c words
        else (m.onCore c fun k => { k with rg := k.rg.set kind none }).advance c words
      else if kind = 8 then
        if v % 64 ≠ 0 ∨ v < core.imglen ∨ core.bp < v then .trap shapeTrap
        else (m.onCore c fun k => { k with bp := v }).advance c words
      else .trap shapeTrap

/-- `alloc` of a ring (R335). -/
def execAllocRing (d : Dst) (a b : Src) (s : State) : Host.Outcome State Fault Refusal := s.allocate d a b
/-- `alloc` of bump space (R335). -/
def execAllocBump (d : Dst) (a b : Src) (s : State) : Host.Outcome State Fault Refusal := s.allocate d a b
/-- `alloc` as a ring's status (R335). -/
def execAllocStatus (d : Dst) (a b : Src) (s : State) : Host.Outcome State Fault Refusal := s.allocate d a b
/-- `free` of a ring (R335). -/
def execFreeRing (a b : Src) (s : State) : Host.Outcome State Fault Refusal := s.free a b
/-- `free` of bump space (R335). -/
def execFreeBump (a b : Src) (s : State) : Host.Outcome State Fault Refusal := s.free a b

end Sys2Proof.Machine
end

