-- ==== Sys2Proof/Machine/Alu.lean ====
section
/-! DEFINITION. The register instructions of the control strand: the ALU group, immediates, compares, K registers,
selection, object pointers and the poison instructions (03 R87 to R92, R101). -/

namespace Sys2Proof.Machine

/-- `add` (R87). -/
def execAdd (d : Dst) (a b : Src) (s : State) : Host.Outcome State Fault Refusal := s.alu2 d a b aluAdd

/-- `sub` (R87). -/
def execSub (d : Dst) (a b : Src) (s : State) : Host.Outcome State Fault Refusal := s.alu2 d a b aluSub

/-- `mul` (R87). -/
def execMul (d : Dst) (a b : Src) (s : State) : Host.Outcome State Fault Refusal := s.alu2 d a b aluMul

/-- `mulh` (R87). -/
def execMulh (d : Dst) (a b : Src) (s : State) : Host.Outcome State Fault Refusal := s.alu2 d a b aluMulh

/-- `mulhn` (R87). -/
def execMulhn (d : Dst) (a b : Src) (s : State) : Host.Outcome State Fault Refusal := s.alu2 d a b aluMulhn

/-- `div` (R87). -/
def execDiv (d : Dst) (a b : Src) (s : State) : Host.Outcome State Fault Refusal := s.alu2 d a b aluDiv

/-- `divn` (R87). -/
def execDivn (d : Dst) (a b : Src) (s : State) : Host.Outcome State Fault Refusal := s.alu2 d a b aluDivn

/-- `rem` (R87). -/
def execRem (d : Dst) (a b : Src) (s : State) : Host.Outcome State Fault Refusal := s.alu2 d a b aluRem

/-- `remn` (R87). -/
def execRemn (d : Dst) (a b : Src) (s : State) : Host.Outcome State Fault Refusal := s.alu2 d a b aluRemn

/-- `and` (R87). -/
def execAnd (d : Dst) (a b : Src) (s : State) : Host.Outcome State Fault Refusal := s.alu2 d a b aluAnd

/-- `or` (R87). -/
def execOr (d : Dst) (a b : Src) (s : State) : Host.Outcome State Fault Refusal := s.alu2 d a b aluOr

/-- `xor` (R87). -/
def execXor (d : Dst) (a b : Src) (s : State) : Host.Outcome State Fault Refusal := s.alu2 d a b aluXor

/-- `andn` (R87). -/
def execAndn (d : Dst) (a b : Src) (s : State) : Host.Outcome State Fault Refusal := s.alu2 d a b aluAndn

/-- `shl` (R87). -/
def execShl (d : Dst) (a b : Src) (s : State) : Host.Outcome State Fault Refusal := s.alu2 d a b aluShl

/-- `shr` (R87). -/
def execShr (d : Dst) (a b : Src) (s : State) : Host.Outcome State Fault Refusal := s.alu2 d a b aluShr

/-- `sar` (R87). -/
def execSar (d : Dst) (a b : Src) (s : State) : Host.Outcome State Fault Refusal := s.alu2 d a b aluSar

/-- `rol` (R87). -/
def execRol (d : Dst) (a b : Src) (s : State) : Host.Outcome State Fault Refusal := s.alu2 d a b aluRol

/-- `min` (R87). -/
def execMin (d : Dst) (a b : Src) (s : State) : Host.Outcome State Fault Refusal := s.alu2 d a b aluMin

/-- `max` (R87). -/
def execMax (d : Dst) (a b : Src) (s : State) : Host.Outcome State Fault Refusal := s.alu2 d a b aluMax

/-- `minn` (R87). -/
def execMinn (d : Dst) (a b : Src) (s : State) : Host.Outcome State Fault Refusal := s.alu2 d a b aluMinn

/-- `maxn` (R87). -/
def execMaxn (d : Dst) (a b : Src) (s : State) : Host.Outcome State Fault Refusal := s.alu2 d a b aluMaxn

/-- `adds` (R87). -/
def execAdds (d : Dst) (a b : Src) (s : State) : Host.Outcome State Fault Refusal := s.alu2 d a b aluAdds

/-- `subs` (R87). -/
def execSubs (d : Dst) (a b : Src) (s : State) : Host.Outcome State Fault Refusal := s.alu2 d a b aluSubs

/-- `addsn` (R87). -/
def execAddsn (d : Dst) (a b : Src) (s : State) : Host.Outcome State Fault Refusal := s.alu2 d a b aluAddsn

/-- `subsn` (R87). -/
def execSubsn (d : Dst) (a b : Src) (s : State) : Host.Outcome State Fault Refusal := s.alu2 d a b aluSubsn

/-- `muls` (R87). -/
def execMuls (d : Dst) (a b : Src) (s : State) : Host.Outcome State Fault Refusal := s.alu2 d a b aluMuls

/-- `padd` (R92). -/
def execPadd (d : Dst) (a b : Src) (s : State) : Host.Outcome State Fault Refusal := s.alu2 d a b aluPadd

/-- `psub` (R92). -/
def execPsub (d : Dst) (a b : Src) (s : State) : Host.Outcome State Fault Refusal := s.alu2 d a b aluPsub

/-- `pmake` (R92). -/
def execPmake (d : Dst) (a b : Src) (s : State) : Host.Outcome State Fault Refusal := s.alu2 d a b aluPmake

/-- `abs` (R87). -/
def execAbs (d : Dst) (a : Src) (s : State) : Host.Outcome State Fault Refusal := s.alu1 d a aluAbs

/-- `neg` (R87). -/
def execNeg (d : Dst) (a : Src) (s : State) : Host.Outcome State Fault Refusal := s.alu1 d a aluNeg

/-- `clz` (R87). -/
def execClz (d : Dst) (a : Src) (s : State) : Host.Outcome State Fault Refusal := s.alu1 d a aluClz

/-- `ctz` (R87). -/
def execCtz (d : Dst) (a : Src) (s : State) : Host.Outcome State Fault Refusal := s.alu1 d a aluCtz

/-- `popc` (R87). -/
def execPopc (d : Dst) (a : Src) (s : State) : Host.Outcome State Fault Refusal := s.alu1 d a aluPopc

/-- `sext8` (R87). -/
def execSext8 (d : Dst) (a : Src) (s : State) : Host.Outcome State Fault Refusal := s.alu1 d a aluSext8

/-- `sext16` (R87). -/
def execSext16 (d : Dst) (a : Src) (s : State) : Host.Outcome State Fault Refusal := s.alu1 d a aluSext16

/-- `sext32` (R87). -/
def execSext32 (d : Dst) (a : Src) (s : State) : Host.Outcome State Fault Refusal := s.alu1 d a aluSext32

/-- `mov` (R87). -/
def execMov (d : Dst) (a : Src) (s : State) : Host.Outcome State Fault Refusal := s.alu1 d a aluMov

/-- `phdl` (R92). -/
def execPhdl (d : Dst) (a : Src) (s : State) : Host.Outcome State Fault Refusal := s.alu1 d a aluPhdl

/-- `poff` (R92). -/
def execPoff (d : Dst) (a : Src) (s : State) : Host.Outcome State Fault Refusal := s.alu1 d a aluPoff

/-- `addi`: B is imm15 sign-extended (R88). -/
def execAddi (d : Dst) (a : Src) (imm : BitVec 15) (s : State) : Host.Outcome State Fault Refusal :=
  s.alu1 d a fun x => aluAdd x (immS imm)

/-- `andi`: B is imm15 sign-extended (R88). -/
def execAndi (d : Dst) (a : Src) (imm : BitVec 15) (s : State) : Host.Outcome State Fault Refusal :=
  s.alu1 d a fun x => aluAnd x (immS imm)

/-- `ori`: B is imm15 sign-extended (R88). -/
def execOri (d : Dst) (a : Src) (imm : BitVec 15) (s : State) : Host.Outcome State Fault Refusal :=
  s.alu1 d a fun x => aluOr x (immS imm)

/-- `xori`: B is imm15 sign-extended (R88). -/
def execXori (d : Dst) (a : Src) (imm : BitVec 15) (s : State) : Host.Outcome State Fault Refusal :=
  s.alu1 d a fun x => aluXor x (immS imm)

/-- `paddi`: B is imm15 sign-extended (R92). -/
def execPaddi (d : Dst) (a : Src) (imm : BitVec 15) (s : State) : Host.Outcome State Fault Refusal :=
  s.alu1 d a fun x => aluPadd x (immS imm)

/-- `shli`: B is the amount (R88). -/
def execShli (d : Dst) (a : Src) (amount : BitVec 6) (s : State) : Host.Outcome State Fault Refusal :=
  s.alu1 d a fun x => aluShl x (amount.setWidth 64)

/-- `shri`: B is the amount (R88). -/
def execShri (d : Dst) (a : Src) (amount : BitVec 6) (s : State) : Host.Outcome State Fault Refusal :=
  s.alu1 d a fun x => aluShr x (amount.setWidth 64)

/-- `sari`: B is the amount (R88). -/
def execSari (d : Dst) (a : Src) (amount : BitVec 6) (s : State) : Host.Outcome State Fault Refusal :=
  s.alu1 d a fun x => aluSar x (amount.setWidth 64)

/-- `roli`: B is the amount (R88). -/
def execRoli (d : Dst) (a : Src) (amount : BitVec 6) (s : State) : Host.Outcome State Fault Refusal :=
  s.alu1 d a fun x => aluRol x (amount.setWidth 64)

/-- `movi` (R88). -/
def execMovi (d : Dst) (imm : BitVec 15) (s : State) : Host.Outcome State Fault Refusal :=
  s.ctlStep 1 fun k => .ok (k.propagate d [] (plain (immS imm)))

/-- `cmp`: a poisoned source traps and leaves K[d] (R89). -/
def execCmp (k : Fin 8) (a b : Src) (c : Cond) (s : State) : Host.Outcome State Fault Refusal :=
  s.ctlStep (1 + litWords [a, b]) fun t => do
    t.clean? [a, b]
    .ok (t.setK k (condHolds c (t.src a).val (t.src b).val))

/-- `cmpi`: B is the signed 11-bit immediate (R89). -/
def execCmpi (k : Fin 8) (a : Src) (c : Cond) (imm : BitVec 11) (s : State) : Host.Outcome State Fault Refusal :=
  s.ctlStep (1 + litWords [a]) fun t => do
    t.clean? [a]
    .ok (t.setK k (condHolds c (t.src a).val (imm.signExtend 64)))

/-- `sel`: propagating over both sources (R91). -/
def execSel (d : Dst) (a b : Src) (k : Fin 8) (s : State) : Host.Outcome State Fault Refusal :=
  s.ctlStep (1 + litWords [a, b]) fun t =>
    .ok (t.propagate d [t.src a, t.src b] (plain (if t.k[k] then (t.src a).val else (t.src b).val)))

/-- `kand` (R90). -/
def execKand (d a b : Fin 8) (s : State) : Host.Outcome State Fault Refusal := s.ctlStep 1 fun t => .ok (t.setK d (t.k[a] && t.k[b]))

/-- `kor` (R90). -/
def execKor (d a b : Fin 8) (s : State) : Host.Outcome State Fault Refusal := s.ctlStep 1 fun t => .ok (t.setK d (t.k[a] || t.k[b]))

/-- `kxor` (R90). -/
def execKxor (d a b : Fin 8) (s : State) : Host.Outcome State Fault Refusal := s.ctlStep 1 fun t => .ok (t.setK d (t.k[a] != t.k[b]))

/-- `knot` (R90). -/
def execKnot (d a : Fin 8) (s : State) : Host.Outcome State Fault Refusal := s.ctlStep 1 fun t => .ok (t.setK d (!t.k[a]))

/-- `kmov` (R90). -/
def execKmov (d a : Fin 8) (s : State) : Host.Outcome State Fault Refusal := s.ctlStep 1 fun t => .ok (t.setK d t.k[a])

/-- `csel`: commits the value with its tag, or leaves X[d] (R101). -/
def execCsel (d : Dst) (a : Src) (k : Fin 8) (s : State) : Host.Outcome State Fault Refusal :=
  s.ctlStep (1 + litWords [a]) fun t => .ok (if t.k[k] then t.write d (t.src a) else t)

/-- `pchk` (R101). -/
def execPchk (k : Fin 8) (a : Src) (s : State) : Host.Outcome State Fault Refusal :=
  s.ctlStep (1 + litWords [a]) fun t => .ok (t.setK k ((t.src a).tag == 0))

/-- `pclr` (R101). -/
def execPclr (d : Dst) (a : Src) (s : State) : Host.Outcome State Fault Refusal :=
  s.ctlStep (1 + litWords [a]) fun t => .ok (t.write d (clean (t.src a).val))

end Sys2Proof.Machine
end

