-- ==== Sys2Proof/Machine/Num.lean ====
section
/-! DEFINITION. Number formats, the one rounding rule, conversions and the special functions (04 R106 to R131). An exact
result is an integer times a power of two, with a mark when the true value lies strictly above it and below the next
integer; `roundTo` rounds it once. -/

namespace Sys2Proof.Machine

/-- The families of special values (R106): IEEE infinities and NaNs; E4M3's one NaN; all encodings finite; UE8M12. -/
inductive FmtKind where
  | ieee | e4m3 | finite | scale
  deriving DecidableEq, Repr

/-- A floating-point format (R106). -/
structure Fmt where
  eb : Nat
  fb : Nat
  bias : Nat
  kind : FmtKind
  deriving DecidableEq, Repr

def fp32 : Fmt := { eb := 8, fb := 23, bias := 127, kind := .ieee }
def bf16 : Fmt := { eb := 8, fb := 7, bias := 127, kind := .ieee }
def fp16 : Fmt := { eb := 5, fb := 10, bias := 15, kind := .ieee }
def e5m2 : Fmt := { eb := 5, fb := 2, bias := 15, kind := .ieee }
def e4m3 : Fmt := { eb := 4, fb := 3, bias := 7, kind := .e4m3 }
def e3m2 : Fmt := { eb := 3, fb := 2, bias := 3, kind := .finite }
def e2m3 : Fmt := { eb := 2, fb := 3, bias := 1, kind := .finite }
def e2m1 : Fmt := { eb := 2, fb := 1, bias := 1, kind := .finite }
def fx40 : Fmt := { eb := 8, fb := 31, bias := 127, kind := .ieee }
def ue8m12 : Fmt := { eb := 8, fb := 12, bias := 127, kind := .scale }

/-- The floating-point format of a type code of R53; the integer types have none. -/
def fmtOf (t : Nat) : Option Fmt :=
  match t with
  | 0 => some fp32
  | 1 => some bf16
  | 2 => some fp16
  | 3 => some e4m3
  | 4 => some e5m2
  | 5 => some e2m3
  | 6 => some e3m2
  | 7 => some e2m1
  | _ => none

/-- EMIN: the exponent of the smallest normal value. -/
def Fmt.emin (f : Fmt) : Int := 1 - (f.bias : Int)
/-- The bits without the sign. -/
def Fmt.magBits (f : Fmt) : Nat := f.eb + f.fb
/-- The encoding of the largest finite magnitude. -/
def Fmt.maxMag (f : Fmt) : Nat :=
  match f.kind with
  | .ieee => (2 ^ f.eb - 1) * 2 ^ f.fb - 1
  | .e4m3 => 2 ^ f.magBits - 2
  | .finite => 2 ^ f.magBits - 1
  | .scale => (2 ^ f.eb - 1) * 2 ^ f.fb - 1
/-- The encoding of infinity, for the formats that have one. -/
def Fmt.infMag (f : Fmt) : Nat := (2 ^ f.eb - 1) * 2 ^ f.fb
/-- The canonical NaN (R109); the formats without a NaN give +0 (R119). -/
def Fmt.nan (f : Fmt) : Nat :=
  match f.kind with
  | .ieee => f.infMag + 2 ^ (f.fb - 1)
  | .e4m3 => 2 ^ f.magBits - 1
  | .finite => 0
  | .scale => f.infMag
def Fmt.withSign (f : Fmt) (neg : Bool) (mag : Nat) : Nat := if neg then 2 ^ f.magBits + mag else mag

/-- An exact value: NaN, signalling or not; an infinity; or (-1)^neg * (man + d) * 2^exp, where d = 0 without `more` and lies
strictly between 0 and 1 with it. -/
inductive Ex where
  | nan (sig : Bool)
  | inf (neg : Bool)
  | fin (neg : Bool) (man : Nat) (exp : Int) (more : Bool)
  deriving DecidableEq, Repr

def Ex.zero (neg : Bool) : Ex := .fin neg 0 0 false
def Ex.one (neg : Bool) : Ex := .fin neg 1 0 false
def Ex.isNan : Ex → Bool
  | .nan _ => true
  | _ => false
def Ex.isSig : Ex → Bool
  | .nan s => s
  | _ => false
def Ex.isZero : Ex → Bool
  | .fin _ 0 _ false => true
  | _ => false
def Ex.neg? : Ex → Bool
  | .nan _ => false
  | .inf n => n
  | .fin n _ _ _ => n
def Ex.negate : Ex → Ex
  | .nan s => .nan s
  | .inf n => .inf (!n)
  | .fin n m e d => .fin (!n) m e d
def Ex.ofInt (v : Int) : Ex := .fin (decide (v < 0)) v.natAbs 0 false

/-- The sticky flags of R121. -/
structure FpFlags where
  nv : Bool := false
  dz : Bool := false
  of : Bool := false
  uf : Bool := false
  nx : Bool := false
  sat : Bool := false
  deriving DecidableEq, Repr

def FpFlags.or (a b : FpFlags) : FpFlags :=
  { nv := a.nv || b.nv, dz := a.dz || b.dz, of := a.of || b.of, uf := a.uf || b.uf, nx := a.nx || b.nx, sat := a.sat || b.sat }
def FpFlags.invalid (b : Bool) : FpFlags := { nv := b }

/-- A result's bits and the flags raised. -/
structure FpOut where
  bits : Nat
  fl : FpFlags
  deriving DecidableEq, Repr

/-- The value of an encoding (R107); a NaN is signalling in FP32, BF16 and FP16 when its top fraction bit is 0 (R109). -/
def Fmt.decode (f : Fmt) (v : Nat) : Ex :=
  let neg := f.kind != .scale && v / 2 ^ f.magBits % 2 == 1
  let mag := v % 2 ^ f.magBits
  let e := mag / 2 ^ f.fb
  let fr := mag % 2 ^ f.fb
  let special : Option Ex :=
    match f.kind with
    | .ieee =>
      if e = 2 ^ f.eb - 1 then
        if fr = 0 then some (.inf neg) else some (.nan (decide (f.fb ≠ 2) && decide (fr < 2 ^ (f.fb - 1))))
      else none
    | .e4m3 => if mag = 2 ^ f.magBits - 1 then some (.nan false) else none
    | .finite => none
    | .scale => if e = 2 ^ f.eb - 1 then some (.nan false) else none
  special.getD
    (if e = 0 then .fin neg fr (1 - (f.bias : Int) - f.fb) false
     else .fin neg (2 ^ f.fb + fr) ((e : Int) - f.bias - f.fb) false)

/-- The rounding modes by code (R118). -/
inductive RMode where
  | rne | rtz | rup | rdn | rna
  deriving DecidableEq, Repr

def rmodeOf (c : BitVec 3) : RMode :=
  match c.toNat with
  | 0 => .rne
  | 1 => .rtz
  | 2 => .rup
  | 3 => .rdn
  | _ => .rna

/-- Whether a magnitude lo + r goes up, r being a remainder below `unit` with `more` above it, and `lo` odd or not (R119). -/
def roundsUp (mode : RMode) (neg odd : Bool) (r unit : Nat) (more : Bool) : Bool :=
  let inexact := r != 0 || more
  match mode with
  | .rne => decide (unit < 2 * r) || (2 * r == unit && (more || odd))
  | .rna => decide (unit ≤ 2 * r)
  | .rtz => false
  | .rup => inexact && !neg
  | .rdn => inexact && neg

/-- `Overflow` of R120. -/
def Fmt.overflow (f : Fmt) (neg : Bool) (mode : RMode) (sat : Bool) : Nat :=
  let toMax : Bool := sat ||
    (match mode with
     | .rne | .rna => false
     | .rtz => true
     | .rup => neg
     | .rdn => !neg)
  match f.kind with
  | .ieee => f.withSign neg (if toMax then f.maxMag else f.infMag)
  | .e4m3 => if toMax then f.withSign neg f.maxMag else f.nan
  | .finite => f.withSign neg f.maxMag
  | .scale => f.maxMag

/-- `InfOut` of R119. -/
def Fmt.infOut (f : Fmt) (neg : Bool) (sat : Bool) : FpOut :=
  match f.kind with
  | .ieee => { bits := f.withSign neg f.infMag, fl := {} }
  | .e4m3 => { bits := if sat then f.withSign neg f.maxMag else f.nan, fl := { nv := true } }
  | .finite => { bits := f.withSign neg f.maxMag, fl := { nv := true } }
  | .scale => { bits := f.nan, fl := {} }

/-- `NaNOut` of R119: the formats without a NaN give +0 and NV. A NaN going into E4M3 raises NV as R121 states. -/
def Fmt.nanOut (f : Fmt) : FpOut :=
  match f.kind with
  | .finite => { bits := 0, fl := { nv := true } }
  | .e4m3 => { bits := f.nan, fl := { nv := true } }
  | _ => { bits := f.nan, fl := {} }

/-- `Round` of R119. -/
def Fmt.round (f : Fmt) (x : Ex) (mode : RMode) (sat : Bool) : FpOut :=
  match x with
  | .nan _ => f.nanOut
  | .inf n => f.infOut n sat
  | .fin neg m e more =>
    if m = 0 ∧ !more then { bits := f.withSign neg 0, fl := {} }
    else
      let ex : Int := max ((Nat.log2 m : Int) + e) f.emin
      let k : Int := ex - f.fb
      let (lo, r, unit) : Nat × Nat × Nat :=
        if k ≤ e then (m * 2 ^ (e - k).toNat, 0, 2)
        else (m / 2 ^ (k - e).toNat, m % 2 ^ (k - e).toNat, 2 ^ (k - e).toNat)
      let inexact := r != 0 || more
      let v := if roundsUp mode neg (lo % 2 == 1) r unit more then lo + 1 else lo
      let uf := inexact && ex == f.emin && decide (v < 2 ^ f.fb)
      let mag : Nat := if v < 2 ^ f.fb then v else ((ex + f.bias - 1).toNat) * 2 ^ f.fb + v
      if f.maxMag < mag then { bits := f.overflow neg mode sat, fl := { of := true, nx := true, uf := uf } }
      else { bits := f.withSign neg mag, fl := { nx := inexact, uf := uf } }

/-- `RoundFX40` of R111: no flag. -/
def roundFx40 (x : Ex) : Nat := (fx40.round x .rne false).bits

/-! Exact arithmetic. The invalid-operation signal is the second part. -/

/-- Two finite values on one exponent. -/
def alignInt (na : Bool) (ma : Nat) (ea : Int) (nb : Bool) (mb : Nat) (eb : Int) : Int × Int × Int :=
  let e := min ea eb
  let a : Int := (ma * 2 ^ (ea - e).toNat : Nat)
  let b : Int := (mb * 2 ^ (eb - e).toNat : Nat)
  (if na then -a else a, if nb then -b else b, e)

/-- A sum (R109): an exact cancellation is +0, or -0 under rounding toward minus infinity. -/
def Ex.add (x y : Ex) (mode : RMode) : Ex × Bool :=
  match x, y with
  | .nan s, y => (.nan false, s || y.isSig)
  | x, .nan s => (.nan false, s || x.isSig)
  | .inf a, .inf b => if a = b then (.inf a, false) else (.nan false, true)
  | .inf a, _ => (.inf a, false)
  | _, .inf b => (.inf b, false)
  | .fin na ma ea _, .fin nb mb eb _ =>
    let (a, b, e) := alignInt na ma ea nb mb eb
    let s := a + b
    if s = 0 then (.zero (if na = nb then na else mode == .rdn), false)
    else (.fin (decide (s < 0)) s.natAbs e false, false)

def Ex.mul (x y : Ex) : Ex × Bool :=
  match x, y with
  | .nan s, y => (.nan false, s || y.isSig)
  | x, .nan s => (.nan false, s || x.isSig)
  | .inf a, y => if y.isZero then (.nan false, true) else (.inf (a != y.neg?), false)
  | x, .inf b => if x.isZero then (.nan false, true) else (.inf (x.neg? != b), false)
  | .fin na ma ea _, .fin nb mb eb _ => (.fin (na != nb) (ma * mb) (ea + eb) false, false)

/-- x * y + z, to be rounded once. Whether 0 times an infinity plus a quiet NaN signals is the implementation's choice under
IEEE 754-2019. -/
def Ex.fma (x y z : Ex) (mode : RMode) : Ex × Bool :=
  if x.isNan || y.isNan then (.nan false, x.isSig || y.isSig || z.isSig)
  else
    let (p, bad) := x.mul y
    if z.isNan then (.nan false, z.isSig || (bad && Config.fmaNanInvalid))
    else if bad then (.nan false, true)
    else p.add z mode

/-- x < y for values that are not NaN; the zeros are equal. -/
def Ex.lt (x y : Ex) : Bool :=
  match x, y with
  | .nan _, _ => false
  | _, .nan _ => false
  | .inf a, .inf b => a && !b
  | .inf a, _ => a
  | _, .inf b => !b
  | .fin na ma ea _, .fin nb mb eb _ => let (a, b, _) := alignInt na ma ea nb mb eb; decide (a < b)

def Ex.eq (x y : Ex) : Bool := !x.isNan && !y.isNan && !x.lt y && !y.lt x

/-- Min or max (R109): a number beats a NaN, two NaNs give a NaN, and -0 lies below +0. -/
def Ex.minMax (max : Bool) (x y : Ex) : Ex :=
  if x.isNan then (if y.isNan then .nan false else y)
  else if y.isNan then x
  else
    let xFirst := x.lt y || (!(y.lt x) && x.isZero && x.neg?)
    if xFirst != max then x else y

/-- A signalling NaN among the operands (R109, R121). -/
def anySig (xs : List Ex) : Bool := xs.any Ex.isSig

/-! Conversions (R122 to R124). -/

/-- A conversion of a floating-point value (R122): into a format that holds every finite value of the source it is exact. -/
def cvtFloat (x : Ex) (to_ : Fmt) (mode : RMode) (sat : Bool) : FpOut :=
  let o := to_.round x mode sat
  { o with fl := { o.fl with nv := o.fl.nv || x.isSig } }

/-- Rounded to an integer; infinities stay (R123). -/
def Ex.toIntegral (x : Ex) (mode : RMode) : Option (Int × Bool) :=
  match x with
  | .fin neg m e more =>
    let (lo, r, unit) : Nat × Nat × Nat :=
      if 0 ≤ e then (m * 2 ^ e.toNat, 0, 2) else (m / 2 ^ (-e).toNat, m % 2 ^ (-e).toNat, 2 ^ (-e).toNat)
    let v := if roundsUp mode neg (lo % 2 == 1) r unit more then lo + 1 else lo
    some (if neg then -(v : Int) else v, r != 0 || more)
  | _ => none

/-- The bounds of an integer type of R53 by code: I8, I16, I32, N8, N16, N32 (R116). -/
def intBits (t : Nat) : Nat :=
  match t with
  | 8 | 11 => 8
  | 9 | 12 => 16
  | _ => 32
def intSigned (t : Nat) : Bool := decide (t < 11)
def intMin (t : Nat) : Int := if intSigned t then -(2 ^ (intBits t - 1) : Int) else 0
def intMax (t : Nat) : Int := if intSigned t then 2 ^ (intBits t - 1) - 1 else 2 ^ intBits t - 1

/-- An integer value of a type from its low bits (R116). -/
def intVal (t : Nat) (v : Nat) : Int :=
  let n := intBits t
  let w := v % 2 ^ n
  if intSigned t ∧ 2 ^ (n - 1) ≤ w then (w : Int) - 2 ^ n else w

/-- `WrapT` and `SatT` of R117, as integers in T's range. -/
def wrapT (t : Nat) (v : Int) : Int := intVal t (v % 2 ^ intBits t).toNat
def satT (t : Nat) (v : Int) : Int × Bool :=
  if v < intMin t then (intMin t, true) else if intMax t < v then (intMax t, true) else (v, false)

/-- `CvtToInt` of R123. -/
def cvtToInt (x : Ex) (t : Nat) (mode : RMode) : Int × FpFlags :=
  match x with
  | .nan _ => (0, { nv := true })
  | .inf neg => (if neg then intMin t else intMax t, { nv := true })
  | x =>
    match x.toIntegral mode with
    | none => (0, { nv := true })
    | some (n, inexact) =>
      if n < intMin t then (intMin t, { nv := true })
      else if intMax t < n then (intMax t, { nv := true })
      else (n, { nx := inexact })

/-! Block scales (R113 to R115). -/

/-- An E8M0 byte widened (R114). -/
def widenE8m0 (b : Nat) : Nat := if b = 255 then 0xFF000 else if b = 0 then 0x800 else b * 2 ^ 12

/-- An E4M3 byte widened (R114). -/
def widenE4m3 (b : Nat) : Nat :=
  match e4m3.decode b with
  | .fin neg m e d => if m = 0 then 0 else if neg then 0xFF000 else (ue8m12.round (.fin false m e d) .rne true).bits
  | _ => 0xFF000

/-- A scale formed from an FP32 value (R114), with its flags. -/
def scaleOfFp32 (v : Nat) : FpOut :=
  match fp32.decode v with
  | .fin neg m e d =>
    if m = 0 then { bits := 0, fl := {} }
    else if neg then { bits := 0xFF000, fl := {} }
    else ue8m12.round (.fin false m e d) .rne true
  | _ => { bits := 0xFF000, fl := {} }

/-! Special functions (R125, R126). -/

/-- The integer square root, bit by bit from 2^b down. -/
def isqrt (n : Nat) : Nat → Nat → Nat
  | 0, acc => acc
  | b + 1, acc => isqrt n b (if (acc + 2 ^ b) * (acc + 2 ^ b) ≤ n then acc + 2 ^ b else acc)

/-- A finite nonzero magnitude's reciprocal, as 300 bits and more. -/
def recipMag (m : Nat) (e : Int) : Nat × Int × Bool := (2 ^ 400 / m, -400 - e, 2 ^ 400 % m != 0)

/-- The square root of m * 2^e. -/
def sqrtMag (m : Nat) (e : Int) : Nat × Int × Bool :=
  let (m1, e1) := if e % 2 = 0 then (m, e) else (2 * m, e - 1)
  let n := m1 * 2 ^ 200
  let s := isqrt n 180 0
  (s, e1 / 2 - 100, s * s != n)

/-- The reciprocal square root of m * 2^e: an exact result comes only of an even power of two. -/
def rsqrtMag (m : Nat) (e : Int) : Nat × Int × Bool :=
  let (m1, e1) := if e % 2 = 0 then (m, e) else (2 * m, e - 1)
  let s := isqrt (2 ^ 300 / m1) 180 0
  (s, -150 - e1 / 2, s * s * m1 != 2 ^ 300)

/-- Fixed-point values have this many fraction bits. -/
def fxQ : Nat := 320

/-- The sum of the odd powers of s = p / q over their exponents, in fixed point: the inverse hyperbolic tangent. -/
def atanhSum (p q : Nat) : Nat → Nat → Nat → Nat
  | 0, _, _ => 0
  | n + 1, k, term => term / (2 * k + 1) + atanhSum p q n (k + 1) (term * p * p / (q * q))

/-- ln of p / q, for p / q from 1 to 2: twice the inverse hyperbolic tangent of (p - q) / (p + q). -/
def lnFx (p q : Nat) : Nat := 2 * atanhSum (p - q) (p + q) 110 0 (2 ^ fxQ * (p - q) / (p + q))

def ln2Fx : Nat := lnFx 2 1

/-- The exponential of a fixed-point value below 1, by its series. -/
def expSum (z : Nat) : Nat → Nat → Nat → Nat
  | 0, _, _ => 0
  | n + 1, k, term => term + expSum z n (k + 1) (term * z / 2 ^ fxQ / (k + 1))

/-- 2 to a fixed-point power below 1. -/
def exp2Fx (f : Nat) : Nat := expSum (f * ln2Fx / 2 ^ fxQ) 80 0 (2 ^ fxQ)

/-- A magnitude as a fixed-point value. -/
def toFx (m : Nat) (e : Int) : Nat :=
  let k : Int := e + fxQ
  if 0 ≤ k then m * 2 ^ k.toNat else m / 2 ^ (-k).toNat

/-- e to the power -a, for a fixed-point a: (mantissa, exponent). -/
def expNeg (a : Nat) : Nat × Int :=
  let y := a * 2 ^ fxQ / ln2Fx
  let n := y / 2 ^ fxQ + 1
  (exp2Fx (n * 2 ^ fxQ - y), -(n : Int) - fxQ)

/-- A result strictly below a magnitude and above every format's neighbour of it. -/
def justBelow (neg : Bool) (m : Nat) (e : Int) : Ex := .fin neg (m * 2 ^ 200 - 1) (e - 200) true

def exRcp (x : Ex) : Ex × FpFlags :=
  match x with
  | .nan s => (.nan false, .invalid s)
  | .inf n => (.zero n, {})
  | .fin n m e _ =>
    if m = 0 then (.inf n, { dz := true }) else let (q, k, more) := recipMag m e; (.fin n q k more, {})

def exRsqrt (x : Ex) : Ex × FpFlags :=
  match x with
  | .nan s => (.nan false, .invalid s)
  | .inf n => if n then (.nan false, .invalid true) else (.zero false, {})
  | .fin n m e _ =>
    if m = 0 then (.inf n, { dz := true })
    else if n then (.nan false, .invalid true)
    else let (q, k, more) := rsqrtMag m e; (.fin false q k more, {})

def exSqrt (x : Ex) : Ex × FpFlags :=
  match x with
  | .nan s => (.nan false, .invalid s)
  | .inf n => if n then (.nan false, .invalid true) else (.inf false, {})
  | .fin n m e _ =>
    if m = 0 then (.zero n, {})
    else if n then (.nan false, .invalid true)
    else let (q, k, more) := sqrtMag m e; (.fin false q k more, {})

/-- 2^x: exact for integers from -149 to 127; from 128 an overflow, and at -150 and below it rounds to +0. -/
def exExp2 (x : Ex) : Ex × FpFlags :=
  match x with
  | .nan s => (.nan false, .invalid s)
  | .inf n => if n then (.zero false, {}) else (.inf false, {})
  | .fin n m e _ =>
    if m = 0 then (.one false, {})
    else if 10 < (Nat.log2 m : Int) + e then
      if n then (.fin false 1 (-1000) true, {}) else (.fin false 1 1000 false, {})
    else
      let whole := if 0 ≤ e then m * 2 ^ e.toNat else m / 2 ^ (-e).toNat
      let isInt := decide (0 ≤ e) || m % 2 ^ (-e).toNat == 0
      if isInt then (.fin false 1 (if n then -(whole : Int) else whole) false, {})
      else
        let a := toFx m e
        if n then
          if whole < 200 then (.fin false (exp2Fx ((whole + 1) * 2 ^ fxQ - a)) (-((whole + 1 : Nat) : Int) - fxQ) true, {})
          else (.fin false 1 (-1000) true, {})
        else (.fin false (exp2Fx (a - whole * 2 ^ fxQ)) ((whole : Int) - fxQ) true, {})

def exLog2 (x : Ex) : Ex × FpFlags :=
  match x with
  | .nan s => (.nan false, .invalid s)
  | .inf n => if n then (.nan false, .invalid true) else (.inf false, {})
  | .fin n m e _ =>
    if m = 0 then (.inf true, { dz := true })
    else if n then (.nan false, .invalid true)
    else
      let l := Nat.log2 m
      let k : Int := (l : Int) + e
      if m = 2 ^ l then (.ofInt k, {})
      else
        let v : Int := k * 2 ^ fxQ + ((lnFx m (2 ^ l) * 2 ^ fxQ / ln2Fx : Nat) : Int)
        (.fin (decide (v < 0)) v.natAbs (-(fxQ : Int)) true, {})

def exTanh (x : Ex) : Ex × FpFlags :=
  match x with
  | .nan s => (.nan false, .invalid s)
  | .inf n => (.one n, {})
  | .fin n m e _ =>
    if m = 0 then (.zero n, {})
    else
      let mag : Int := (Nat.log2 m : Int) + e
      if mag < -13 then (justBelow n m e, {})
      else if 5 < mag then (justBelow n 1 0, {})
      else
        let (q, k) := expNeg (2 * toFx m e)
        let t := toFx q k
        (.fin n ((2 ^ fxQ - t) * 2 ^ fxQ / (2 ^ fxQ + t)) (-(fxQ : Int)) true, {})

def exSigm (x : Ex) : Ex × FpFlags :=
  match x with
  | .nan s => (.nan false, .invalid s)
  | .inf n => (if n then .zero false else .one false, {})
  | .fin n m e _ =>
    if m = 0 then (.fin false 1 (-1) false, {})
    else if 7 < (Nat.log2 m : Int) + e then (if n then .fin false 1 (-1000) true else justBelow false 1 0, {})
    else
      let (q, k) := expNeg (toFx m e)
      let t := toFx q k
      if n then
        -- e^x / (1 + e^x), with the exponential kept at its own exponent
        (.fin false (q * 2 ^ fxQ / (2 ^ fxQ + t)) k true, {})
      else (.fin false (2 ^ fxQ * 2 ^ fxQ / (2 ^ fxQ + t)) (-(fxQ : Int)) true, {})

end Sys2Proof.Machine
end

