-- ==== Sys2Proof/Machine/Atomic.lean ====
section
/-! DEFINITION. The control strand's atomics (10 R290 to R292), with the log and the lock gate (14 R426). -/

namespace Sys2Proof.Machine

/-- The size of an atomic's access (R290). -/
def atomSize (op : AtomOp) : Nat :=
  match op with
  | .fadd => 4
  | _ => 8

/-- FP32 addition to nearest-even with the canonical NaN, as `afadd` adds (R290). -/
def fp32Add (a b : W64) : W64 :=
  BitVec.ofNat 64 (fp32.round ((fp32.decode a.toNat).add (fp32.decode b.toNat) .rne).1 .rne false).bits

/-- The new value of an atomic: `m` the old value, `v` the operand, `e` the expected value (R290). -/
def atomNew (op : AtomOp) (m v e : W64) : W64 :=
  match op with
  | .add => m + v
  | .fadd => fp32Add m (v.setWidth 32 |>.setWidth 64)
  | .xchg => v
  | .cas => if m = e then v else m
  | .min => if m.toInt ≤ v.toInt then m else v
  | .max => if m.toInt ≤ v.toInt then v else m
  | .minn => if m.toNat ≤ v.toNat then m else v
  | .maxn => if m.toNat ≤ v.toNat then v else m
  | .and => m &&& v
  | .or => m ||| v
  | .xor => m ^^^ v

/-- An atomic performed at a storage address: the new bytes are written and the old value is answered. The bit stays. -/
def Mach.atomAt (m : Mach) (key : Nat) (op : AtomOp) (v e : W64) : Mach × W64 :=
  let n := atomSize op
  let old := BitVec.ofNat 64 (memNat m.mem key n)
  ({ m with mem := memSetBytes m.mem key (leBytes (atomNew op old v e).toNat n) }, old)

/-- A held atomic waits under the strand's budget, and traps REPLAY_DIV at its end (R426). -/
def Mach.holdAtomic (m : Mach) (c : CoreId) (ea : W64) (words : Nat) : Run := m.blockOn c (m.newWait c .control ea words .replay false)

/-- The control strand's atomics. A release waits for every earlier store of the strand; the old value goes to `d`. The
sources are checked in the order base, operand, expected (R74). -/
def State.atomic (s : State) (op : AtomOp) (d : Dst) (base b : Src) (e : Option Src) (q : AtomQ) : Host.Outcome State Fault Refusal :=
  let c := s.cur.core
  let k := s.ctl
  let srcs := [base, b] ++ e.toList
  let words := 1 + litWords srcs
  s.control words fun m =>
    orTrap (k.clean? srcs) fun _ =>
      orTrap (memAddr (k.src base).val 0 (atomSize op)) fun ea =>
        let v := (k.src b).val
        let ex := ((e.map k.src).getD (clean 0)).val
        let n := atomSize op
        let finish (m : Mach) (old : W64) : Run :=
          ((m.hash c .control ea n ((atomNew op old v ex).toNat % 256 ^ n)).onCtl c fun k => k.write d (clean old)).advance c words
        m.withPlace c ea n .atomic fun pl =>
          match pl with
          | .store key mt _ =>
            match m.gate k.ctxid (locOf key) (logId c .control) with
            | none => m.holdAtomic c ea words
            | some m1 =>
              let (m2, old) := (m1.beforeFe c .control key mt q.cls (Ord.isRel q.ord)).atomAt key op v ex
              finish m2 old
          | .cap _ => .trap { cls := .perm, addr := ea }
          | .remote home mt =>
            match m.askRemote c .control 0 home mt ea q.cls .rmw (Ord.isRel q.ord) (.atomic op v ex) with
            | (m1, none) => .stay m1
            | (m1, some a) => (remoteGot m1 ea a).run ea fun m2 old => finish m2 (zext old)

/-- The destination a source field also is: a register, or none for a literal (R45). -/
def dstOf (v : Src) : Dst :=
  match v with
  | .x r => .x r
  | _ => .none

/-- `aadd` (R290). -/
def execAadd (d : Dst) (base b : Src) (q : AtomQ) (s : State) : Host.Outcome State Fault Refusal := s.atomic .add d base b none q
/-- `afadd` (R290). -/
def execAfadd (d : Dst) (base b : Src) (q : AtomQ) (s : State) : Host.Outcome State Fault Refusal := s.atomic .fadd d base b none q
/-- `axchg` (R290). -/
def execAxchg (d : Dst) (base b : Src) (q : AtomQ) (s : State) : Host.Outcome State Fault Refusal := s.atomic .xchg d base b none q
/-- `acas`: field d is the expected value and the destination (R290). -/
def execAcas (e base b : Src) (q : AtomQ) (s : State) : Host.Outcome State Fault Refusal := s.atomic .cas (dstOf e) base b (some e) q
/-- `amin` (R290). -/
def execAmin (d : Dst) (base b : Src) (q : AtomQ) (s : State) : Host.Outcome State Fault Refusal := s.atomic .min d base b none q
/-- `amax` (R290). -/
def execAmax (d : Dst) (base b : Src) (q : AtomQ) (s : State) : Host.Outcome State Fault Refusal := s.atomic .max d base b none q
/-- `aminn` (R290). -/
def execAminn (d : Dst) (base b : Src) (q : AtomQ) (s : State) : Host.Outcome State Fault Refusal := s.atomic .minn d base b none q
/-- `amaxn` (R290). -/
def execAmaxn (d : Dst) (base b : Src) (q : AtomQ) (s : State) : Host.Outcome State Fault Refusal := s.atomic .maxn d base b none q
/-- `aand` (R290). -/
def execAand (d : Dst) (base b : Src) (q : AtomQ) (s : State) : Host.Outcome State Fault Refusal := s.atomic .and d base b none q
/-- `aor` (R290). -/
def execAor (d : Dst) (base b : Src) (q : AtomQ) (s : State) : Host.Outcome State Fault Refusal := s.atomic .or d base b none q
/-- `axor` (R290). -/
def execAxor (d : Dst) (base b : Src) (q : AtomQ) (s : State) : Host.Outcome State Fault Refusal := s.atomic .xor d base b none q

end Sys2Proof.Machine
end

