-- ==== Sys2Proof/Machine/Heap.lean ====
section
/-! DEFINITION. The selection heaps (12 R359 to R363): class-0 accesses of the control strand to its own SPM, in program order. -/

namespace Sys2Proof.Machine

/-- The score of an entry: its FP32 bits. -/
def heapScore (e : W64) : Nat := e.toNat / 2 ^ 32
def heapId (e : W64) : Nat := e.toNat % 2 ^ 32
def isNan32 (v : Nat) : Bool := (fp32.decode v).isNan

/-- A key whose order is that of the scores (R359): NaNs lowest and equal, -0 below +0. -/
def scoreKey (v : Nat) : Int :=
  if isNan32 v then -(2 ^ 32) else if v < 2 ^ 31 then v else -((v - 2 ^ 31 : Nat) : Int) - 1

/-- Better (R359). -/
def heapBetter (x y : W64) : Bool :=
  decide (scoreKey (heapScore y) < scoreKey (heapScore x)) || (scoreKey (heapScore x) == scoreKey (heapScore y) && decide (heapId x < heapId y))

/-- The loads of a heap: an entry's value, or the POISON of its location. -/
abbrev HeapGet := Nat → Except Trap W64

/-- The upward pass of `hins`: the entries moved down the path from i, and where the new one goes. -/
def heapUp (get : HeapGet) (e : W64) : Nat → Nat → Except Trap (List (Nat × W64))
  | 0, i => .ok [(i, e)]
  | fuel + 1, i =>
    if i = 0 then .ok [(i, e)]
    else do
      let p ← get ((i - 1) / 2)
      if heapBetter p e then
        let rest ← heapUp get e fuel ((i - 1) / 2)
        .ok ((i, p) :: rest)
      else .ok [(i, e)]

/-- The downward pass of `hins`. -/
def heapDown (get : HeapGet) (e : W64) (count : Nat) : Nat → Nat → Except Trap (List (Nat × W64))
  | 0, i => .ok [(i, e)]
  | fuel + 1, i =>
    let l := 2 * i + 1
    if count ≤ l then .ok [(i, e)]
    else do
      let hl ← get l
      let (j, hj) ← if l + 1 < count then do
          let hr ← get (l + 1)
          .ok (if heapBetter hl hr then (l + 1, hr) else (l, hl))
        else .ok (l, hl)
      if heapBetter e hj then
        let rest ← heapDown get e count fuel j
        .ok ((i, hj) :: rest)
      else .ok [(i, e)]

/-- An entry placed in a list in descending order. -/
def heapPlace (e : W64) : List W64 → List W64
  | [] => [e]
  | x :: r => if heapBetter e x then e :: x :: r else x :: heapPlace e r

/-- Every load and store of a heap is of class 0: the strand's earlier stores of that class, and those to the same locations,
come first. -/
def Mach.beforeHeap (m : Mach) (c : CoreId) (key n : Nat) : Mach := m.flushRange c .control key (n + 1) 0 .normal .rmw

/-- A word of a heap loaded: a poisoned location traps POISON at its address. -/
def Mach.heapWord (m : Mach) (c : CoreId) (a : Nat) : Except Trap W64 :=
  if memPoisoned m.mem (locOf (spmKey c a)) then .error { cls := .poison, addr := BitVec.ofNat 64 a } else .ok (mem64 m.mem (spmKey c a))

/-- Words of 8 bytes stored to own SPM; each clears its location's mark (R282). -/
def Mach.heapStore (m : Mach) (c : CoreId) : List (Nat × W64) → Mach
  | [] => m
  | (a, v) :: r => ({ m with mem := storeMem m.mem (spmKey c a) (leBytes v.toNat 8) } : Mach).heapStore c r

/-- The checks of R360 for a heap whose capacity is `cap?`, or that of its header; then CAP and COUNT. -/
def Mach.heapCheck (m : Mach) (c : CoreId) (a : W64) : Except Trap (Nat × Nat) :=
  let n := a.toNat
  if 2 ^ 20 ≤ n ∨ 2 ^ 20 < n + 16 then .error { cls := .perm, addr := a }
  else do
    let h ← m.heapWord c n
    let cap := h.toNat % 2 ^ 16
    if 2 ^ 20 < n + 16 + 8 * cap then .error { cls := .perm, addr := a }
    else if n % 16 ≠ 0 then .error { cls := .align, addr := a }
    else
      let h2 ← m.heapWord c (n + 8)
      let count := h.toNat / 2 ^ 16 % 2 ^ 16
      if cap = 0 ∨ 4096 < cap ∨ cap < count ∨ 2 ^ 32 ≤ h.toNat ∨ h2 ≠ 0 then .error { cls := .shape, addr := a }
      else .ok (cap, count)

def heapHeader (cap count : Nat) : W64 := BitVec.ofNat 64 (cap + count * 2 ^ 16)

/-- `hins` (R361). -/
def execHins (d : Dst) (a b : Src) (s : State) : Host.Outcome State Fault Refusal :=
  let c := s.cur.core
  let words := 1 + litWords [a, b]
  s.control words fun m0 =>
    orTrap (s.ctl.clean? [a, b]) fun _ =>
      let p := (s.ctl.src a).val
      let e := (s.ctl.src b).val
      let m := m0.beforeHeap c (spmKey c (locOf p.toNat)) (if p.toNat < 2 ^ 20 then 4097 else 0)
      orTrap (m.heapCheck c p) fun (cap, count) =>
        let get : HeapGet := fun i => m.heapWord c (p.toNat + 16 + 8 * i)
        let finish (m : Mach) (k0 : Bool) (r : W64) : Run := (m.onCtl c fun k => (k.write d (clean r)).setK 0 k0).advance c words
        let put (m : Mach) (l : List (Nat × W64)) : Mach := m.heapStore c (l.map fun x => (p.toNat + 16 + 8 * x.1, x.2))
        if isNan32 (heapScore e) then finish m false e
        else if count < cap then
          orTrap (heapUp get e 13 count) fun l =>
            finish (put (m.heapStore c [(p.toNat, heapHeader cap (count + 1))]) l) true (BitVec.allOnes 64)
        else
          orTrap (get 0) fun h0 =>
            if heapBetter e h0 then orTrap (heapDown get e count 13 0) fun l => finish (put m l) true h0
            else finish m false e

/-- `htop` (R362). With COUNT 0 the output has no bytes: none lies outside SPM or in the heap. -/
def execHtop (d : Dst) (a b : Src) (s : State) : Host.Outcome State Fault Refusal :=
  let c := s.cur.core
  let words := 1 + litWords [a, b]
  s.control words fun m0 =>
    orTrap (s.ctl.clean? [a, b]) fun _ =>
      let p := (s.ctl.src a).val
      let o := (s.ctl.src b).val
      let m := m0.beforeHeap c (spmKey c (locOf p.toNat)) (if p.toNat < 2 ^ 20 then 4097 else 0)
      orTrap (m.heapCheck c p) fun (cap, count) =>
        orTrap ((List.range count).mapM fun i => m.heapWord c (p.toNat + 16 + 8 * i)) fun es =>
          let n := o.toNat
          if n % 8 ≠ 0 then .trap { cls := .align, addr := o }
          else if count ≠ 0 ∧ 2 ^ 20 < n + 8 * count then .trap { cls := .perm, addr := o }
          else if count ≠ 0 ∧ n < p.toNat + 16 + 8 * cap ∧ p.toNat < n + 8 * count then .trap { cls := .shape, addr := o }
          else
            let sorted := es.foldl (fun l e => heapPlace e l) []
            let m1 := (m.beforeHeap c (spmKey c n) count).heapStore c (sorted.zipIdx.map fun x => (n + 8 * x.2, x.1))
            (m1.onCtl c fun k => k.write d (clean (BitVec.ofNat 64 count))).advance c words

/-- `hclr` (R362): the header does not need to be valid. The header is R359's 16 bytes, so the reserved bytes 8 to 15 become zero. -/
def execHclr (a b : Src) (s : State) : Host.Outcome State Fault Refusal :=
  let c := s.cur.core
  let words := 1 + litWords [a, b]
  s.control words fun m =>
    orTrap (s.ctl.clean? [a, b]) fun _ =>
      let p := (s.ctl.src a).val
      let cap := (s.ctl.src b).val.toNat
      if cap = 0 ∨ 4096 < cap then .trap { cls := .shape, addr := 0 }
      else if 2 ^ 20 ≤ p.toNat ∨ 2 ^ 20 < p.toNat + 16 + 8 * cap then .trap { cls := .perm, addr := p }
      else if p.toNat % 16 ≠ 0 then .trap { cls := .align, addr := p }
      else ((m.beforeHeap c (spmKey c p.toNat) 2).heapStore c [(p.toNat, heapHeader cap 0), (p.toNat + 8, 0)]).advance c words

end Sys2Proof.Machine
end

