-- ==== Sys2Proof/Machine/Fire.lean ====
section
/-! DEFINITION. Armed completion-interrupt requests that fire (10 R295). -/

namespace Sys2Proof.Machine

/-- Every armed request that matches fires as an event of the user-interrupt queue. -/
def Ctl.fireAll (k : Ctl) (hit : Armed → Bool) (source status : BitVec 8) : Ctl :=
  (k.armed.filter hit).foldl (fun k a => k.pushEvent { source := source, status := status, tag := a.tag })
    { k with armed := k.armed.filter fun a => !hit a }

/-- The first armed request of KIND 1 fires as the vector strand ends. -/
def Ctl.fireVector (k : Ctl) : Ctl :=
  match k.armed.find? (·.kind == 1) with
  | none => k
  | some a => { (k.pushEvent { source := 1, status := 0, tag := a.tag }) with armed := k.armed.erase a }

/-- A step word whose words start at pointer `rp` completes or faults: ring 0 matrix A, 1 matrix B, 2 copy. -/
def Ctl.fireStep (k : Ctl) (ring : Fin 3) (rp : W32) (words : Nat) (source status : BitVec 8) : Ctl :=
  k.fireAll (fun a => a.kind == ring.val + 2 && decide ((a.ptr - rp).toNat < words)) source status

/-- The operation a request of KIND 5, 6 or 8 has attached to completes. -/
def Ctl.fireOp (k : Ctl) (kind op : Nat) (status : BitVec 8) : Ctl :=
  k.fireAll (fun a => a.kind == kind && a.target == some op) (BitVec.ofNat 8 kind) status

end Sys2Proof.Machine
end

