-- ==== Sys2Proof/Machine/Rings.lean ====
section
/-! DEFINITION. The command rings of the matrix and copy strands: their strands, addresses, and the awaits of their step words (02 R56, 03 R82, R83). -/

namespace Sys2Proof.Machine

/-! The strands of a core's command rings. -/

def ringOf (t : Strand) : Fin 3 :=
  match t with
  | .matrixA => 0
  | .matrixB => 1
  | _ => 2

def engineOf (t : Strand) : Engine :=
  match t with
  | .matrixA => .matrixA
  | .matrixB => .matrixB
  | .copy => .copy
  | _ => .vector

/-- The queue a strand's reports and pushes go to, and the one it pops (R190, R193, R201, R310). -/
def outQueue (t : Strand) : Fin 8 := match t with | .matrixA => 3 | .matrixB => 5 | _ => 7
def inQueue (t : Strand) : Fin 8 := match t with | .matrixA => 2 | .matrixB => 4 | _ => 6

def Core.eng (k : Core) (t : Strand) : EngStrand := match t with | .matrixA => k.mata | .matrixB => k.matb | _ => k.copy

def Core.onEng (k : Core) (t : Strand) (f : EngStrand → EngStrand) : Core :=
  match t with
  | .matrixA => { k with mata := f k.mata }
  | .matrixB => { k with matb := f k.matb }
  | _ => { k with copy := f k.copy }

def Mach.onEng (m : Mach) (c : CoreId) (t : Strand) (f : EngStrand → EngStrand) : Mach := m.onCore c fun k => k.onEng t f

def Core.onRing (k : Core) (r : Fin 3) (f : CmdRing → CmdRing) : Core := { k with rings := k.rings.set r (f k.rings[r]) }

/-- The SPM byte address of the word at a ring pointer (R82). -/
def CmdRing.addr (r : CmdRing) (p : W32) : Nat := r.base.toNat + 4 * (p.toNat % 2 ^ r.lsize.toNat)

/-! Await and raise (R56, R331). -/

/-- The await is satisfied: none, a wait released, or a value of at least 1. -/
def Core.awaitOk (k : Core) (t : Strand) (aw : BitVec 4) : Bool :=
  if h : aw.toNat < 15 then
    match k.semWaiter? ⟨aw.toNat, h⟩ t with
    | some w => w.released.isSome
    | none => decide (1 ≤ k.sm[aw.toNat].toNat)
  else true

/-- A step word whose await is not satisfied joins the semaphore's waiters in arrival order. -/
def Core.awaitJoin (k : Core) (t : Strand) (aw : BitVec 4) : Core :=
  if h : aw.toNat < 15 then k.addWaiter ⟨aw.toNat, h⟩ t 1 true else k

/-- The subtraction of a start: already made when the wait was released (R331). -/
def Core.awaitTake (k : Core) (t : Strand) (aw : BitVec 4) : Core :=
  if h : aw.toNat < 15 then
    match k.semWaiter? ⟨aw.toNat, h⟩ t with
    | some _ => k.dropWaiter ⟨aw.toNat, h⟩ t
    | none => k.semAdd ⟨aw.toNat, h⟩ (-1)
  else k

/-- A step that faults has no effect (R190): a subtraction made at its wait's release is undone. -/
def Core.awaitUndo (k : Core) (t : Strand) (aw : BitVec 4) : Core :=
  if h : aw.toNat < 15 then
    match k.semWaiter? ⟨aw.toNat, h⟩ t with
    | some w => if w.released.isSome then (k.dropWaiter ⟨aw.toNat, h⟩ t).semAdd ⟨aw.toNat, h⟩ 1 else k.dropWaiter ⟨aw.toNat, h⟩ t
    | none => k
  else k

/-- A step word waiting to start is abandoned by a stop request (10 R297), and by a write that clears RUN (R83): it joins no semaphore, and is
fetched again. -/
def Core.abandonStep (k : Core) (t : Strand) : Core :=
  match (k.eng t).fetched with
  | none => k
  | some _ => ((List.finRange 15).foldl (fun (k : Core) n => k.awaitUndo t (BitVec.ofNat 4 n.val)) k).onEng t fun e => { e with fetched := none }

def strandOfRing (r : Fin 3) : Strand := match r with | 0 => .matrixA | 1 => .matrixB | 2 => .copy

end Sys2Proof.Machine
end

