-- ==== Sys2Proof/Machine/Shape.lean ====
section
/-! DEFINITION. Shape and layout images and the exchange of an engine's sets (03 R97 to R100). -/

namespace Sys2Proof.Machine

def engineNo (e : Engine) : Fin 4 :=
  match e with
  | .vector => 0
  | .matrixA => 1
  | .matrixB => 2
  | .copy => 3

/-- Byte k of an image, and a field of n bytes at k. -/
def field (img k n : Nat) : Nat := img / 256 ^ k % 256 ^ n

/-- A shape register of a 32-byte image, or none when it is invalid (R97). -/
def parseShape (img : Nat) : Option ShapeReg :=
  let rank := field img 16 1
  let ext : Vector W32 4 := Vector.ofFn fun i : Fin 4 => BitVec.ofNat 32 (field img (4 * i.val) 4)
  let high := (List.range 4).any fun i => decide (rank ≤ i) && field img (4 * i) 4 != 0
  if rank = 0 ∨ 4 < rank ∨ high ∨ field img 17 15 ≠ 0 then none else some { ext := ext, rank := BitVec.ofNat 8 rank }

/-- A layout register of a 64-byte image, or none when it is invalid (R98). -/
def parseLayout (img : Nat) : Option LayoutReg :=
  let type := field img 40 1
  let kind := field img 41 1
  let rowtab := field img 48 8
  if 13 < type ∨ 3 < kind ∨ field img 42 6 ≠ 0 ∨ field img 56 8 ≠ 0 ∨ (2 ≤ kind ∧ rowtab = 0) ∨ (kind < 2 ∧ rowtab ≠ 0) then none
  else
    some { ptr := BitVec.ofNat 64 (field img 0 8), stride := Vector.ofFn fun i : Fin 4 => BitVec.ofNat 64 (field img (8 + 8 * i.val) 8),
           type := BitVec.ofNat 4 type, kind := BitVec.ofNat 2 kind, rowtab := BitVec.ofNat 64 rowtab }

def Core.onShadow (k : Core) (e : Engine) (f : RegSet → RegSet) : Core :=
  { k with sets := k.sets.set (engineNo e) { k.sets[engineNo e] with shadow := f k.sets[engineNo e].shadow }  }

def Core.swapPending (k : Core) (e : Engine) : Bool := k.sets[engineNo e].swap

/-- A write of a shadow register from an image (R99). The register is unchanged on any trap. -/
def State.loadImage (s : State) (a : Src) (e : Engine) (size : Nat) (write : Nat → Option (RegSet → RegSet)) : Host.Outcome State Fault Refusal :=
  let c := s.cur.core
  let words := 1 + litWords [a]
  s.control words fun m =>
    orTrap (s.ctl.clean? [a]) fun _ =>
      if m.cores[c].swapPending e then m.blockCtl c words
      else
        let p := (s.ctl.src a).val
        (m.ctlImage c p size).run p fun m1 img =>
          match write img with
          | none => .trap { cls := .shape, addr := p }
          | some f => (m1.onCore c fun k => k.onShadow e f).advance c words

/-- `shwr` (R99). -/
def execShwr (r : Fin 8) (a : Src) (e : Engine) (s : State) : Host.Outcome State Fault Refusal :=
  s.loadImage a e 32 fun img => (parseShape img).map fun v t => { t with sh := t.sh.set r v }

/-- `lywr` (R99). -/
def execLywr (r : Fin 8) (a : Src) (e : Engine) (s : State) : Host.Outcome State Fault Refusal :=
  s.loadImage a e 64 fun img => (parseLayout img).map fun v t => { t with ly := t.ly.set r v }

/-- `shswap` (R100): the exchange waits for the engine's next swap point; the control strand does not, unless one is pending. -/
def execShswap (e : Engine) (s : State) : Host.Outcome State Fault Refusal :=
  let c := s.cur.core
  s.control 1 fun m =>
    if m.cores[c].swapPending e then m.blockCtl c 1
    else (m.onCore c fun k => { k with sets := k.sets.set (engineNo e) { k.sets[engineNo e] with swap := true }  }).advance c 1

/-- The exchange of an engine's whole current and shadow sets (R100). -/
def Core.exchangeSets (k : Core) (e : Engine) : Core :=
  let t := k.sets[engineNo e]
  { k with sets := k.sets.set (engineNo e) { cur := t.shadow, shadow := t.cur, swap := false }  }

/-- The pending exchange takes place at a swap point; with none pending nothing changes. -/
def Core.swapPoint (k : Core) (e : Engine) : Core := if k.swapPending e then k.exchangeSets e else k

end Sys2Proof.Machine
end

