-- ==== Sys2Proof/WellFormed.lean ====
section
/-! DEFINITION. The checks an instruction must pass beyond the shape of its constructor. An encoding that fails one of
them traps ILLEGAL (02 R39); the decoder answers only well-formed instructions. -/

namespace Sys2Proof

/-- A source that is a literal. -/
def Src.isLit : Src → Bool
  | .x _ => false
  | _ => true

/-- At most one source field may be 31 (R45). -/
def oneLit (a b : Src) : Bool := !(a.isLit && b.isLit)

/-- At most one of three source fields may be 31 (R45, R290). -/
def threeLit (a b c : Src) : Bool := oneLit a b && oneLit a c && oneLit b c

/-- The value a literal source carries: one word is sign-extended, two words stand as they are (R45). -/
def Src.litValue? : Src → Option W64
  | .x _ => none
  | .lit32 w => some (w.signExtend 64)
  | .lit64 w => some w

/-- A literal source with exactly this value; it selects the table's row where several rows share one word. -/
def Src.isKind (s : Src) (k : Nat) : Bool := s.litValue? == some (BitVec.ofNat 64 k)

/-- A literal kind of 16 to 23: the status form of `alloc` (R335). -/
def Src.isStatusKind (s : Src) : Bool :=
  match s.litValue? with
  | some v => decide (16 ≤ v.toNat) && decide (v.toNat ≤ 23)
  | none => false

/-- A literal whose mode is 1 or 2: the ending form of `yield` (R323). -/
def Src.isYieldEnd (s : Src) : Bool :=
  match s.litValue? with
  | some v => v.toNat % 4 == 1 || v.toNat % 4 == 2
  | none => false

/-- The rows of `rpctl` in the opcode table. -/
inductive RpctlRow where
  | rdst | ck | rdhash | config | stop
  deriving DecidableEq, Repr

/-- The row a literal selector names by its bits [3:0] (R425): 0 RDST, 1 CK, 2 RDHASH, 3 CONFIG, 4 STOP. A register selector, and a
literal that names no operation, stand in the first row. -/
def rpctlRow (b : Src) : RpctlRow :=
  match b.litValue? with
  | none => .rdst
  | some v =>
    match v.toNat % 16 with
    | 1 => .ck
    | 2 => .rdhash
    | 3 => .config
    | 4 => .stop
    | _ => .rdst

/-- The system registers whose writes have a row of their own. -/
def ownRow (n : BitVec 15) : Bool :=
  [0x40, 0x41, 0x42, 0x44, 0x45, 0x46, 0x48, 0x49, 0x4A, 0x102, 0x104, 0x14B].contains n.toNat

/-- pn = 1 with pred = 0 selects no lane (R51). -/
def Guard.ok (g : Guard) : Bool := !(g.p == 0 && g.pn)

/-- Types F of R143: FP32, BF16, FP16. -/
def typF : List Nat := [0, 1, 2]
/-- Types I of R143: I8, I16, I32, N8, N16, N32. -/
def typI : List Nat := [8, 9, 10, 11, 12, 13]

/-- The element type of an arithmetic instruction: the prefix's, FP32 without one (R53). -/
def qType (q : Option Qual) : BitVec 4 := (q.map (·.type)).getD 0

/-- A row of R143: which prefix fields the instruction accepts, for F types and for the others. -/
structure Accepts where
  types : List Nat
  roundF : Bool := false
  roundI : Bool := false
  satF : Bool := false
  satI : Bool := false
  ftzF : Bool := false
  ftzI : Bool := false
  spec : Bool := false
  sg : Bool := false

/-- The sg field is 0 unless sgen is set (R53). -/
def Qual.segOk (q : Qual) : Bool := q.sgen || q.sg == 0

/-- R143: each field the instruction does not accept is 0, the type is in its domain (FP32 without a prefix), and a
rounding code of 101 to 111 is illegal (R53). -/
def qualOk (q : Option Qual) (r : Accepts) : Bool :=
  r.types.contains (qType q).toNat &&
  match q with
  | none => true
  | some q =>
    let f := typF.contains q.type.toNat
    decide (q.round.toNat ≤ 4) && q.segOk &&
    (q.round == 0 || (if f then r.roundF else r.roundI)) &&
    (!q.sat || (if f then r.satF else r.satI)) &&
    (!q.ftz || (if f then r.ftzF else r.ftzI)) &&
    (!q.spec || r.spec) && (!q.sgen || r.sg)

/-- The ord a memory prefix holds: sat is ord[1], ftz is ord[0] (R144). -/
def Qual.ordCode (q : Qual) : Nat := (if q.sat then 2 else 0) + (if q.ftz then 1 else 0)

/-- R144 and R47 for the memory group: the scope code is 000 to 100, a scope without acquire or release is illegal, the
ord is one the form accepts, and only `vld` and `vgath` accept spec. An `ld` with spec set is plain (ord 00). -/
def memQualOk (q : Option Qual) (spec : Bool) (ords : List Nat) : Bool :=
  match q with
  | none => true
  | some q =>
    decide (q.round.toNat ≤ 4) && q.segOk && ords.contains q.ordCode &&
    (q.ordCode != 0 || q.round == 0) && (!q.spec || spec)

/-- The bits of an element of each type of R53. -/
def typeWidth (t : BitVec 4) : Nat :=
  match t.toNat with
  | 0 => 32 | 1 => 16 | 2 => 16 | 3 => 8 | 4 => 8 | 5 => 6 | 6 => 6 | 7 => 4
  | 8 => 8 | 9 => 16 | 10 => 32 | 11 => 8 | 12 => 16 | _ => 32

/-- R52: the bits of a literal above its element are the sign extension for I8 and I16, zeros otherwise. -/
def VSrc.litOk (v : VSrc) (t : BitVec 4) : Bool :=
  match v with
  | .lit w =>
    if t.toNat == 8 then w == (w.truncate 8).signExtend 32
    else if t.toNat == 9 then w == (w.truncate 16).signExtend 32
    else decide (w.toNat < 2 ^ typeWidth t)
  | _ => true

/-- The source type of `vcvt` in each direction (R151). -/
def cvtSource (dir : Fin 4) (t : BitVec 4) : BitVec 4 :=
  match dir with
  | 0 => 0
  | 2 => 10
  | _ => t

/-- Bitwise reductions take integer types only (R155). -/
def redOk (op : Fin 6) (t : BitVec 4) : Bool := decide (op.val < 3) || !typF.contains t.toNat

/-- The width class of an operand type of the `mma` family (R181): 1 16 bits, 2 8 bits, 3 integer, 4 6 bits, 5 4 bits. -/
def widthClass (t : BitVec 4) : Nat :=
  match t.toNat with
  | 1 | 2 => 1
  | 3 | 4 => 2
  | 8 => 3
  | 5 | 6 => 4
  | 7 => 5
  | _ => 0

/-- R182: the reserved fields of a descriptor. `table` allows the segment-table bits of A in `mmasg` (R187). -/
def OpDesc.ok (o : OpDesc) (table : Bool) : Bool :=
  decide (1 ≤ o.ty.toNat) && decide (o.ty.toNat ≤ 8) &&
  (if o.fixed then !o.pop && o.ring == 0 && o.slot == 0
   else (!o.pop || o.slot == 0) && (if table then o.addr.toNat % 64 == 0 else o.addr == 0))

/-- R181, R182, R185, R187: the static checks of the `mma` family. -/
def MmaArgs.ok (m : MmaArgs) (seg : Bool) : Bool :=
  m.opA.ok seg && m.opB.ok false && widthClass m.opA.ty == widthClass m.opB.ty &&
  !(m.opA.pop && m.opB.pop && m.opA.ring == m.opB.ring) &&
  (!m.sau || m.saidx == 0) && (!m.sbu || m.sbidx == 0) && (!seg || !m.opA.fixed)

/-- R197: the static checks common to the epilogues. -/
def EpArgs.ok (e : EpArgs) : Bool :=
  decide (e.otype.toNat ≤ 13) && decide (e.round.toNat ≤ 4) && (e.bias || e.baddr == 0) &&
  (decide (9 ≤ e.otype.toNat) || e.scidx == 0)

/-- The scope of a domain level (R276). -/
def levelScope (k : Fin 4) : Scope :=
  match k with
  | 0 => .cluster
  | 1 => .die
  | 2 => .package
  | 3 => .fabric

/-- The scopes in order of width. -/
def Scope.rank : Scope → Nat
  | .core => 0
  | .cluster => 1
  | .die => 2
  | .package => 3
  | .fabric => 4

/-- R299: PB = 1 needs a scope at least the level's; PB = 0 needs DL = 0. -/
def MoveQ.ok (m : MoveQ) : Bool :=
  if m.pb then decide ((levelScope m.dl).rank ≤ m.scope.rank) else m.dl == 0

/-- R300: mode 100 moves at most 65,536 bytes. -/
def MoveQ.countOk (m : MoveQ) (n : Nat) : Bool := m.fe != .requireFull || decide (n ≤ 65536)

/-- R348: PB = 0 needs DL = 0. -/
def FabQ.ok (m : FabQ) : Bool := m.pb || m.dl == 0

/-- R300 for the fabric steps. -/
def FabQ.countOk (m : FabQ) (n : Nat) : Bool := m.fe != .requireFull || decide (n ≤ 65536)

/-- R299: an address, offset or count in an extension word is a multiple of 8. -/
def mult8 (w : W32) : Bool := w.toNat % 8 == 0

/-- An even W register (R236). -/
def evenReg (d : Fin 16) : Bool := d.val % 2 == 0

/-- The static checks of every instruction: what traps ILLEGAL by the words alone (R39, R45, R47, R51 to R53, R143, R182, R197, R299). -/
def wellFormed (i : Instr) : Bool :=
  match i with
  | .add _ a b => oneLit a b
  | .sub _ a b => oneLit a b
  | .mul _ a b => oneLit a b
  | .mulh _ a b => oneLit a b
  | .mulhn _ a b => oneLit a b
  | .div _ a b => oneLit a b
  | .divn _ a b => oneLit a b
  | .rem _ a b => oneLit a b
  | .remn _ a b => oneLit a b
  | .and _ a b => oneLit a b
  | .or _ a b => oneLit a b
  | .xor _ a b => oneLit a b
  | .andn _ a b => oneLit a b
  | .shl _ a b => oneLit a b
  | .shr _ a b => oneLit a b
  | .sar _ a b => oneLit a b
  | .rol _ a b => oneLit a b
  | .min _ a b => oneLit a b
  | .max _ a b => oneLit a b
  | .minn _ a b => oneLit a b
  | .maxn _ a b => oneLit a b
  | .adds _ a b => oneLit a b
  | .subs _ a b => oneLit a b
  | .addsn _ a b => oneLit a b
  | .subsn _ a b => oneLit a b
  | .muls _ a b => oneLit a b
  | .abs _ _ => true
  | .neg _ _ => true
  | .clz _ _ => true
  | .ctz _ _ => true
  | .popc _ _ => true
  | .sext8 _ _ => true
  | .sext16 _ _ => true
  | .sext32 _ _ => true
  | .mov _ _ => true
  | .addi _ _ _ => true
  | .andi _ _ _ => true
  | .ori _ _ _ => true
  | .xori _ _ _ => true
  | .shli _ _ _ => true
  | .shri _ _ _ => true
  | .sari _ _ _ => true
  | .roli _ _ _ => true
  | .movi _ _ => true
  | .cmp _ a b _ => oneLit a b
  | .cmpi _ _ _ _ => true
  | .sel _ a b _ => oneLit a b
  | .kand _ _ _ => true
  | .kor _ _ _ => true
  | .kxor _ _ _ => true
  | .knot _ _ => true
  | .kmov _ _ => true
  | .padd _ a b => oneLit a b
  | .psub _ a b => oneLit a b
  | .phdl _ _ => true
  | .poff _ _ => true
  | .pmake _ a b => oneLit a b
  | .paddi _ _ _ => true
  | .ld _ _ q => (q.ord != .none || q.scope == .core) && (q.ord == .none || q.ord == .acq)
  | .ld32 _ _ q => (q.ord != .none || q.scope == .core) && (q.ord == .none || q.ord == .acq)
  | .ld32s _ _ q => (q.ord != .none || q.scope == .core) && (q.ord == .none || q.ord == .acq)
  | .ld16 _ _ q => (q.ord != .none || q.scope == .core) && (q.ord == .none || q.ord == .acq)
  | .ld16s _ _ q => (q.ord != .none || q.scope == .core) && (q.ord == .none || q.ord == .acq)
  | .ld8 _ _ q => (q.ord != .none || q.scope == .core) && (q.ord == .none || q.ord == .acq)
  | .ld8s _ _ q => (q.ord != .none || q.scope == .core) && (q.ord == .none || q.ord == .acq)
  | .ldwait _ _ q => (q.ord != .none || q.scope == .core) && q.ord != .rel
  | .ldcons _ _ q => (q.ord != .none || q.scope == .core) && q.ord != .rel
  | .st v base q => oneLit v base && (q.ord != .none || q.scope == .core) && (q.ord == .none || q.ord == .rel)
  | .st32 v base q => oneLit v base && (q.ord != .none || q.scope == .core) && (q.ord == .none || q.ord == .rel)
  | .st16 v base q => oneLit v base && (q.ord != .none || q.scope == .core) && (q.ord == .none || q.ord == .rel)
  | .st8 v base q => oneLit v base && (q.ord != .none || q.scope == .core) && (q.ord == .none || q.ord == .rel)
  | .stfill v base q => oneLit v base && (q.ord != .none || q.scope == .core) && (q.ord == .none || q.ord == .rel)
  | .fence mask => mask != 0
  | .cireq a b => oneLit a b
  | .aadd _ base b q => oneLit base b && (q.ord != .none || q.scope == .core)
  | .afadd _ base b q => oneLit base b && (q.ord != .none || q.scope == .core)
  | .axchg _ base b q => oneLit base b && (q.ord != .none || q.scope == .core)
  | .acas e base b q => threeLit e base b && (q.ord != .none || q.scope == .core)
  | .amin _ base b q => oneLit base b && (q.ord != .none || q.scope == .core)
  | .amax _ base b q => oneLit base b && (q.ord != .none || q.scope == .core)
  | .aminn _ base b q => oneLit base b && (q.ord != .none || q.scope == .core)
  | .amaxn _ base b q => oneLit base b && (q.ord != .none || q.scope == .core)
  | .aand _ base b q => oneLit base b && (q.ord != .none || q.scope == .core)
  | .aor _ base b q => oneLit base b && (q.ord != .none || q.scope == .core)
  | .axor _ base b q => oneLit base b && (q.ord != .none || q.scope == .core)
  | .b _ => true
  | .call _ => true
  | .bc _ _ => true
  | .bcn _ _ => true
  | .jr _ => true
  | .callr _ => true
  | .ret => true
  | .jtab a b _ => oneLit a b
  | .qrd _ _ => true
  | .qwr _ _ => true
  | .qtryrd _ _ => true
  | .qtrywr _ _ => true
  | .shwr _ _ _ => true
  | .lywr _ _ _ => true
  | .shswap _ => true
  | .csel _ _ _ => true
  | .pchk _ _ => true
  | .pclr _ _ => true
  | .srr _ _ => true
  | .srw n _ => !ownRow n
  | .crcfgWrite _ _ => true
  | .crrpWrite _ _ => true
  | .crwpWrite _ _ => true
  | .mcinvWrite _ => true
  | .vstatWrite _ => true
  | .mlcfgWrite _ => true
  | .uiret => true
  | .smwait _ _ _ => true
  | .smadd _ _ _ => true
  | .mxlock _ => true
  | .mxfree _ => true
  | .dbar _ _ => true
  | .moor _ a b => oneLit a b
  | .yieldPoint a => !a.isYieldEnd
  | .yieldEnd a => a.isYieldEnd
  | .launch _ a b => oneLit a b
  | .allocRing _ a b => oneLit a b && !b.isKind 8 && !b.isStatusKind
  | .allocBump _ a b => oneLit a b && b.isKind 8
  | .allocStatus _ a b => oneLit a b && b.isStatusKind
  | .freeRing a b => oneLit a b && !b.isKind 8
  | .freeBump a b => oneLit a b && b.isKind 8
  | .attn a b => oneLit a b
  | .attnAccept _ _ => true
  | .attnComplete _ _ => true
  | .atcommit a b => oneLit a b
  | .atdrop a b => oneLit a b
  | .exalloc _ a b => oneLit a b
  | .exfree a b => oneLit a b
  | .exinv _ a b => oneLit a b
  | .exclusiveAccept _ _ => true
  | .exinvSwitch _ _ => true
  | .exinvDrain _ _ => true
  | .sample a b => oneLit a b
  | .sbind a b => oneLit a b
  | .hins _ a b => oneLit a b
  | .htop _ a b => oneLit a b
  | .hclr a b => oneLit a b
  | .obqry _ a b => oneLit a b
  | .obprobe _ a b => oneLit a b
  | .trap _ => true
  | .retsReturn a => !a.isKind 2
  | .retsEnd a => a.isKind 2
  | .snap _ => true
  | .rpctlRdst _ a b => oneLit a b && rpctlRow b == .rdst
  | .rpctlCk _ a b => oneLit a b && rpctlRow b == .ck
  | .rpctlRdhash _ a b => oneLit a b && rpctlRow b == .rdhash
  | .rpctlConfig _ a b => oneLit a b && rpctlRow b == .config
  | .rpctlStop _ a b => oneLit a b && rpctlRow b == .stop
  | .gateRelease _ _ => true
  | .vadd q _ a b g => g.ok && qualOk q { types := typF ++ typI, roundF := true, satF := true, ftzF := true, spec := true, sg := true } && a.litOk (qType q) && b.litOk (qType q)
  | .vsub q _ a b g => g.ok && qualOk q { types := typF ++ typI, roundF := true, satF := true, ftzF := true, spec := true, sg := true } && a.litOk (qType q) && b.litOk (qType q)
  | .vmul q _ a b g => g.ok && qualOk q { types := typF ++ typI, roundF := true, satF := true, ftzF := true, spec := true, sg := true } && a.litOk (qType q) && b.litOk (qType q)
  | .vfma q d a b g => g.ok && d != .none && qualOk q { types := typF, roundF := true, satF := true, ftzF := true, spec := true, sg := true } && a.litOk (qType q) && b.litOk (qType q)
  | .vfnma q d a b g => g.ok && d != .none && qualOk q { types := typF, roundF := true, satF := true, ftzF := true, spec := true, sg := true } && a.litOk (qType q) && b.litOk (qType q)
  | .vmin q _ a b g => g.ok && qualOk q { types := typF ++ typI, ftzF := true, spec := true, sg := true } && a.litOk (qType q) && b.litOk (qType q)
  | .vmax q _ a b g => g.ok && qualOk q { types := typF ++ typI, ftzF := true, spec := true, sg := true } && a.litOk (qType q) && b.litOk (qType q)
  | .vabs q _ a g => g.ok && qualOk q { types := typF ++ typI, spec := true, sg := true } && a.litOk (qType q)
  | .vneg q _ a g => g.ok && qualOk q { types := typF ++ typI, spec := true, sg := true } && a.litOk (qType q)
  | .vadds q _ a b g => g.ok && qualOk q { types := typI, spec := true, sg := true } && a.litOk (qType q) && b.litOk (qType q)
  | .vsubs q _ a b g => g.ok && qualOk q { types := typI, spec := true, sg := true } && a.litOk (qType q) && b.litOk (qType q)
  | .vmulh q _ a b g => g.ok && qualOk q { types := typI, spec := true, sg := true } && a.litOk (qType q) && b.litOk (qType q)
  | .vceq q pd a b g => g.ok && pd != 0 && qualOk q { types := typF ++ typI, ftzF := true, spec := true, sg := true } && a.litOk (qType q) && b.litOk (qType q)
  | .vcne q pd a b g => g.ok && pd != 0 && qualOk q { types := typF ++ typI, ftzF := true, spec := true, sg := true } && a.litOk (qType q) && b.litOk (qType q)
  | .vclt q pd a b g => g.ok && pd != 0 && qualOk q { types := typF ++ typI, ftzF := true, spec := true, sg := true } && a.litOk (qType q) && b.litOk (qType q)
  | .vcle q pd a b g => g.ok && pd != 0 && qualOk q { types := typF ++ typI, ftzF := true, spec := true, sg := true } && a.litOk (qType q) && b.litOk (qType q)
  | .vcgt q pd a b g => g.ok && pd != 0 && qualOk q { types := typF ++ typI, ftzF := true, spec := true, sg := true } && a.litOk (qType q) && b.litOk (qType q)
  | .vcge q pd a b g => g.ok && pd != 0 && qualOk q { types := typF ++ typI, ftzF := true, spec := true, sg := true } && a.litOk (qType q) && b.litOk (qType q)
  | .vsel q _ _ _ g => g.ok && qualOk q { types := [0], spec := true, sg := true }
  | .vcsel q _ _ _ g => g.ok && qualOk q { types := [0], sg := true }
  | .vcvt q _ a dir g => g.ok && qualOk q { types := List.range 14, roundF := true, roundI := true, satF := true, satI := true, ftzF := true, ftzI := true, spec := true, sg := true } && a.litOk (cvtSource dir (qType q))
  | .vmov q _ _ g => g.ok && qualOk q { types := [0], spec := true, sg := true }
  | .vand q _ _ _ g => g.ok && qualOk q { types := [0], spec := true, sg := true }
  | .vor q _ _ _ g => g.ok && qualOk q { types := [0], spec := true, sg := true }
  | .vxor q _ _ _ g => g.ok && qualOk q { types := [0], spec := true, sg := true }
  | .vnot q _ _ g => g.ok && qualOk q { types := [0], spec := true, sg := true }
  | .vshl q _ a b g => g.ok && qualOk q { types := typI, spec := true, sg := true } && a.litOk (qType q) && b.litOk (qType q)
  | .vshr q _ a b g => g.ok && qualOk q { types := typI, spec := true, sg := true } && a.litOk (qType q) && b.litOk (qType q)
  | .vsar q _ a b g => g.ok && qualOk q { types := typI, spec := true, sg := true } && a.litOk (qType q) && b.litOk (qType q)
  | .vxrot q _ _ _ g => g.ok && qualOk q { types := [0], spec := true, sg := true }
  | .vxbc q _ _ _ g => g.ok && qualOk q { types := [0], spec := true, sg := true }
  | .vxred q _ a op g => g.ok && qualOk q { types := typF ++ typI, satF := true, satI := true, spec := true, sg := true } && redOk op (qType q) && a.litOk (qType q)
  | .vyrot q _ _ _ g => g.ok && qualOk q { types := [0], spec := true, sg := true }
  | .vybc q _ _ _ g => g.ok && qualOk q { types := [0], spec := true, sg := true }
  | .vyred q _ a op g => g.ok && qualOk q { types := typF ++ typI, satF := true, satI := true, spec := true, sg := true } && redOk op (qType q) && a.litOk (qType q)
  | .vwalk _ _ _ => true
  | .vsgred q _ a op g => g.ok && (q.map (·.sgen)).getD false && qualOk q { types := typF ++ typI, satF := true, satI := true, spec := true, sg := true } && redOk op (qType q) && a.litOk (qType q)
  | .vsgscan q _ a op g => g.ok && (q.map (·.sgen)).getD false && qualOk q { types := typF ++ typI, satF := true, satI := true, spec := true, sg := true } && redOk op (qType q) && a.litOk (qType q)
  | .vpack q _ _ _ g => g.ok && qualOk q { types := [3, 4, 5, 6, 7], spec := true, sg := true }
  | .vperm q _ _ _ g => g.ok && qualOk q { types := [0], spec := true, sg := true }
  | .vtrans q _ _ g => g.ok && qualOk q { types := [0], spec := true }
  | .vshuf q _ _ _ g => g.ok && qualOk q { types := [0], spec := true, sg := true }
  | .vrcp q _ a g => g.ok && qualOk q { types := typF, roundF := true, satF := true, spec := true, sg := true } && a.litOk (qType q)
  | .vrsqrt q _ a g => g.ok && qualOk q { types := typF, roundF := true, satF := true, spec := true, sg := true } && a.litOk (qType q)
  | .vsqrt q _ a g => g.ok && qualOk q { types := typF, roundF := true, satF := true, spec := true, sg := true } && a.litOk (qType q)
  | .vexp2 q _ a g => g.ok && qualOk q { types := typF, satF := true, spec := true, sg := true } && a.litOk (qType q)
  | .vlog2 q _ a g => g.ok && qualOk q { types := typF, satF := true, spec := true, sg := true } && a.litOk (qType q)
  | .vtanh q _ a g => g.ok && qualOk q { types := typF, satF := true, spec := true, sg := true } && a.litOk (qType q)
  | .vsigm q _ a g => g.ok && qualOk q { types := typF, satF := true, spec := true, sg := true } && a.litOk (qType q)
  | .vld q _ _ _ g => g.ok && memQualOk q true [0, 1]
  | .vst q _ _ _ g => g.ok && memQualOk q false [0, 2]
  | .vldwait q _ _ _ g => g.ok && memQualOk q false [0, 1, 3]
  | .vldcons q _ _ _ g => g.ok && memQualOk q false [0, 1, 3]
  | .vstfill q _ _ _ g => g.ok && memQualOk q false [0, 2]
  | .vgath q _ _ _ g => g.ok && memQualOk q true [0]
  | .vscat q _ _ _ g => g.ok && memQualOk q false [0]
  | .vqrd q _ _ _ g => g.ok && memQualOk q false [0]
  | .vqrdImageArrival _ _ _ => true
  | .vpand d _ _ => d != 0
  | .vpor d _ _ => d != 0
  | .vpxor d _ _ => d != 0
  | .vpnot d _ => d != 0
  | .vloop stages _ _ => stages != 0
  | .vlend => true
  | .vbset _ _ => true
  | .vbadd _ _ => true
  | .vsmwait _ _ => true
  | .vsmadd _ _ => true
  | .vqget _ _ g => g.ok
  | .vqput v mode => (mode != 1 || v == .zero)
  | .mma _ m => m.ok false
  | .mmaz _ m => m.ok false
  | .mmasg _ m => m.ok true
  | .fset _ _ _ => true
  | .fqrd _ _ => true
  | .mthr _ _ => true
  | .scld _ _ _ _ _ _ => true
  | .acczero _ tile count1 => tile.toNat + count1.toNat + 1 <= 64
  | .epil _ e _ => e.ok && e.gen == 0 && e.hi.toNat % 16 == 0
  | .epobj _ e _ _ => e.ok && e.gen == 0
  | .eprow _ e _ => e.ok && e.otype.toNat < 9 && e.gen != 0x80
  | .epadd _ e _ => e.ok && e.otype == 0 && !e.fe && e.gen != 0x80
  | .accst _ _ _ _ _ => true
  | .accld _ _ _ _ _ => true
  | .mqwr _ _ => true
  | .mqwrSt _ => true
  | .mrel _ => true
  | .msync _ => true
  | .mjmp _ _ disp => disp != 0
  | .leaseGrant _ => true
  | .matrixStepComplete _ _ _ => true
  | .tmov _ m _ _ soff doff count1 => m.ok && mult8 soff && mult8 doff && (count1.toNat + 1) % 8 == 0 && m.countOk (count1.toNat + 1)
  | .tmov2d _ m _ _ _ => m.ok
  | .rrot _ m dist saddr daddr count1 => m.ok && dist != 0 && m.scope != .core && mult8 saddr && mult8 daddr && (count1.toNat + 1) % 8 == 0 && m.countOk (count1.toNat + 1)
  | .gath _ m _ _ _ rowb rows1 => m.ok && m.countOk (rowb.toNat * (rows1.toNat + 1)) && rowb.toNat % 8 == 0 && decide (8 <= rowb.toNat) && decide (rowb.toNat <= 65536)
  | .scat _ m _ _ _ rowb rows1 => m.ok && m.countOk (rowb.toNat * (rows1.toNat + 1)) && rowb.toNat % 8 == 0 && decide (8 <= rowb.toNat) && decide (rowb.toNat <= 65536)
  | .rpush _ m _ _ soff => m.ok && mult8 soff
  | .cfill _ m _ doff count1 _ => m.ok && m.fe != .dataAndBits && m.fe != .requireFull && mult8 doff && (count1.toNat + 1) % 8 == 0
  | .crstr _ m _ _ soff _ => m.ok && m.fe == .dataOnly && soff.toNat % 4 == 0
  | .csync _ _ => true
  | .cqwr _ _ => true
  | .copyStepComplete _ _ => true
  | .fwr _ m _ _ soff doff _ count1 => m.ok && (count1.toNat + 1) % 16 == 0 && mult8 soff && mult8 doff && m.countOk (count1.toNat + 1)
  | .frd _ m _ _ soff doff _ count1 => m.ok && (count1.toNat + 1) % 16 == 0 && mult8 soff && mult8 doff && m.countOk (count1.toNat + 1)
  | .fatom _ _ _ _ _ _ => true
  | .lbregBuffer _ _ => true
  | .lbregPort _ _ => true
  | .lbregClose _ _ => true
  | .lbregOpen _ _ => true
  | .lbregRedirect _ _ => true
  | .lbrelBuffer _ _ => true
  | .lbrelPort _ _ => true
  | .a2av _ m _ => m.ok
  | .rscat _ m _ => m.ok
  | .agath _ m _ => m.ok
  | .bcast _ m _ => m.ok
  | .collectiveMessageArrival _ => true
  | .bounceResend _ => true
  | .collectiveComplete _ _ => true
  | .collectiveTimeout _ _ => true
  | .pgmovUp _ _ _ _ => true
  | .pgmovDown _ _ _ _ => true
  | .feset _ m _ doff count1 => m.ok && (m.fe == .setFull || m.fe == .setEmpty) && mult8 doff && (count1.toNat + 1) % 8 == 0
  | .obcopy _ _ _ _ => true
  | .obcopySwitch _ _ => true
  | .sld d _ _ => evenReg d
  | .scst a _ => evenReg a
  | .sadd _ _ _ => true
  | .ssub _ _ _ => true
  | .smul _ _ _ => true
  | .sfma _ _ _ => true
  | .smax _ _ _ => true
  | .smin _ _ _ => true
  | .sexp2 _ _ => true
  | .slog2 _ _ => true
  | .srcp _ _ => true
  | .sbc _ _ => true
  | .sxred _ _ _ => true
  | .smov _ _ => true
  | .shmov _ _ => true
  | .shadd _ _ _ => true
  | .shmul _ _ _ => true
  | .scmp _ _ _ _ => true
  | .ssel _ _ _ => true
  | .stbl _ _ _ => true
  | .stbw _ _ _ => true
  | .smask _ _ => true
  | .spsort _ => true
  | .scsum _ => true
  | .sdrawDraw _ _ _ => true
  | .sdrawCut _ _ _ => true
  | .sgen _ _ _ => true
  | .saccept _ _ _ n _ => decide (1 <= n.toNat) && decide (n.toNat <= 16)
  | .sbnz _ _ => true
  | .sjmp _ => true
  | .sendToken _ => true
  | .sendCount _ => true
  | .sendBlock _ => true
  | .sendNone _ => true
  | .ssoft _ => true
  | .sampleAccept _ => true
  | .samplerBlock _ => true
  | .samplerFinalPhase _ => true
  | .watchdogExhausted _ => true
  | .sampleComplete _ => true
  | .shardContribution _ => true
  | .shardTokenArrival _ _ => true
  | .rootTimeout _ => true
  | .shardReplyTimeout _ => true
  | .contributionHoldTimeout _ _ => true
  | .rowArrival _ => true
  | .rowAck _ _ => true
  | .fabricMessageArrival _ => true
  | .fabricAtomicHome _ => true
  | .fabricReply _ _ => true
  | .fabricReplyTimeout _ => true
  | .waitRetry _ _ => true
  | .moorWakeAttempt _ _ => true
  | .moorPoolRetry _ _ => true
  | .feExpire _ _ => true
  | .moorExpire _ => true
  | .stepWaitExpire _ _ => true
  | .replayHoldExpire _ _ => true
  | .swapPoint _ _ => true
  | .userEventDelivery _ => true
  | .asyncTrapDelivery _ _ => true
  | .pagerPromotion _ _ _ => true
  | .tqtailWrite _ _ => true
  | .tqctlWrite _ _ => true
  | .registerWrite _ _ _ => true
  | .hostBar4Write _ _ => true
  | .hostBar4Read _ _ => true
  | .hostFeByteWrite _ _ => true
  | .taskAdmission _ => true
  | .taskDispatch => true
  | .tokenAging _ => true
  | .preemptionDecision _ => true
  | .drainTimeout _ => true
  | .checkpointSave _ => true
  | .taskKill _ => true
  | .restore => true
  | .coreShareEnd _ => true
  | .taskRetire _ _ => true
  | .taskComplete _ => true
  | .ckrqctlGo _ => true
  | .bootctlGo _ => true
  | .firmwareVerifyDone => true
  | .attctlGo _ => true
  | .attestationResponse => true
  | .measurementExtend _ _ _ => true
  | .powerCapWrite _ => true
  | .routeWrite _ _ => true
  | .firmwareDma _ _ _ _ => true
  | .firmwareHbmAccess _ _ _ _ => true
  | .contextCreate _ _ => true
  | .contextDestroy _ => true
  | .coldReset _ => true
  | .throttleDown => true
  | .throttleUp => true
  | .thermalTrip => true
  | .bellPin => true
  | .bellMessage _ => true
  | .snapshotLatch => true
  | .fabricBringUp _ _ _ => true

/-- The well-formed instructions: those a decoder may answer. -/
abbrev WellFormed (i : Instr) : Prop := wellFormed i = true

end Sys2Proof
end

