-- ==== Sys2Proof/Machine/Vec.lean ====
section
/-! DEFINITION. The vector strand's shared operations: retirement and index bases, traps and misses, operands, active lanes,
poison and the writing of lanes (05 R132 to R147, R160, R166). -/

namespace Sys2Proof.Machine

/-! The end of an instruction (R138, R404, R411). -/

/-- The value an index base will hold once its pending writes have taken effect (R138). -/
def Vec.laterBase (v : Vec) (c : Fin 4) : BitVec 3 :=
  (v.bw.foldl (fun x w => if w.base = c then w.val else x) v.b[c])

/-- A retirement lowers every pending count by 1; a write whose count reaches 0 takes effect (R138). -/
def Vec.retire (v : Vec) : Vec :=
  { v with
    b := v.bw.foldl (fun b w => if w.count ≤ 1 then b.set w.base w.val else b) v.b
    bw := (v.bw.filter fun w => decide (1 < w.count)).map fun w => { w with count := w.count - 1 } }

/-- The instruction retires (R138): its wait and its answered remote accesses are over, and the program counter advances; one that
would leave SPM traps PERM precisely (R42). -/
def Mach.retireV (m : Mach) (c : CoreId) (words : Nat) : Run :=
  let v := m.cores[c].vec
  if 2 ^ 18 ≤ v.pc.toNat + words then .trap pastSpm
  else .done ((m.endWait c .vector).onVec c fun v => { v.retire with pc := v.pc + BitVec.ofNat 18 words })

/-- A trap of the vector strand, with the sub-tile that an OBJ_MISS names (R411): it stops precisely, VSTAT holds its place, and the control
strand gets it asynchronously. -/
def Mach.vecStop (m : Mach) (c : CoreId) (t : Trap) (miss : Option (Nat × Nat)) : Mach :=
  let m1 := (m.withdraw c .vector).onVec c fun v => { v with status := .trapped }
  let m2 := m1.onCtl c fun k => { k with vstatStopped := true, vstatClass := t.cls.code, vstatAddr := m.cores[c].vec.pc }
  m2.raiseAsync c { src := 1, trap := t, miss := miss }

/-- A trap of the vector strand other than an OBJ_MISS. -/
def Mach.vecTrap (m : Mach) (c : CoreId) (t : Trap) : Mach := m.vecStop c t none

/-- A miss of the vector strand (R383, R411): a new one stops the strand with OBJ_MISS while the control strand runs at U; one already
outstanding is joined, and one at S, or with the table full, holds the access. -/
def Mach.missVec (m : Mach) (c : CoreId) (ctx h k : Nat) (ea : W64) : Mach :=
  if m.misses.any fun x => x.ctx == ctx && x.h == h && x.k == k then m
  else if 256 ≤ m.misses.length then m
  else
    let sup := m.cores[c].ctl.sup
    let m1 : Mach := { m with misses := m.misses ++ [{ ctx := ctx, h := h, k := k, core := if sup then none else some c }] }
    if sup then m1 else m1.vecStop c { cls := .objMiss, addr := ea } (some (h, k))

/-- A miss of an operation, or of an engine strand (R383): a new one goes to the core's control strand as an
asynchronous trap with the given source; the access is held. -/
def Mach.missOther (m : Mach) (c : CoreId) (src : BitVec 3) (ctx h k : Nat) (ea : W64) : Mach :=
  if m.misses.any fun x => x.ctx == ctx && x.h == h && x.k == k then m
  else if 256 ≤ m.misses.length then m
  else
    let sup := m.cores[c].ctl.sup
    let m1 : Mach := { m with misses := m.misses ++ [{ ctx := ctx, h := h, k := k, core := if sup then none else some c }] }
    m1.raiseAsync c { src := src, trap := { cls := .objMiss, addr := ea }, miss := some (h, k) }

/-- The vector instruction that runs has issued and goes on later. -/
def Mach.issueV (m : Mach) (c : CoreId) : Mach := m.onVec c fun v => { v with issued := true }

/-- A vector instruction of the strand that runs. -/
def State.vector (s : State) (f : Mach → Run) : Host.Outcome State Fault Refusal :=
  let c := s.cur.core
  match f s.mach with
  | .done m => .next { s with mach := m }
  | .stay m => .next { s with mach := m.issueV c }
  | .trap t => .next { s with mach := s.mach.vecTrap c t }
  | .trapFrom m t => .next { s with mach := m.vecTrap c t }
  | .miss ctx h k ea => .next { s with mach := (s.mach.issueV c).missVec c ctx h k ea }

/-- A blocked vector instruction (R174): it begins to wait, waits on, or traps FE_EXPIRE at its budget. -/
def Mach.blockVec (m : Mach) (c : CoreId) : Run :=
  match m.cores[c].vec.wait with
  | none => .stay (m.onVec c fun v => { v with wait := some (m.newWait c .vector 0 1 .trap false) })
  | some w => if w.expired m.scyc then .trap w.trap else .stay m

/-! Operands (R52, R138, R166). -/

/-- The vector strand a fetched vector instruction runs on. -/
def State.vec (s : State) : Vec := (s.core s.cur.core).vec

/-- The register an operand names, under the base in effect at issue. -/
def Vec.regNo (v : Vec) (r : VReg) : Fin 32 :=
  match r with
  | .v n => n
  | .ind c o => ⟨8 * c.val + (v.b[c].toNat + o.val) % 8, by omega⟩

/-- A register with one value in every lane, clean. -/
def VecReg.all (w : W32) : VecReg := { lanes := Vector.replicate 1024 { bits := w, tag := 0 }, faddr := 0 }

/-- A source operand: the register it reads and the strand with a queue popped, or none while the image has not arrived. -/
def Vec.source (v : Vec) (x : VSrc) : Option (VecReg × Vec) :=
  match x with
  | .reg r => some (v.v[v.regNo r], v)
  | .zero => some (.zero, v)
  | .lit w => some (.all w, v)
  | .oq n =>
    match v.oq[n] with
    | .arrived r :: rest => some (r, { v with oq := v.oq.set n rest })
    | _ => none

/-- Two sources, a's queue popped first. -/
def Vec.sources (v : Vec) (a b : VSrc) : Option (VecReg × VecReg × Vec) :=
  match v.source a with
  | none => none
  | some (ra, v1) =>
    match v1.source b with
    | none => none
    | some (rb, v2) => some (ra, rb, v2)

/-- Literal words after the header (R52). -/
def vlits : List VSrc → Nat
  | [] => 0
  | .lit _ :: r => 1 + vlits r
  | _ :: r => vlits r

/-- The words of a vector instruction: its prefix, its header and its literals (R53). -/
def vwords (q : Option Qual) (srcs : List VSrc) : Nat := b2n q.isSome + 1 + vlits srcs

/-! Which lanes act (R140, R141, R160). -/

/-- What an instruction reads at its issue: the sources, field d when it is read, the shape, the predicate under R51, and the
segment register of a qualifier. -/
structure VIn where
  a : VecReg
  b : VecReg
  d : VecReg
  shape : ShapeReg
  pred : BitVec 1024
  pn : Bool
  sg : Option SegReg

/-- The lanes in shape (R140). -/
def ShapeReg.lane (h : ShapeReg) (i : Nat) : Bool :=
  if h.rank = 0 then false
  else if h.rank = 1 then decide (i < h.ext[0].toNat)
  else decide (i % 64 < h.ext[0].toNat) && decide (i / 64 < h.ext[1].toNat)

/-- The width of a row and the height (R140). -/
def ShapeReg.width (h : ShapeReg) : Nat := if h.rank = 1 then 64 else min h.ext[0].toNat 64
def ShapeReg.height (h : ShapeReg) : Nat := if h.rank = 1 then (min h.ext[0].toNat 1024 + 63) / 64 else min h.ext[1].toNat 16

/-- A row holds data under the segment qualifier; every row does without one. -/
def VIn.valid (x : VIn) (r : Nat) : Bool :=
  match x.sg with
  | none => true
  | some g => ((g.rows.toList[r]?).map (·.valid)).getD false

/-- In shape and in a valid row: the lanes a select writes (R147). -/
def VIn.shaped (x : VIn) (i : Nat) : Bool := x.shape.lane i && x.valid (i / 64)
/-- The predicate's choice at a lane (R51). -/
def VIn.chosen (x : VIn) (i : Nat) : Bool := x.pred.getLsbD i != x.pn
/-- An active lane (R141). -/
def VIn.active (x : VIn) (i : Nat) : Bool := x.shaped i && x.chosen i

/-- A predicate read; P0 is all true (R132). -/
def Vec.predicate (v : Vec) (p : Fin 8) : BitVec 1024 := if p = 0 then BitVec.allOnes 1024 else v.p[p]

/-- The lane of a register, by number. -/
def VecReg.at (r : VecReg) (i : Nat) : Lane := (r.lanes[i]?).getD { bits := 0, tag := 0 }
def VIn.src (x : VIn) (k : Nat) : VecReg := if k = 0 then x.a else if k = 1 then x.b else x.d

/-- The segment register a qualifier names. -/
def Vec.segment (v : Vec) (q : Option Qual) : Option SegReg := q.bind fun q => if q.sgen then some v.sg[q.sg] else none

/-- The shape a qualifier names, SH0 without one, in the current set. -/
def Core.vshape (k : Core) (q : Option Qual) : ShapeReg := k.sets[(0 : Fin 4)].cur.sh[(q.map (·.sh)).getD 0]

/-! Elements in lanes (R133). -/

/-- The bits of an element of a type. -/
def elemBits (t : Nat) : Nat := typeWidth (BitVec.ofNat 4 t)

/-- The element's own bits of a lane. -/
def elemOf (t : Nat) (w : W32) : Nat := w.toNat % 2 ^ elemBits t

/-- A lane of a result: signed integers are sign-extended, every other result is zero-extended. -/
def laneBits (t : Nat) (v : Nat) : W32 :=
  if t = 8 ∨ t = 9 then BitVec.ofInt 32 (sgn (elemBits t) (v % 2 ^ elemBits t)) else BitVec.ofNat 32 (v % 2 ^ elemBits t)

/-! Lane results, poison and writing (R134, R145, R146). -/

/-- What an instruction does at a lane it writes: the source lanes it reads, by source (0 a, 1 b, 2 d) and lane, in the order of
R146; its result and its flags. -/
structure LaneOut where
  reads : List (Nat × Nat)
  bits : W32
  fl : FpFlags := {}

/-- The first poisoned lane among reads, with its source. -/
def VIn.firstPoison (x : VIn) (reads : List (Nat × Nat)) : Option (Nat × Lane) :=
  match reads.find? fun r => ((x.src r.1).at r.2).tag != 0 with
  | none => none
  | some r => some (r.1, (x.src r.1).at r.2)

/-- The poisoned lane that decides a trap (R146): the lowest lane index, then a, b, d. -/
def VIn.trapPoison (x : VIn) (outs : List LaneOut) : Option Trap :=
  let bad := (outs.flatMap (·.reads)).filter fun r => ((x.src r.1).at r.2).tag != 0
  (bad.foldl (fun best r => match best with
    | none => some r
    | some b => if 4 * r.2 + r.1 < 4 * b.2 + b.1 then some r else some b) none).map fun r =>
      { cls := tagClass ((x.src r.1).at r.2).tag, addr := (x.src r.1).faddr }

/-- FADDR after a write of lanes (R145): 0 with no lane poisoned, unchanged where one was poisoned before, else the address of
the lowest newly poisoned lane. -/
def VecReg.faddrAfter (old : VecReg) (lanes : Vector Lane 1024) (fresh : Option W64) : W64 :=
  if lanes.all (fun l => l.tag == 0) then 0
  else if old.lanes.all (fun l => l.tag == 0) then fresh.getD 0
  else old.faddr

/-- A destination register with lanes replaced; `fresh` is the address of the lowest lane poisoned by the write. -/
def Vec.writeLanes (v : Vec) (d : VDst) (f : Nat → Option Lane) (fresh : Option W64) : Vec :=
  match d with
  | .none => v
  | .reg r =>
    let n := v.regNo r
    let old := v.v[n]
    let lanes : Vector Lane 1024 := Vector.ofFn fun i : Fin 1024 => (f i.val).getD old.lanes[i]
    { v with v := v.v.set n { lanes := lanes, faddr := old.faddrAfter lanes fresh } }

def Vec.raise (v : Vec) (f : FpFlags) : Vec :=
  { v with flagSat := v.flagSat || f.sat, flagNx := v.flagNx || f.nx, flagUf := v.flagUf || f.uf, flagOf := v.flagOf || f.of,
           flagDz := v.flagDz || f.dz, flagNv := v.flagNv || f.nv }

def orFlags (l : List FpFlags) : FpFlags := l.foldl FpFlags.or {}

/-- The lane a speculative instruction gives: the first poisoned lane it reads, tag and value, or its clean result. -/
def VIn.specLane (x : VIn) (o : LaneOut) : Lane :=
  match x.firstPoison o.reads with
  | some (_, l) => l
  | none => { bits := o.bits, tag := 0 }

/-- What an instruction writes and raises, or the trap of its poison (R146). -/
def VIn.finish (x : VIn) (v : Vec) (spec : Bool) (d : VDst) (out : Nat → Option LaneOut) : Except Trap Vec :=
  let outs := (List.range 1024).filterMap out
  if spec then
    let fresh := outs.findSome? fun o => (x.firstPoison o.reads).map fun p => (x.src p.1).faddr
    let fl := orFlags ((outs.filter fun o => (x.firstPoison o.reads).isNone).map (·.fl))
    .ok ((v.raise fl).writeLanes d (fun i => (out i).map x.specLane) fresh)
  else
    match x.trapPoison outs with
    | some t => .error t
    | none => .ok ((v.raise (orFlags (outs.map (·.fl)))).writeLanes d (fun i => (out i).map fun o => { bits := o.bits, tag := 0 }) none)

/-- The operand d as it is read, when it is (the addend of `vfma`). -/
def Vec.dest (v : Vec) (d : VDst) : VecReg :=
  match d with
  | .reg r => v.v[v.regNo r]
  | .none => .zero

/-- The inputs of an instruction, with the queues it pops popped. -/
def Mach.vin (m : Mach) (c : CoreId) (q : Option Qual) (d : VDst) (a b : VSrc) (g : Guard) : Option (VIn × Vec) :=
  let k := m.cores[c]
  (k.vec.sources a b).map fun (ra, rb, v1) =>
    ({ a := ra, b := rb, d := k.vec.dest d, shape := k.vshape q, pred := k.vec.predicate g.p, pn := g.pn, sg := k.vec.segment q }, v1)

/-- An instruction that ends by replacing the vector strand's registers. -/
def Mach.vdone (m : Mach) (c : CoreId) (words : Nat) (r : Except Trap Vec) : Run :=
  match r with
  | .ok v => (m.onVec c fun _ => v).retireV c words
  | .error t => .trap t

def isSpec (q : Option Qual) : Bool := (q.map (·.spec)).getD false

/-- A vector instruction that writes lanes: its outcome at each lane, none where it writes nothing. -/
def State.lanes (s : State) (q : Option Qual) (d : VDst) (a b : VSrc) (g : Guard) (out : VIn → Nat → Option LaneOut) :
    Host.Outcome State Fault Refusal :=
  let c := s.cur.core
  s.vector fun m =>
    match m.vin c q d a b g with
    | none => m.blockVec c
    | some (x, v1) => m.vdone c (vwords q [a, b]) (x.finish v1 (isSpec q) d (out x))

/-- The same, at the active lanes only. -/
def State.activeLanes (s : State) (q : Option Qual) (d : VDst) (a b : VSrc) (g : Guard) (out : VIn → Nat → LaneOut) :
    Host.Outcome State Fault Refusal :=
  s.lanes q d a b g fun x i => if x.active i then some (out x i) else none

/-- A scalar operand read as N32 (R141): lane (0, 0), whatever its activity. -/
def VecReg.scalar (r : VecReg) : Nat := (r.at 0).bits.toNat

end Sys2Proof.Machine
end

