-- ==== Sys2Proof/Machine/VecArith.lean ====
section
/-! DEFINITION. Lane arithmetic, compares, selects, lane bits, conversions, block scales and special functions of the vector
engine (05 R147 to R153). -/

namespace Sys2Proof.Machine

/-! Arithmetic qualifiers and values. -/

def modeOf (q : Option Qual) : RMode := (q.map fun q => rmodeOf q.round).getD .rne
def satOf (q : Option Qual) : Bool := (q.map (·.sat)).getD false
def ftzOf (q : Option Qual) : Bool := (q.map (·.ftz)).getD false
def typeOf (q : Option Qual) : Nat := (qType q).toNat

/-- A type's format; it is asked of floating types only. -/
def fmt! (t : Nat) : Fmt := (fmtOf t).getD fp32
def isFloat (t : Nat) : Bool := decide (t < 8)

/-- A subnormal source flushed to the zero of its sign (R110). -/
def Ex.flush (f : Fmt) (x : Ex) : Ex :=
  match x with
  | .fin n m e _ => if m ≠ 0 ∧ (Nat.log2 m : Int) + e < f.emin then .zero n else x
  | _ => x

/-- A subnormal result flushed, with UF and NX (R110). -/
def FpOut.flush (o : FpOut) (f : Fmt) : FpOut :=
  let mag := o.bits % 2 ^ f.magBits
  if mag ≠ 0 ∧ mag < 2 ^ f.fb then { bits := o.bits - mag, fl := { o.fl with uf := true, nx := true } } else o

/-- A floating source element. -/
def floatIn (t : Nat) (ftz : Bool) (w : W32) : Ex :=
  let x := (fmt! t).decode (elemOf t w)
  if ftz then x.flush (fmt! t) else x

/-- An exact value with its invalid-operation signal rounded to a lane. -/
def floatOut (t : Nat) (q : Option Qual) (v : Ex × Bool) : FpOut :=
  let o := (fmt! t).round v.1 (modeOf q) (satOf q)
  let o1 : FpOut := { o with fl := { o.fl with nv := o.fl.nv || v.2 } }
  if ftzOf q then o1.flush (fmt! t) else o1

def outOf (t : Nat) (reads : List (Nat × Nat)) (o : FpOut) : LaneOut := { reads := reads, bits := laneBits t o.bits, fl := o.fl }

/-- An integer source element, and a lane of an integer result (R116, R133). -/
def intIn (t : Nat) (w : W32) : Int := intVal t (elemOf t w)
def intLane (t : Nat) (v : Int) : W32 := laneBits t (wrapN (elemBits t) v)

/-! Lane arithmetic (R148). -/

/-- A two-source operation: its exact real result, and its integer result. -/
def State.laneOp2 (s : State) (q : Option Qual) (d : VDst) (a b : VSrc) (g : Guard) (f : Ex → Ex → Ex × Bool) (n : Nat → Int → Int → Int × Bool) :
    Host.Outcome State Fault Refusal :=
  let t := typeOf q
  s.activeLanes q d a b g fun x i =>
    let u := (x.a.at i).bits
    let w := (x.b.at i).bits
    if isFloat t then outOf t [(0, i), (1, i)] (floatOut t q (f (floatIn t (ftzOf q) u) (floatIn t (ftzOf q) w)))
    else
      let r := n t (intIn t u) (intIn t w)
      { reads := [(0, i), (1, i)], bits := intLane t r.1, fl := { sat := r.2 } }

/-- An integer result that wraps. -/
def wrapped (f : Int → Int → Int) (_ : Nat) (x y : Int) : Int × Bool := (f x y, false)
/-- An operation without an integer form, and one without a floating form: their type domains shut the other out. -/
def noInt (_ : Nat) (x _ : Int) : Int × Bool := (x, false)
def noFloat (x _ : Ex) : Ex × Bool := (x, false)

/-- `vadd` (R148). -/
def execVadd (q : Option Qual) (d : VDst) (a b : VSrc) (g : Guard) (s : State) : Host.Outcome State Fault Refusal :=
  s.laneOp2 q d a b g (fun x y => x.add y (modeOf q)) (wrapped (· + ·))
/-- `vsub` (R148). -/
def execVsub (q : Option Qual) (d : VDst) (a b : VSrc) (g : Guard) (s : State) : Host.Outcome State Fault Refusal :=
  s.laneOp2 q d a b g (fun x y => x.add y.negate (modeOf q)) (wrapped (· - ·))
/-- `vmul` (R148). -/
def execVmul (q : Option Qual) (d : VDst) (a b : VSrc) (g : Guard) (s : State) : Host.Outcome State Fault Refusal :=
  s.laneOp2 q d a b g Ex.mul (wrapped (· * ·))

/-- The fused forms: field d is the addend. -/
def State.fused (s : State) (q : Option Qual) (d : VDst) (a b : VSrc) (g : Guard) (neg : Bool) : Host.Outcome State Fault Refusal :=
  let t := typeOf q
  s.activeLanes q d a b g fun x i =>
    let v (w : W32) : Ex := floatIn t (ftzOf q) w
    let u := v (x.a.at i).bits
    outOf t [(0, i), (1, i), (2, i)] (floatOut t q ((if neg then u.negate else u).fma (v (x.b.at i).bits) (v (x.d.at i).bits) (modeOf q)))

/-- `vfma` (R148). -/
def execVfma (q : Option Qual) (d : VDst) (a b : VSrc) (g : Guard) (s : State) : Host.Outcome State Fault Refusal := s.fused q d a b g false
/-- `vfnma` (R148). -/
def execVfnma (q : Option Qual) (d : VDst) (a b : VSrc) (g : Guard) (s : State) : Host.Outcome State Fault Refusal := s.fused q d a b g true

/-- `vmin` (R148, R109): NV only for a signalling NaN. -/
def execVmin (q : Option Qual) (d : VDst) (a b : VSrc) (g : Guard) (s : State) : Host.Outcome State Fault Refusal :=
  s.laneOp2 q d a b g (fun x y => (x.minMax false y, anySig [x, y])) (wrapped min)
/-- `vmax` (R148, R109). -/
def execVmax (q : Option Qual) (d : VDst) (a b : VSrc) (g : Guard) (s : State) : Host.Outcome State Fault Refusal :=
  s.laneOp2 q d a b g (fun x y => (x.minMax true y, anySig [x, y])) (wrapped max)

/-- A change of sign: no flag, NaN gives the canonical NaN. -/
def State.signOp (s : State) (q : Option Qual) (d : VDst) (a : VSrc) (g : Guard) (f : Bool → Bool) (n : Int → Int) : Host.Outcome State Fault Refusal :=
  let t := typeOf q
  s.activeLanes q d a .zero g fun x i =>
    let u := (x.a.at i).bits
    let bits :=
      if isFloat t then
        let fm := fmt! t
        if (fm.decode (elemOf t u)).isNan then laneBits t fm.nan
        else laneBits t (fm.withSign (f (bit u.toNat fm.magBits)) (u.toNat % 2 ^ fm.magBits))
      else intLane t (n (intIn t u))
    { reads := [(0, i)], bits := bits }

/-- `vabs` (R148). -/
def execVabs (q : Option Qual) (d : VDst) (a : VSrc) (g : Guard) (s : State) : Host.Outcome State Fault Refusal :=
  s.signOp q d a g (fun _ => false) fun x => (x.natAbs : Int)
/-- `vneg` (R148). -/
def execVneg (q : Option Qual) (d : VDst) (a : VSrc) (g : Guard) (s : State) : Host.Outcome State Fault Refusal :=
  s.signOp q d a g (fun n => !n) fun x => -x

/-- `vadds` (R148). -/
def execVadds (q : Option Qual) (d : VDst) (a b : VSrc) (g : Guard) (s : State) : Host.Outcome State Fault Refusal :=
  s.laneOp2 q d a b g noFloat fun t x y => satT t (x + y)
/-- `vsubs` (R148). -/
def execVsubs (q : Option Qual) (d : VDst) (a b : VSrc) (g : Guard) (s : State) : Host.Outcome State Fault Refusal :=
  s.laneOp2 q d a b g noFloat fun t x y => satT t (x - y)
/-- `vmulh` (R148). -/
def execVmulh (q : Option Qual) (d : VDst) (a b : VSrc) (g : Guard) (s : State) : Host.Outcome State Fault Refusal :=
  s.laneOp2 q d a b g noFloat fun t x y => (x * y / 2 ^ intBits t, false)

/-! Compares (R149). -/

/-- The six relations; `q` says whether a quiet NaN raises NV, and `nan` is the outcome with a NaN. -/
structure Relation where
  quietNv : Bool
  nan : Bool
  holds : (lt eq : Bool) → Bool

/-- A compare: every lane of the predicate is written; a poisoned lane that it reads traps, with or without spec. -/
def State.compare (s : State) (q : Option Qual) (pd : Fin 8) (a b : VSrc) (g : Guard) (rel : Relation) : Host.Outcome State Fault Refusal :=
  let c := s.cur.core
  let t := typeOf q
  s.vector fun m =>
    match m.vin c q .none a b g with
    | none => m.blockVec c
    | some (x, v1) =>
      let one (i : Nat) : Bool × FpFlags :=
        let u := (x.a.at i).bits
        let w := (x.b.at i).bits
        if isFloat t then
          let xa := floatIn t (ftzOf q) u
          let xb := floatIn t (ftzOf q) w
          if xa.isNan || xb.isNan then (rel.nan, .invalid (rel.quietNv || anySig [xa, xb])) else (rel.holds (xa.lt xb) (xa.eq xb), {})
        else (rel.holds (decide (intIn t u < intIn t w)) (intIn t u == intIn t w), {})
      let acts := (List.range 1024).filter x.active
      match x.trapPoison (acts.map fun i => { reads := [(0, i), (1, i)], bits := 0 }) with
      | some t => .trap t
      | none =>
        let p : BitVec 1024 := BitVec.ofNat 1024 (acts.foldl (fun n i => if (one i).1 then n + 2 ^ i else n) 0)
        let v2 := v1.raise (orFlags (acts.map fun i => (one i).2))
        m.vdone c (vwords q [a, b]) (.ok { v2 with p := v2.p.set pd p })

/-- `vceq` (R149). -/
def execVceq (q : Option Qual) (pd : Fin 8) (a b : VSrc) (g : Guard) (s : State) : Host.Outcome State Fault Refusal :=
  s.compare q pd a b g { quietNv := false, nan := false, holds := fun _ e => e }
/-- `vcne` (R149): true with a NaN. -/
def execVcne (q : Option Qual) (pd : Fin 8) (a b : VSrc) (g : Guard) (s : State) : Host.Outcome State Fault Refusal :=
  s.compare q pd a b g { quietNv := false, nan := true, holds := fun _ e => !e }
/-- `vclt` (R149). -/
def execVclt (q : Option Qual) (pd : Fin 8) (a b : VSrc) (g : Guard) (s : State) : Host.Outcome State Fault Refusal :=
  s.compare q pd a b g { quietNv := true, nan := false, holds := fun l _ => l }
/-- `vcle` (R149). -/
def execVcle (q : Option Qual) (pd : Fin 8) (a b : VSrc) (g : Guard) (s : State) : Host.Outcome State Fault Refusal :=
  s.compare q pd a b g { quietNv := true, nan := false, holds := fun l e => l || e }
/-- `vcgt` (R149). -/
def execVcgt (q : Option Qual) (pd : Fin 8) (a b : VSrc) (g : Guard) (s : State) : Host.Outcome State Fault Refusal :=
  s.compare q pd a b g { quietNv := true, nan := false, holds := fun l e => !l && !e }
/-- `vcge` (R149). -/
def execVcge (q : Option Qual) (pd : Fin 8) (a b : VSrc) (g : Guard) (s : State) : Host.Outcome State Fault Refusal :=
  s.compare q pd a b g { quietNv := true, nan := false, holds := fun l _ => !l }

/-! Selects (R147). -/

/-- `vsel` (R147): the predicate chooses; both sources are read at every written lane. -/
def execVsel (q : Option Qual) (d : VDst) (a b : VSrc) (g : Guard) (s : State) : Host.Outcome State Fault Refusal :=
  s.lanes q d a b g fun x i =>
    if x.shaped i then some { reads := [(0, i), (1, i)], bits := if x.chosen i then (x.a.at i).bits else (x.b.at i).bits } else none

/-- `vcsel` (R147): the commit; it copies the chosen lane with its tag and never traps on poison. -/
def execVcsel (q : Option Qual) (d : VDst) (a b : VSrc) (g : Guard) (s : State) : Host.Outcome State Fault Refusal :=
  let c := s.cur.core
  s.vector fun m =>
    match m.vin c q d a b g with
    | none => m.blockVec c
    | some (x, v1) =>
      let pick (i : Nat) : Lane := if x.chosen i then x.a.at i else x.b.at i
      let bad (take : Bool) : Bool := (List.range 1024).any fun i => x.shaped i && x.chosen i == take && (pick i).tag != 0
      let v2 := v1.writeLanes d (fun i => if x.shaped i then some (pick i) else none) none
      let faddr : W64 := if bad true then x.a.faddr else if bad false then x.b.faddr else 0
      let v3 := match d with
        | .none => v2
        | .reg r => let n := v2.regNo r; { v2 with v := v2.v.set n { v2.v[n] with faddr := faddr } }
      m.vdone c (vwords q [a, b]) (.ok v3)

/-! Lane bits (R150). -/

/-- A lane-wise function of whole lanes. -/
def State.bitOp2 (s : State) (q : Option Qual) (d : VDst) (a b : VSrc) (g : Guard) (f : W32 → W32 → W32) : Host.Outcome State Fault Refusal :=
  s.activeLanes q d a b g fun x i => { reads := [(0, i), (1, i)], bits := f (x.a.at i).bits (x.b.at i).bits }

def State.bitOp1 (s : State) (q : Option Qual) (d : VDst) (a : VSrc) (g : Guard) (f : W32 → W32) : Host.Outcome State Fault Refusal :=
  s.activeLanes q d a .zero g fun x i => { reads := [(0, i)], bits := f (x.a.at i).bits }

/-- `vmov` (R150). -/
def execVmov (q : Option Qual) (d : VDst) (a : VSrc) (g : Guard) (s : State) : Host.Outcome State Fault Refusal := s.bitOp1 q d a g id
/-- `vand` (R150). -/
def execVand (q : Option Qual) (d : VDst) (a b : VSrc) (g : Guard) (s : State) : Host.Outcome State Fault Refusal := s.bitOp2 q d a b g (· &&& ·)
/-- `vor` (R150). -/
def execVor (q : Option Qual) (d : VDst) (a b : VSrc) (g : Guard) (s : State) : Host.Outcome State Fault Refusal := s.bitOp2 q d a b g (· ||| ·)
/-- `vxor` (R150). -/
def execVxor (q : Option Qual) (d : VDst) (a b : VSrc) (g : Guard) (s : State) : Host.Outcome State Fault Refusal := s.bitOp2 q d a b g (· ^^^ ·)
/-- `vnot` (R150). -/
def execVnot (q : Option Qual) (d : VDst) (a : VSrc) (g : Guard) (s : State) : Host.Outcome State Fault Refusal := s.bitOp1 q d a g fun x => ~~~x

/-- The shift amount: b's low w bits modulo the width (R150). -/
def shiftBy (t : Nat) (w : W32) : Nat := elemOf t w % intBits t

/-- `vshl` (R150). -/
def execVshl (q : Option Qual) (d : VDst) (a b : VSrc) (g : Guard) (s : State) : Host.Outcome State Fault Refusal :=
  let t := typeOf q
  s.bitOp2 q d a b g fun x y => laneBits t (elemOf t x * 2 ^ shiftBy t y)
/-- `vshr` (R150): x is read unsigned. -/
def execVshr (q : Option Qual) (d : VDst) (a b : VSrc) (g : Guard) (s : State) : Host.Outcome State Fault Refusal :=
  let t := typeOf q
  s.bitOp2 q d a b g fun x y => laneBits t (elemOf t x / 2 ^ shiftBy t y)
/-- `vsar` (R150): x is read signed. -/
def execVsar (q : Option Qual) (d : VDst) (a b : VSrc) (g : Guard) (s : State) : Host.Outcome State Fault Refusal :=
  let t := typeOf q
  s.bitOp2 q d a b g fun x y => intLane t (sgn (intBits t) (elemOf t x) / 2 ^ shiftBy t y)

/-! Conversions (R151, R122 to R124). -/

/-- A conversion between two types of R53. -/
def convert (q : Option Qual) (src dst : Nat) (w : W32) : FpOut :=
  if isFloat src then
    let x := floatIn src (ftzOf q) w
    if isFloat dst then
      let o := cvtFloat x (fmt! dst) (modeOf q) (satOf q)
      if ftzOf q then o.flush (fmt! dst) else o
    else
      let (n, fl) := cvtToInt x dst (modeOf q)
      { bits := wrapN (elemBits dst) n, fl := fl }
  else
    let v := intIn src w
    if isFloat dst then floatOut dst q (.ofInt v, false)
    else if satOf q then let (n, clamped) := satT dst v; { bits := wrapN (elemBits dst) n, fl := { sat := clamped } }
    else { bits := wrapN (elemBits dst) v, fl := {} }

/-- `vcvt` (R151): directions 0 FP32 to T, 1 T to FP32, 2 I32 to T, 3 T to I32. -/
def execVcvt (q : Option Qual) (d : VDst) (a : VSrc) (dir : Fin 4) (g : Guard) (s : State) : Host.Outcome State Fault Refusal :=
  let t := typeOf q
  let (src, dst) : Nat × Nat := if dir = 0 then (0, t) else if dir = 1 then (t, 0) else if dir = 2 then (10, t) else (t, 10)
  s.activeLanes q d a .zero g fun x i => outOf dst [(0, i)] (convert q src dst (x.a.at i).bits)

/-! Block scales (R152). -/

/-- EMAXT of the element formats of `vpack`. -/
def emaxOf (t : Nat) : Int :=
  match t with
  | 3 => 8
  | 4 => 15
  | 6 => 4
  | _ => 2

/-- The exponent k of a block from its active lanes' values, or none for NaN. -/
def packExp (t : Nat) (vals : List Nat) : Option Int :=
  let mags := vals.map (· % 2 ^ 31)
  if mags.any fun v => decide (fp32.infMag ≤ v) then none
  else
    match fp32.decode (mags.foldl max 0) with
    | .fin _ m e _ => if m = 0 then some 0 else some (max (-127) (min 127 ((Nat.log2 m : Int) + e - emaxOf t)))
    | _ => none

/-- The lane of a block's scale: kind 0 its UE8M12 encoding, kind 1 the FP32 value 2^-k. -/
def packLane (kind : Fin 2) (k : Option Int) : W32 :=
  match k with
  | none => if kind = 0 then 0xFF000 else 0x7FC00000
  | some k =>
    if kind = 0 then (if k = -127 then 0x800 else BitVec.ofNat 32 ((k + 127).toNat * 2 ^ 12))
    else BitVec.ofNat 32 (fp32.round (.fin false 1 (-k) false) .rne false).bits

/-- `vpack` (R152). -/
def execVpack (q : Option Qual) (d : VDst) (a : VSrc) (kind : Fin 2) (g : Guard) (s : State) : Host.Outcome State Fault Refusal :=
  s.activeLanes q d a .zero g fun x i =>
    let block := ((List.range 32).map fun j => i / 32 * 32 + j).filter x.active
    { reads := block.map fun j => (0, j), bits := packLane kind (packExp (typeOf q) (block.map fun j => (x.a.at j).bits.toNat)) }

/-! Special functions (R153, R125, R126). -/

/-- A special function under a rounding mode, at every active lane. -/
def State.special (s : State) (q : Option Qual) (d : VDst) (a : VSrc) (g : Guard) (f : Ex → Ex × FpFlags) : Host.Outcome State Fault Refusal :=
  let t := typeOf q
  s.activeLanes q d a .zero g fun x i =>
    let r := f ((fmt! t).decode (elemOf t (x.a.at i).bits))
    let o := (fmt! t).round r.1 (modeOf q) (satOf q)
    { reads := [(0, i)], bits := laneBits t o.bits, fl := o.fl.or r.2 }

/-- `vrcp` (R153). -/
def execVrcp (q : Option Qual) (d : VDst) (a : VSrc) (g : Guard) (s : State) : Host.Outcome State Fault Refusal := s.special q d a g exRcp
/-- `vrsqrt` (R153). -/
def execVrsqrt (q : Option Qual) (d : VDst) (a : VSrc) (g : Guard) (s : State) : Host.Outcome State Fault Refusal := s.special q d a g exRsqrt
/-- `vsqrt` (R153). -/
def execVsqrt (q : Option Qual) (d : VDst) (a : VSrc) (g : Guard) (s : State) : Host.Outcome State Fault Refusal := s.special q d a g exSqrt
/-- `vexp2` (R153). -/
def execVexp2 (q : Option Qual) (d : VDst) (a : VSrc) (g : Guard) (s : State) : Host.Outcome State Fault Refusal := s.special q d a g exExp2
/-- `vlog2` (R153). -/
def execVlog2 (q : Option Qual) (d : VDst) (a : VSrc) (g : Guard) (s : State) : Host.Outcome State Fault Refusal := s.special q d a g exLog2
/-- `vtanh` (R153). -/
def execVtanh (q : Option Qual) (d : VDst) (a : VSrc) (g : Guard) (s : State) : Host.Outcome State Fault Refusal := s.special q d a g exTanh
/-- `vsigm` (R153). -/
def execVsigm (q : Option Qual) (d : VDst) (a : VSrc) (g : Guard) (s : State) : Host.Outcome State Fault Refusal := s.special q d a g exSigm

end Sys2Proof.Machine
end

