-- ==== Sys2Proof/Machine/VecMem.lean ====
section
/-! DEFINITION. The vector strand's memory instructions: element addresses, plain and speculative loads, stores, the full/empty
forms, operand-queue loads and the walk of a row table (05 R157 to R166, 14 R427). -/

namespace Sys2Proof.Machine

/-! Element addresses (R162, R163, R170). -/

/-- The iteration index of an instruction: LFIRST + LJ - k for stage k, which its predicate field names; 0 outside a loop. -/
def Vec.iter (v : Vec) (g : Guard) : Int :=
  let l := v.loop
  if !l.act then 0
  else
    let k := if g.pn || g.p.val = 0 || decide (l.ls < g.p.val) then 0 else g.p.val - 1
    (l.lfirst : Int) + l.lj - k

/-- An active lane's element: its object pointer, or the fault of its formation, and its nibble for E2M1. -/
structure Elem where
  lane : Nat
  ptr : Except Trap W64
  nib : Nat

def LayoutReg.str (ly : LayoutReg) (i : Fin 4) : Int := ly.stride[i].toInt

/-- The byte offset of lane i's element from PTR, and its nibble: by row and column, or by index for `vgath` and `vscat`. -/
def LayoutReg.elemOff (ly : LayoutReg) (x : VIn) (iter : Int) (indexed : Bool) (off : Int) (i : Nat) : Int × Nat :=
  let fp4 := ly.type == 7
  let es := esizeOf ly.type.toNat
  let run (e : Nat) : Int × Nat := if fp4 then ((e / 2 : Nat), e % 2) else ((e * es : Nat), 0)
  let it := iter * ly.str 2
  if indexed then let (d, n) := run (x.b.at i).bits.toNat; (d + it, n)
  else if ly.kind = 1 then let (d, n) := run i; (off + d + it, n)
  else
    let row : Nat := if ly.kind = 0 then i / 64 else ((x.sg.bind fun g => g.rows.toList[i / 64]?).map (·.srcrow.toNat)).getD 0
    let (d, n) : Int × Nat := if fp4 then ((i % 64 / 2 : Nat), i % 2) else ((i % 64 : Nat) * ly.str 0, 0)
    (off + (row : Int) * ly.str 1 + d + it, n)

def Mach.elem (ly : LayoutReg) (x : VIn) (iter : Int) (indexed : Bool) (off : Int) (i : Nat) : Elem :=
  let (d, n) := ly.elemOff x iter indexed off i
  { lane := i, nib := n, ptr := match ptrAdd ly.ptr d with | .ok p => .ok p | .error _ => .error { cls := .perm, addr := ly.ptr } }

/-- The vector strand translates at U in its core's context (R406). -/
def Mach.vasker (m : Mach) (c : CoreId) : Asker := { core := c, ctx := m.cores[c].ctl.ctxid, site := some (clusterFin c), sup := false, lighter := false }

def Mach.elemPlace (m : Mach) (c : CoreId) (n : Nat) (kind : Kind) (e : Elem) : Except NoPlace Place :=
  match e.ptr with
  | .error t => .error (.fault t)
  | .ok p => checked (m.seen c .vector) (m.vasker c) p n kind

def Elem.addr (e : Elem) : W64 :=
  match e.ptr with
  | .ok p => p
  | .error t => t.addr

/-- The ordering fields of a memory prefix (R144). -/
def memCls (q : Option Qual) : BitVec 4 := qType q
def memRel (q : Option Qual) : Bool := (q.map (·.sat)).getD false

/-- An element in memory: FP4 is a nibble of its byte, and the bits above an element are ignored (R108). -/
def elemBitsOf (type nib v : Nat) : Nat := if type = 7 then v / 16 ^ nib % 16 else v % 2 ^ elemBits type

/-- The masked bytes of a stored element. -/
def elemBytes (type nib : Nat) (w : W32) : List (Byte × Byte) :=
  if type = 7 then [(if nib = 0 then 0x0F else 0xF0, BitVec.ofNat 8 (elemOf 7 w * 16 ^ nib))]
  else wholeBytes (leBytes (elemOf type w) (esizeOf type))

/-! Stops: the first element that faults, misses or is held. -/

def NoPlace.run (e : NoPlace) (m : Mach) (ea : W64) : Run :=
  match e with
  | .fault t => .trap t
  | .miss ctx h k => .miss ctx h k ea
  | .held => .stay m

/-- Whether a stop is a fault a speculative load defers (R163). -/
def NoPlace.defers (e : NoPlace) : Bool :=
  match e with
  | .fault t => deferrable t.cls
  | _ => false

/-- The first element, in lane order, that stops the instruction. -/
def firstStop (l : List (Elem × Except NoPlace Place)) (spec : Bool) : Option (Elem × NoPlace) :=
  l.findSome? fun p =>
    match p.2 with
    | .error e => if spec && e.defers then none else some (p.1, e)
    | .ok _ => none

/-- The elements of an instruction whose layout names a remote record, with its home. -/
def farElems (l : List (Elem × Except NoPlace Place)) : List (Elem × Nat) :=
  l.filterMap fun p => match p.2 with | .ok (.remote home _) => some (p.1, home) | _ => none

/-- The answers of remote elements, by lane: they name one object, and one message carries them; none while it is out (R163, R260, R378). -/
def Mach.askElems (m : Mach) (c : CoreId) (lane : Nat) (op : List Elem → RemoteOp) (l : List (Elem × Except NoPlace Place)) :
    Mach × Option (List (Nat × LaneReply)) :=
  match farElems l with
  | [] => (m, some [])
  | (e0, home) :: r =>
    let es := e0 :: r.map (·.1)
    match m.remoteAsk c .vector lane home m.cores[c].ctl.ctxid e0.addr (op es) with
    | (m1, none) => (m1, none)
    | (m1, some (.each rs)) => (m1, some ((es.zip rs).map fun x => (x.1.lane, x.2)))
    | (m1, some _) => (m1, some (es.map fun e => (e.lane, .refused)))

/-- The fault a remote answer brings (R342). -/
def laneFault (a : LaneReply) (ea : W64) : Option Trap :=
  match a with
  | .value _ => none
  | .poisoned => some { cls := .poison, addr := ea }
  | .refused => some { cls := .fabric, addr := ea }

/-- The accesses of an instruction's elements, for their order (R261). -/
def elemAccesses (cls : BitVec 4) (rel : Bool) (kind : AccKind) (l : List (Elem × Except NoPlace Place)) : List Access :=
  l.filterMap fun p =>
    match p.2 with
    | .ok (.store key mt _) => some { loc := locOf key, cls := cls, rel := rel, mtype := mt, kind := kind, masks := [] }
    | .ok (.remote _ mt) => some { loc := remoteLoc, cls := cls, rel := rel, mtype := mt, kind := kind, masks := [] }
    | _ => none

/-! Loads. -/

/-- The outcome of an element's load: its lane bits, or the fault that is deferred. -/
def Mach.elemLoad (m : Mach) (type : Nat) (e : Elem) (pl : Except NoPlace Place) (a : Option LaneReply) : Except Trap W32 :=
  match pl with
  | .error (.fault t) => .error t
  | .error _ => .error { cls := .objMiss, addr := e.addr }
  | .ok pl =>
    match a with
    | some (.value v) => .ok (laneBits type (elemBitsOf type e.nib v))
    | some a => .error ((laneFault a e.addr).getD { cls := .fabric, addr := e.addr })
    | none => .ok (laneBits type (elemBitsOf type e.nib (m.readPlace pl (esizeOf type))))

/-- The loads of an instruction's elements (R163): translation of every one comes first; without `spec` the lowest faulting lane
decides; with it each lane's fault is deferred, but for an OBJ_MISS and a FABRIC. They wait for a load that is kept back and stands before
them (R262). -/
def Mach.loadElems (m : Mach) (c : CoreId) (type : Nat) (cls : BitVec 4) (spec : Bool) (es : List Elem)
    (k : Mach → List (Elem × Except Trap W32) → Run) : Run :=
  let n := esizeOf type
  let pls := es.map fun e => (e, m.elemPlace c n .read e)
  match firstStop pls spec with
  | some (e, np) => np.run m e.addr
  | none =>
    let reqs := elemAccesses cls false .load pls
    if m.heldVec c reqs then .stay m else
    match (m.flushReqs c .vector reqs).askElems c 0 (fun es => .gather n (es.map Elem.addr)) pls with
    | (m2, none) => .stay m2
    | (m2, some far) =>
      let vals := pls.map fun p => (p.1, m2.elemLoad type p.1 p.2 (far.lookup p.1.lane))
      match vals.findSome? (fun v => match v.2 with | .error t => if spec && deferrable t.cls then none else some t | .ok _ => none) with
      | some t => .trap t
      | none => k m2 vals

/-- The lane a load's outcome gives: a deferred fault is its class and the low bits of its address (R163). -/
def gotLane (v : Except Trap W32) : Lane :=
  match v with
  | .ok w => { bits := w, tag := 0 }
  | .error t => { bits := t.addr.setWidth 32, tag := t.cls.code }

/-- A ragged layout needs a segment qualifier (R162). The SHAPE trap's fault address is LY.PTR, as R164 gives it for the same check (DEDUCED, log 23). -/
def raggedBare (ly : LayoutReg) (x : VIn) : Bool := decide (2 ≤ ly.kind.toNat) && x.sg.isNone

/-- The layout register of the current set. -/
def Core.layout (k : Core) (n : Fin 8) : LayoutReg := k.sets[(0 : Fin 4)].cur.ly[n]

/-- `vld` and `vgath` (R163). -/
def State.vload (s : State) (q : Option Qual) (d : VDst) (ly : Fin 8) (b : VSrc) (g : Guard) (indexed : Bool) : Host.Outcome State Fault Refusal :=
  let c := s.cur.core
  s.vector fun m =>
    match m.vin c q d .zero b g with
    | none => m.blockVec c
    | some (x, v1) =>
      let l := m.cores[c].layout ly
      if raggedBare l x then .trap { cls := .shape, addr := l.ptr }
      else
        let spec := isSpec q
        let acts := (List.range 1024).filter x.active
        let reads (i : Nat) : List (Nat × Nat) := [(1, if indexed then i else 0)]
        let bad (i : Nat) : Option Lane := (x.firstPoison (reads i)).map (·.2)
        match (if spec then none else x.trapPoison (acts.map fun i => { reads := reads i, bits := 0 })) with
        | some t => .trap t
        | none =>
          let off : Int := (x.b.at 0).bits.toInt
          let es := (acts.filter fun i => (bad i).isNone).map (Mach.elem l x (v1.iter g) indexed off)
          m.loadElems c l.type.toNat (memCls q) spec es fun m1 vals =>
            let lane (i : Nat) : Option Lane :=
              if !x.active i then none
              else match bad i with
                | some p => some p
                | none => (vals.find? fun v => v.1.lane == i).map fun v => gotLane v.2
            let fresh : Option W64 := acts.findSome? fun i =>
              if (bad i).isSome then some x.b.faddr
              else (vals.find? fun v => v.1.lane == i).bind fun v => match v.2 with | .error t => some t.addr | .ok _ => none
            (m1.onVec c fun _ => v1.writeLanes d lane fresh).retireV c (vwords q [b])

/-- `vld` (R163). -/
def execVld (q : Option Qual) (d : VDst) (ly : Fin 8) (off : VSrc) (g : Guard) (s : State) : Host.Outcome State Fault Refusal := s.vload q d ly off g false
/-- `vgath` (R163). -/
def execVgath (q : Option Qual) (d : VDst) (ly : Fin 8) (off : VSrc) (g : Guard) (s : State) : Host.Outcome State Fault Refusal := s.vload q d ly off g true

/-! Stores. -/

/-- A store of masked bytes issued by the vector strand. -/
def Mach.issueMasked (m : Mach) (c : CoreId) (key : Nat) (data : List (Byte × Byte)) (cls : BitVec 4) (rel : Release) (mt : MType) (use : Option ObjUse) : Mach :=
  { m with pend := m.pend ++ [Pend.store { core := c, strand := .vector, addr := key, data := data, clears := false, cls := cls, rel := rel == .far,
                                           near := rel == .near, mtype := mt, use := use, shown := false }] }

/-- The scope field of a memory prefix; without one, core scope. -/
def memScope (q : Option Qual) : BitVec 3 := (q.map (·.round)).getD 0

/-- The order and scope fields of a memory prefix name a release (R144, R264). -/
def memRelease (q : Option Qual) : Release := if !memRel q then .none else if memScope q = 0 then .near else .far

/-- The masked bytes that elements, each at its address, write to the location at `w`; a later one's bytes replace an earlier one's (R163, R260). -/
def wordBytes (type : Nat) (data : Nat → W32) (es : List (Nat × Elem)) (w : Nat) : List (Byte × Byte) :=
  (es.filter fun e => decide (w ≤ e.1) && decide (e.1 < w + 8)).foldl (fun bs e =>
    let at_ := e.1 - w
    (bs.zipIdx.map fun b =>
      match (elemBytes type e.2.nib (data e.2.lane))[b.2 - at_]? with
      | some nb => if at_ ≤ b.2 then (b.1.1 ||| nb.1, maskByte b.1.2 nb.1 nb.2) else b.1
      | none => b.1)) (List.replicate 8 (0, 0))

/-- The locations that stored elements touch, in the order of their first elements: each is one store of the instruction (R260). -/
def storeLocs (l : List (Elem × Except NoPlace Place)) : List (Nat × MType × Option ObjUse) :=
  l.foldl (fun acc p =>
    match p.2 with
    | .ok (.store key mt use) => if acc.any fun x => x.1 == locOf key then acc else acc ++ [(locOf key, mt, use)]
    | _ => acc) []

/-- The elements stored in this package's storage, by address. -/
def nearElems (l : List (Elem × Except NoPlace Place)) : List (Nat × Elem) :=
  l.filterMap fun p => match p.2 with | .ok (.store key _ _) => some (key, p.1) | _ => none

/-- A list in rising order of a key, equal keys in their order. -/
def insertBy (key : α → Nat) (x : α) : List α → List α
  | [] => [x]
  | y :: r => if key x ≤ key y then x :: y :: r else y :: insertBy key x r
def orderBy (key : α → Nat) (l : List α) : List α := l.foldr (insertBy key) []

/-- The hash of the elements stored, in ascending lane index (R427). -/
def Mach.hashElems (m : Mach) (c : CoreId) (type : Nat) (data : Nat → W32) (es : List Elem) : Mach :=
  es.foldl (fun m e => m.hash c .vector e.addr (esizeOf type) (elemOf type (data e.lane))) m

/-- `vst` and `vscat` (R163): no lane is stored on a fault. The elements within one location are one store (R260), and the higher of two
lanes at one element remains. -/
def State.vstore (s : State) (q : Option Qual) (v : VReg) (ly : Fin 8) (b : VSrc) (g : Guard) (indexed : Bool) : Host.Outcome State Fault Refusal :=
  let c := s.cur.core
  s.vector fun m =>
    match m.vin c q (.reg v) .zero b g with
    | none => m.blockVec c
    | some (x, v1) =>
      let l := m.cores[c].layout ly
      let type := l.type.toNat
      if raggedBare l x then .trap { cls := .shape, addr := l.ptr }
      else
        let acts := (List.range 1024).filter x.active
        match x.trapPoison (acts.map fun i => { reads := [(1, if indexed then i else 0), (2, i)], bits := 0 }) with
        | some t => .trap t
        | none =>
          let es := acts.map (Mach.elem l x (v1.iter g) indexed (x.b.at 0).bits.toInt)
          let pls := es.map fun e => (e, m.elemPlace c (esizeOf type) .write e)
          let data (i : Nat) : W32 := (x.d.at i).bits
          match firstStop pls false with
          | some (e, np) => np.run m e.addr
          | none =>
            let far := if (farElems pls).isEmpty then [] else elemAccesses (memCls q) (memRel q) .store pls
            if !far.isEmpty && m.heldVec c far then .stay m else
            match (m.flushReqs c .vector far).askElems c 0 (fun es => .scatter (es.map fun e => (e.addr, elemBytes type e.nib (data e.lane)))) pls with
            | (m1, none) => .stay m1
            | (m1, some got) =>
              match es.findSome? (fun e => (got.lookup e.lane).bind fun a => laneFault a e.addr) with
              | some t => .trap t
              | none =>
                let order := if indexed then pls else orderBy (fun p => Config.laneOrder s.tick p.1.lane) pls
                let near := nearElems pls
                let m2 := (storeLocs order).foldl (fun m x =>
                  m.issueMasked c x.1 (wordBytes type data near x.1) (memCls q) (memRelease q) x.2.1 x.2.2) m1
                ((m2.hashElems c type data es).onVec c fun _ => v1).retireV c (vwords q [b])

/-- `vst` (R163). -/
def execVst (q : Option Qual) (v : VReg) (ly : Fin 8) (off : VSrc) (g : Guard) (s : State) : Host.Outcome State Fault Refusal := s.vstore q v ly off g false
/-- `vscat` (R163). -/
def execVscat (q : Option Qual) (v : VReg) (ly : Fin 8) (off : VSrc) (g : Guard) (s : State) : Host.Outcome State Fault Refusal := s.vstore q v ly off g true

/-! The full/empty forms (R164). -/

/-- The word an element lies in. -/
def wordOf (e : Elem) (pl : Except NoPlace Place) : Nat :=
  match pl with
  | .ok (.store key _ _) => locOf key
  | .ok (.cap off) => 2 ^ 90 + locOf off
  | _ => locOf e.addr.toNat

/-- A word is in the state the form requires: empty for a fill, full otherwise; the capability list is full. -/
def Mach.wordReady (m : Mach) (fill : Bool) (pl : Except NoPlace Place) : Bool :=
  match pl with
  | .ok (.store key _ _) => memFull m.mem (locOf key) != fill
  | _ => !fill

/-- A vector full/empty form that found a word not ready: it waits in place or moors on that word (R164, R287). DESIGN CHOICE (log 67): its FE_EXPIRE has
the address of the lowest word that the first attempt found not ready, or of the lowest touched word where they are remote. -/
def Mach.vecNotReady (m : Mach) (c : CoreId) (key : Option W64) (wantEmpty : Bool) (ea : W64) : Run :=
  let w? := m.cores[c].vec.wait
  match w?.bind (fun w => if w.expired m.scyc then some w else none) with
  | some w => .trap w.trap
  | none =>
    let (m1, w) := m.notReady c .vector m.cores[c].ctl.ctxid key wantEmpty w? (m.newWait c .vector ea 1 .trap true) false
    .stay (m1.onVec c fun v => { v with wait := some w })

/-- The pointers of the touched words of a remote access, rising. -/
def remoteWords (es : List Elem) : List W64 :=
  (orderBy BitVec.toNat ((es.map fun e => mkPtr (ptrHandle e.addr) (ptrOff e.addr - ptrOff e.addr % 8)).eraseDups))

/-- `vldwait` (form 0), `vldcons` (1) and `vstfill` (2): `d` is written by the first two and `data` is stored by the third. DESIGN CHOICE (log 67): a lane's
translation fault, miss or hold comes before the SHAPE check of the touched words. -/
def State.vfe (s : State) (q : Option Qual) (d : VDst) (data : Option VReg) (ly : Fin 8) (b : VSrc) (g : Guard) (form : Nat) :
    Host.Outcome State Fault Refusal :=
  let c := s.cur.core
  let fill := form == 2
  s.vector fun m =>
    match m.vin c q (match data with | some v => .reg v | none => d) .zero b g with
    | none => m.blockVec c
    | some (x, v1) =>
      let l := m.cores[c].layout ly
      let type := l.type.toNat
      let n := esizeOf type
      let words := vwords q [b]
      if raggedBare l x then .trap { cls := .shape, addr := l.ptr }
      else
        let acts := (List.range 1024).filter x.active
        match x.trapPoison (acts.map fun i => { reads := (1, 0) :: (if fill then [(2, i)] else []), bits := 0 }) with
        | some t => .trap t
        | none =>
          let es := acts.map (Mach.elem l x (v1.iter g) false (x.b.at 0).bits.toInt)
          let pls := es.map fun e => (e, m.elemPlace c n (if fill then .fill else if form = 1 then .consume else .read) e)
          let bits (i : Nat) : W32 := (x.d.at i).bits
          match firstStop pls false with
          | some (e, np) => np.run m e.addr
          | none =>
            let touched := (pls.map fun p => wordOf p.1 p.2).eraseDups
            if touched.isEmpty ∨ 32 < touched.length then .trap { cls := .shape, addr := l.ptr }
            else
              let rel := fill || memRel q
              if m.heldVec c (elemAccesses (memCls q) rel .rmw pls) then .stay m else
              let finish (m : Mach) (val : Elem → Nat) : Run :=
                let lane (i : Nat) : Option Lane :=
                  (es.find? fun e => e.lane == i).map fun e => { bits := laneBits type (elemBitsOf type e.nib (val e)), tag := 0 }
                let m1 := if fill then (m.hashElems c type bits es).onVec c fun _ => v1 else m.onVec c fun _ => v1.writeLanes d lane none
                m1.retireV c words
              match pls.head? with
              | some (e0, .ok (.remote home mt)) =>
                let ps := remoteWords es
                let m1 := m.flushFor c .vector { loc := remoteLoc, cls := memCls q, rel := rel, mtype := mt, kind := .rmw, masks := [] }
                match m1.remoteAsk c .vector 0 home m.cores[c].ctl.ctxid e0.addr
                    (.feWords form ps (if fill then ps.map fun p => wordBytes type bits (es.map fun e => (e.addr.toNat, e)) p.toNat else [])) with
                | (m2, none) => .stay m2
                | (m2, some .notReady) => m2.vecNotReady c none fill (ps.headD 0)
                | (m2, some (.many vs)) =>
                  finish m2 fun e =>
                    (vs.getD (ps.findIdx fun p => decide (p.toNat ≤ e.addr.toNat) && decide (e.addr.toNat < p.toNat + 8)) 0)
                      / 256 ^ (e.addr.toNat % 8) % 256 ^ n
                | (m2, some .poisoned) => .trapFrom m2 { cls := .poison, addr := e0.addr }
                | (m2, some _) => .trapFrom m2 { cls := .fabric, addr := e0.addr }
              | _ =>
                match orderBy (fun p : Elem × Except NoPlace Place => p.1.addr.toNat) (pls.filter fun p => !m.wordReady fill p.2) with
                | (e, pl) :: _ =>
                  let key : Option W64 := match pl with | .ok (.store ..) => some (moorKey c e.addr) | _ => none
                  m.vecNotReady c key fill (mkPtr (ptrHandle e.addr) (ptrOff e.addr - ptrOff e.addr % 8))
                | [] =>
                  let m1 := if rel then m.flushAll c .vector else m.flushReqs c .vector (elemAccesses (memCls q) false .rmw pls)
                  let keyOf (e : Elem) : Place := match m.elemPlace c n .read e with | .ok pl => pl | .error _ => .cap 0
                  let m2 :=
                    if form = 0 then m1
                    else
                      let stored := if fill then pls.foldl (fun m p =>
                          match p.2 with
                          | .ok (.store key _ _) => { m with mem := memSetMasked m.mem key (elemBytes type p.1.nib (bits p.1.lane)) }
                          | _ => m) m1
                        else m1
                      touched.foldl (fun m loc => (m.unlogAt loc).setBit loc fill) stored
                  finish m2 fun e =>
                    m1.readPlace ((pls.find? fun p => p.1.lane == e.lane).elim (keyOf e) fun p => match p.2 with | .ok pl => pl | .error _ => keyOf e) n

/-- `vldwait` (R164). -/
def execVldwait (q : Option Qual) (d : VDst) (ly : Fin 8) (off : VSrc) (g : Guard) (s : State) : Host.Outcome State Fault Refusal := s.vfe q d none ly off g 0
/-- `vldcons` (R164). -/
def execVldcons (q : Option Qual) (d : VDst) (ly : Fin 8) (off : VSrc) (g : Guard) (s : State) : Host.Outcome State Fault Refusal := s.vfe q d none ly off g 1
/-- `vstfill` (R164). -/
def execVstfill (q : Option Qual) (v : VReg) (ly : Fin 8) (off : VSrc) (g : Guard) (s : State) : Host.Outcome State Fault Refusal := s.vfe q .none (some v) ly off g 2

/-! Operand-queue loads (R165). -/

/-- A lane of an image: R165 gives a faulting lane its tag and not its 32 data bits, which are free (DESIGN CHOICE, log 68). -/
def imageGotLane (scyc lane : Nat) (v : Except Trap W32) : Lane :=
  match v with
  | .ok w => { bits := w, tag := 0 }
  | .error t => { bits := Config.imageBits scyc lane, tag := t.cls.code }

/-- The image of elements loaded at an s-cycle: inactive lanes are 0, faulting lanes carry their class. -/
def imageOf (scyc : Nat) (vals : List (Elem × Except Trap W32)) : VecReg :=
  { lanes := Vector.ofFn fun i : Fin 1024 => ((vals.find? fun v => v.1.lane == i.val).map fun v => imageGotLane scyc i.val v.2).getD { bits := 0, tag := 0 }
    faddr := (vals.findSome? fun v => match v.2 with | .error t => some t.addr | .ok _ => none).getD 0 }

/-- What an attempt to load an image gives: the machine and the image, or a miss or hold that keeps it back. -/
inductive ImageGot where
  | image (m : Mach) (r : VecReg)
  | miss (ctx h k : Nat) (ea : W64)
  | wait (m : Mach)

/-- The earlier stores of the vector strand, those before the k-th pending item, that accesses wait for (R262). -/
def Mach.flushBefore (m : Mach) (c : CoreId) (k : Nat) (bs : List Access) : Mach :=
  let r := flushSplit c .vector false (m.pend.take k).reverse bs [] []
  m.performAll r.1 (dropFences [] (r.2 ++ m.pend.drop k))

/-- An attempt to load the elements of image `id`, whose place in program order is before the k-th pending item: a fault goes to its lane; a miss, a
hold, a remote answer not yet come, or an earlier load that is kept back and must come first keeps the image back. The strand's earlier stores that
the loads follow are performed (R262). -/
def Mach.loadImage (m : Mach) (c : CoreId) (id type : Nat) (cls : BitVec 4) (k : Nat) (es : List Elem) : ImageGot :=
  let n := esizeOf type
  let pls := es.map fun e => (e, m.elemPlace c n .read e)
  let stop : Option (Elem × NoPlace) := pls.findSome? fun p => match p.2 with | .error (.fault _) => none | .error np => some (p.1, np) | .ok _ => none
  match stop with
  | some (e, .miss ctx h k) => .miss ctx h k e.addr
  | some _ => .wait m
  | none =>
    let reqs := elemAccesses cls false .load pls
    if heldBack m c (m.pend.take k).reverse reqs then .wait m else
    match (m.flushBefore c k reqs).askElems c (imageLane * (id + 1)) (fun es => .gather n (es.map Elem.addr)) pls with
    | (m2, none) => .wait m2
    | (m2, some far) => .image m2 (imageOf m2.scyc (pls.map fun p => (p.1, m2.elemLoad type p.1 p.2 (far.lookup p.1.lane))))

/-- The strand's load of an image is kept back: its place in program order is held among the accesses that are pending. -/
def Mach.keepLoad (m : Mach) (c : CoreId) (id : Nat) (cls : BitVec 4) (es : List Elem) : Mach :=
  { m with pend := m.pend ++ [Pend.load c id cls (es.filterMap fun e => match e.ptr with | .ok p => some p | .error _ => none)] }

/-- The place of a kept load, and the list of pending accesses without it. -/
def Mach.loadPos (m : Mach) (c : CoreId) (id : Nat) : Nat := m.pend.findIdx fun | .load d i .. => d == c && i == id | _ => false
def Mach.dropLoad (m : Mach) (c : CoreId) (id : Nat) : Mach :=
  { m with pend := dropFences [] (m.pend.filter fun | .load d i .. => !(d == c && i == id) | _ => true) }

/-- `vqrd` (R165): it reserves a slot and issues the load; it blocks while the queue holds 4 images. -/
def execVqrd (q : Option Qual) (oq : Fin 4) (ly : Fin 8) (off : VSrc) (g : Guard) (s : State) : Host.Outcome State Fault Refusal :=
  let c := s.cur.core
  s.vector fun m =>
    match m.vin c q .none .zero off g with
    | none => m.blockVec c
    | some (x, v1) =>
      let l := m.cores[c].layout ly
      if raggedBare l x then .trap { cls := .shape, addr := l.ptr }
      else
        let acts := (List.range 1024).filter x.active
        match x.trapPoison (acts.map fun _ => { reads := [(1, 0)], bits := 0 }) with
        | some t => .trap t
        | none =>
          if 4 ≤ v1.oq[oq].length then m.blockVec c
          else
            let es := acts.map (Mach.elem l x (v1.iter g) false (x.b.at 0).bits.toInt)
            let todo := es.map fun e => (e.lane, e.addr, e.nib, match e.ptr with | .error t => some t | .ok _ => none)
            let put (m : Mach) (im : OqImage) : Run := (m.onVec c fun _ => { v1 with oq := v1.oq.set oq (v1.oq[oq] ++ [im]) }).retireV c (vwords q [off])
            let id := m.nextOp
            let m0 := { m with nextOp := m.nextOp + 1 }
            match m0.loadImage c id l.type.toNat (memCls q) m0.pend.length es with
            | .image m1 r => put m1 (.loaded r)
            | .wait m1 => put (m1.keepLoad c id (memCls q) es) (.reserved id todo l.type)
            | .miss ctx h k ea => put ((m0.keepLoad c id (memCls q) es).missOther c 1 ctx h k ea) (.reserved id todo l.type)

/-- The arrival of the k-th image of a queue (R165, R166): a load that a miss or a remote home kept back is made now, if it can be. -/
def execVqrdImageArrival (c : CoreId) (oq : Fin 4) (k : Fin 4) (s : State) : Host.Outcome State Fault Refusal :=
  let m := s.mach
  let put (m : Mach) (im : OqImage) : Mach := m.onVec c fun v => { v with oq := v.oq.set oq (v.oq[oq].set k.val im) }
  match m.cores[c].vec.oq[oq][k.val]? with
  | some (.loaded r) => .next { s with mach := put m (.arrived r) }
  | some (.reserved id todo type) =>
    let es : List Elem := todo.map fun t => { lane := t.1, ptr := match t.2.2.2 with | some t => .error t | none => .ok t.2.1, nib := t.2.2.1 }
    let k := m.loadPos c id
    let cls : BitVec 4 := match m.pend[k]? with | some (.load _ _ cls _) => cls | _ => 0
    match m.loadImage c id type.toNat cls k es with
    | .image m1 r => .next { s with mach := (put m1 (.arrived r)).dropLoad c id }
    | .wait m1 => .next { s with mach := m1 }
    | .miss ctx h k ea => .next { s with mach := m.missOther c 1 ctx h k ea }
  | _ => .next s

/-! The walk of a row table (R157 to R159). -/

/-- A 4-byte load of the vector strand; `lane` numbers its remote access. -/
def Mach.vecLoad32 (m : Mach) (c : CoreId) (lane : Nat) (p : W64) : Got :=
  match checked (m.seen c .vector) (m.vasker c) p 4 .read with
  | .error e => e.got m
  | .ok (.remote home mt) =>
    let b : Access := { loc := remoteLoc, cls := 0, rel := false, mtype := mt, kind := .load, masks := [] }
    if m.heldVec c [b] then .wait m else
    match (m.flushFor c .vector b).remotePeek c .vector lane home m.cores[c].ctl.ctxid p (.load 4) with
    | (m2, none) => .wait m2
    | (m2, some a) => remoteGot m2 p a
  | .ok pl =>
    let held := match pl with | .store key mt _ => m.heldVec c [{ loc := locOf key, cls := 0, rel := false, mtype := mt, kind := .load, masks := [] }] | _ => false
    if held then .wait m else let (m1, v) := m.loadAt c .vector pl 4 0; .val m1 v

/-- A row table that is being read: its pointer and its kind. -/
structure RowTab where
  core : CoreId
  tab : W64
  extents : Bool

/-- A step of the walk: a value with the machine after it, or how the instruction ends without one. -/
abbrev Walk (α : Type) := Mach → Except Run (α × Mach)

/-- Word j of the table. -/
def RowTab.word (t : RowTab) (j : Nat) : Walk Nat := fun m =>
  match ptrAdd t.tab (4 * j) with
  | .error _ => .error (.trap { cls := .perm, addr := t.tab })
  | .ok p =>
    match m.vecLoad32 t.core j p with
    | .val m1 v => .ok (v, m1)
    | .fault m1 f => .error (.trapFrom m1 f)
    | .miss ctx h k => .error (.miss ctx h k p)
    | .wait m1 => .error (.stay m1)

/-- The length of sequence s. -/
def RowTab.len (t : RowTab) (s : Nat) : Walk Nat := t.word (if t.extents then 2 + 2 * s else 1 + s)

/-- The sum of the lengths of n sequences from s on. -/
def RowTab.sum (t : RowTab) (s : Nat) : Nat → Walk Nat
  | 0 => fun m => .ok (0, m)
  | n + 1 => fun m => do
    let (v, m1) ← t.len s m
    let (r, m2) ← t.sum (s + 1) n m1
    return (v + r, m2)

/-- The first source row of sequence s. -/
def RowTab.start (t : RowTab) (s : Nat) : Walk Nat := if t.extents then t.word (1 + 2 * s) else t.sum 0 s

/-- The place (seq, pos) advanced past exhausted sequences; `fuel` bounds the sequences left. -/
def RowTab.skip (t : RowTab) (S : Nat) (seq pos : Nat) : Nat → Walk (Nat × Nat)
  | 0 => fun m => .ok ((seq, pos), m)
  | fuel + 1 => fun m =>
    if seq < S then do
      let (n, m1) ← t.len seq m
      if n ≤ pos then t.skip S (seq + 1) 0 fuel m1 else return ((seq, pos), m1)
    else .ok ((seq, pos), m)

def emptyRow : SegRow := { srcrow := 0, seg := 0, last := false, first := false, valid := false }

/-- The rows of a walk from (seq, pos), and the place it ends at. -/
def RowTab.rows (t : RowTab) (S : Nat) (seq pos : Nat) : Nat → Walk (List SegRow × Nat × Nat)
  | 0 => fun m => .ok (([], seq, pos), m)
  | n + 1 => fun m => do
    let ((seq, pos), m1) ← t.skip S seq pos (S + 1) m
    if seq < S then
      let (len, m2) ← t.len seq m1
      let (start, m3) ← t.start seq m2
      let row : SegRow := { srcrow := BitVec.ofNat 32 (start + pos), seg := BitVec.ofNat 16 seq, last := pos + 1 == len, first := pos == 0, valid := true }
      let ((rest, e), m4) ← t.rows S seq (pos + 1) n m3
      return ((row :: rest, e), m4)
    else
      let ((rest, e), m2) ← t.rows S seq pos n m1
      return ((emptyRow :: rest, e), m2)

/-- The segment register of a walk. DESIGN CHOICE (log 66): the SHAPE trap of S above 65,535, or of a starting SEQ above S, has ROWTAB as its fault
address; R159 names none. -/
def RowTab.walk (t : RowTab) (seq0 : Nat) (pos0 : Nat) : Walk SegReg := fun m => do
  let (S, m1) ← t.word 0 m
  if 65535 < S ∨ S < seq0 then .error (.trap { cls := .shape, addr := t.tab })
  else
    let ((rows, seq, pos), m2) ← t.rows S seq0 pos0 16 m1
    let ((seq, pos), m3) ← t.skip S seq pos (S + 1) m2
    return ({ rows := Vector.ofFn fun i : Fin 16 => rows.getD i.val emptyRow, done := decide (S ≤ seq), seq := BitVec.ofNat 16 seq, pos := BitVec.ofNat 32 pos }, m3)

/-- `vwalk` (R159): SG[d] is written whole, or not at all. -/
def execVwalk (sg : Fin 4) (ly : Fin 8) (start : WalkStart) (s : State) : Host.Outcome State Fault Refusal :=
  let c := s.cur.core
  s.vector fun m =>
    let l := m.cores[c].layout ly
    let v := m.cores[c].vec
    if l.kind.toNat < 2 then .trap { cls := .shape, addr := l.rowtab }
    else
      let (seq, pos, lits) : Nat × Nat × Nat :=
        match start with
        | .zero => (0, 0, 0)
        | .cursor n => (v.sg[n].seq.toNat, v.sg[n].pos.toNat, 0)
        | .lit w => (w.toNat, 0, 1)
      match ({ core := c, tab := l.rowtab, extents := l.kind == 3 } : RowTab).walk seq pos m with
      | .ok (g, m1) => (m1.onVec c fun v => { v with sg := v.sg.set sg g }).retireV c (1 + lits)
      | .error r => r

end Sys2Proof.Machine
end

