-- ==== Sys2Proof/Machine/VecMove.lean ====
section
/-! DEFINITION. Row and column operations, reductions, permutes and the segment instructions of the vector engine (05 R154
to R156, R160, R161). -/

namespace Sys2Proof.Machine

/-! Groups (R154, R160): lanes by number, in order of position. -/

/-- The segment index of a row under a qualifier, none for a row that holds no data. -/
def SegReg.segOf (g : SegReg) (r : Nat) : Option (BitVec 16) :=
  (g.rows.toList[r]?).bind fun e => if e.valid then some e.seg else none

def VIn.xGroup (x : VIn) (i : Nat) : List Nat := (List.range x.shape.width).map fun c => i / 64 * 64 + c

/-- The rows a Y operation takes together with a row. -/
def VIn.yRows (x : VIn) (r : Nat) : List Nat :=
  match x.sg with
  | none => List.range x.shape.height
  | some g => (List.range 16).filter fun k => (g.segOf k).isSome && g.segOf k == g.segOf r

def VIn.yGroup (x : VIn) (i : Nat) : List Nat := (x.yRows (i / 64)).map fun r => 64 * r + i % 64

/-! Rotation and broadcast (R154). -/

/-- The lane moved from: the lane's own bits, or zero. -/
def VIn.move (x : VIn) (src : Option Nat) (also : List (Nat × Nat)) : LaneOut :=
  match src with
  | some j => { reads := (0, j) :: also, bits := (x.a.at j).bits }
  | none => { reads := also, bits := 0 }

def rotFrom (grp : List Nat) (i k : Nat) : Option Nat :=
  let n := grp.length
  grp[(((grp.idxOf i : Nat) : Int) - k) % n |>.toNat]?

def State.rotate (s : State) (q : Option Qual) (d : VDst) (a b : VSrc) (g : Guard) (grp : VIn → Nat → List Nat) : Host.Outcome State Fault Refusal :=
  s.activeLanes q d a b g fun x i => x.move (rotFrom (grp x i) i x.b.scalar) [(1, 0)]

def State.broadcast (s : State) (q : Option Qual) (d : VDst) (a b : VSrc) (g : Guard) (grp : VIn → Nat → List Nat) : Host.Outcome State Fault Refusal :=
  s.activeLanes q d a b g fun x i => x.move ((grp x i)[x.b.scalar]?) [(1, 0)]

/-- `vxrot` (R154). -/
def execVxrot (q : Option Qual) (d : VDst) (a b : VSrc) (g : Guard) (s : State) : Host.Outcome State Fault Refusal := s.rotate q d a b g VIn.xGroup
/-- `vxbc` (R154). -/
def execVxbc (q : Option Qual) (d : VDst) (a b : VSrc) (g : Guard) (s : State) : Host.Outcome State Fault Refusal := s.broadcast q d a b g VIn.xGroup
/-- `vyrot` (R154). -/
def execVyrot (q : Option Qual) (d : VDst) (a b : VSrc) (g : Guard) (s : State) : Host.Outcome State Fault Refusal := s.rotate q d a b g VIn.yGroup
/-- `vybc` (R154). -/
def execVybc (q : Option Qual) (d : VDst) (a b : VSrc) (g : Guard) (s : State) : Host.Outcome State Fault Refusal := s.broadcast q d a b g VIn.yGroup

/-! Reductions (R155). -/

/-- One level of the tree: an absent side gives the other. -/
def treeLevel (node : α → α → α) : List (Option α) → List (Option α)
  | p :: r :: rest =>
    (match p, r with
     | none, y => y
     | x, none => x
     | some x, some y => some (node x y)) :: treeLevel node rest
  | l => l

/-- The fixed tree over 2^n positions. -/
def treeOf (node : α → α → α) : Nat → List (Option α) → Option α
  | 0, l => (l[0]?).join
  | n + 1, l => treeOf node n (treeLevel node l)

/-- A node of a floating reduction: the sum rounds to T, to nearest-even; maximum and minimum are exact (R109). -/
def floatNode (t : Nat) (sat : Bool) (op : Fin 6) (p r : Ex × FpFlags) : Ex × FpFlags :=
  let fl := p.2.or r.2
  if op = 0 then
    let (v, bad) := p.1.add r.1 .rne
    let o := (fmt! t).round v .rne sat
    ((fmt! t).decode o.bits, (fl.or o.fl).or (.invalid bad))
  else (p.1.minMax (op == 1) r.1, fl)

/-- A node of an integer reduction: the sum is exact. -/
def intNode (t : Nat) (op : Fin 6) (p r : Int) : Int :=
  let u (v : Int) : Nat := wrapN (intBits t) v
  match op with
  | 0 => p + r
  | 1 => max p r
  | 2 => min p r
  | 3 => intVal t (u p &&& u r)
  | 4 => intVal t (u p ||| u r)
  | 5 => intVal t (u p ^^^ u r)

/-- The value of a floating reduction's leaf, and a result encoded: the only NaN is the canonical one (R109). -/
def floatLeaf (t : Nat) (w : W32) : Ex × FpFlags := let x := (fmt! t).decode (elemOf t w); (x, .invalid x.isSig)
def floatResult (t : Nat) (v : Ex × FpFlags) : W32 × FpFlags := (laneBits t ((fmt! t).round v.1 .rne false).bits, v.2)
def intResult (t : Nat) (sat : Bool) (v : Int) : W32 × FpFlags :=
  if sat then let (n, clamped) := satT t v; (intLane t n, { sat := clamped }) else (intLane t v, {})

/-- The tree over 2^n positions, each present with a lane or absent. -/
def reduceTree (t : Nat) (sat : Bool) (op : Fin 6) (n : Nat) (leaves : List (Option W32)) : Option (W32 × FpFlags) :=
  if isFloat t then (treeOf (floatNode t sat op) n (leaves.map fun l => l.map (floatLeaf t))).map (floatResult t)
  else (treeOf (intNode t op) n (leaves.map fun l => l.map (intIn t))).map (intResult t sat)

/-- The outcome of a reduction over the lanes present, at the positions of a list. -/
def VIn.reduce (x : VIn) (t : Nat) (sat : Bool) (op : Fin 6) (n : Nat) (pos : List (Option Nat)) : Option LaneOut :=
  (reduceTree t sat op n (pos.map fun p => p.map fun i => (x.a.at i).bits)).map fun r =>
    { reads := pos.filterMap fun p => p.map fun i => (0, i), bits := r.1, fl := r.2 }

/-- The positions of a row for a lane, and of a column: a position is present when its lane is active and in the group. -/
def VIn.xPositions (x : VIn) (i : Nat) : List (Option Nat) :=
  (List.range 64).map fun c => let j := i / 64 * 64 + c; if x.active j && (x.xGroup i).contains j then some j else none
def VIn.yPositions (x : VIn) (i : Nat) : List (Option Nat) :=
  (List.range 16).map fun r => let j := 64 * r + i % 64; if x.active j && (x.yGroup i).contains j then some j else none

/-- `vxred` (R155). -/
def execVxred (q : Option Qual) (d : VDst) (a : VSrc) (op : Fin 6) (g : Guard) (s : State) : Host.Outcome State Fault Refusal :=
  s.lanes q d a .zero g fun x i => if x.active i then x.reduce (typeOf q) (satOf q) op 6 (x.xPositions i) else none
/-- `vyred` (R155). -/
def execVyred (q : Option Qual) (d : VDst) (a : VSrc) (op : Fin 6) (g : Guard) (s : State) : Host.Outcome State Fault Refusal :=
  s.lanes q d a .zero g fun x i => if x.active i then x.reduce (typeOf q) (satOf q) op 4 (x.yPositions i) else none

/-! Permutes (R156). -/

/-- `vperm` (R156). -/
def execVperm (q : Option Qual) (d : VDst) (a b : VSrc) (g : Guard) (s : State) : Host.Outcome State Fault Refusal :=
  s.activeLanes q d a b g fun x i =>
    let k := (x.b.at i).bits.toNat
    x.move (if k < 64 then some (i / 64 * 64 + k) else none) [(1, i)]

/-- `vshuf` (R156). -/
def execVshuf (q : Option Qual) (d : VDst) (a b : VSrc) (g : Guard) (s : State) : Host.Outcome State Fault Refusal :=
  s.activeLanes q d a b g fun x i =>
    let k := (x.b.at i).bits.toNat
    x.move (if x.sg.isSome then (x.yGroup i)[k]? else if k < 16 then some (64 * k + i % 64) else none) [(1, i)]

/-- Lane (r, 16q + c') comes from lane (c', 16q + r). -/
def transFrom (i : Nat) : Nat := 64 * (i % 16) + (i % 64 / 16 * 16 + i / 64)

/-- `vtrans` (R156): d and a must be different registers after index resolution. -/
def execVtrans (q : Option Qual) (d : VDst) (a : VSrc) (g : Guard) (s : State) : Host.Outcome State Fault Refusal :=
  let same : Bool :=
    match d, a with
    | .reg x, .reg y => s.vec.regNo x == s.vec.regNo y
    | _, _ => false
  if same then s.vector fun _ => .trap illegalTrap
  else s.activeLanes q d a .zero g fun x i => x.move (some (transFrom i)) []

/-! Segment instructions (R161). -/

/-- The segments present, in order of first row. -/
def SegReg.present (g : SegReg) : List (BitVec 16) := ((List.range 16).filterMap g.segOf).eraseDups

/-- The output of `vsgred` at a lane in shape. -/
def VIn.segReduce (x : VIn) (g : SegReg) (t : Nat) (sat : Bool) (op : Fin 6) (i : Nat) : Option LaneOut :=
  match g.present[i / 64]? with
  | none => some { reads := [], bits := 0 }
  | some sigma =>
    x.reduce t sat op 4 ((List.range 16).map fun r => let j := 64 * r + i % 64; if x.active j && g.segOf r == some sigma then some j else none)

/-- `vsgred` (R161): it compacts; the predicate masks sources, not output rows. -/
def execVsgred (q : Option Qual) (d : VDst) (a : VSrc) (op : Fin 6) (g : Guard) (s : State) : Host.Outcome State Fault Refusal :=
  s.lanes q d a .zero g fun x i =>
    if x.shape.lane i then x.segReduce (x.sg.getD .zero) (typeOf q) (satOf q) op i else none

/-- The values combined left to right. -/
def scanFold (node : α → α → α) : List α → Option α
  | [] => none
  | v :: r => some (r.foldl node v)

/-- The prefix of a lane over its group's active rows. -/
def VIn.scan (x : VIn) (t : Nat) (sat : Bool) (op : Fin 6) (i : Nat) : Option LaneOut :=
  let js := (x.yGroup i).filter fun j => x.active j && decide (j ≤ i)
  let ws := js.map fun j => (x.a.at j).bits
  let r := if isFloat t then (scanFold (floatNode t sat op) (ws.map (floatLeaf t))).map (floatResult t)
    else (scanFold (intNode t op) (ws.map (intIn t))).map (intResult t sat)
  r.map fun r => { reads := js.map fun j => (0, j), bits := r.1, fl := r.2 }

/-- `vsgscan` (R161). -/
def execVsgscan (q : Option Qual) (d : VDst) (a : VSrc) (op : Fin 6) (g : Guard) (s : State) : Host.Outcome State Fault Refusal :=
  s.lanes q d a .zero g fun x i => if x.active i then x.scan (typeOf q) (satOf q) op i else none

end Sys2Proof.Machine
end

