-- ==== Sys2Proof/Machine/Engine.lean ====
section
/-! DEFINITION. The shared operations of the matrix and copy strands: awaits and raises, starts, faults, writes still to be made,
and completions (02 R41, R56, 03 R83, 06 R190, 10 R296 to R300). -/

namespace Sys2Proof.Machine

/-! Reports (R190). -/

/-- The pending entries that room lets in, in order. -/
def enterQueue : List W64 → List W64 → List W64 × List W64
  | [], q => ([], q)
  | e :: r, q => if q.length < 8 then enterQueue r (q ++ [e]) else (e :: r, q)

/-- Entries waiting for room enter ahead of any later push. -/
def Core.drainReport (k : Core) (t : Strand) : Core :=
  let (rest, q) := enterQueue (k.eng t).report k.q[outQueue t]
  { (k.onEng t fun e => { e with report := rest }) with q := k.q.set (outQueue t) q }

/-- The source of a completion event (R295): copy steps 0x09 to 0x11 have one of their own. -/
def stepSource (t : Strand) (op : Instr) : BitVec 8 :=
  match t with
  | .matrixA => 2
  | .matrixB => 3
  | _ =>
    match op with
    | .fwr .. | .frd .. | .fatom .. | .lbregBuffer .. | .lbregPort .. | .lbregClose .. | .lbregOpen .. | .lbregRedirect .. | .lbrelBuffer .. | .lbrelPort ..
    | .a2av .. | .rscat .. | .agath .. | .bcast .. => 7
    | _ => 4

/-- The same for a header word that does not decode, by its opcode field (R295, 02 R55). -/
def headerSource (t : Strand) (h : W32) : BitVec 8 :=
  match t with
  | .matrixA => 2
  | .matrixB => 3
  | _ => if 0x09 ≤ h.toNat / 2 ^ 26 ∧ h.toNat / 2 ^ 26 ≤ 0x11 then 7 else 4

/-- The two entries of a report. -/
def reportEntries (fault : Bool) (cls : BitVec 4) (rp : W32) (addr : Nat) (faddr : W64) : List W64 :=
  [BitVec.ofNat 64 (b2n fault * 2 ^ 63 + cls.toNat * 2 ^ 52 + rp.toNat * 2 ^ 20 + addr % 2 ^ 20), faddr]

/-- A step faults (R83, R190): its strand halts at it, two entries go to its queue, and a requested event carries the class. -/
def Mach.engFault (m : Mach) (c : CoreId) (t : Strand) (aw : BitVec 4) (source : BitVec 8) (words : Nat) (f : Trap) : Mach :=
  let r := m.cores[c].rings[ringOf t]
  let m1 := m.onCore c fun k =>
    ((((k.awaitUndo t aw).onRing (ringOf t) fun r => { r with run := false, halt := true }).onEng t fun e =>
      { e with fetched := none, report := e.report ++ reportEntries true f.cls.code r.rp (r.addr r.rp) f.addr }).drainReport t)
  m1.onCtl c fun k => k.fireStep (ringOf t) r.rp words source (f.cls.code.setWidth 8)

/-- A fabric step reports a remote failure through its completion, without halting its strand (12 R351). -/
def fabricStep (i : Instr) : Bool :=
  match i with
  | .fwr .. | .frd .. | .fatom .. | .a2av .. | .rscat .. | .agath .. | .bcast .. => true
  | _ => false

/-- A step that completes with a remote failure pushes two entries: with FAULT 0 for a fabric step (12 R351); for any other, whose home passed its
checks and failed it later, with FAULT 1, and its strand halts (R297). -/
def Core.reportFailed (k : Core) (t : Strand) (f : Flight) : Core :=
  match f.failed with
  | some x =>
    let k1 := if fabricStep f.op then k else (k.abandonStep t).onRing (ringOf t) fun r => { r with run := false, halt := true }
    (k1.onEng t fun e => { e with report := e.report ++ reportEntries (!fabricStep f.op) x.cls.code f.rp (k.rings[ringOf t].addr f.rp) x.addr }).drainReport t
  | none => k

/-- The raise of a step that completes: a step that faults raises nothing (R190). -/
def Flight.raises (f : Flight) : BitVec 4 := if f.failed.isSome && !fabricStep f.op then 15 else f.raise

/-- The status a completed step's event carries: 0, or the class it failed with. -/
def Flight.status (f : Flight) : BitVec 8 := match f.failed with | some x => x.cls.code.setWidth 8 | none => 0

/-! Starts. -/

/-- The read pointer advances past a step that starts, and its await is taken (R56, R83). -/
def Mach.pass (m : Mach) (c : CoreId) (t : Strand) (w : Sems) (words : Nat) : Mach :=
  m.onCore c fun k =>
    ((k.awaitTake t w.aw).onRing (ringOf t) fun r => { r with rp := r.rp + BitVec.ofNat 32 words }).onEng t fun e => { e with fetched := none }

/-- A completed step's raise and its requested event. -/
def Mach.raiseStep (m : Mach) (c : CoreId) (t : Strand) (raise : BitVec 4) (op : Instr) (rp : W32) (words : Nat) (status : BitVec 8) : Mach :=
  (m.onCore c fun k => k.raise raise).onCtl c fun k => k.fireStep (ringOf t) rp words (stepSource t op) status

/-- A step that completes as it starts. -/
def Mach.passDone (m : Mach) (c : CoreId) (t : Strand) (w : Sems) (op : Instr) (words : Nat) : Mach :=
  let rp := m.cores[c].rings[ringOf t].rp
  (m.pass c t w words).raiseStep c t w.rs op rp words 0

/-- A step that starts and completes later: its flight joins its strand's. -/
def Mach.launchStep (m : Mach) (c : CoreId) (t : Strand) (w : Sems) (op : Instr) (words : Nat) (f : Flight → Flight) : Mach :=
  let rp := m.cores[c].rings[ringOf t].rp
  let fl : Flight := { id := m.nextOp, op := op, rp := rp, words := words, startAt := m.scyc, raise := w.rs, moves := [], pops := [], msgs := [],
                       got := [], push := none, wpTo := none, uses := [], pb := none, far := 0, failed := none, order := false }
  ({ m with nextOp := m.nextOp + 1 }.pass c t w words).onEng c t fun e => { e with flights := e.flights ++ [f fl] }

/-- A step of an engine strand that runs: while its await is not satisfied it waits; then it starts, faults, misses or waits as `f`
says. The sources of asynchronous misses are the strands' numbers (R406). -/
def State.engine (s : State) (t : Strand) (w : Sems) (op : Instr) (words : Nat) (f : Mach → Run) : Host.Outcome State Fault Refusal :=
  let c := s.cur.core
  let m := s.mach.onCore c fun k => k.drainReport t
  if !m.cores[c].awaitOk t w.aw then .next { s with mach := m.onCore c fun k => k.awaitJoin t w.aw }
  else
    match f m with
    | .done m1 => .next { s with mach := m1 }
    | .stay m1 => .next { s with mach := m1 }
    | .trap tr => .next { s with mach := m.engFault c t w.aw (stepSource t op) words tr }
    | .trapFrom m1 tr => .next { s with mach := m1.engFault c t w.aw (stepSource t op) words tr }
    | .miss ctx h k ea => .next { s with mach := m.missOther c (BitVec.ofNat 3 (strandNo t)) ctx h k ea }

/-! Writes still to be made (R199, R272, R300). -/

/-- The location a byte address lies in, by the move that writes there. -/
def PendMove.loc (p : PendMove) : Nat := locOf p.dst

/-- A move performed: the data with its poison mark, then the bit, which wakes (R268, R298). -/
def Mach.makeMove (m : Mach) (p : PendMove) : Mach :=
  let m0 := m.unlogAt p.dst
  let (mem, full) : Mem × Bool :=
    match p.src with
    | .location l =>
      (memSetPoison (memSetBytes m0.mem p.dst (memBytes m0.mem l 8)) p.loc (memPoisoned m0.mem l), memFull m0.mem l)
    | .bytes data mark =>
      let mem1 := memSetMasked m0.mem p.dst data
      (match mark with
        | some true => memSetPoison mem1 p.loc true
        | some false => if data.length = 8 ∧ data.all (fun b => b.1 == 0xFF) then memSetPoison mem1 p.loc false else mem1
        | none => mem1, true)
  let m1 := { m0 with mem := mem }
  match p.fe with
  | .keep => m1
  | .full => m1.setBit p.loc true
  | .empty => m1.setBit p.loc false
  | .carry => m1.setBit p.loc full

/-- Every write a flight still has to make. -/
def Mach.makeMoves (m : Mach) (l : List PendMove) : Mach := l.foldl Mach.makeMove m

/-- A write may be made now: no earlier one of its list goes to the same location. -/
def moveFree (l : List PendMove) (k : Nat) : Bool :=
  match l[k]? with
  | none => false
  | some p => (l.take k).all fun q => q.loc != p.loc

def Core.flight? (k : Core) (t : Strand) (id : Nat) : Option Flight := (k.eng t).flights.find? (·.id == id)

def Mach.onFlight (m : Mach) (c : CoreId) (t : Strand) (id : Nat) (f : Flight → Flight) : Mach :=
  m.onEng c t fun e => { e with flights := e.flights.map fun x => if x.id = id then f x else x }

def Mach.dropFlight (m : Mach) (c : CoreId) (t : Strand) (id : Nat) : Mach :=
  m.onEng c t fun e => { e with flights := e.flights.filter fun x => x.id != id }

/-- A near run of n bytes in own SPM, CLM or DSM, by its storage address (R33, R194, R199). -/
def Mach.nearRun (m : Mach) (c : CoreId) (addr n : Nat) : Option Nat :=
  match nearPlace m (m.vasker c) (mkPtr 0 addr) n .write with
  | .ok (.store key _ _) => some key
  | _ => none

/-- The approximation grant of the task that runs on a core (R128). -/
def Mach.grantOf (m : Mach) (c : CoreId) : BitVec 8 :=
  ((m.cores[c].task.bind fun t => m.ferry.tasks.find? (·.id == t)).map (·.recd.grant)).getD 0

end Sys2Proof.Machine
end

