-- ==== Sys2Proof/Machine/Matrix.lean ====
section
/-! DEFINITION. The matrix array: the lease, operand tiles, scales, the accumulation order, the multiply steps, and the register,
scale, tile and sequencing steps (06 R176 to R196, R201). -/

namespace Sys2Proof.Machine

/-! The lease (R178). -/

/-- The matrix strand a step runs on. -/
def matStrand (s : Strand) : Strand := match s with | .matrixB => .matrixB | _ => .matrixA
def isB (t : Strand) : Bool := t == .matrixB
def strandOfB (b : Bool) : Strand := if b then .matrixB else .matrixA

/-- The pops still pending on a ring, of started steps of either strand that have not retired (R182). -/
def Core.pendingPops (k : Core) (r : Fin 8) : Nat :=
  ((k.mata.flights ++ k.matb.flights).map fun f => (f.pops.filter (· == r)).length).foldl (· + ·) 0

/-- An operand's slot is filled; an unallocated ring is not waited for (R183). -/
def Core.slotFilled (k : Core) (o : OpDesc) : Bool :=
  o.fixed ||
  match k.rg[o.ring] with
  | none => true
  | some r => decide (k.pendingPops o.ring + o.slot.val < r.filled)

/-- The operand descriptors of a step of the `mma` family. -/
def mmaArgs? (i : Instr) : Option MmaArgs :=
  match i with
  | .mma _ m => some m
  | .mmaz _ m => some m
  | .mmasg _ m => some m
  | _ => none

/-- The await field of an array step; a strand step has none here. -/
def arrayAwait? (i : Instr) : Option (BitVec 4) :=
  match i with
  | .mma w _ | .mmaz w _ | .mmasg w _ | .scld w .. | .acczero w .. | .epil w .. | .epobj w .. | .eprow w .. | .epadd w .. | .accst w ..
  | .accld w .. => some w.aw
  | _ => none

def Core.slotsFilled (k : Core) (i : Instr) : Bool :=
  match mmaArgs? i with
  | some a => k.slotFilled a.opA && k.slotFilled a.opB
  | none => true

/-- A strand is ready (R178): its next step word is a fetched array step, its await is satisfied, and its slots are filled. -/
def Core.ready (k : Core) (b : Bool) : Bool :=
  let t := strandOfB b
  k.rings[ringOf t].run && !k.stop &&
  match (k.eng t).fetched with
  | none => false
  | some f =>
    match arrayAwait? f.op with
    | none => false
    | some aw => k.awaitOk t aw && k.slotsFilled f.op

/-- The arbitration's table, without the start of a step. `readyA` and `readyB` say which strands are ready. -/
def Core.arbitrate (k : Core) (now : Nat) (readyA readyB : Bool) : Core :=
  let ready (b : Bool) : Bool := if b then readyB else readyA
  match k.lease with
  | .arb _ _ => k
  | .free =>
    if readyA && readyB then { k with lease := .arb (!k.leaseLast) now }
    else if readyA then { k with lease := .arb false now }
    else if readyB then { k with lease := .arb true now }
    else k
  | .held x n =>
    if 32 ≤ n then
      { k with leaseLast := x, lease := if ready (!x) then .arb (!x) now else if ready x then .arb x now else .free }
    else if !ready x && ready (!x) then { k with leaseLast := x, lease := .arb (!x) now }
    else k

/-- `LEASE_GRANT` (R178): the arbitration takes 2 s-cycles. -/
def execLeaseGrant (c : CoreId) (s : State) : Host.Outcome State Fault Refusal :=
  let m := s.mach
  match m.cores[c].lease with
  | .arb b since => if since + 2 ≤ m.scyc then .next { s with mach := m.onCore c fun k => { k with lease := .held b 0 } } else .next s
  | _ => .next { s with mach := m.onCore c fun k => k.arbitrate m.scyc (k.ready false) (k.ready true) }

/-- An array step starts only under its strand's lease, which counts it; otherwise the strand asks for the lease (R178). -/
def State.array (s : State) (t : Strand) (w : Sems) (op : Instr) (words : Nat) (f : Mach → Run) : Host.Outcome State Fault Refusal :=
  let c := s.cur.core
  s.engine t w op words fun m =>
    let k := m.cores[c]
    if !k.slotsFilled op then .stay m
    else
      let ask : Run :=
        .stay (m.onCore c fun k => k.arbitrate m.scyc (if isB t then k.ready false else true) (if isB t then true else k.ready true))
      match k.lease with
      | .held x n =>
        if x = isB t ∧ n < 32 then
          match f m with
          | .done m1 => .done (m1.onCore c fun k => { k with lease := .held x (n + 1) })
          | r => r
        else ask
      | _ => ask

/-! Operand tiles (R181 to R183). -/

/-- A byte and a number of own SPM. -/
def Mach.spmNat (m : Mach) (c : CoreId) (a n : Nat) : Nat := memNat m.mem (spmKey c a) n

/-- The block shape of a step's shape register (R181), with K at most `kmax`; none is a SHAPE fault. An epilogue ignores K. -/
def blockShape (h : ShapeReg) (kmax : Option Nat) : Option MmaShape :=
  let x : MmaShape := { n := h.ext[0].toNat, m := h.ext[1].toNat, k := h.ext[2].toNat }
  let mn := (h.rank == 3 || h.rank == 4) && decide (1 ≤ x.n) && decide (x.n ≤ 64) && decide (1 ≤ x.m) && decide (x.m ≤ 64)
  let kOk := match kmax with | none => true | some km => decide (1 ≤ x.k) && x.k % 32 == 0 && decide (x.k ≤ km)
  if mn && kOk then some x else none

/-- Kmax of a type's width class. -/
def kmaxOf (ty : BitVec 4) : Nat :=
  match widthClass ty with
  | 1 => 256
  | 5 => 1024
  | _ => 512

/-- The own-SPM address of an operand tile, or its fault (R182, R183, R336). -/
def Core.tileAddr (k : Core) (o : OpDesc) : Except Trap Nat :=
  if o.fixed then
    if o.addr.toNat % 512 ≠ 0 then .error { cls := .align, addr := o.addr.setWidth 64 }
    else if 0x100000 < o.addr.toNat + 32768 then .error { cls := .perm, addr := o.addr.setWidth 64 }
    else .ok o.addr.toNat
  else
    match k.rg[o.ring] with
    | none => .error { cls := .allocExh, addr := 0 }
    | some r =>
      if r.ss < 32768 then .error { cls := .shape, addr := 0 }
      else .ok (r.base + r.ss * ((r.hd + k.pendingPops o.ring + o.slot.val) % r.ns))

/-- Element k of row r of a tile: 512 bytes a row, FP4 by nibble (R108, R181). -/
def Mach.tileElem (m : Mach) (c : CoreId) (base : Nat) (ty : BitVec 4) (r k : Nat) : Nat :=
  let t := ty.toNat
  if t = 7 then m.spmNat c (base + 512 * r + k / 2) 1 / 16 ^ (k % 2) % 16
  else m.spmNat c (base + 512 * r + k * esizeOf t) (esizeOf t) % 2 ^ elemBits t

/-- The value of an element: an integer for I8 (R107, R186). -/
def matDec (ty : BitVec 4) (v : Nat) : Ex := if ty = 8 then .ofInt (sgn 8 v) else (fmt! ty.toNat).decode v

/-- A word that row r of a tile uses is poisoned (R191): the locations of its first K elements. -/
def Mach.tilePoison (m : Mach) (c : CoreId) (base : Nat) (ty : BitVec 4) (r k : Nat) : Bool :=
  let n := if ty = 7 then k / 2 else k * esizeOf ty.toNat
  (List.range ((n + 7) / 8)).any fun i => memPoisoned m.mem (locOf (spmKey c (base + 512 * r + 8 * i)))

/-- Activation zeroing of an A element under a threshold (R131). -/
def zeroed (theta : Option Ex) (x : Ex) : Ex :=
  match theta with
  | none => x
  | some th =>
    match x with
    | .nan s => .nan s
    | .inf n => .inf n
    | .fin n m e d => if (Ex.fin false m e d).lt th then .zero false else .fin n m e d

/-- The effective threshold: a positive number, under the APX grant (R131). -/
def thetaOf (grant : BitVec 8) (theta : W32) : Option Ex :=
  match fp32.decode theta.toNat with
  | .fin false m e d => if grant.getLsbD 2 ∧ m ≠ 0 then some (.fin false m e d) else none
  | .inf false => if grant.getLsbD 2 then some (.inf false) else none
  | _ => none

/-! Scales and accumulation (R185, R186). -/

/-- The value of a scale-memory word (R113, R115). -/
def scaleVal (w : W32) : Ex := ue8m12.decode (w.toNat % 2 ^ 20)

def Core.scaleAt (k : Core) (i : Nat) : W32 := (k.scale[i]?).getD 0

/-- The block scale of row r, block j. -/
def Core.blockScale (k : Core) (unit : Bool) (idx : BitVec 14) (nb r j : Nat) : Ex :=
  if unit then .one false else scaleVal (k.scaleAt (idx.toNat + nb * r + j))

/-- An exact sum of products, in order. -/
def dotSum : List (Ex × Ex) → Ex
  | [] => .zero false
  | (a, b) :: r => r.foldl (fun acc p => (acc.add (p.1.mul p.2).1 .rne).1) (a.mul b).1

def fx40Of (x : Ex) : Ex := fx40.decode (roundFx40 x)
def fp32Of (x : Ex) : Ex := fp32.decode (fp32.round x .rne false).bits
def fp32Bits (x : Ex) : W32 := BitVec.ofNat 32 (fp32.round x .rne false).bits

/-- The product p of `MatrixEntry`: the leaves of the blocks, the tree of 32 positions, and the tensor scales. -/
def entryProduct (nb : Nat) (block : Nat → List (Ex × Ex)) (sa sb : Nat → Ex) (fa fb : Ex) : Ex :=
  let leaf (j : Nat) : Option Ex := if j < nb then some (fx40Of (((dotSum (block j)).mul (sa j)).1.mul (sb j)).1) else none
  let root := (treeOf (fun p q => fx40Of (p.add q .rne).1) 5 ((List.range 32).map leaf)).getD (.zero false)
  fp32Of ((root.mul fa).1.mul fb).1

/-- The low bits that a tolerance grade leaves free (R129). -/
def tolerate (grant : BitVec 8) (free : BitVec 32) (v : W32) : W32 :=
  let g := match grant.toNat % 4 with | 1 => 1 | 2 => 3 | _ => 0
  match fp32.decode v.toNat with
  | .fin _ m e _ => if m = 0 ∨ (Nat.log2 m : Int) + e < fp32.emin then v else BitVec.ofNat 32 (v.toNat / 2 ^ g * 2 ^ g + free.toNat % 2 ^ g)
  | _ => v

/-- The canonical FP32 NaN. -/
def nan32 : W32 := 0x7FC00000

/-! The multiply steps (R187, R192). -/

/-- The entries a segment table selects (R187): rid at bytes 0 to 127, cid at 128 to 255, each N16. -/
def Mach.segSelects (m : Mach) (c : CoreId) (table r n : Nat) : Bool :=
  let rid := m.spmNat c (table + 2 * r) 2
  let cid := m.spmNat c (table + 128 + 2 * n) 2
  rid != 0xFFFF && (cid == 0xFFFE || cid == rid)

/-- An ACC tile after a multiply step: `upd` selects the updated entries, `own` is the step's own poison of a row. -/
def AccTile.update (a : AccTile) (kind : MmaKind) (x : MmaShape) (upd : Nat → Nat → Bool) (own : Nat → Bool) (prod : Nat → Nat → Ex)
    (store : Nat → W32 → W32) : AccTile :=
  let touched (r : Nat) : Bool := (List.range x.n).any (upd r)
  let pois (r : Nat) : Bool :=
    if r < x.m ∧ touched r then own r || (kind != .replace && a.pois.getLsbD r) else a.pois.getLsbD r
  { live := true
    pois := BitVec.ofNat 64 ((List.range 64).foldl (fun n r => if pois r then n + 2 ^ r else n) 0)
    vals := Vector.ofFn fun i : Fin 4096 =>
      let r := i.val / 64
      let n := i.val % 64
      if r < x.m ∧ n < x.n ∧ upd r n then
        if pois r then nan32
        else
          let p := prod r n
          store i.val (if kind = .replace then fp32Bits p else fp32Bits ((fp32.decode a.vals[i].toNat).add p .rne).1)
      else a.vals[i] }

/-- The tile that a multiply step leaves (R186, R187, R191, R192), from the machine whose operands and registers it reads and the tile as it stood. -/
def Mach.mmaTile (m : Mach) (c : CoreId) (t : Strand) (a : MmaArgs) (kind : MmaKind) (x : MmaShape) (ta tb tick : Nat) (tile : AccTile) : AccTile :=
  let k := m.cores[c]
  let e := k.eng t
  let nb := x.k / 32
  let table := a.opA.addr.toNat / 64 * 64
  let theta := thetaOf (m.grantOf c) e.theta
  let aElem (r j : Nat) : Ex := zeroed theta (matDec a.opA.ty (m.tileElem c ta a.opA.ty r j))
  let bElem (n j : Nat) : Ex := matDec a.opB.ty (m.tileElem c tb a.opB.ty n j)
  let prod (r n : Nat) : Ex :=
    entryProduct nb (fun j => (List.range 32).map fun i => (aElem r (32 * j + i), bElem n (32 * j + i)))
      (k.blockScale a.sau a.saidx nb r) (k.blockScale a.sbu a.sbidx nb n) (fp32.decode e.f[a.fa].toNat) (fp32.decode e.f[a.fb].toNat)
  let bPois := (List.range x.n).any fun n => m.tilePoison c tb a.opB.ty n x.k
  let own (r : Nat) : Bool := bPois || m.tilePoison c ta a.opA.ty r x.k
  let upd (r n : Nat) : Bool := kind != .seg || m.segSelects c table r n
  let store (i : Nat) (v : W32) : W32 := tolerate (m.grantOf c) (Config.toleranceBits tick i) v
  tile.update kind x upd own prod store

/-! Sectors (R184): a step reads each 64-byte sector of its operands once between its start and its retirement. -/

/-- The sectors of a tile's rows that a step uses. -/
def tileSectors (base : Nat) (ty : BitVec 4) (rows k : Nat) : List Nat :=
  let n := if ty = 7 then k / 2 else k * esizeOf ty.toNat
  (List.range rows).flatMap fun r => (List.range ((n + 63) / 64)).map fun i => base + 512 * r + 64 * i

/-- Every sector that a multiply step reads, by storage address. -/
def mmaSectors (c : CoreId) (a : MmaArgs) (kind : MmaKind) (x : MmaShape) (ta tb : Nat) : List Nat :=
  let table := a.opA.addr.toNat / 64 * 64
  (tileSectors ta a.opA.ty x.m x.k ++ tileSectors tb a.opB.ty x.n x.k ++ (if kind = .seg then (List.range 4).map fun i => table + 64 * i else [])).map (spmKey c)

/-- A storage address lies in one of the sectors. -/
def inSectors (l : List Nat) (a : Nat) : Bool := l.contains (a - a % 64)

/-- The stores to the sectors that have been issued are performed: a sector that is read is wholly as it stood before a write or after it. -/
def Mach.wholeSectors (m : Mach) (l : List Nat) : Mach :=
  let hits : List PendStore := m.pend.filterMap fun
    | .store p => if inSectors l p.addr then some p else none
    | _ => none
  hits.foldl (fun m p => m.flushReqs p.core p.strand [p.access]) m

/-- A sector has changed since it was read, and no store to it is still to be performed. -/
def Mach.sectorMoved (m : Mach) (r : Reread) (s : Nat) : Bool :=
  let in_ (a : Nat) : Bool := a - a % 64 == s
  ((m.mem.cells.filter fun x => in_ x.1) != (r.old.filter fun x => in_ x.1) || (m.mem.pois.filter in_) != (r.oldPois.filter in_)) &&
  !(m.pend.any fun | .store p => in_ p.addr | _ => false)

/-- The last multiply step of a core's array has read its operands: a sector written since its start may have been read after the write (R184). -/
def Mach.rereadDone (m : Mach) (c : CoreId) : Mach :=
  match m.cores[c].reread with
  | none => m
  | some r =>
    let late := (mmaSectors c r.args r.kind r.shape r.ta r.tb).filter fun s => m.sectorMoved r s && Config.sectorLate r.tick s
    let m1 := m.onCore c fun k => { k with reread := none }
    if late.isEmpty then m1
    else
      let view : Mem :=
        { cells := late.foldl (fun l s => (memPaste { cells := l, empt := [], pois := [] } (memSlice m.mem s 64 s) s 64).cells) r.old
          empt := []
          pois := (r.oldPois.filter fun a => !inSectors late a) ++ m.mem.pois.filter (inSectors late) }
      let tile := ({ m with mem := view } : Mach).mmaTile c r.strand r.args r.kind r.shape r.ta r.tb r.tick r.tile
      m1.onCore c fun k => { k with acc := k.acc.set r.args.tile.toNat tile }

/-- A multiply step: its checks, then its effect on ACC from the operands as they stand at its start, and what it needs to read a sector later; its pops
wait for its retirement. DESIGN CHOICE (log 71): a segment table that passes the end of SPM faults PERM at the table. -/
def State.mma (s : State) (w : Sems) (a : MmaArgs) (kind : MmaKind) (op : Instr) : Host.Outcome State Fault Refusal :=
  let c := s.cur.core
  let t := matStrand s.cur.strand
  s.array t w op 4 fun m =>
    let k := m.cores[c]
    let tiles : Except Trap (Nat × Nat) := do return (← k.tileAddr a.opA, ← k.tileAddr a.opB)
    let table := a.opA.addr.toNat / 64 * 64
    match tiles with
    | .error f => .trap f
    | .ok (ta, tb) =>
      match blockShape k.sets[engineNo (engineOf t)].cur.sh[a.sh] (some (kmaxOf a.opA.ty)) with
      | none => .trap shapeTrap
      | some x =>
        let nb := x.k / 32
        if (!a.sau ∧ 16384 < a.saidx.toNat + nb * x.m) ∨ (!a.sbu ∧ 16384 < a.sbidx.toNat + nb * x.n) then .trap shapeTrap
        else if kind = .seg ∧ 0x100000 < table + 256 then .trap { cls := .perm, addr := BitVec.ofNat 64 table }
        else
          let sectors := mmaSectors c a kind x ta tb
          let m0 := m.wholeSectors sectors
          let tile := m0.cores[c].acc[a.tile.toNat]
          let pops := (if a.opA.fixed ∨ !a.opA.pop then [] else [a.opA.ring]) ++ (if a.opB.fixed ∨ !a.opB.pop then [] else [a.opB.ring])
          let r : Reread := { strand := t, args := a, kind := kind, shape := x, ta := ta, tb := tb, tick := s.tick, tile := tile,
                              old := m0.mem.cells.filter (fun x => inSectors sectors x.1), oldPois := m0.mem.pois.filter (inSectors sectors) }
          let m1 := m0.onCore c fun k =>
            { k with acc := k.acc.set a.tile.toNat (m0.mmaTile c t a kind x ta tb s.tick tile), reread := some r }
          .done (m1.launchStep c t w op 4 fun f => { f with pops := pops })

/-- `mma` (R192): it accumulates. -/
def execMma (w : Sems) (a : MmaArgs) (s : State) : Host.Outcome State Fault Refusal := s.mma w a .add (.mma w a)
/-- `mmaz` (R192): it replaces. -/
def execMmaz (w : Sems) (a : MmaArgs) (s : State) : Host.Outcome State Fault Refusal := s.mma w a .replace (.mmaz w a)
/-- `mmasg` (R187): it accumulates into the entries its segment table selects. -/
def execMmasg (w : Sems) (a : MmaArgs) (s : State) : Host.Outcome State Fault Refusal := s.mma w a .seg (.mmasg w a)

/-! Register steps (R193). -/

/-- `fset` (R193). -/
def execFset (w : Sems) (n : Fin 8) (v : W32) (s : State) : Host.Outcome State Fault Refusal :=
  let c := s.cur.core
  let t := matStrand s.cur.strand
  s.engine t w (.fset w n v) 2 fun m => .done ((m.onEng c t fun e => { e with f := e.f.set n v }).passDone c t w (.fset w n v) 2)

/-- `fqrd` (R193): it waits while its queue is empty. -/
def execFqrd (w : Sems) (n : Fin 8) (s : State) : Host.Outcome State Fault Refusal :=
  let c := s.cur.core
  let t := matStrand s.cur.strand
  s.engine t w (.fqrd w n) 1 fun m =>
    match m.cores[c].q[inQueue t] with
    | [] => .stay m
    | v :: rest => .done (((m.popQ c (inQueue t) rest).onEng c t fun e => { e with f := e.f.set n (v.setWidth 32) }).passDone c t w (.fqrd w n) 1)

/-- `mthr` (R193, R131): PRIV without the APX grant. -/
def execMthr (w : Sems) (v : W32) (s : State) : Host.Outcome State Fault Refusal :=
  let c := s.cur.core
  let t := matStrand s.cur.strand
  s.engine t w (.mthr w v) 2 fun m =>
    if !(m.grantOf c).getLsbD 2 then .trap { cls := .priv, addr := 0 }
    else .done ((m.onEng c t fun e => { e with theta := v }).passDone c t w (.mthr w v) 2)

/-! Scale and tile steps (R194 to R196). -/

/-- The first poisoned location of a near run, by its near address. -/
def Mach.runPoison (m : Mach) (addr key n : Nat) : Option Nat :=
  ((List.range ((key % 8 + n + 7) / 8)).find? fun i => memPoisoned m.mem (locOf key + 8 * i)).map fun i => addr - addr % 8 + 8 * i

/-- A scale word from a source element (R114, R194). -/
def scaleWord (fmt : Fin 3) (v : Nat) : W32 :=
  BitVec.ofNat 32 (match fmt with | 0 => v % 2 ^ 20 | 1 => widenE8m0 v | 2 => widenE4m3 v)

/-- `scld` (R194). -/
def execScld (w : Sems) (fmt : Fin 3) (count1 : BitVec 14) (src : W32) (cls : BitVec 4) (didx : BitVec 14) (s : State) :
    Host.Outcome State Fault Refusal :=
  let c := s.cur.core
  let t := matStrand s.cur.strand
  let op : Instr := .scld w fmt count1 src cls didx
  s.array t w op 3 fun m =>
    let n := count1.toNat + 1
    let size := if fmt = 0 then 4 else 1
    let at_ : W64 := src.setWidth 64
    if 16384 < didx.toNat + n then .trap shapeTrap
    else if src.toNat % size ≠ 0 then .trap { cls := .align, addr := at_ }
    else
      match m.nearRun c src.toNat (n * size) with
      | none => .trap { cls := .perm, addr := at_ }
      | some key =>
        match m.runPoison src.toNat key (n * size) with
        | some a => .trap { cls := .poison, addr := BitVec.ofNat 64 a }
        | none =>
          let word (i : Nat) : W32 := scaleWord fmt (memNat m.mem (key + size * i) size)
          let m1 := m.onCore c fun k => { k with scale := Vector.ofFn fun i : Fin 16384 =>
            if didx.toNat ≤ i.val ∧ i.val < didx.toNat + n then word (i.val - didx.toNat) else k.scale[i] }
          .done (m1.launchStep c t w op 3 id)

/-- `acczero` (R195). -/
def execAcczero (w : Sems) (tile count1 : BitVec 6) (s : State) : Host.Outcome State Fault Refusal :=
  let c := s.cur.core
  let t := matStrand s.cur.strand
  let op : Instr := .acczero w tile count1
  s.array t w op 1 fun m =>
    let m1 := m.onCore c fun k => { k with acc := Vector.ofFn fun i : Fin 64 =>
      if tile.toNat ≤ i.val ∧ i.val ≤ tile.toNat + count1.toNat then .zero else k.acc[i] }
    .done (m1.launchStep c t w op 1 id)

/-- The near run of a whole tile, or its fault (R196). -/
def Mach.tileRun (m : Mach) (c : CoreId) (addr : W32) : Except Trap Nat :=
  if addr.toNat % 64 ≠ 0 then .error { cls := .align, addr := addr.setWidth 64 }
  else
    match m.nearRun c addr.toNat 16384 with
    | some key => .ok key
    | none => .error { cls := .perm, addr := addr.setWidth 64 }

/-- `accst` (R196): raw entries; the words of a poisoned row are marked (R191). -/
def execAccst (w : Sems) (tile : BitVec 6) (addr : W32) (cls : BitVec 4) (scope : Scope) (s : State) : Host.Outcome State Fault Refusal :=
  let c := s.cur.core
  let t := matStrand s.cur.strand
  let op : Instr := .accst w tile addr cls scope
  s.array t w op 3 fun m =>
    match m.tileRun c addr with
    | .error f => .trap f
    | .ok key =>
      let a := m.cores[c].acc[tile.toNat]
      let word (i : Nat) : List Byte := leBytes ((a.vals[2 * i]?).getD 0).toNat 4 ++ leBytes ((a.vals[2 * i + 1]?).getD 0).toNat 4
      let moves := (List.range 2048).map fun i =>
        ({ dst := key + 8 * i, src := .bytes (wholeBytes (word i)) (some (a.pois.getLsbD (i / 32))), fe := .keep } : PendMove)
      .done (m.launchStep c t w op 3 fun f => { f with moves := moves })

/-- `accld` (R196): the tile becomes live, and each row's poison bit is set from its own source words (R191). -/
def execAccld (w : Sems) (tile : BitVec 6) (addr : W32) (cls : BitVec 4) (scope : Scope) (s : State) : Host.Outcome State Fault Refusal :=
  let c := s.cur.core
  let t := matStrand s.cur.strand
  let op : Instr := .accld w tile addr cls scope
  s.array t w op 3 fun m =>
    match m.tileRun c addr with
    | .error f => .trap f
    | .ok key =>
      let bad (r : Nat) : Bool := (List.range 32).any fun i => memPoisoned m.mem (key + 256 * r + 8 * i)
      let tl : AccTile :=
        { live := true, pois := BitVec.ofNat 64 ((List.range 64).foldl (fun n r => if bad r then n + 2 ^ r else n) 0),
          vals := Vector.ofFn fun i : Fin 4096 => BitVec.ofNat 32 (memNat m.mem (key + 4 * i.val) 4) }
      .done ((m.onCore c fun k => { k with acc := k.acc.set tile.toNat tl }).launchStep c t w op 3 id)

/-! Sequencing steps (R201). -/

/-- MST as a word (R189); bit 63 is forced to 0 by `mqwr` (R201). -/
def Mst.word (t : Mst) : Nat :=
  t.nanout.toNat * 2 ^ 48 + t.clamp.toNat * 2 ^ 32 + t.rowfail.toNat * 2 ^ 16 + t.prows.toNat * 2 ^ 8 + b2n t.sat * 32 + b2n t.of * 4 + b2n t.nv

/-- A push to the strand's queue: it waits for every earlier step, for reports to have entered, and for room. -/
def State.queuePush (s : State) (t : Strand) (w : Sems) (op : Instr) (entry : Mach → W64 × (EngStrand → EngStrand)) : Host.Outcome State Fault Refusal :=
  let c := s.cur.core
  s.engine t w op 1 fun m =>
    let k := m.cores[c]
    if !(k.eng t).flights.isEmpty || !(k.eng t).report.isEmpty || decide (8 ≤ k.q[outQueue t].length) then .stay m
    else
      let (v, upd) := entry m
      .done (((m.pushQ c (outQueue t) v).onEng c t upd).passDone c t w op 1)

/-- `mqwr` with a tag (R201). -/
def execMqwr (w : Sems) (tag : BitVec 14) (s : State) : Host.Outcome State Fault Refusal :=
  s.queuePush (matStrand s.cur.strand) w (.mqwr w tag) fun _ => (tag.setWidth 64, id)

/-- `mqwr.st` (R201): it pushes MST and clears it in the same step. -/
def execMqwrSt (w : Sems) (s : State) : Host.Outcome State Fault Refusal :=
  let t := matStrand s.cur.strand
  s.queuePush t w (.mqwrSt w) fun m =>
    (BitVec.ofNat 64 (((m.cores[s.cur.core].eng t).mst).word % 2 ^ 63), fun e => { e with mst := .zero })

/-- `mrel` (R201): it ends the strand's lease; without one it has no effect. -/
def execMrel (w : Sems) (s : State) : Host.Outcome State Fault Refusal :=
  let c := s.cur.core
  let t := matStrand s.cur.strand
  s.engine t w (.mrel w) 1 fun m =>
    .done ((m.onCore c fun k =>
      match k.lease with
      | .held x _ => if x = isB t then { k with lease := .held x 32 } else k
      | _ => k).passDone c t w (.mrel w) 1)

/-- `msync` (R201): it completes once every earlier step of the strand has. -/
def execMsync (w : Sems) (s : State) : Host.Outcome State Fault Refusal :=
  let t := matStrand s.cur.strand
  s.engine t w (.msync w) 1 fun m => .done (m.launchStep s.cur.core t w (.msync w) 1 fun f => { f with order := true })

/-- `mjmp` (R201): the counted backward jump. -/
def execMjmp (w : Sems) (count disp : BitVec 8) (s : State) : Host.Outcome State Fault Refusal :=
  let c := s.cur.core
  let t := matStrand s.cur.strand
  let op : Instr := .mjmp w count disp
  s.engine t w op 1 fun m =>
    let k := m.cores[c]
    let r := k.rings[ringOf t]
    let left := ((k.eng t).mlc).getD count
    if left = 0 then .done ((m.onEng c t fun e => { e with mlc := none }).passDone c t w op 1)
    else if 2 ^ r.lsize.toNat < (r.wp - r.rp + disp.setWidth 32).toNat then .trap { cls := .perm, addr := 0 }
    else
      let m1 := (m.onEng c t fun e => { e with mlc := some (left - 1) }).passDone c t w op 1
      .done (m1.onCore c fun k => k.onRing (ringOf t) fun x => { x with rp := r.rp - disp.setWidth 32 })

/-! Retirement (R56, R180, R183). -/

/-- A flight of a matrix strand may complete: its messages are answered, a waiting step's earlier steps are complete, and its pops
are the next in start order on their rings. -/
def Core.matCompletes (k : Core) (t : Strand) (f : Flight) : Bool :=
  f.msgs.isEmpty &&
  (!f.order || (k.eng t).flights.all fun g => decide (f.id ≤ g.id)) &&
  f.pops.all fun r => (k.mata.flights ++ k.matb.flights).all fun g => decide (f.id ≤ g.id) || !g.pops.contains r

/-- The head of a ring advances past a popped slot (R336). -/
def Core.popSlot (k : Core) (r : Fin 8) : Core :=
  { k with rg := k.rg.set r ((k.rg[r]).map fun x => { x with hd := (x.hd + 1) % x.ns, filled := x.filled - 1 }) }

/-- `MATRIX_STEP_COMPLETE` (R56): the writes still to be made are made, the slots popped and the semaphore raised. -/
def execMatrixStepComplete (c : CoreId) (b : Bool) (id : Nat) (s : State) : Host.Outcome State Fault Refusal :=
  let t := strandOfB b
  match s.mach.cores[c].flight? t id with
  | none => .next s
  | some f =>
    if !s.mach.cores[c].matCompletes t f then .next s
    else
      let m1 := ((s.mach.makeMoves f.moves).dropFlight c t id).onCore c fun k => (f.pops.foldl Core.popSlot k).reportFailed t f
      .next { s with mach := m1.raiseStep c t f.raises f.op f.rp f.words f.status }

end Sys2Proof.Machine
end

