-- ==== Sys2Proof/Machine/Tasks.lean ====
section
/-! DEFINITION. Task records, what refuses one, and the ferrymaster's own reads and writes (11 R311 to R317). -/

namespace Sys2Proof.Machine

/-- A field of n bytes at k. -/
def byteField (bs : List Byte) (k n : Nat) : Nat := leNat ((bs.drop k).take n)

def parseRange (bs : List Byte) : TaskRange :=
  let w := byteField bs 0 4
  { w := bit w 31, handle := w % 2 ^ 24, lo0 := byteField bs 4 4, hi0 := byteField bs 8 4, lo1 := byteField bs 12 4, hi1 := byteField bs 16 4 }

/-- A task record of its 256 bytes (R311). -/
def parseTask (bs : List Byte) : TaskRec :=
  let n := byteField bs
  let w32 (k : Nat) : W32 := BitVec.ofNat 32 (n k 4)
  { image := BitVec.ofNat 64 (n 0 8), imglen := n 8 4, centry := n 12 4 % 2 ^ 20, ventry := w32 16,
    rings := [(w32 20, w32 24), (w32 28, w32 32), (w32 36, w32 40)], slimg := n 44 4, size := n 48 2, pkg0 := n 50 2 % 2 ^ 12,
    npkg := n 52 2 % 2 ^ 13, prio := n 54 1, grant := BitVec.ofNat 8 (n 55 1), phint := BitVec.ofNat 8 (n 56 1),
    mbud := n 60 4, remain := n 64 4, clmsave := n 68 4 % 256, compl := BitVec.ofNat 64 (n 72 8),
    arg0 := BitVec.ofNat 64 (n 80 8), arg1 := BitVec.ofNat 64 (n 88 8),
    ranges := (List.range (min (n 57 1) 8)).map fun i => parseRange (bs.drop (96 + 20 * i)) }

/-- A RING entry's fields (R311). -/
def ringRun (w : W32) : Bool := w.getLsbD 31
def ringLsize (w : W32) : Nat := bits w.toNat 28 24
def ringBase (w : W32) : Nat := bits w.toNat 19 0

/-- Reason 1 of R314. -/
def badFields (bs : List Byte) : Bool :=
  let n := byteField bs
  let t := parseTask bs
  let nrange := n 57 1
  n 12 4 / 2 ^ 20 != 0 || bits (n 16 4) 30 20 != 0 || n 50 2 / 2 ^ 12 != 0 || n 52 2 / 2 ^ 13 != 0 || n 56 1 / 4 != 0 || n 58 2 != 0 ||
  n 68 4 / 256 != 0 || t.rings.any (fun r => bits r.1.toNat 30 29 != 0 || bits r.1.toNat 23 20 != 0) ||
  (List.range 8).any (fun i => if i < nrange then bits (n (96 + 20 * i) 4) 30 24 != 0 else n (96 + 20 * i) 20 != 0) ||
  decide (t.imglen < 64) || decide (1048576 < t.imglen) || t.imglen % 64 != 0 || t.size == 0 || decide (128 < t.size) || t.npkg == 0 ||
  decide (4096 < t.npkg) || decide (8 < nrange) || decide (128 < t.clmsave) ||
  t.centry % 4 != 0 || (t.ventry.getLsbD 31 && t.ventry.toNat % 4 != 0) || t.slimg % 64 != 0 || t.compl.toNat % 16 != 0 ||
  t.rings.any fun r => (decide (1 ≤ ringLsize r.1) && decide (ringLsize r.1 ≤ 5)) || decide (16 < ringLsize r.1) ||
    (ringLsize r.1 != 0 && ringBase r.1 % 64 != 0)

/-- A valid approximation grant (R128): every capability bit of the WX9 reads 1. -/
def badGrant (g : BitVec 8) : Bool := g.toNat % 4 == 3 || decide (8 ≤ g.toNat)

/-- A context exists on a package. -/
def Mach.hasContext (m : Mach) (pkg ctx : Nat) : Bool :=
  if pkg = m.pkg.toNat then ((m.ctxs[ctx]?).getD none).isSome else Config.contextPresent pkg ctx

/-- The reason a record of a context is refused for, if any (R314). -/
def Mach.refusal (m : Mach) (ctx : Nat) (bs : List Byte) : Option Nat :=
  let t := parseTask bs
  if badFields bs then some 1
  else if badGrant t.grant then some 2
  else if m.group < t.pkg0 + t.npkg ∨ !(List.range t.npkg).all (fun i => m.hasContext (t.pkg0 + i) ctx) then some 3
  else if t.imglen ≤ t.centry ∨ (t.ventry.getLsbD 31 ∧ t.imglen ≤ bits t.ventry.toNat 19 0) ∨
      t.rings.any (fun r => ringLsize r.1 != 0 && decide (t.imglen < ringBase r.1 + 4 * 2 ^ ringLsize r.1)) ∨
      (t.slimg ≠ 0 ∧ t.imglen < t.slimg + 3072) then some 4
  else if t.ranges.any (fun r => r.handle == 0) then some 5
  else none

/-! Reads and writes of an agent that is no strand: location by location, in a context, at U's reach. -/

def agent (ctx : Nat) : Asker := { core := 0, ctx := ctx, site := none, sup := false, lighter := false }

/-- The storage addresses of n locations from a pointer, for a kind of access; none for a location of another package. Handle 0 names no
object (13 R376). -/
def Mach.agentPlaces (m : Mach) (ctx : Nat) (p : W64) (n : Nat) (kind : Kind) : Except NoPlace (List (Option Nat)) :=
  (List.range n).mapM fun (i : Nat) =>
    match ptrAdd p (8 * (i : Int)) with
    | .error e => .error e
    | .ok q =>
      if ptrHandle q = 0 then .error (trapOf .perm q)
      else
        match checked m (agent ctx) q 8 kind with
        | .ok (.store key _ _) => .ok (some key)
        | .ok (.remote _ _) => .ok none
        | .ok (.cap _) => .error (trapOf .perm q)
        | .error e => .error e

/-- The bytes of n locations; those of another package are free values. -/
def Mach.agentRead (m : Mach) (ctx : Nat) (p : W64) (n tick : Nat) : Except NoPlace (List Byte) :=
  (m.agentPlaces ctx p n .read).map fun keys => keys.zipIdx.flatMap fun k =>
    match k.1 with
    | some key => memBytes m.mem key 8
    | none => (List.range 8).map fun j => Config.remoteByte tick (8 * k.2 + j)

/-- n locations written with 8 bytes each; an 8-byte write clears a mark (R282). A write to another package is performed there. -/
def Mach.agentWrite (m : Mach) (ctx : Nat) (p : W64) (ws : List W64) : Except NoPlace Mach :=
  (m.agentPlaces ctx p ws.length .write).map fun keys =>
    (keys.zip ws).foldl (fun m x =>
      match x.1 with
      | some key => { (m.unlogAt key) with mem := storeMem m.mem key (leBytes x.2.toNat 8) }
      | none => m) m

/-- An identifier that no task of the window and no child on its way has (R317). -/
def Mach.freshTask (m : Mach) (start : Nat) : Nat :=
  let used := m.ferry.tasks.map (·.id) ++ m.ferry.launched.map (·.id)
  freshFrom used (2 ^ 32 - 1) used.length start

/-- A record that an agent's access misses is outstanding for the firmware pager (R383). -/
def Mach.agentMiss (m : Mach) (ctx h k : Nat) : Mach :=
  if m.misses.any (fun x => x.ctx == ctx && x.h == h && x.k == k) || decide (256 ≤ m.misses.length) then m
  else { m with misses := m.misses ++ [{ ctx := ctx, h := h, k := k, core := none }] }

/-! `launch` (R317). -/

/-- The first armed request of a kind that has no target attaches to an operation (R295). -/
def attachArmed (kind op : Nat) : List Armed → List Armed
  | [] => []
  | a :: r => if a.kind = kind ∧ a.target.isNone then { a with target := some op } :: r else a :: attachArmed kind op r

/-- The 8-byte words of a list of bytes. -/
def wordsOf (bs : List Byte) (n : Nat) : List W64 := (List.range n).map fun i => BitVec.ofNat 64 (byteField bs (8 * i) 8)

/-- A child enters its queue: the tail advances, and its parent counts it (R317, R318). -/
def Mach.enqueueChild (m : Mach) (c : CoreId) (q : Fin 64) (id : Nat) : Mach :=
  let queue := m.ferry.queues[q]
  let parent := m.cores[c].task
  let child : Launched := { queue := q.val, slot := queue.tail, id := id, parent := parent, core := c }
  let tasks := m.ferry.tasks.map fun (x : Task) => if some x.id = parent then { x with children := x.children + 1 } else x
  { m with ferry := { m.ferry with
      queues := m.ferry.queues.set q { queue with tail := queue.tail + 1 },
      launched := m.ferry.launched ++ [child], tasks := tasks } }

/-- The 256 bytes of a record loaded, one location at a time; a fault reports its own address. A remote record is one message. -/
def Mach.ctlRecord (m : Mach) (c : CoreId) (p : W64) : Got :=
  match checked (m.seen c .control) (m.asker c) p 8 .read with
  | .ok (.remote home mt) =>
    match m.askRemote c .control 0 home mt p 0 .load false (.load 256) with
    | (m1, none) => .wait m1
    | (m1, some a) => remoteGot m1 p a
  | _ => (List.range 32).foldl (fun g (i : Nat) =>
      match g with
      | .val m v =>
        match ptrAdd p (8 * (i : Int)) with
        | .ok q => (match m.ctlLoad c q 8 0 with | .val m1 w => .val m1 (v + w * 2 ^ (64 * i)) | g1 => g1)
        | .error (.fault t) => .fault m t
        | .error _ => .fault m { cls := .perm, addr := p }
      | g => g) (.val m 0)

/-- `launch` (R317). -/
def execLaunch (d : Dst) (a b : Src) (s : State) : Host.Outcome State Fault Refusal :=
  let c := s.cur.core
  let words := 1 + litWords [a, b]
  s.control words fun m0 =>
    orTrap (s.ctl.clean? [a, b]) fun _ =>
      let p := (s.ctl.src a).val
      let sel := (s.ctl.src b).val.toNat
      let bad (cls : TrapClass) : Run := .trap { cls := cls, addr := p }
      let ctx := s.ctl.ctxid
      if ptrOff p % 256 ≠ 0 then bad .align
      else if 64 ≤ sel then bad .shape
      else
        let m := m0.flushAll c .control
        (m.ctlRecord c p).run p fun m v =>
          let bs := leBytes v 256
          let t := parseTask bs
          let q : Fin 64 := Fin.ofNat 64 sel
          let queue := m.ferry.queues[q]
          let own : BitVec 8 := match m.cores[c].task.bind fun id => m.ferry.tasks.find? (·.id == id) with | some x => x.recd.grant | none => 0
          if !queue.src || queue.ctx != ctx || decide (queue.lsize < 4) || decide (12 < queue.lsize) then bad .perm
          else if !s.ctl.sup && (t.grant.getLsbD 2 || decide (own.toNat % 4 < t.grant.toNat % 4)) then bad .priv
          else if (m.refusal ctx bs).isSome then bad .shape
          else if 2 ^ queue.lsize ≤ (queue.tail - queue.head).toNat then
            (m.onCtl c fun k => k.write d (clean (BitVec.ofNat 64 (2 ^ 63 + 1)))).advance c words
          else
            match ptrAdd queue.base (256 * (queue.tail.toNat % 2 ^ queue.lsize)) with
            | .error _ => bad .perm
            | .ok slot =>
              match m.agentWrite ctx slot (wordsOf bs 32) with
              | .error (.miss x h k) => .stay (m.agentMiss x h k)
              | .error .held => .stay m
              | .error (.fault _) => bad .perm
              | .ok m1 =>
                let id := m1.freshTask (Config.idStart s.tick)
                let m2 := m1.enqueueChild c q id
                (m2.onCtl c fun k => { (k.write d (clean (BitVec.ofNat 64 (id % 2 ^ 32)))) with armed := attachArmed 8 id k.armed }).advance c words

end Sys2Proof.Machine
end

