-- ==== Sys2Proof/Machine/Attn.lean ====
section
/-! DEFINITION. Attention: the dies' chunks, staging and commits, the exact computation of a result row, `attn` and the five
instructions that wait for a die (07 R202 to R224). -/

namespace Sys2Proof.Machine

def Mach.onDie (m : Mach) (ad : Fin 2) (f : AttnDie → AttnDie) : Mach := { m with attn := m.attn.set ad (f m.attn[ad]) }
def AttnDie.onRec (a : AttnDie) (seq : Nat) (f : SeqRec → SeqRec) : AttnDie := { a with recs := a.recs.map fun r => if r.seq = seq then f r else r }
def AttnDie.rec? (a : AttnDie) (seq : Nat) : Option SeqRec := a.recs.find? (·.seq == seq)

/-! Chunks (R206). -/

/-- The size exponent of the smallest chunk of at least n bytes: 16 to 30, or none above 1 GiB. -/
def chunkOf (n : Nat) : Option Nat := ((List.range 15).map (· + 16)).find? fun k => decide (n ≤ 2 ^ k)

/-- The halves of a chunk split down to a size: the lowest one is taken, the others are free. -/
def splitDown : Nat → Nat → Nat → List (Nat × Nat)
  | 0, _, _ => []
  | n + 1, k, base => (k - 1, base + 2 ^ (k - 1)) :: splitDown n (k - 1) base

/-- The lowest-addressed free chunk of a size; with none, the smallest larger size's lowest one is split. -/
def AttnDie.take (a : AttnDie) (k : Nat) : Option (AttnDie × Nat) :=
  let size := ((List.range (31 - k)).map (· + k)).find? fun j => a.free.any fun c => c.1 == j
  match size with
  | none => none
  | some j =>
    match ((a.free.filter fun c => c.1 == j).map (·.2)).min? with
    | none => none
    | some base => some ({ a with free := (a.free.filter fun c => !(c.1 == j && c.2 == base)) ++ splitDown (j - k) j base }, base)

/-- A freed chunk merges with its free buddy, up to 1 GiB. -/
def mergeIn : Nat → List (Nat × Nat) → Nat → Nat → List (Nat × Nat)
  | 0, free, k, base => free ++ [(k, base)]
  | fuel + 1, free, k, base =>
    let buddy := if base / 2 ^ k % 2 = 0 then base + 2 ^ k else base - 2 ^ k
    if k < 30 ∧ free.contains (k, buddy) then mergeIn fuel (free.filter (· != (k, buddy))) (k + 1) (min base buddy) else free ++ [(k, base)]

/-- A chunk given back: what it holds is gone. -/
def AttnDie.give (a : AttnDie) (k base : Nat) : AttnDie :=
  { a with free := mergeIn 15 a.free k base, cells := a.cells.filter fun x => decide (x.1 < base) || decide (base + 2 ^ k ≤ x.1) }

def Extent.chunk (e : Extent) : Nat := (chunkOf (e.len * e.stride)).getD 16

/-- An extent's chunk given back. -/
def AttnDie.giveExt (a : AttnDie) (e : Extent) : AttnDie := a.give e.chunk e.base

/-- The tokens a record has room for (R203). -/
def SeqRec.capacity (r : SeqRec) : Nat := 32 * (r.exts.map (·.len)).foldl (· + ·) 0

/-! Cache blocks (R204, R205). -/

/-- `Locate` (R205): the address of block b, by the extent walk; none past the last extent. -/
def locate : List Extent → Nat → Option Nat
  | [], _ => none
  | e :: r, b => if b < e.len then some (e.base + b * e.stride) else locate r (b - e.len)

/-- The block at an address. -/
def AttnDie.cell? (x : AttnDie) (a : Nat) : Option CacheBlock := (x.cells.find? fun c => c.1 == a).map (·.2)

/-- Block b under a list of extents. -/
def AttnDie.block? (x : AttnDie) (exts : List Extent) (b : Nat) : Option CacheBlock := (locate exts b).bind x.cell?

/-- The blocks with one put at an address, in rising order. -/
def putCell : List (Nat × CacheBlock) → Nat → CacheBlock → List (Nat × CacheBlock)
  | [], a, v => [(a, v)]
  | c :: r, a, v => if a < c.1 then (a, v) :: c :: r else if a = c.1 then (a, v) :: r else c :: putCell r a v

/-- An extent's blocks copied to a new base (R224). -/
def AttnDie.copyExtent (x : AttnDie) (e : Extent) (base : Nat) : AttnDie :=
  { x with cells := (List.range e.len).foldl (fun l i => match x.cell? (e.base + i * e.stride) with | some b => putCell l (base + i * e.stride) b | none => l) x.cells }

/-! Values (R207, R208, R214). -/

def bf16Val (v : BitVec 16) : Ex := bf16.decode v.toNat
/-- A BF16 value as FP32 bits, which hold it exactly. -/
def bf16Wide (v : BitVec 16) : Nat := v.toNat * 2 ^ 16
def e4m3Of (x : Ex) : Byte := BitVec.ofNat 8 (e4m3.round x .rne true).bits
def pow2 (k : Int) : Ex := .fin false 1 k false

/-- A key row quantised by groups of 32 (R207). -/
def quantKey (row : List (BitVec 16)) : KeyRow :=
  let group (g : Nat) : List (BitVec 16) := (row.drop (32 * g)).take 32
  let exps := (List.range (row.length / 32)).map fun g => packExp 3 ((group g).map bf16Wide)
  { exps := exps
    elems := row.zipIdx.map fun x =>
      match (exps[x.2 / 32]?).getD none with
      | none => 0x7F
      | some k => e4m3Of ((bf16Val x.1).mul (pow2 (-k))).1 }

/-- A value committed to a channel (R208). -/
def ValChannel.commit (c : ValChannel) (v : BitVec 16) : ValChannel :=
  let kt : ValScale :=
    if v.toNat % 2 ^ 15 = 0 then .zero
    else match packExp 3 [bf16Wide v] with | none => .nan | some k => .exp k
  match c.scale, kt with
  | .nan, _ => { c with elems := c.elems ++ [0x7F] }
  | _, .nan => { scale := .nan, elems := c.elems ++ [0x7F] }
  | .zero, .zero => { c with elems := c.elems ++ [e4m3Of (bf16Val v)] }
  | .zero, .exp k => { scale := .exp k, elems := c.elems ++ [e4m3Of ((bf16Val v).mul (pow2 (-k))).1] }
  | .exp k, .zero => { c with elems := c.elems ++ [e4m3Of ((bf16Val v).mul (pow2 (-k))).1] }
  | .exp k, .exp kt =>
    let kn := max k kt
    let old := if kn = k then c.elems else c.elems.map fun e => e4m3Of ((e4m3.decode e.toNat).mul (pow2 (k - kn))).1
    { scale := .exp kn, elems := old ++ [e4m3Of ((bf16Val v).mul (pow2 (-kn))).1] }

def CacheBlock.fresh (d : Nat) : CacheBlock := { keys := [], vals := List.replicate d { scale := .zero, elems := [] }, bad := false }

/-- A token committed to a block. -/
def CacheBlock.commit (b : CacheBlock) (t : Staged) : CacheBlock :=
  { keys := b.keys ++ [quantKey t.key], vals := (b.vals.zip t.val).map fun x => x.1.commit x.2, bad := b.bad || t.bad }

/-- The first staged token of a record committed, to the block that its position lies in (R205, R209, R221). -/
def AttnDie.commit1 (x : AttnDie) (seq : Nat) : AttnDie :=
  match x.rec? seq with
  | none => x
  | some r =>
    match r.staged, locate r.exts (r.lc / 32) with
    | t :: rest, some a =>
      let old := if r.lc % 32 = 0 then .fresh r.d else (x.cell? a).getD (.fresh r.d)
      { x.onRec seq fun r => { r with lc := r.lc + 1, staged := rest } with cells := putCell x.cells a (old.commit t) }
    | _, _ => x

def AttnDie.commitN (x : AttnDie) (seq : Nat) : Nat → AttnDie
  | 0 => x
  | n + 1 => (x.commit1 seq).commitN seq n

/-- Key(j, c) of a snapshot (R214): exact. -/
def keyVal (block : Nat → Option CacheBlock) (lc : Nat) (staged : List Staged) (j c : Nat) : Ex :=
  if j < lc then
    match (block (j / 32)).bind fun b => b.keys[j % 32]? with
    | none => .zero false
    | some k =>
      match (k.exps[c / 32]?).getD none with
      | none => .nan false
      | some e => ((e4m3.decode (k.elems.getD c 0).toNat).mul (pow2 e)).1
  else ((staged[j - lc]?).map fun t => bf16Val (t.key.getD c 0)).getD (.zero false)

/-- Val(j, c) of a snapshot (R214): exact. -/
def valVal (block : Nat → Option CacheBlock) (lc : Nat) (staged : List Staged) (j c : Nat) : Ex :=
  if j < lc then
    match (block (j / 32)).bind fun b => b.vals[c]? with
    | none => .zero false
    | some ch =>
      match ch.scale with
      | .nan => .nan false
      | .zero => (e4m3.decode (ch.elems.getD (j % 32) 0).toNat).mul (.zero false) |>.1
      | .exp k => ((e4m3.decode (ch.elems.getD (j % 32) 0).toNat).mul (pow2 k)).1
  else ((staged[j - lc]?).map fun t => bf16Val (t.val.getD c 0)).getD (.zero false)

/-! A result row (R130, R214, R215). -/

/-- The running state of a row: m, l, the accumulators, blocks skipped, whether the row has ended as NaN, and the number of blocks it has come to. -/
structure RowAcc where
  mx : Ex
  l : Ex
  o : List Ex
  skipped : Nat
  nan : Bool
  upto : Nat

def round32 (x : Ex) : Ex := fp32.decode (fp32.round x .rne false).bits
def exp2Of (x : Ex) : Ex := round32 (exExp2 (round32 x)).1
def isNegInf : Ex → Bool
  | .inf true => true
  | _ => false

/-- TAU is finite and at least 0 (R130). -/
def tauOn (t : Ex) : Bool :=
  match t with
  | .fin n m _ _ => !n || m == 0
  | _ => false

/-- The exponent k of a block's probabilities: floor(log2 pm) - 2, or 0 for +0. -/
def probExp (pm : Ex) : Int :=
  match pm with
  | .fin _ m e _ => if m = 0 then 0 else (Nat.log2 m : Int) + e - 2
  | _ => 0

/-- A probability in E2M3 under the block's exponent. -/
def probOf (k : Int) (pr : Ex) : Ex := ((e2m3.decode (e2m3.round (pr.mul (pow2 (-k))).1 .rne true).bits).mul (pow2 k)).1

/-- An exact sum on top of a first term. -/
def sumOn (x : Ex) (l : List Ex) : Ex := l.foldl (fun a b => (a.add b .rne).1) x

/-- One block of a row. -/
def rowBlock (d : AttnDesc) (dim : Nat) (key val : Nat → Nat → Ex) (q : List Ex) (js : List Nat) (a : RowAcc) : RowAcc :=
  let tau := fp32.decode d.tau.toNat
  let scale := fp32.decode d.scale.toNat
  if a.nan ∨ js.isEmpty then a
  else
    let s := js.map fun j => round32 (scale.mul (dotSum (q.zipIdx.map fun x => (x.1, key j x.2)))).1
    if s.any fun x => x.isNan || (match x with | .inf false => true | _ => false) then { a with nan := true }
    else
      let u := s.foldl (Ex.minMax true) (.inf true)
      if tauOn tau && !((a.mx.add tau.negate .rne).1.lt u) then { a with skipped := a.skipped + 1 }
      else
        let mn := Ex.minMax true a.mx u
        if isNegInf mn then a
        else
          let alpha := if isNegInf a.mx then .zero false else exp2Of (a.mx.add mn.negate .rne).1
          let pr := s.map fun x => exp2Of (x.add mn.negate .rne).1
          let k := probExp (pr.foldl (Ex.minMax true) (.zero false))
          let p := pr.map (probOf k)
          { a with
            mx := mn
            l := round32 (sumOn (a.l.mul alpha).1 p)
            o := (List.range dim).map fun c =>
              round32 (sumOn ((a.o.getD c (.zero false)).mul alpha).1 ((p.zip js).map fun x => (x.1.mul (val x.2 c)).1)) }

/-- The keys of block b that a query at position p sees. -/
def rowKeys (d : AttnDesc) (lt p b : Nat) : List Nat :=
  ((List.range 32).map (· + 32 * b)).filter fun j => decide (j ≤ p) && decide (j < lt) && (d.window == 0xFFFFFFFF || decide (p - j ≤ d.window.toNat))

/-- A row over its blocks in ascending order. -/
def attnRow (d : AttnDesc) (dim lt p : Nat) (key val : Nat → Nat → Ex) (q : List Ex) : RowAcc :=
  (List.range (p / 32 + 1)).foldl (fun a b => if a.nan then a else rowBlock d dim key val q (rowKeys d lt p b) { a with upto := b + 1 })
    { mx := .inf true, l := .zero false, o := List.replicate dim (.zero false), skipped := 0, nan := false, upto := 0 }

/-- The elements of a finished row. -/
def RowAcc.out (a : RowAcc) (dim : Nat) : List W32 :=
  if a.nan then List.replicate dim nan32
  else
    (List.range dim).map fun c =>
      if a.l.isZero then 0
      else
        match a.l with
        | .fin n m e _ =>
          let o := a.o.getD c (.zero false)
          match o with
          | .fin no mo eo _ => fp32Bits (.fin (no != n) (mo * 2 ^ 400 / m) (eo - 400 - e) (mo * 2 ^ 400 % m != 0))
          | .inf no => fp32Bits (.inf (no != n))
          | .nan _ => nan32
        | _ => if (a.o.getD c (.zero false)).isNan then nan32 else if a.l.isNan then nan32 else 0

/-! Issue (R211, R213, R217, R218). -/

/-- A handle's die and sequence (R202); none when a reserved bit is set. -/
def handleOf (h : W64) : Option (Fin 2 × Nat) :=
  if 2 ^ 21 ≤ h.toNat then none else some (if h.getLsbD 20 then 1 else 0, h.toNat % 2 ^ 20)

def parseDesc (img : Nat) : AttnDesc :=
  let f (k n : Nat) : Nat := img / 256 ^ k % 256 ^ n
  { qaddr := f 0 4, raddr := f 4 4, kvaddr := f 8 4, staddr := f 12 4, scale := BitVec.ofNat 32 (f 16 4), tau := BitVec.ofNat 32 (f 20 4),
    window := BitVec.ofNat 32 (f 24 4), qpos := f 28 4, depth := f 32 1, group := f 33 1, new := f 34 1, stats := f 35 1 % 2 == 1,
    raise := BitVec.ofNat 4 (f 36 1), dcode := f 37 1, cmask := BitVec.ofNat 16 (f 38 2) }

def AttnDesc.dim (d : AttnDesc) : Nat := if d.dcode = 0 then 64 else 128
def AttnDesc.rows (d : AttnDesc) : Nat := d.group * d.depth

/-- The checks of the descriptor's fields, in the order of R213's table. -/
def checkDesc (img : Nat) (d : AttnDesc) : Option TrapClass :=
  let f (k n : Nat) : Nat := img / 256 ^ k % 256 ^ n
  let past (a n : Nat) : Bool := decide (0x100000 < a + n)
  let rows := d.rows
  if d.qaddr % 64 ≠ 0 ∨ d.raddr % 64 ≠ 0 ∨ d.kvaddr % 64 ≠ 0 ∨ d.staddr % 8 ≠ 0 then some .align
  else if past d.qaddr (2 * d.dim * rows) ∨ past d.raddr (4 * d.dim * rows + (if d.stats then 8 * rows else 0)) ∨ past d.kvaddr (4 * d.dim * d.new) ∨
    past d.staddr 8 then some .perm
  else if f 35 1 / 2 ≠ 0 ∨ f 36 1 / 16 ≠ 0 ∨ f 40 24 ≠ 0 ∨ d.depth = 0 ∨ 16 < d.depth ∨ d.group = 0 ∨ 8 < d.group ∨ 16 < d.new ∨ 1 < d.dcode ∨ 64 < rows ∨
    (d.kvaddr ≠ 0 ∧ d.new = 0) then some .shape
  else none

/-- The strand's stores in the classes of a mask performed, with those that must come before them (R217). -/
def Mach.flushClasses (m : Mach) (c : CoreId) (t : Strand) (mask : BitVec 16) : Mach :=
  m.flushReqs c t ((m.pend.filterMap (Pend.access? c t)).filter fun a => mask.getLsbD a.cls.toNat)

/-- The strand's earlier stores to a run of own SPM performed: a read of its own that sees them, whatever their class (R213, R247). -/
def Mach.flushRun (m : Mach) (c : CoreId) (t : Strand) (key n : Nat) : Mach :=
  m.flushReqs c t ((m.pend.filterMap (Pend.access? c t)).filter fun a => decide (locOf key ≤ a.loc) && decide (a.loc < key + n))

/-- A 64-byte descriptor in own SPM read at issue: ALIGN, PERM, POISON at the first poisoned location, or its image. -/
def Mach.descriptor (m : Mach) (c : CoreId) (a : W64) (k : Mach → Nat → Run) : Run :=
  if a.toNat % 64 ≠ 0 then .trap { cls := .align, addr := 0 }
  else if 0x100000 < a.toNat + 64 then .trap { cls := .perm, addr := 0 }
  else
    let m1 := m.flushRun c .control (spmKey c a.toNat) 64
    match (List.range 8).find? fun i => memPoisoned m1.mem (spmKey c (a.toNat + 8 * i)) with
    | some i => .trap { cls := .poison, addr := a + BitVec.ofNat 64 (8 * i) }
    | none => k m1 (memNat m1.mem (spmKey c a.toNat) 64)

/-- The operations of a core in flight on both dies. -/
def Mach.attnInFlight (m : Mach) (c : CoreId) : Nat := ((m.attn[0].ops ++ m.attn[1].ops).filter (·.core == c)).length

/-- `attn` (R211, R213, R217, R218): forked; a ninth waits, without a budget. -/
def execAttn (a b : Src) (s : State) : Host.Outcome State Fault Refusal :=
  let c := s.cur.core
  let words := 1 + litWords [a, b]
  s.control words fun m =>
    orTrap (s.ctl.clean? [a, b]) fun _ =>
      m.descriptor c (s.ctl.src a).val fun m1 img =>
        let d := parseDesc img
        match checkDesc img d with
        | some cls => .trap { cls := cls, addr := 0 }
        | none =>
          match handleOf (s.ctl.src b).val with
          | none => .trap { cls := .perm, addr := 0 }
          | some (ad, _) =>
            if 8 ≤ m.attnInFlight c then .stay m
            else
              let id := m1.nextOp
              let op : AttnOp := { id := id, core := c, ctx := s.ctl.ctxid, h := (s.ctl.src b).val, desc := d, snap := none }
              let m2 := { m1.flushClasses c .control d.cmask with nextOp := id + 1 }
              let m3 := (m2.onDie ad fun x => { x with ops := x.ops ++ [op] }).onCore c fun k =>
                { k with forked := k.forked ++ [id], ctl := { k.ctl with armed := attachArmed 5 id k.ctl.armed } }
              m3.advance c words

/-! Acceptance (R209, R210, R213). -/

/-- The operations of a core on one handle arrive in the order of issue: nothing it issued earlier there is still to be accepted. -/
def AttnDie.arrived (x : AttnDie) (core : CoreId) (seq id : Nat) : Bool :=
  (x.ops.all fun o => !(o.core == core && o.snap.isNone && decide (o.id < id) && o.h.toNat % 2 ^ 20 == seq)) &&
  (x.asks.all fun o => !(o.core == core && o.reply.isNone && decide (o.id < id)))

/-- Every `attn` accepted on a sequence has completed. -/
def AttnDie.idle (x : AttnDie) (seq : Nat) : Bool := x.ops.all fun o => !(o.h.toNat % 2 ^ 20 == seq && o.snap.isSome)

/-- Rows of D BF16 elements in own SPM, each with whether a poisoned word is among them. -/
def Mach.bf16Rows (m : Mach) (c : CoreId) (base dim rows : Nat) : List (List (BitVec 16) × Bool) :=
  (List.range rows).map fun r =>
    ((List.range dim).map fun i => BitVec.ofNat 16 (m.spmNat c (base + 2 * dim * r + 2 * i) 2),
     (List.range (dim / 4)).any fun i => memPoisoned m.mem (spmKey c (base + 2 * dim * r + 8 * i)))

/-- `ATTN_ACCEPT` (R210, R213): the die reads the rows, makes its checks, appends, and takes the snapshot. -/
def execAttnAccept (ad : Fin 2) (id : Nat) (s : State) : Host.Outcome State Fault Refusal :=
  let m := s.mach
  let x := m.attn[ad]
  match x.ops.find? fun o => o.id == id && o.snap.isNone with
  | none => .next s
  | some o =>
    let seq := o.h.toNat % 2 ^ 20
    if !x.arrived o.core seq id then .next s
    else
      let d := o.desc
      let fail (cls : TrapClass) : AttnSnap := .failed cls.code
      let (snap, upd) : AttnSnap × (SeqRec → SeqRec) :=
        match x.rec? seq with
        | none => (fail .perm, id_)
        | some r =>
          if r.ctx ≠ o.ctx then (fail .perm, id_)
          else if r.d ≠ d.dim ∨ 16 < r.staged.length + d.new ∨ r.lc + r.staged.length + d.new < d.qpos + d.depth then (fail .shape, id_)
          else
            let kv := m.bf16Rows o.core d.kvaddr d.dim (2 * d.new)
            let new := (kv.take d.new).zip (kv.drop d.new) |>.map fun p => ({ key := p.1.1, val := p.2.1, bad := p.1.2 || p.2.2 } : Staged)
            let staged := r.staged ++ new
            (.taken r.lc staged r.exts r.ver (m.bf16Rows o.core d.qaddr d.dim d.rows), fun r => { r with staged := staged })
      .next { s with mach := m.onDie ad fun x =>
        { x.onRec seq upd with ops := x.ops.map fun y => if y.id = id then { y with snap := some snap } else y } }
where id_ (r : SeqRec) : SeqRec := r

/-! Completion (R215 to R217). -/

/-- A poison mark or clean words written to a run of own SPM. -/
def Mach.spmWrite (m : Mach) (c : CoreId) (a : Nat) (data : List Byte) (poison : Bool) : Mach :=
  let mem := memSetBytes m.mem (spmKey c a) data
  { m with mem := (List.range (data.length / 8)).foldl (fun mem i => memSetPoison mem (spmKey c (a + 8 * i)) poison) mem }

/-- The rows' results: each row's words, its statistics, and whether it is NaN, poisoned, and how many blocks it skipped. -/
structure RowResult where
  words : List W32
  stats : List W32
  nan : Bool
  bad : Bool
  skipped : Nat

/-- A row's result: `block` gives the cache blocks. An uncorrectable error in a block that the row reads spoils it; a row that has ended reads no more
(R215). -/
def rowResult (o : AttnOp) (block : Nat → Option CacheBlock) (lc : Nat) (staged : List Staged) (q : List (BitVec 16) × Bool) (i : Nat) : RowResult :=
  let d := o.desc
  let p := d.qpos + i % d.depth
  let lt := lc + staged.length
  let a := attnRow d d.dim lt p (keyVal block lc staged) (valVal block lc staged) (q.1.map bf16Val)
  let badBlock (b : Nat) : Bool :=
    !(rowKeys d lt p b).isEmpty && (((block b).map (·.bad)).getD false || (rowKeys d lt p b).any fun j => decide (lc ≤ j) && ((staged[j - lc]?).map (·.bad)).getD false)
  let bad := q.2 || (List.range a.upto).any badBlock
  if bad then { words := List.replicate d.dim nan32, stats := [Config.attnStats o.id (2 * i), Config.attnStats o.id (2 * i + 1)], nan := false, bad := true, skipped := a.skipped }
  else
    let words := a.out d.dim
    { words := words, stats := [fp32Bits a.mx, fp32Bits a.l], nan := words.any fun w => isNan32 w.toNat, bad := false, skipped := a.skipped }

/-- `ATTN_COMPLETE` (R214 to R217): the rows, the statistics, the status word, the semaphore and the event. -/
def execAttnComplete (ad : Fin 2) (id : Nat) (s : State) : Host.Outcome State Fault Refusal :=
  let m := s.mach
  let x := m.attn[ad]
  match x.ops.find? (·.id == id) with
  | none => .next s
  | some o =>
    let d := o.desc
    let c := o.core
    let finish (m : Mach) (code status : Nat) : Host.Outcome State Fault Refusal :=
      let m1 := m.spmWrite c d.staddr (leBytes (code * 2 ^ 56 + status) 8) false
      let m2 := (m1.onDie ad fun x => { x with ops := x.ops.filter (·.id != id) }).onCore c fun k =>
        { k.raise d.raise with forked := k.forked.filter (· != id) }
      .next { s with mach := m2.onCtl c fun k => k.fireOp 5 id (BitVec.ofNat 8 code) }
    match o.snap with
    | none => .next s
    | some (.failed cls) => finish m cls.toNat 0
    | some (.taken lc staged exts _ rows) =>
        let res := rows.zipIdx.map fun q => rowResult o (x.block? exts) lc staged q.1 q.2
        let m1 := res.zipIdx.foldl (fun m x => m.spmWrite c (d.raddr + 4 * d.dim * x.2) (x.1.words.flatMap fun w => leBytes w.toNat 4) x.1.bad) m
        let m2 := if d.stats then
            res.zipIdx.foldl (fun m x => m.spmWrite c (d.raddr + 4 * d.dim * d.rows + 8 * x.2) (x.1.stats.flatMap fun w => leBytes w.toNat 4) false) m1
          else m1
        let nans := (res.filter (·.nan)).length
        let prows := (res.filter (·.bad)).length
        let skipped := min ((res.map (·.skipped)).foldl (· + ·) 0) (2 ^ 32 - 1)
        finish m2 0 (nans * 2 ^ 40 + prows * 2 ^ 32 + skipped)

/-! The instructions that wait for a die (R220 to R224). -/

/-- The die a request goes to: the handle's, or the one a new record is asked of. -/
def AskOp.die (a : AskOp) : Fin 2 :=
  let of (h : W64) : Fin 2 := if h.getLsbD 20 then 1 else 0
  match a with
  | .commit h _ => of h
  | .drop h _ => of h
  | .alloc h req => if req.getLsbD 28 then (if req.getLsbD 29 then 1 else 0) else of h
  | .free h _ => of h
  | .move h _ => of h

def AskOp.handle (a : AskOp) : W64 :=
  match a with
  | .commit h _ => h
  | .drop h _ => h
  | .alloc h _ => h
  | .free h _ => h
  | .move h _ => h

/-- A request for a new record names no sequence (R222). -/
def AskOp.creates (a : AskOp) : Bool := match a with | .alloc _ req => req.getLsbD 28 | _ => false

/-- The request of a core that a die holds. -/
def Mach.askOf (m : Mach) (c : CoreId) : Option (Fin 2 × Ask) :=
  match m.attn[0].asks.find? (·.core == c) with
  | some a => some (0, a)
  | none => (m.attn[1].asks.find? (·.core == c)).map fun a => (1, a)

/-- An instruction that waits for a die's reply: it is sent once, by an instruction that can go on past its words (R42), and its effect comes with the reply, which comes after the earlier `attn` operations of the
sequence complete (R220). -/
def State.ask (s : State) (d : Dst) (srcs : List Src) (op : AskOp) : Host.Outcome State Fault Refusal :=
  let c := s.cur.core
  let words := 1 + litWords srcs
  s.control words fun m =>
    orTrap (s.ctl.clean? srcs) fun _ =>
      match m.askOf c with
      | none =>
        let a : Ask := { id := m.nextOp, core := c, ctx := s.ctl.ctxid, op := op, reply := none, after := [] }
        if 2 ^ 18 ≤ s.ctl.pc.toNat + words then .trap pastSpm else
        .stay ({ m with nextOp := m.nextOp + 1 }.onDie op.die fun x => { x with asks := x.asks ++ [a] })
      | some (_, { reply := none, .. }) => .stay m
      | some (ad, { reply := some r, after, .. }) =>
        let m1 := m.onDie ad fun x => { x with asks := x.asks.filter (·.core != c) }
        if m.attn[ad].ops.any fun o => after.contains o.id then .stay m
        else match r with
        | .trap cls => .trapFrom m1 { cls := tagClass cls, addr := 0 }
        | .done => m1.advance c words
        | .result k0 v => (m1.onCtl c fun k => (k.write d (clean v)).setK 0 k0).advance c words

/-- `atcommit` (R221). -/
def execAtcommit (a b : Src) (s : State) : Host.Outcome State Fault Refusal := s.ask .none [a, b] (.commit (s.ctl.src a).val (s.ctl.src b).val)
/-- `atdrop` (R221). -/
def execAtdrop (a b : Src) (s : State) : Host.Outcome State Fault Refusal := s.ask .none [a, b] (.drop (s.ctl.src a).val (s.ctl.src b).val)
/-- `exalloc` (R222). -/
def execExalloc (d : Dst) (a b : Src) (s : State) : Host.Outcome State Fault Refusal := s.ask d [a, b] (.alloc (s.ctl.src a).val (s.ctl.src b).val)
/-- `exfree` (R223). -/
def execExfree (a b : Src) (s : State) : Host.Outcome State Fault Refusal := s.ask .none [a, b] (.free (s.ctl.src a).val (s.ctl.src b).val)
/-- `exinv` (R224). -/
def execExinv (d : Dst) (a b : Src) (s : State) : Host.Outcome State Fault Refusal := s.ask d [a, b] (.move (s.ctl.src a).val (s.ctl.src b).val)

/-- The record a request names, or the PERM of its handle (R202). -/
def AttnDie.owned (x : AttnDie) (ctx : Nat) (h : W64) : Option SeqRec :=
  match handleOf h with
  | none => none
  | some (_, seq) => (x.rec? seq).bind fun r => if r.ctx = ctx then some r else none

def permReply : AskReply := .trap (TrapClass.perm).code
def shapeReply : AskReply := .trap (TrapClass.shape).code

/-- `exalloc` on its die (R222). `start` is where the search for a free record begins. -/
def AttnDie.alloc (x : AttnDie) (ad : Fin 2) (ctx : Nat) (h req : W64) (start : Nat) : AttnDie × AskReply :=
  let v := req.toNat
  let create := bit v 28
  let len := v % 2 ^ 16
  let stride := v / 2 ^ 16 % 2 ^ 12 * 512
  let refuse (code : Nat) : AttnDie × AskReply := (x, .result false (BitVec.ofNat 64 code))
  let old := x.owned ctx h
  if v / 2 ^ 31 ≠ 0 then (x, shapeReply)
  else if (create ∧ h ≠ 0) ∨ (!create ∧ old.isNone) then (x, permReply)
  else
    let dim := if create then (if bit v 30 then 128 else 64) else (old.map (·.d)).getD 64
    if len = 0 ∨ stride < 72 * dim ∨ 2 ^ 30 < len * stride then refuse 4
    else if !create ∧ 16 ≤ ((old.map (·.exts.length)).getD 0) then refuse 2
    else
      let seq? : Option Nat :=
        if create then
          if 2 ^ 20 ≤ x.recs.length then none
          else ((List.range (x.recs.length + 1)).map fun i => (start + i) % 2 ^ 20).find? fun n => (x.rec? n).isNone
        else old.map (·.seq)
      match seq? with
      | none => refuse 3
      | some seq =>
        match (chunkOf (len * stride)).bind x.take with
        | none => refuse 1
        | some (x1, base) =>
          let e : Extent := { base := base, len := len, stride := stride }
          let idx := if create then 0 else (old.map (·.exts.length)).getD 0
          let x2 :=
            if create then
              { x1 with recs := x1.recs ++ [{ seq := seq, ctx := ctx, d := dim, lc := 0, staged := [], exts := [e], ver := 0, moving := none, draining := [] }] }
            else x1.onRec seq fun r => { r with exts := r.exts ++ [e] }
          (x2, .result true (BitVec.ofNat 64 (idx * 2 ^ 32 + ad.val * 2 ^ 20 + seq)))

/-- `exfree` on its die (R223). -/
def AttnDie.freeFrom (x : AttnDie) (r : SeqRec) (b : Nat) : AttnDie :=
  let gone := r.exts.drop b
  let x1 := gone.foldl AttnDie.giveExt x
  if b = 0 then
    let x2 := r.draining.foldl (fun (y : AttnDie) e => y.give e.2.1 e.2.2) x1
    { x2 with recs := x2.recs.filter (·.seq != r.seq) }
  else
    x1.onRec r.seq fun r =>
      let r1 := { r with exts := r.exts.take b }
      if r1.capacity < r.lc then { r1 with lc := r1.capacity, staged := [] } else r1

/-- `exinv`'s acceptance (R224): a chunk is taken and the copy begins. -/
def AttnDie.relocate (x : AttnDie) (core : CoreId) (r : SeqRec) (req : W64) : AttnDie × AskReply :=
  match r.exts[req.toNat % 16]? with
  | none => (x, shapeReply)
  | some e =>
    match x.take e.chunk with
    | none => (x, .result false 1)
    | some (x1, base) =>
      (x1.onRec r.seq fun r => { r with moving := some { ext := req.toNat % 16, base := base, raise := BitVec.ofNat 4 (req.toNat / 16), core := core } },
       .result true ((r.ver + 1).setWidth 64))

/-- What an accepted request does, with its reply (R221 to R224). -/
def AttnDie.perform (x : AttnDie) (ad : Fin 2) (a : Ask) (start : Nat) : AttnDie × AskReply :=
  match a.op with
  | .alloc h req => x.alloc ad a.ctx h req start
  | .commit h n =>
    match x.owned a.ctx h with
    | none => (x, permReply)
    | some r =>
      if r.staged.length < n.toNat ∨ r.capacity < r.lc + n.toNat then (x, shapeReply) else (x.commitN r.seq n.toNat, .done)
  | .drop h n =>
    match x.owned a.ctx h with
    | none => (x, permReply)
    | some r => (x.onRec r.seq fun r => { r with staged := r.staged.take n.toNat }, .done)
  | .free h b =>
    match x.owned a.ctx h with
    | none => (x, permReply)
    | some r => if 15 < b.toNat ∨ r.exts.length ≤ b.toNat then (x, shapeReply) else (x.freeFrom r b.toNat, .done)
  | .move h req =>
    match x.owned a.ctx h with
    | none => (x, permReply)
    | some r => if req.toNat / 256 ≠ 0 then (x, shapeReply) else x.relocate a.core r req

/-- A request may be accepted now (R210, R224): its core's earlier operations on the sequence have arrived; no relocation is copying; an
exclusive one waits for every accepted `attn`, and a relocation for one of the four draining versions. -/
def AttnDie.mayAccept (x : AttnDie) (a : Ask) : Bool :=
  let seq := a.op.handle.toNat % 2 ^ 20
  x.arrived a.core seq a.id &&
  (a.op.creates ||
    match x.owned a.ctx a.op.handle with
    | none => true
    | some r =>
      r.moving.isNone &&
      match a.op with
      | .move _ _ => decide (r.draining.length < 4)
      | _ => x.idle seq)

/-- `EXCLUSIVE_ACCEPT` (R210, R220): the die accepts a request, performs it and replies. -/
def execExclusiveAccept (ad : Fin 2) (id : Nat) (s : State) : Host.Outcome State Fault Refusal :=
  let x := s.mach.attn[ad]
  match x.asks.find? fun a => a.id == id && a.reply.isNone with
  | none => .next s
  | some a =>
    if !x.mayAccept a then .next s
    else
      let (x1, r) := x.perform ad a (Config.newRecord s.tick)
      let seq := a.op.handle.toNat % 2 ^ 20
      let before := if a.op.creates then [] else (x.ops.filter fun o => o.h.toNat % 2 ^ 20 == seq && o.snap.isSome).map (·.id)
      .next { s with mach := s.mach.onDie ad fun _ => { x1 with asks := x1.asks.map fun y => if y.id = id then { y with reply := some r, after := before } else y } }

/-- `EXINV_SWITCH` (R224): the copy is done; BASE and VER change and the semaphore is raised. -/
def execExinvSwitch (ad : Fin 2) (seq : Nat) (s : State) : Host.Outcome State Fault Refusal :=
  let m := s.mach
  match m.attn[ad].rec? seq with
  | none => .next s
  | some r =>
    match r.moving with
    | none => .next s
    | some v =>
      match r.exts[v.ext]? with
      | none => .next s
      | some e =>
        let m1 := m.onDie ad fun x => (x.copyExtent e v.base).onRec seq fun r =>
          { r with exts := r.exts.set v.ext { e with base := v.base }, ver := r.ver + 1, moving := none, draining := r.draining ++ [(r.ver, e.chunk, e.base)] }
        .next { s with mach := m1.onCore v.core fun k => k.raise v.raise }

/-- `EXINV_DRAIN` (R224): the oldest old chunk is freed once no `attn` holds its version. -/
def execExinvDrain (ad : Fin 2) (seq : Nat) (s : State) : Host.Outcome State Fault Refusal :=
  let m := s.mach
  let x := m.attn[ad]
  match x.rec? seq with
  | none => .next s
  | some r =>
    match r.draining with
    | [] => .next s
    | (ver, k, base) :: rest =>
      let holds (o : AttnOp) : Bool := o.h.toNat % 2 ^ 20 == seq && (match o.snap with | some (.taken _ _ _ v _) => v == ver | _ => false)
      if x.ops.any holds then .next s
      else .next { s with mach := m.onDie ad fun x => (x.give k base).onRec seq fun r => { r with draining := rest } }

end Sys2Proof.Machine
end

