-- ==== Sys2Proof/Machine/Branch.lean ====
section
/-! DEFINITION. Branches, calls, jumps and the jump table (02 R48, 03 R93 to R95). -/

namespace Sys2Proof.Machine

/-- A jump to a byte address: outside the own SPM it traps PERM with the target as fault address (R48, R93). -/
def Mach.jumpTo (m : Mach) (c : CoreId) (t : Int) : Run :=
  if t < 0 ∨ 0xFFFFC < t then .trap { cls := .perm, addr := BitVec.ofInt 64 t }
  else .done (m.onCtl c fun k => { k with pc := BitVec.ofNat 18 (t.toNat / 4), wait := none })

/-- The target of a relative branch. -/
def Ctl.target (k : Ctl) (disp : Int) : Int := 4 * (k.pc.toNat + disp)

/-- A write of the link register, clean (R69). -/
def Run.link (r : Run) (c : CoreId) (v : W64) : Run :=
  match r with
  | .done m => .done (m.onCtl c fun k => k.setX 30 (clean v))
  | r => r

/-- A register target (R48, R94): clean, within SPM, a multiple of 4. -/
def Mach.jumpReg (m : Mach) (c : CoreId) (a : XVal) : Run :=
  orTrap (needClean [a]) fun _ =>
    if 0xFFFFF < a.val.toNat then .trap { cls := .perm, addr := a.val }
    else if a.val.toNat % 4 ≠ 0 then .trap { cls := .align, addr := a.val }
    else m.jumpTo c a.val.toNat

/-- `b` (R93). -/
def execB (disp : BitVec 26) (s : State) : Host.Outcome State Fault Refusal :=
  s.control 1 fun m => m.jumpTo s.cur.core (s.ctl.target disp.toInt)

/-- `call` (R93). -/
def execCall (disp : BitVec 26) (s : State) : Host.Outcome State Fault Refusal :=
  s.control 1 fun m => (m.jumpTo s.cur.core (s.ctl.target disp.toInt)).link s.cur.core (pcAddr s.ctl.pc + 4)

/-- A conditional branch, taken or not; one that is not taken is not checked (R93). -/
def State.branchIf (s : State) (taken : Bool) (disp : BitVec 22) : Host.Outcome State Fault Refusal :=
  s.control 1 fun m => if taken then m.jumpTo s.cur.core (s.ctl.target disp.toInt) else m.advance s.cur.core 1

/-- `bc` (R93). -/
def execBc (k : Fin 8) (disp : BitVec 22) (s : State) : Host.Outcome State Fault Refusal := s.branchIf s.ctl.k[k] disp

/-- `bcn` (R93). -/
def execBcn (k : Fin 8) (disp : BitVec 22) (s : State) : Host.Outcome State Fault Refusal := s.branchIf (!s.ctl.k[k]) disp

/-- `jr` (R94). -/
def execJr (a : Src) (s : State) : Host.Outcome State Fault Refusal :=
  s.control (1 + litWords [a]) fun m => m.jumpReg s.cur.core (s.ctl.src a)

/-- `callr`: the target is read before X30 is written (R94). -/
def execCallr (a : Src) (s : State) : Host.Outcome State Fault Refusal :=
  s.control (1 + litWords [a]) fun m =>
    (m.jumpReg s.cur.core (s.ctl.src a)).link s.cur.core (pcAddr s.ctl.pc + BitVec.ofNat 64 (4 * (1 + litWords [a])))

/-- `ret` (R94). -/
def execRet (s : State) : Host.Outcome State Fault Refusal :=
  s.control 1 fun m => m.jumpReg s.cur.core s.ctl.x[30]

/-- `jtab` (R95): every trap leaves K0 and PC. -/
def execJtab (a b : Src) (len : BitVec 15) (s : State) : Host.Outcome State Fault Refusal :=
  let c := s.cur.core
  let words := 1 + litWords [a, b]
  s.control words fun m =>
    let k := s.ctl
    orTrap (k.clean? [a, b]) fun _ =>
      let i := (k.src a).val.toNat
      if len.toNat ≤ i then (m.onCtl c fun k => k.setK 0 true).advance c words
      else
        match ptrAdd (k.src b).val (4 * i) with
        | .error _ => .trap { cls := .perm, addr := (k.src b).val }
        | .ok e =>
          (m.ctlLoad c e 4 0).run e fun m1 w =>
            (m1.onCtl c fun k => k.setK 0 false).jumpTo c (k.target (sgn 32 w))

end Sys2Proof.Machine
end

