-- ==== Sys2Proof/Machine/FabSend.lean ====
section
/-! DEFINITION. What a started step moves, locally and in messages (10 R298 to R300, 12 R342, R343). -/

namespace Sys2Proof.Machine

/-- A message of a flight leaves: its step waits for its answer. -/
def Mach.send (m : Mach) (c : CoreId) (t : Strand) (flight : Nat) (ctx : Nat) (dst : BitVec 12) (body : FabBody) (dests : List (MoveDst × FeAct)) : Mach :=
  let id := m.nextOp
  let e : FabEntry :=
    { msg := { src := m.pkg, dst := dst, ctx := ctx, id := id, body := body }, core := c, strand := t, flight := flight, start := m.scyc,
      delivered := false, reply := none, live := true, dests := dests, budget := (m.cores[c].ctl.mbud[4]).toNat, bounces := 0, resendAt := none, redirected := false }
  ({ m with nextOp := id + 1, fab := { m.fab with net := m.fab.net ++ [e] } }).onFlight c t flight fun f => { f with msgs := f.msgs ++ [id] }

/-- A list cut into runs of at most n; `fuel` bounds their number. -/
def chunks (n : Nat) : Nat → List α → List (List α)
  | 0, _ => []
  | _, [] => []
  | fuel + 1, l => l.take n :: chunks n fuel (l.drop n)

/-- A message to be sent: its destination package, what it does, and the places that its answer fills. -/
abbrev Sending := Nat × FabBody × List (MoveDst × FeAct)

def Mach.sendAll (m : Mach) (c : CoreId) (t : Strand) (flight ctx : Nat) (l : List Sending) : Mach :=
  l.foldl (fun m b => m.send c t flight ctx (BitVec.ofNat 12 b.1) b.2.1 b.2.2) m

/-! The modes of a move (R300). -/

def feActOf (f : FeMode) : FeAct :=
  match f with
  | .dataAndBits => .carry
  | .dataOnly => .keep
  | .setFull => .full
  | .setEmpty => .empty
  | .requireFull => .full

/-- A mode that sets bits needs full/empty write permission (R297). -/
def dstKind (f : FeMode) : Kind :=
  match f with
  | .setFull | .setEmpty | .requireFull => .bitWrite
  | _ => .write

/-- A carried bit, of a source location that has been read. -/
def resolveBit (a : FeAct) (full : Bool) : FeAct :=
  match a with
  | .carry => if full then .full else .empty
  | a => a

/-- One end of a move, translated (R296): a location, a place in the capability list, or a location of a remote object. -/
inductive MoveEnd where
  | loc (key : Nat) (use : Option ObjUse)
  | cap (off : Nat)
  | far (home : Nat) (ptr : W64)

def MoveEnd.isFar : MoveEnd → Bool
  | .far _ _ => true
  | _ => false

/-- A near end read as one access of data, bit and mark. -/
def MoveEnd.data (e : MoveEnd) (m : Mach) : LocData :=
  match e with
  | .loc key _ => { data := mem64 m.mem key, full := memFull m.mem key, poison := memPoisoned m.mem key }
  | .cap off => { data := BitVec.ofNat 64 (leNat ((List.range 8).map fun i => capByte m (off + i))), full := true, poison := false }
  | .far _ _ => { data := 0, full := true, poison := false }

def wholeWord (v : W64) : List (Byte × Byte) := wholeBytes (leBytes v.toNat 8)

/-- The write of data that has been read, to storage or to a remote object. -/
def locMove (d : LocData) (key : Nat) (fe : FeAct) : PendMove :=
  { dst := key, src := .bytes (wholeWord d.data) (some d.poison), fe := resolveBit fe d.full }

def locPut (d : LocData) (ptr : W64) (fe : FeAct) : PutWord :=
  { ptr := ptr, bytes := wholeWord d.data, fe := fe, full := d.full, mark := some d.poison }

/-- Of writes to remote locations in a step's order, the last to each location: it leaves the final value, and messages have no order (R304, R306,
R343). -/
def lastWrites : List (Nat × PutWord) → List (Nat × PutWord)
  | [] => []
  | p :: r => if r.any fun q => q.1 == p.1 && q.2.ptr == p.2.ptr then lastWrites r else p :: lastWrites r

/-- Writes to remote objects, in messages of at most 512 locations to one home each (R343). -/
def putSends (l : List (Nat × PutWord)) : List Sending :=
  ((l.map (·.1)).eraseDups).flatMap fun home =>
    let ws := (lastWrites l).filterMap fun p => if p.1 = home then some p.2 else none
    (chunks 512 ws.length ws).map fun c => (home, .puts c, [])

/-- Reads grouped into runs of consecutive locations of one home. -/
def getRuns : List (Nat × W64 × MoveDst) → List (Nat × W64 × List MoveDst)
  | [] => []
  | (h, p, d) :: r =>
    match getRuns r with
    | (h2, p2, ds) :: rest => if h2 = h ∧ p2 = p + 8 then (h, p, d :: ds) :: rest else (h, p, [d]) :: (h2, p2, ds) :: rest
    | [] => [(h, p, [d])]

/-- Reads of remote objects, in messages of at most 512 locations (R343). -/
def getSends (l : List (Nat × W64 × MoveDst)) (fe : FeMode) : List Sending :=
  (getRuns l).flatMap fun r =>
    let cs := chunks 512 r.2.2.length r.2.2
    cs.zipIdx.map fun c => (r.1, .get (r.2.1 + BitVec.ofNat 64 (4096 * c.2)) (8 * c.1.length) (fe == .requireFull), c.1.map fun d => (d, feActOf fe))

/-- A check that a home makes before a step starts (R297): the home, and what the step needs of locations there. -/
abbrev Asking := Nat × List (W64 × EndNeed)

/-- The checks of remote ends, in messages of at most 512 locations to one home each (R297, R343). -/
def askings (l : List (MoveEnd × EndNeed)) : List Asking :=
  let fs : List (Nat × W64 × EndNeed) := l.filterMap fun x => match x.1 with | .far home ptr => some (home, ptr, x.2) | _ => none
  ((fs.map (·.1)).eraseDups).flatMap fun home =>
    let ws := ((fs.filter fun p => p.1 == home).map (·.2)).eraseDups
    (chunks 512 ws.length ws).map fun c => (home, c)

/-- What a step moves: the local writes, the messages, the checks at remote homes, the first remote pointer, and the sub-tiles it names. -/
structure Moving where
  moves : List PendMove
  sends : List Sending
  asks : List Asking
  far : W64
  uses : List (ObjUse × Bool)

/-- What a mode needs of a source and of a destination. -/
def srcNeed (f : FeMode) : EndNeed := if f = .requireFull then .readFull else .read
def dstNeed (f : FeMode) : EndNeed := if dstKind f = .bitWrite then .bitWrite else .write

/-- The moves of translated pairs of a source and a destination location (R300). Under mode 100 every near source is read now; data for a
remote object is read now as well. -/
def moving (m : Mach) (fe : FeMode) (ps : List (MoveEnd × MoveEnd)) : Moving :=
  let act := feActOf fe
  let now (e : MoveEnd) : Bool := fe == .requireFull || (match e with | .cap _ => true | _ => false)
  { moves := ps.filterMap fun p =>
      match p.1, p.2 with
      | .far _ _, _ => none
      | .loc src _, .loc key _ => if now p.1 then some (locMove (p.1.data m) key act) else some { dst := key, src := .location src, fe := act }
      | .cap _, .loc key _ => some (locMove (p.1.data m) key act)
      | _, _ => none
    sends :=
      putSends (ps.filterMap fun p => match p.2 with | .far home ptr => if p.1.isFar then none else some (home, locPut (p.1.data m) ptr act) | _ => none) ++
      getSends (ps.filterMap fun p =>
        match p.1, p.2 with
        | .far home ptr, .loc key _ => some (home, ptr, .loc key)
        | .far home ptr, .far h2 p2 => some (home, ptr, .far h2 p2)
        | _, _ => none) fe
    asks := askings (ps.flatMap fun p => [(p.1, srcNeed fe), (p.2, dstNeed fe)])
    far := (ps.findSome? fun p => match p.1, p.2 with | .far _ ptr, _ => some ptr | _, .far _ ptr => some ptr | _, _ => none).getD 0
    uses := (ps.flatMap fun p =>
      (match p.1 with | .loc _ (some u) => [(u, false)] | _ => []) ++ (match p.2 with | .loc _ (some u) => [(u, true)] | _ => [])).eraseDups }

/-! The words of a command ring (R309). -/

/-- Words to be written, each with its address, bytes and mark, as one write for each location (R260). -/
def wordMoves32 (l : List (Nat × List Byte × Bool)) : List PendMove :=
  ((l.map fun w => locOf w.1).eraseDups).map fun loc =>
    let ws := l.filter fun w => locOf w.1 == loc
    let byte (i : Nat) : Byte × Byte :=
      match ws.find? fun w => decide (w.1 ≤ loc + i) && decide (loc + i < w.1 + 4) with
      | some w => (0xFF, w.2.1.getD (loc + i - w.1) 0)
      | none => (0, 0)
    { dst := loc, src := .bytes ((List.range 8).map byte) (if ws.any (·.2.2) then some true else some false), fe := .keep }

/-- The words that an answered get streams into a ring. -/
def streamed (l : List (MoveDst × FeAct × LocData)) : List (Nat × List Byte × Bool) :=
  l.flatMap fun x =>
    match x.1 with
    | .words lo hi =>
      let bs := leBytes x.2.2.data.toNat 8
      ((lo.toList.map fun a => (a, bs.take 4, x.2.2.poison)) ++ (hi.toList.map fun a => (a, bs.drop 4, x.2.2.poison)))
    | _ => []

/-! What gets bring. -/

/-- A step whose writes have an order, or which writes words: what its gets bring is written once the last has come (R304, R306, R309). -/
def keepsGot (op : Instr) : Bool :=
  match op with
  | .tmov2d .. | .scat .. | .crstr .. => true
  | _ => false

/-- What an answered get of a flight does: it moves its data on. -/
def Mach.landed (m : Mach) (c : CoreId) (t : Strand) (flight ctx : Nat) (l : List (MoveDst × FeAct × LocData)) : Mach :=
  let m1 := m.onFlight c t flight fun f =>
    { f with moves := f.moves ++ (l.filterMap fun x => match x.1 with | .loc key => some (locMove x.2.2 key x.2.1) | _ => none) ++ wordMoves32 (streamed l) }
  m1.sendAll c t flight ctx (putSends (l.filterMap fun x => match x.1 with | .far home ptr => some (home, locPut x.2.2 ptr x.2.1) | _ => none))

/-- What gets have brought, in the order in which the step names it: by message number, each message's locations being in order. -/
def inOrder (l : List (Nat × MoveDst × FeAct × LocData)) : List (MoveDst × FeAct × LocData) :=
  (l.foldl (fun acc x => acc.takeWhile (fun y => decide (y.1 ≤ x.1)) ++ x :: acc.dropWhile fun y => decide (y.1 ≤ x.1)) []).map (·.2)

end Sys2Proof.Machine
end

