-- ==== Sys2Proof/Machine/Copy.lean ====
section
/-! DEFINITION. The copy strand's data-moving and sequencing steps (10 R296 to R310). -/

namespace Sys2Proof.Machine

/-! Starts (R296, R297, R301, R389). -/

/-- The privilege of the word at a copy ring's read pointer (R389): that of the write-pointer advance that covers it. -/
def CmdRing.level (r : CmdRing) : Bool :=
  ((r.sLevel.find? fun x => x.1 != r.rp && decide ((x.1 - r.rp).toNat ≤ (r.wp - r.rp).toNat)).map (·.2)).getD false

/-- Who translates a copy step's addresses: the lighter, which reaches peer windows (01 R32). -/
def Mach.lighter (m : Mach) (c : CoreId) : Asker :=
  { core := c, ctx := m.cores[c].ctl.ctxid, site := some (clusterFin c), sup := m.cores[c].rings[2].level, lighter := true }

/-- A data-moving step (R299). -/
def dataMoving (i : Instr) : Bool :=
  match i with
  | .tmov .. | .tmov2d .. | .rrot .. | .gath .. | .scat .. | .rpush .. | .cfill .. | .crstr .. => true
  | _ => false

def Core.moversInFlight (k : Core) : Nat := (k.copy.flights.filter fun f => dataMoving f.op).length

/-- Room in a level's 28-bit pending-byte counter (R301). -/
def Mach.counterRoom (m : Mach) (c : CoreId) (pb : Bool) (dl : Fin 4) (bytes : Nat) : Bool :=
  !pb || decide ((m.barrier c dl).bytes + bytes ≤ 2 ^ 28 - 1)

/-- What a copy step that has passed its checks does: its byte count, its own start condition, what its start changes, and what its
flight holds and sends. -/
structure Plan where
  bytes : Nat
  ready : Bool
  start : Mach → Mach
  flight : Flight → Flight
  sends : List Sending
  asks : List Asking

/-- The plan of a data-moving step: its checks at remote homes come before it starts (R297). -/
def Plan.plain (bytes : Nat) (v : Moving) : Plan :=
  { bytes := bytes, ready := true, start := id, flight := fun f => { f with moves := v.moves, uses := v.uses, far := v.far }, sends := v.sends, asks := v.asks }

/-- The plan of a fabric step, which a home's refusal fails only later (12 R351). -/
def Plan.fabric (bytes : Nat) (v : Moving) : Plan := { Plan.plain bytes v with asks := [] }

/-! The checks of remote ends (R297, 13 R378): they travel to their homes and are answered before the step starts. -/

/-- Messages of a copy strand numbered from here on are a step's checks. -/
def stepLane : Nat := 2 ^ 19

def isAsk (c : CoreId) (r : Remote) : Bool := r.core == c && r.strand == .copy && decide (stepLane ≤ r.lane) && decide (r.lane < imageLane)

/-- The checks of a core's waiting step, answered or not, are given up. -/
def Mach.dropAsks (m : Mach) (c : CoreId) : Mach := { m with remotes := m.remotes.filter fun r => !isAsk c r }

/-- The same for any engine strand: only the copy strand asks. -/
def Mach.giveUpAsks (m : Mach) (c : CoreId) (t : Strand) : Mach := if t = .copy then m.dropAsks c else m

/-- A check of the waiting step is out. -/
def Mach.asksOut (m : Mach) (c : CoreId) : Bool := m.remotes.any fun r => isAsk c r && r.reply.isNone

/-- Every check asked; none while an answer is out, and otherwise the first failure, if any. -/
def Mach.askHomes (m : Mach) (c : CoreId) : Nat → List Asking → Mach × Option (Option Trap)
  | _, [] => (m, some none)
  | i, x :: r =>
    let ptr := ((x.2.map (·.1)).head?).getD 0
    let (m1, a) := m.remotePeek c .copy (stepLane + i) x.1 m.cores[c].ctl.ctxid ptr (.check x.2)
    let (m2, b) := m1.askHomes c (i + 1) r
    match a, b with
    | none, _ => (m2, none)
    | _, none => (m2, none)
    | some (.value _), some t => (m2, some t)
    | some (.empty p), _ => (m2, some (some { cls := .feExpire, addr := p }))
    | some _, _ => (m2, some (some { cls := .fabric, addr := ptr }))

/-- The answers that no longer fit what the waiting step asks are given up. -/
def Mach.keepAsks (m : Mach) (c : CoreId) (l : List Asking) : Mach :=
  { m with remotes := m.remotes.filter fun r =>
      !isAsk c r || (match l[r.lane - stepLane]? with | some x => x.1 == r.home && r.op == .check x.2 | none => false) }

/-- A copy step: its checks, then its start conditions, then the checks at remote homes, then its start. -/
def State.copyStep (s : State) (w : Sems) (op : Instr) (words : Nat) (pb : Bool) (dl : Fin 4) (plan : Mach → Except (NoPlace × W64) Plan) :
    Host.Outcome State Fault Refusal :=
  let c := s.cur.core
  s.engine .copy w op words fun m =>
    match plan m with
    | .error (e, ea) => e.run m ea
    | .ok p =>
      if !p.ready || decide (8 ≤ m.cores[c].moversInFlight) || !m.counterRoom c pb dl p.bytes then .stay m
      else
        match (m.keepAsks c p.asks).askHomes c 0 p.asks with
        | (m0, none) => .stay m0
        | (m0, some (some tr)) => .trapFrom m0 tr
        | (m0, some none) =>
          let flight := m0.nextOp
          let m1 := if pb then (m0.dropAsks c).addBytes c dl p.bytes false else m0.dropAsks c
          let m2 := (p.start m1).launchStep c .copy w op words fun f => { p.flight f with pb := if pb then some (dl, p.bytes) else none }
          .done (m2.sendAll c .copy flight m.cores[c].ctl.ctxid p.sends)

/-! Addresses (R299). -/

/-- A layout register of the copy strand's current set. -/
def Mach.copyLy (m : Mach) (c : CoreId) (n : Fin 8) : LayoutReg := m.cores[c].sets[3].cur.ly[n]

/-- A layout's pointer with an offset added; a wrap faults PERM. -/
def copyAddr (p : W64) (d : Int) : Except (NoPlace × W64) W64 := (ptrAdd p d).mapError fun e => (e, p)

/-- One end of a move translated, aligned to its size. -/
def Mach.moveEnd (m : Mach) (w : Asker) (p : W64) (n : Nat) (kind : Kind) : Except (NoPlace × W64) MoveEnd :=
  if ptrOff p % n ≠ 0 then .error (trapOf .align p, p)
  else
    match place m w p n kind with
    | .error e => .error (e, p)
    | .ok (.store key _ use) => .ok (.loc key use)
    | .ok (.cap off) => .ok (.cap off)
    | .ok (.remote home _) => .ok (.far home p)

/-- A source location of a move. The capability list has no full/empty bits: a mode that carries or requires the source's bit may not
name it (01 R33). -/
def Mach.moveSource (m : Mach) (w : Asker) (fe : FeMode) (p : W64) : Except (NoPlace × W64) MoveEnd :=
  match m.moveEnd w p 8 .read with
  | .ok (.cap off) =>
    match fe with
    | .dataAndBits | .requireFull => .error (trapOf .perm p, p)
    | _ => .ok (.cap off)
  | r => r

/-- A pair of a source and a destination location, by their layouts' pointers and offsets. -/
def Mach.movePair (m : Mach) (w : Asker) (fe : FeMode) (src : W64) (soff : Int) (dst : W64) (doff : Int) : Except (NoPlace × W64) (MoveEnd × MoveEnd) := do
  let p ← copyAddr src soff
  let q ← copyAddr dst doff
  let a ← m.moveSource w fe p
  let b ← m.moveEnd w q 8 (dstKind fe)
  return (a, b)

/-- Mode 100 finds a near source empty: it faults FE_EXPIRE at that location, with nothing written (R300). -/
def needFull (m : Mach) (fe : FeMode) (ps : List ((MoveEnd × MoveEnd) × W64)) : Except (NoPlace × W64) (List (MoveEnd × MoveEnd)) :=
  match fe with
  | .requireFull =>
    match ps.find? fun p => !(p.1.1.data m).full with
    | some p => .error (trapOf .feExpire p.2, p.2)
    | none => .ok (ps.map (·.1))
  | _ => .ok (ps.map (·.1))

/-- The pairs of a move, each by its source and destination pointers and offsets, all translated and checked before any effect. -/
def Mach.movePairs (m : Mach) (w : Asker) (fe : FeMode) (l : List (W64 × Int × W64 × Int)) : Except (NoPlace × W64) (List (MoveEnd × MoveEnd)) := do
  let ps ← l.mapM fun x => do
    let p ← m.movePair w fe x.1 x.2.1 x.2.2.1 x.2.2.2
    return (p, ((ptrAdd x.1 x.2.1).toOption).getD x.1)
  needFull m fe ps

/-- An own-SPM run that a step reads: aligned, inside SPM, and not poisoned. -/
def Mach.ownRun (m : Mach) (c : CoreId) (a : W32) (n align : Nat) : Except (NoPlace × W64) Nat :=
  let p : W64 := a.setWidth 64
  if a.toNat % align ≠ 0 then .error (trapOf .align p, p)
  else if 0x100000 < a.toNat + n then .error (trapOf .perm p, p)
  else
    match (List.range ((n + 14) / 8)).find? fun i => decide (8 * i < a.toNat % 8 + n) && memPoisoned m.mem (spmKey c (locOf a.toNat + 8 * i)) with
    | some i => let q : W64 := BitVec.ofNat 64 (locOf a.toNat + 8 * i); .error (trapOf .poison q, q)
    | none => .ok (spmKey c a.toNat)

/-- A fault at an own-SPM address. -/
def atSpm (cls : TrapClass) (a : W32) : NoPlace × W64 := (trapOf cls (a.setWidth 64), a.setWidth 64)

/-- A mode-100 total that a record, a length table or a slot makes too large (R300). -/
def totalOk (fe : FeMode) (bytes : Nat) : Bool := fe != .requireFull || decide (bytes ≤ 65536)

/-! The data-moving steps. -/

/-- `tmov` (R303). -/
def execTmov (w : Sems) (q : MoveQ) (lys lyd : Fin 8) (soff doff : W32) (count1 : BitVec 24) (s : State) : Host.Outcome State Fault Refusal :=
  let c := s.cur.core
  let count := count1.toNat + 1
  s.copyStep w (.tmov w q lys lyd soff doff count1) 4 q.pb q.dl fun m => do
    let src := (m.copyLy c lys).ptr
    let dst := (m.copyLy c lyd).ptr
    let ps ← m.movePairs (m.lighter c) q.fe ((List.range (count / 8)).map fun k => (src, ((soff.toNat + 8 * k : Nat) : Int), dst, ((doff.toNat + 8 * k : Nat) : Int)))
    return .plain count (moving m q.fe ps)

/-- `tmov2d` (R304). -/
def execTmov2d (w : Sems) (q : MoveQ) (lys lyd : Fin 8) (rec : W32) (s : State) : Host.Outcome State Fault Refusal :=
  let c := s.cur.core
  s.copyStep w (.tmov2d w q lys lyd rec) 2 q.pb q.dl fun m => do
    let key ← m.ownRun c rec 32 32
    let f (k : Nat) : Nat := memNat m.mem (key + k) 4
    let rowb := f 16
    let rows := f 20
    if rowb < 8 ∨ 65536 < rowb ∨ rows = 0 ∨ 65536 < rows ∨ 2 ^ 24 < rowb * rows ∨ memNat m.mem (key + 24) 8 ≠ 0 ∨ !totalOk q.fe (rowb * rows) then
      .error (atSpm .shape rec)
    else if f 0 % 8 ≠ 0 ∨ f 4 % 8 ≠ 0 ∨ f 8 % 8 ≠ 0 ∨ f 12 % 8 ≠ 0 ∨ rowb % 8 ≠ 0 then .error (atSpm .align rec)
    else
      let src := (m.copyLy c lys).ptr
      let dst := (m.copyLy c lyd).ptr
      let ps ← m.movePairs (m.lighter c) q.fe ((List.range rows).flatMap fun (i : Nat) => (List.range (rowb / 8)).map fun (k : Nat) =>
        (src, (f 0 : Int) + (i : Int) * sgn 32 (f 8) + ((8 * k : Nat) : Int), dst, (f 4 : Int) + (i : Int) * sgn 32 (f 12) + ((8 * k : Nat) : Int)))
      return .plain (rowb * rows) (moving m q.fe ps)

/-- The peer of `rrot`: the DOM0 member whose index follows the core's own by DIST (R305, 01 R24, R25). -/
def Mach.peer (m : Mach) (c : CoreId) (dist : Nat) : CoreId :=
  let size := m.cores[c].dom[0].2.1
  let index := m.cores[c].dom[0].2.2
  let want := (index + dist) % size
  let b := m.barrier c 0
  ((b.members.find? fun d => (m.cores[d].dom[0]).2.2 == want)).getD c

/-- `rrot` (R305). -/
def execRrot (w : Sems) (q : MoveQ) (dist : Fin 8) (saddr daddr : W32) (count1 : BitVec 20) (s : State) : Host.Outcome State Fault Refusal :=
  let c := s.cur.core
  let count := count1.toNat + 1
  s.copyStep w (.rrot w q dist saddr daddr count1) 4 q.pb q.dl fun m => do
    if 0x100000 < saddr.toNat + count then .error (atSpm .perm saddr)
    else if 0x100000 < daddr.toNat + count then .error (atSpm .perm daddr)
    else
      let p := m.peer c dist.val
      let ps ← needFull m q.fe ((List.range (count / 8)).map fun k =>
        ((.loc (spmKey c (saddr.toNat + 8 * k)) none, .loc (spmKey p (daddr.toNat + 8 * k)) none), BitVec.ofNat 64 (saddr.toNat + 8 * k)))
      return .plain count (moving m q.fe ps)

/-- `gath` and `scat`: rows chosen by an index list (R306). -/
def State.indexed (s : State) (w : Sems) (op : Instr) (q : MoveQ) (lys lyd : Fin 8) (iaddr : W32) (rowb rows : Nat) (scatter : Bool) :
    Host.Outcome State Fault Refusal :=
  let c := s.cur.core
  s.copyStep w op 4 q.pb q.dl fun m => do
    let key ← m.ownRun c iaddr (4 * rows) 4
    let idx (i : Nat) : Nat := memNat m.mem (key + 4 * i) 4
    let live := (List.range rows).filter fun i => idx i != 0xFFFFFFFF
    let bytes := rowb * live.length
    let src := m.copyLy c lys
    let dst := m.copyLy c lyd
    let byIdx (l : LayoutReg) (i : Nat) : Int := (idx i : Int) * l.stride[1].toInt
    let ps ← m.movePairs (m.lighter c) q.fe (live.flatMap fun i => (List.range (rowb / 8)).map fun k =>
      let k8 : Int := ((8 * k : Nat) : Int)
      let i8 : Int := ((i * rowb : Nat) : Int)
      if scatter then (src.ptr, i8 + k8, dst.ptr, byIdx dst i + k8) else (src.ptr, byIdx src i + k8, dst.ptr, i8 + k8))
    return .plain bytes (moving m q.fe ps)

/-- `gath` (R306). -/
def execGath (w : Sems) (q : MoveQ) (lys lyd : Fin 8) (iaddr : W32) (rowb : BitVec 17) (rows1 : BitVec 16) (s : State) :
    Host.Outcome State Fault Refusal :=
  s.indexed w (.gath w q lys lyd iaddr rowb rows1) q lys lyd iaddr rowb.toNat (rows1.toNat + 1) false

/-- `scat` (R306). -/
def execScat (w : Sems) (q : MoveQ) (lys lyd : Fin 8) (iaddr : W32) (rowb : BitVec 17) (rows1 : BitVec 16) (s : State) :
    Host.Outcome State Fault Refusal :=
  s.indexed w (.scat w q lys lyd iaddr rowb rows1) q lys lyd iaddr rowb.toNat (rows1.toNat + 1) true

/-- `rpush` (R307): it reserves the tail slot of the ring at its start. -/
def execRpush (w : Sems) (q : MoveQ) (lys rg : Fin 8) (soff : W32) (s : State) : Host.Outcome State Fault Refusal :=
  let c := s.cur.core
  s.copyStep w (.rpush w q lys rg soff) 2 q.pb q.dl fun m => do
    match m.cores[c].rg[rg] with
    | none => .error (trapOf .allocExh 0, 0)
    | some r =>
      if !totalOk q.fe r.ss then .error (trapOf .shape 0, 0)
      else
        let src := (m.copyLy c lys).ptr
        let slot : W64 := BitVec.ofNat 64 (r.base + r.ss * ((r.hd + r.filled + r.resv.length) % r.ns))
        let ps ← m.movePairs (m.lighter c) q.fe ((List.range (r.ss / 8)).map fun k => (src, ((soff.toNat + 8 * k : Nat) : Int), slot, ((8 * k : Nat) : Int)))
        let v := moving m q.fe ps
        let id := m.nextOp
        return { bytes := r.ss, ready := decide (r.filled + r.resv.length < r.ns)
                 start := fun m => m.onCore c fun k => { k with rg := k.rg.set rg (some { r with resv := r.resv ++ [(id, false)] }) }
                 flight := fun f => { f with moves := v.moves, uses := v.uses, far := v.far, push := some rg }
                 sends := v.sends, asks := v.asks }

/-- A write of a constant, or of the bit alone: each location of a run, with no source; the location keeps its mark (R298, R308). -/
def Mach.runWrites (m : Mach) (w : Asker) (kind : Kind) (p : W64) (doff : Nat) (count : Nat) (data : List (Byte × Byte)) (fe : FeAct) :
    Except (NoPlace × W64) Moving := do
  let es ← (List.range (count / 8)).mapM fun k => do
    let q ← copyAddr p ((doff + 8 * k : Nat) : Int)
    m.moveEnd w q 8 kind
  return { moves := es.filterMap fun e => match e with | .loc key _ => some { dst := key, src := .bytes data none, fe := fe } | _ => none
           sends := putSends (es.filterMap fun e => match e with | .far home ptr => some (home, { ptr := ptr, bytes := data, fe := fe, full := true, mark := none }) | _ => none)
           asks := askings (es.map fun e => (e, if kind = .bitWrite then .bitWrite else .write))
           far := (es.findSome? fun e => match e with | .far _ ptr => some ptr | _ => none).getD 0
           uses := (es.filterMap fun e => match e with | .loc _ (some u) => some (u, true) | _ => none).eraseDups }

/-- `cfill` (R308): each location takes the pattern in both halves. -/
def execCfill (w : Sems) (q : MoveQ) (lyd : Fin 8) (doff : W32) (count1 : BitVec 24) (pat : W32) (s : State) : Host.Outcome State Fault Refusal :=
  let c := s.cur.core
  let count := count1.toNat + 1
  s.copyStep w (.cfill w q lyd doff count1 pat) 4 q.pb q.dl fun m => do
    let v ← m.runWrites (m.lighter c) (dstKind q.fe) (m.copyLy c lyd).ptr doff.toNat count (wholeWord (pat ++ pat)) (feActOf q.fe)
    return .plain count v

/-- A source word of `crstr`: its bytes and its location's mark. -/
def Mach.streamWord (m : Mach) (e : MoveEnd) : List Byte × Bool :=
  match e with
  | .loc key _ => (memBytes m.mem key 4, memPoisoned m.mem (locOf key))
  | .cap off => ((List.range 4).map fun i => capByte m (off + i), false)
  | .far _ _ => ([], false)

/-- The words of a remote object that are streamed: each location once, with the ring words that its low and its high word go to (R260). -/
def farWords (l : List (MoveEnd × Nat)) : List (Nat × W64 × MoveDst) :=
  let fs : List (Nat × W64 × Nat) := l.filterMap fun x => match x.1 with | .far home ptr => some (home, ptr, x.2) | _ => none
  let at_ (home : Nat) (p : W64) : Option Nat := (fs.find? fun x => x.1 == home && x.2.1 == p).map (·.2.2)
  ((fs.map fun x => (x.1, x.2.1 - BitVec.ofNat 64 (x.2.1.toNat % 8))).eraseDups).map fun x => (x.1, x.2, .words (at_ x.1 x.2) (at_ x.1 (x.2 + 4)))

/-- `crstr` (R309): step words streamed into a command ring; the write pointer advances as it completes. -/
def execCrstr (w : Sems) (q : MoveQ) (lys : Fin 8) (ring : RingNo) (soff : W32) (words1 : BitVec 16) (s : State) : Host.Outcome State Fault Refusal :=
  let c := s.cur.core
  let n := words1.toNat + 1
  let i : Fin 3 := match ring with | .matrixA => 0 | .matrixB => 1 | .copy => 2
  s.copyStep w (.crstr w q lys ring soff words1) 3 q.pb q.dl fun m => do
    let r := m.cores[c].rings[i]
    if !r.run ∧ !r.halt ∧ r.lsize = 0 then .error (trapOf .perm 0, 0)
    else
      let src := (m.copyLy c lys).ptr
      let es ← (List.range n).mapM fun j => do
        let p ← copyAddr src ((soff.toNat + 4 * j : Nat) : Int)
        let e ← m.moveEnd (m.lighter c) p 4 .exec
        return (e, spmKey c (r.addr (r.wp + BitVec.ofNat 32 j)))
      return { bytes := 4 * n, ready := decide ((r.wp + BitVec.ofNat 32 n - r.rp).toNat ≤ 2 ^ r.lsize.toNat), start := id
               flight := fun f =>
                 { f with moves := wordMoves32 (es.filterMap fun x => if x.1.isFar then none else some (x.2, m.streamWord x.1))
                          wpTo := some (i, r.wp + BitVec.ofNat 32 n), far := (es.findSome? fun x => match x.1 with | .far _ ptr => some ptr | _ => none).getD 0
                          uses := (es.filterMap fun x => match x.1 with | .loc _ (some u) => some (u, false) | _ => none).eraseDups }
               sends := getSends (farWords es) .dataOnly
               asks := askings (es.map fun x => (x.1, .exec)) }

/-! Sequencing steps (R310). -/

/-- `csync`: it completes once every earlier step has; with POP it also takes an entry of Q6 and discards it. -/
def execCsync (w : Sems) (pop : Bool) (s : State) : Host.Outcome State Fault Refusal :=
  let c := s.cur.core
  s.engine .copy w (.csync w pop) 1 fun m =>
    let k := m.cores[c]
    if !k.copy.flights.isEmpty then .stay m
    else if !pop then .done (m.passDone c .copy w (.csync w pop) 1)
    else
      match k.q[6] with
      | [] => .stay m
      | _ :: rest => .done ((m.popQ c 6 rest).passDone c .copy w (.csync w pop) 1)

/-- `cqwr`: it pushes its tag to Q7 once every earlier step has completed. -/
def execCqwr (w : Sems) (tag : BitVec 14) (s : State) : Host.Outcome State Fault Refusal :=
  s.queuePush .copy w (.cqwr w tag) fun _ => (tag.setWidth 64, id)

end Sys2Proof.Machine
end

