-- ==== Sys2Proof/Machine/FabStep.lean ====
section
/-! DEFINITION. The fabric's point-to-point steps and its registrations: `fwr`, `frd`, `fatom`, `lbreg` and `lbrel` (12 R348 to
R353, R367). -/

namespace Sys2Proof.Machine

/-- A remote end of a fabric step: a package outside the group faults PERM, and so does handle 0 (R342, R348). -/
def Mach.remoteEnd (m : Mach) (pkg : BitVec 12) (p : W64) (off : Nat) : Except (NoPlace × W64) W64 := do
  if m.group ≤ pkg.toNat then .error (trapOf .perm 0, 0)
  else
    let q ← copyAddr p off
    if ptrHandle q = 0 then .error (trapOf .perm q, q) else .ok q

/-- `fwr` (R349): data is read at the start and leaves in messages. -/
def execFwr (w : Sems) (q : FabQ) (lys lyd : Fin 8) (soff doff : W32) (pkg : BitVec 12) (count1 : BitVec 20) (s : State) :
    Host.Outcome State Fault Refusal :=
  let c := s.cur.core
  let count := count1.toNat + 1
  s.copyStep w (.fwr w q lys lyd soff doff pkg count1) 4 q.pb q.dl fun m => do
    let src := (m.copyLy c lys).ptr
    let dst ← m.remoteEnd pkg (m.copyLy c lyd).ptr doff.toNat
    let ps ← (List.range (count / 8)).mapM fun k => do
      let p ← copyAddr src ((soff.toNat + 8 * k : Nat) : Int)
      let a ← m.moveSource (m.lighter c) q.fe p
      return ((a, MoveEnd.far pkg.toNat (dst + BitVec.ofNat 64 (8 * k))), p)
    let ps ← needFull m q.fe ps
    let v := moving m q.fe ps
    return .fabric count { v with far := dst }

/-- `frd` (R349): messages ask for the data, which is written as it comes. -/
def execFrd (w : Sems) (q : FabQ) (lys lyd : Fin 8) (soff doff : W32) (pkg : BitVec 12) (count1 : BitVec 20) (s : State) :
    Host.Outcome State Fault Refusal :=
  let c := s.cur.core
  let count := count1.toNat + 1
  s.copyStep w (.frd w q lys lyd soff doff pkg count1) 4 q.pb q.dl fun m => do
    let src ← m.remoteEnd pkg (m.copyLy c lys).ptr soff.toNat
    let dst := (m.copyLy c lyd).ptr
    let ps ← (List.range (count / 8)).mapM fun k => do
      let p ← copyAddr dst ((doff.toNat + 8 * k : Nat) : Int)
      let b ← m.moveEnd (m.lighter c) p 8 (dstKind q.fe)
      return (MoveEnd.far pkg.toNat (src + BitVec.ofNat 64 (8 * k)), b)
    return .fabric count { moving m q.fe ps with far := src }

/-- `fatom` (R350): the operand is read at the start; the old value goes to OADDR + 8. -/
def execFatom (w : Sems) (aop : AtomOp) (lyd : Fin 8) (doff oaddr : W32) (pkg : BitVec 12) (s : State) : Host.Outcome State Fault Refusal :=
  let c := s.cur.core
  s.copyStep w (.fatom w aop lyd doff oaddr pkg) 4 false 0 fun m => do
    let dst ← m.remoteEnd pkg (m.copyLy c lyd).ptr doff.toNat
    let key ← m.ownRun c oaddr (if aop = .cas then 16 else 8) 16
    if 0x100000 < oaddr.toNat + 16 then .error (atSpm .perm oaddr)
    else if ptrOff dst % atomSize aop ≠ 0 then .error (trapOf .align dst, dst)
    else
      return { bytes := 0, ready := true, start := id, flight := fun f => { f with far := dst }
               sends := [(pkg.toNat, .atom dst aop (mem64 m.mem key) (mem64 m.mem (key + 8)), [])], asks := [] }

/-! Registrations (R352, R353). -/

/-- The fields of a registration record. -/
structure RegRec where
  key : Nat
  ver : Nat
  buf : Nat
  len : Nat
  spn : Nat
  spill : Nat
  flog : Nat
  fln : Nat
  rcnt : Nat
  rest : Nat

/-- The record at an own-SPM address, a multiple of 64. -/
def Mach.regRec (m : Mach) (c : CoreId) (rec : W32) : Except (NoPlace × W64) RegRec := do
  let key ← m.ownRun c rec 64 64
  let f (k n : Nat) : Nat := memNat m.mem (key + k) n
  return { key := f 0 4, ver := f 4 4, buf := f 8 8, len := f 16 4, spn := f 20 4, spill := f 24 8, flog := f 32 8, fln := f 40 4, rcnt := f 44 4, rest := f 48 16 }

/-- The fabric unit holds 4,096 registrations. -/
def Fabric.full (f : Fabric) : Bool := decide (4096 ≤ f.bufs.length + f.ports.length)

def Fabric.port? (f : Fabric) (ctx : Nat) (h : BitVec 24) : Option Port := f.ports.find? fun p => p.ctx == ctx && p.h == h

def Fabric.onPort (f : Fabric) (ctx : Nat) (h : BitVec 24) (g : Port → Port) : Fabric :=
  { f with ports := f.ports.map fun p => if p.ctx = ctx ∧ p.h = h then g p else p }

def Fabric.buf? (f : Fabric) (ctx : Nat) (coll : W32) (c : CoreId) : Option LandBuf :=
  f.bufs.find? fun b => b.ctx == ctx && b.coll == coll && b.core == c

def Mach.onFab (m : Mach) (f : Fabric → Fabric) : Mach := { m with fab := f m.fab }

/-- A registration step: its record read and checked once, at its start; its effect at its start. -/
def State.register (s : State) (w : Sems) (op : Instr) (rec : W32) (f : Mach → RegRec → Except (NoPlace × W64) (Mach → Mach)) :
    Host.Outcome State Fault Refusal :=
  let c := s.cur.core
  s.copyStep w op 2 false 0 fun m => do
    let r ← m.regRec c rec
    let go ← f m r
    return { bytes := 0, ready := true, start := go, flight := fun f => f, sends := [], asks := [] }

/-- `lbreg` with OPC 000: a landing buffer. -/
def execLbregBuffer (w : Sems) (rec : W32) (s : State) : Host.Outcome State Fault Refusal :=
  let c := s.cur.core
  s.register w (.lbregBuffer w rec) rec fun m r =>
    let ctx := m.cores[c].ctl.ctxid
    let coll : W32 := BitVec.ofNat 32 r.key
    if r.ver ≠ 0 ∨ r.len % 16 ≠ 0 ∨ r.spn ≠ 0 ∨ r.spill ≠ 0 ∨ r.flog ≠ 0 ∨ r.fln ≠ 0 ∨ r.rcnt ≠ 0 ∨ r.rest ≠ 0 then .error (atSpm .shape rec)
    else if (m.fab.buf? ctx coll c).isSome then .error (atSpm .shape rec)
    else if m.fab.full then .error (atSpm .allocExh rec)
    else .ok fun m => m.onFab fun f => { f with bufs := f.bufs ++ [{ ctx := ctx, coll := coll, core := c, ptr := BitVec.ofNat 64 r.buf, len := r.len }] }

/-- `lbreg` with OPC 001: an expert port. -/
def execLbregPort (w : Sems) (rec : W32) (s : State) : Host.Outcome State Fault Refusal :=
  let c := s.cur.core
  s.register w (.lbregPort w rec) rec fun m r =>
    let ctx := m.cores[c].ctl.ctxid
    let h : BitVec 24 := BitVec.ofNat 24 r.key
    if 2 ^ 24 ≤ r.key ∨ 65536 < r.spn ∨ r.rcnt ≠ 0 ∨ r.rest ≠ 0 then .error (atSpm .shape rec)
    else if (m.fab.port? ctx h).isSome then .error (atSpm .shape rec)
    else if m.fab.full then .error (atSpm .allocExh rec)
    else
      let p : Port :=
        { ctx := ctx, h := h, core := c, ver := BitVec.ofNat 32 r.ver, tag := BitVec.ofNat 64 r.buf, rows := r.len, spn := r.spn,
          spill := BitVec.ofNat 64 r.spill, flog := BitVec.ofNat 64 r.flog, fln := r.fln, rcnt := 0, closed := false, redirect := none }
      .ok fun m => m.onFab fun f => { f with ports := f.ports ++ [p] }

/-- An operation on a registered port, whose other fields are zero. -/
def State.portStep (s : State) (w : Sems) (op : Instr) (rec : W32) (f : Mach → Port → Mach) : Host.Outcome State Fault Refusal :=
  let c := s.cur.core
  s.register w op rec fun m r =>
    let h : BitVec 24 := BitVec.ofNat 24 r.key
    if 2 ^ 24 ≤ r.key ∨ r.ver ≠ 0 ∨ r.buf ≠ 0 ∨ r.len ≠ 0 ∨ r.spn ≠ 0 ∨ r.spill ≠ 0 ∨ r.flog ≠ 0 ∨ r.fln ≠ 0 ∨ r.rest ≠ 0 then .error (atSpm .shape rec)
    else
      match m.fab.port? m.cores[c].ctl.ctxid h with
      | none => .error (atSpm .shape rec)
      | some p => .ok fun m => f m p

/-- `lbreg` with OPC 010 (R367): RCNT goes to the record and is cleared; rows decided from now on are spilled. -/
def execLbregClose (w : Sems) (rec : W32) (s : State) : Host.Outcome State Fault Refusal :=
  let c := s.cur.core
  s.portStep w (.lbregClose w rec) rec fun m p =>
    { (m.onFab fun f => f.onPort p.ctx p.h fun p => { p with rcnt := 0, closed := true }) with
      mem := memSetBytes m.mem (spmKey c (rec.toNat + 44)) (leBytes p.rcnt.toNat 4) }

/-- `lbreg` with OPC 011 (R367): the port opens again. -/
def execLbregOpen (w : Sems) (rec : W32) (s : State) : Host.Outcome State Fault Refusal :=
  s.portStep w (.lbregOpen w rec) rec fun m p => m.onFab fun f => f.onPort p.ctx p.h fun p => { p with closed := false }

/-- `lbreg` with OPC 100: the port redirects rows of older map versions (R365, R370). -/
def execLbregRedirect (w : Sems) (rec : W32) (s : State) : Host.Outcome State Fault Refusal :=
  let c := s.cur.core
  s.register w (.lbregRedirect w rec) rec fun m r =>
    let h : BitVec 24 := BitVec.ofNat 24 r.key
    if 2 ^ 24 ≤ r.key ∨ 2 ^ 36 ≤ r.buf ∨ r.len ≠ 0 ∨ r.spn ≠ 0 ∨ r.spill ≠ 0 ∨ r.flog ≠ 0 ∨ r.fln ≠ 0 ∨ r.rcnt ≠ 0 ∨ r.rest ≠ 0 then .error (atSpm .shape rec)
    else
      match m.fab.port? m.cores[c].ctl.ctxid h with
      | none => .error (atSpm .shape rec)
      | some p => .ok fun m => m.onFab fun f => f.onPort p.ctx p.h fun p =>
          { p with redirect := some (BitVec.ofNat 12 r.buf, BitVec.ofNat 24 (r.buf / 2 ^ 12), BitVec.ofNat 32 r.ver) }

/-- `lbrel` of a landing buffer (R353): it waits until no collective step of the core names it. -/
def execLbrelBuffer (w : Sems) (key : W32) (s : State) : Host.Outcome State Fault Refusal :=
  let c := s.cur.core
  s.copyStep w (.lbrelBuffer w key) 2 false 0 fun m =>
    let ctx := m.cores[c].ctl.ctxid
    if (m.fab.buf? ctx key c).isNone then .error (trapOf .shape 0, 0)
    else
      .ok { bytes := 0, ready := !(m.fab.colls.any fun r => r.core == c && r.coll == key)
            start := fun m => m.onFab fun f => { f with bufs := f.bufs.filter fun b => !(b.ctx == ctx && b.coll == key && b.core == c) }
            flight := fun f => f, sends := [], asks := [] }

/-- `lbrel` of a port (R353). -/
def execLbrelPort (w : Sems) (h : BitVec 24) (s : State) : Host.Outcome State Fault Refusal :=
  let c := s.cur.core
  s.copyStep w (.lbrelPort w h) 2 false 0 fun m =>
    let ctx := m.cores[c].ctl.ctxid
    if (m.fab.port? ctx h).isNone then .error (trapOf .shape 0, 0)
    else
      .ok { bytes := 0, ready := true, start := fun m => m.onFab fun f => { f with ports := f.ports.filter fun p => !(p.ctx == ctx && p.h == h) }
            flight := fun f => f, sends := [], asks := [] }

end Sys2Proof.Machine
end

