-- ==== Sys2Proof/Machine/FabHome.lean ====
section
/-! DEFINITION. What a fabric message does at its destination: writes, reads, atomics, moorings and rows (12 R342, R343, R349, R350,
R364 to R368, 10 R292, 13 R378). -/

namespace Sys2Proof.Machine

/-! Arrival and answer (R343). -/

/-- The bytes of locations that a message carries or asks for. -/
def payloadOf (b : FabBody) : Nat :=
  match b with
  | .puts ws => 8 * ws.length
  | .get _ n _ => n
  | .coll x => 8 * x.locs.length
  | .row r => r.data.length
  | .access _ (.gather n ps) => n * ps.length
  | .access _ (.scatter es) => (es.map (·.2.length)).foldl (· + ·) 0
  | .access _ (.feWords _ ps _) => 8 * ps.length
  | .access _ (.check ns) => 8 * ns.length
  | _ => 16

/-- A message that may arrive now: one that carries at most 4,096 bytes (01 R12), of this package, sent and not yet delivered; or of another package of
the group, and not performed before. -/
def Mach.arrives (m : Mach) (g : FabMsg) : Bool :=
  g.dst == m.pkg && decide (payloadOf g.body ≤ 4096) &&
  if g.src = m.pkg then m.fab.net.any fun e => e.msg == g && !e.delivered && e.resendAt.isNone
  else decide (g.src.toNat < m.group) && !(m.fab.out.any fun o => o.1 == g.src && o.2.1 == g.id && o.2.2 != .bounced)

/-- The answer to a message: kept for a sender of this package, or sent. A message that its sender has given up is gone. -/
def Mach.answer (m : Mach) (g : FabMsg) (r : FabReply) : Mach :=
  if g.src = m.pkg then
    m.onFab fun f => { f with net := (f.net.map fun e => if e.msg = g then { e with delivered := true, reply := some r } else e).filter fun e =>
      e.live || !e.delivered }
  else m.onFab fun f => { f with out := f.out ++ [(g.src, g.id, r)] }

/-! The home's translation (R342). -/

/-- How a location goes at its home: storage, a failure, a miss, or a hold while its sub-tile moves. -/
inductive HomeAt where
  | store (key : Nat)
  | fail
  | miss (h k : Nat)
  | held

/-- An access of n bytes at the home: the record's permissions, remote export for another package's, and no further forwarding (R378). -/
def Mach.homeAt (m : Mach) (g : FabMsg) (p : W64) (n : Nat) (kind : Kind) : HomeAt :=
  if ptrHandle p = 0 ∨ ptrHandle p = physHandle then .fail
  else
    match objRec? m none g.ctx (ptrHandle p) with
    | none => .fail
    | some r =>
      if r.home ≠ m.pkg.toNat ∨ (g.src ≠ m.pkg ∧ !bit r.attr 59) ∨ ptrOff p % n ≠ 0 then .fail
      else
        match objPlace m { core := 0, ctx := g.ctx, site := none, sup := false, lighter := false } p n kind with
        | .ok (.store key _ _) => .store key
        | .ok _ => .fail
        | .error (.fault _) => .fail
        | .error (.miss _ h k) => .miss h k
        | .error .held => .held

/-- A miss that no control strand is told of: the firmware pager serves it (R383). -/
def Mach.pagerMiss (m : Mach) (ctx h k : Nat) : Mach :=
  if m.misses.any (fun x => x.ctx == ctx && x.h == h && x.k == k) ∨ 256 ≤ m.misses.length then m
  else { m with misses := m.misses ++ [{ ctx := ctx, h := h, k := k, core := none }] }

/-- The storage of every location of a message, or what stops it. -/
inductive HomeAll where
  | stores (keys : List Nat)
  | fail
  | wait (m : Mach)

def Mach.homeAll (m : Mach) (g : FabMsg) : List (W64 × Nat × Kind) → HomeAll
  | [] => .stores []
  | x :: r =>
    match m.homeAt g x.1 x.2.1 x.2.2 with
    | .fail => .fail
    | .miss h k => .wait (m.pagerMiss g.ctx h k)
    | .held => .wait m
    | .store key =>
      match m.homeAll g r with
      | .stores keys => .stores (key :: keys)
      | o => o

/-- A message performed at its home, once every location it names translates. -/
def State.home (s : State) (g : FabMsg) (l : List (W64 × Nat × Kind)) (f : Mach → List Nat → Mach × FabReply) : Host.Outcome State Fault Refusal :=
  let m := s.mach
  match m.homeAll g l with
  | .fail => .next { s with mach := m.answer g (.failed 3) }
  | .wait m1 => .next { s with mach := m1 }
  | .stores keys => let (m1, r) := f m keys; .next { s with mach := m1.answer g r }

/-! Writes, reads and strands' accesses (R349, R378). -/

def putKind (w : PutWord) : Kind := match w.fe with | .full | .empty => .bitWrite | _ => .write

/-- A write of a message performed. -/
def Mach.applyPut (m : Mach) (key : Nat) (w : PutWord) : Mach :=
  m.makeMove { dst := key, src := .bytes w.bytes w.mark, fe := resolveBit w.fe w.full }

/-- A location read for a message. -/
def Mach.locData (m : Mach) (key : Nat) : LocData := { data := mem64 m.mem key, full := memFull m.mem key, poison := memPoisoned m.mem key }

/-- The kind and size of access that a need is. -/
def needKind (n : EndNeed) : Kind := match n with | .write => .write | .bitWrite => .bitWrite | .exec => .exec | .table => .atomic | _ => .read
def needSize (n : EndNeed) : Nat := match n with | .exec | .table => 4 | _ => 8

/-- A strand's load, store, or full/empty form at its home: the access of R279 to R286 there. -/
def Mach.homeAccess (m : Mach) (op : RemoteOp) (keys : List Nat) : Mach × RemoteReply :=
  let key := keys.headD 0
  let bad := memPoisoned m.mem (locOf key)
  match op with
  | .load n => if bad then (m, .poisoned) else (m, .value (memNat m.mem key n))
  | .store data =>
    let whole := data.length = 8
    if bad ∧ !whole then (m, .poisoned)
    else (m.makeMove { dst := key, src := .bytes data (some false), fe := .keep }, .value 0)
  | .atomic .. => (m, .refused)
  | .wait => if bad then (m, .poisoned) else if memFull m.mem (locOf key) then (m, .value (memNat m.mem key 8)) else (m, .notReady)
  | .consume =>
    if bad then (m, .poisoned)
    else if memFull m.mem (locOf key) then (((m.unlogAt key).setBit (locOf key) false), .value (memNat m.mem key 8)) else (m, .notReady)
  | .fill v =>
    if memFull m.mem (locOf key) then (m, .notReady)
    else (m.makeMove { dst := key, src := .bytes (wholeWord v) (some false), fe := .full }, .value 0)
  | .state => (m, .value (b2n (memFull m.mem (locOf key))))
  | .table bias v =>
    if bad then (m, .poisoned)
    else
      let old := memNat m.mem key 4
      let new := if bias then (fp32Add (BitVec.ofNat 64 old) (v.setWidth 64)).toNat else min (old + v.toNat) (2 ^ 32 - 1)
      (m.makeMove { dst := key, src := .bytes (wholeBytes (leBytes new 4)) none, fe := .keep }, .value old)
  | .feWords form _ data =>
    let fill := form == 2
    if keys.any (fun k => memPoisoned m.mem (locOf k)) then (m, .poisoned)
    else if keys.any (fun k => memFull m.mem (locOf k) == fill) then (m, .notReady)
    else
      let vs := keys.map fun k => memNat m.mem k 8
      let m1 :=
        if form = 0 then m
        else if form = 1 then keys.foldl (fun m k => (m.unlogAt k).setBit (locOf k) false) m
        else (keys.zip data).foldl (fun m x => m.makeMove { dst := x.1, src := .bytes x.2 none, fe := .full }) m
      (m1, .many vs)
  | .gather .. | .scatter .. => (m, .refused)
  | .check ns =>
    match (keys.zip ns).find? fun x => x.2.2 == .readFull && !memFull m.mem (locOf x.1) with
    | some x => (m, .empty x.2.1)
    | none => (m, if (keys.zip ns).any fun x => x.2.2 == .table && memPoisoned m.mem (locOf x.1) then .poisoned else .value 0)

/-- How a translated location stands for one element of a strand's vector load or store: an answer, or what keeps the message. -/
def Mach.homeLane (m : Mach) (at_ : HomeAt) (read : Option Nat) : Option LaneReply :=
  match at_ with
  | .store key => some (if memPoisoned m.mem (locOf key) then .poisoned else .value ((read.map (memNat m.mem key)).getD 0))
  | .fail => some .refused
  | _ => none

/-- The elements of a strand's vector load or store at their home (05 R163, R378): all are checked, and stores are performed, as one event, only when
every one passes. -/
def State.homeElems (s : State) (g : FabMsg) (l : List (W64 × Nat × Option (List (Byte × Byte)))) : Host.Outcome State Fault Refusal :=
  let m := s.mach
  let ats := l.map fun x => (x, m.homeAt g x.1 x.2.1 (if x.2.2.isSome then .write else .read))
  match ats.findSome? fun x => match x.2 with | .miss h k => some (some (h, k)) | .held => some none | _ => none with
  | some (some (h, k)) => .next { s with mach := m.pagerMiss g.ctx h k }
  | some none => .next s
  | none =>
    let rs := ats.filterMap fun x => m.homeLane x.2 (if x.1.2.2.isSome then none else some x.1.2.1)
    let fine := rs.all fun r => match r with | .value _ => true | _ => false
    let m1 := if !fine then m else ats.foldl (fun m x =>
      match x.2, x.1.2.2 with
      | .store key, some bs => m.makeMove { dst := key, src := .bytes bs none, fe := .keep }
      | _, _ => m) m
    .next { s with mach := m1.answer g (.access (.each rs)) }

/-- The locations a strand's access names, with their sizes and kinds. -/
def accessNeeds (p : W64) (op : RemoteOp) : List (W64 × Nat × Kind) :=
  match op with
  | .load n => [(p, n, .read)]
  | .store data => [(p, data.length, .write)]
  | .atomic op .. => [(p, atomSize op, .atomic)]
  | .wait => [(p, 8, .read)]
  | .consume => [(p, 8, .consume)]
  | .fill _ => [(p, 8, .fill)]
  | .state => [(p, 8, .read)]
  | .table _ _ => [(p, 4, .atomic)]
  | .feWords form ps _ => ps.map fun q => (q, 8, if form = 0 then .read else if form = 1 then .consume else .fill)
  | .gather n ps => ps.map fun q => (q, n, .read)
  | .scatter es => es.map fun e => (e.1, e.2.length, .write)
  | .check ns => ns.map fun x => (x.1, needSize x.2, needKind x.2)

/-- A strand of another package moors at its home here (R378, 11 R337): with the awaited state already there it is answered, and with the
pool full it goes on retrying (R387). -/
def Mach.homeMoor (m : Mach) (g : FabMsg) (p : W64) (wantEmpty : Bool) (core : CoreId) (strand : Strand) (key : Nat) : Mach × FabReply :=
  if memFull m.mem (locOf key) != wantEmpty then (m, .access (.value 1))
  else
    match m.addEntry g.src g.ctx (moorKey core p) core strand wantEmpty with
    | none => (m, .access .notReady)
    | some m1 => (m1, .landed)

/-- `FABRIC_MESSAGE_ARRIVAL` (R343, R349): a put, a get, a strand's access, or a mooring, performed at its home. -/
def execFabricMessageArrival (g : FabMsg) (s : State) : Host.Outcome State Fault Refusal :=
  if !s.mach.arrives g then .next s
  else
    match g.body with
    | .puts ws => s.home g (ws.map fun w => (w.ptr, w.bytes.length.max 1, putKind w)) fun m keys =>
        ((keys.zip ws).foldl (fun m x => m.applyPut x.1 x.2) m, .landed)
    | .get p n needFull => s.home g ((List.range (n / 8)).map fun k => (p + BitVec.ofNat 64 (8 * k), 8, .read)) fun m keys =>
        match (keys.zipIdx.find? fun x => !memFull m.mem x.1) with
        | some x => if needFull then (m, .empty (p + BitVec.ofNat 64 (8 * x.2))) else (m, .data (keys.map m.locData))
        | none => (m, .data (keys.map m.locData))
    | .access p op =>
      match op with
      | .atomic .. => .next s
      | .gather n ps => s.homeElems g (ps.map fun p => (p, n, none))
      | .scatter es => s.homeElems g (es.map fun e => (e.1, e.2.length, some e.2))
      | _ => s.home g (accessNeeds p op) fun m keys => let (m1, r) := m.homeAccess op keys; (m1, .access r)
    | .moor p wantEmpty core strand => s.home g [(p, 8, .read)] fun m keys => m.homeMoor g p wantEmpty core strand (keys.headD 0)
    | .unmoor core strand => s.home g [] fun m _ =>
        (m.unmoor fun e => e.pkg == g.src && e.core == core && e.strand == strand, .landed)
    | _ => .next s

/-- The atomic of a message, if it is one. -/
def bodyAtom? (b : FabBody) : Option (W64 × AtomOp × W64 × W64 × Bool) :=
  match b with
  | .atom p op v e => some (p, op, v, e, true)
  | .access p (.atomic op v e) => some (p, op, v, e, false)
  | _ => none

/-- The core whose copy strand sent a message of this package. -/
def Mach.senderCore (m : Mach) (g : FabMsg) : CoreId := ((m.fab.net.find? fun e => e.msg == g).map (·.core)).getD 0

/-- The gate holds an atomic of a copy strand. -/
def Mach.gateHolds (m : Mach) (c : CoreId) (g : FabMsg) : Bool :=
  match bodyAtom? g.body with
  | some (p, op, _, _, _) =>
    match m.homeAt g p (atomSize op) .atomic with
    | .store key => m.watched g.ctx (locOf key) && (m.gate g.ctx (locOf key) (logId c .copy)).isNone
    | _ => false
  | none => false

/-- `FABRIC_ATOMIC_HOME` (10 R292, 12 R350): an atomic performed at its home. While a mode is on, one of another package on a watched object
is refused, and a `fatom` of this package passes the lock gate (14 R426), from which its reply timeout counts (19 R474). -/
def execFabricAtomicHome (g : FabMsg) (s : State) : Host.Outcome State Fault Refusal :=
  let m := s.mach
  match m.arrives g, bodyAtom? g.body with
  | true, some (p, op, v, e, step) =>
    match m.homeAt g p (atomSize op) .atomic with
    | .fail => .next { s with mach := m.answer g (.failed 3) }
    | .miss h k => .next { s with mach := m.pagerMiss g.ctx h k }
    | .held => .next s
    | .store key =>
      if memPoisoned m.mem (locOf key) then .next { s with mach := m.answer g (.access .poisoned) }
      else
        let watched := m.watched g.ctx (locOf key)
        if watched ∧ g.src ≠ m.pkg then .next { s with mach := m.answer g (.failed 3) }
        else
          match (if watched then m.gate g.ctx (locOf key) (logId (m.senderCore g) .copy) else some (m.unlogAt (locOf key))) with
          | none => .next s
          | some m1 =>
            let (m2, old) := m1.atomAt key op v e
            let m3 := if watched ∧ g.src = m.pkg then m2.onFab fun f => { f with net := f.net.map fun e => if e.msg = g then { e with start := m.scyc } else e } else m2
            .next { s with mach := m3.answer g (if step then .old old else .access (.value old.toNat)) }
  | _, _ => .next s

/-! Rows (R365 to R368). -/

/-- The element type and the element positions of a row: each piece's column, and its bytes. -/
def rowPieces (r : RowMsg) : Nat × List (Nat × List Byte) :=
  let t := if 9 ≤ r.otype.toNat then r.otype.toNat - 6 else r.otype.toNat
  let es := if t = 7 then 1 else esizeOf t
  (es, (List.range (r.data.length / es)).map fun j => ((if t = 7 then r.col0 / 2 else r.col0) + j, (r.data.drop (es * j)).take es))

/-- How a row's placement goes: performed, failed, or waiting for a sub-tile. -/
inductive Placed where
  | done (m : Mach)
  | fail
  | wait (m : Mach)

/-- One element of a row written at its place. -/
def Mach.rowElement (m : Mach) (r : RowMsg) (key : Nat) (data : List Byte) : Mach :=
  m.makeMove { dst := key, src := .bytes (wholeBytes data) (if r.poison then some true else none), fe := if r.fe then .full else .keep }

/-- One element of an `epadd` row added at its place (06 R200). -/
def Mach.rowAddAt (m : Mach) (r : RowMsg) (key : Nat) (data : List Byte) : Mach :=
  m.rowElement r key (leBytes (fp32Add (BitVec.ofNat 64 (memNat m.mem key 4)) (BitVec.ofNat 64 (leNat data))).toNat 4)

/-- A row placed under its object's record (06 R200, 13 R374): it translates at placement. The elements of an `eprow` row are written; those of an
`epadd` row are added one by one afterwards. -/
def Mach.placeRow (m : Mach) (g : FabMsg) (r : RowMsg) : Placed :=
  match objRec? m none g.ctx r.h.toNat with
  | none => .fail
  | some o =>
    let (es, ps) := rowPieces r
    if o.esize ≠ es ∨ o.rank < 2 ∨ o.extAt 1 ≤ r.row.toNat ∨ ps.any (fun p => decide (o.extAt 0 ≤ p.1)) then .fail
    else
      let kind : Kind := if r.add then .atomic else if r.fe then .bitWrite else .write
      match m.homeAll g (ps.map fun p => (mkPtr r.h.toNat ((r.row.toNat * o.extAt 0 + p.1) * es), es, kind)) with
      | .fail => .fail
      | .wait m1 => .wait m1
      | .stores keys =>
        let at_ := (keys.zip ps).map fun x => (x.1, x.2.2)
        if r.add then
          let use : ObjUse := { ctx := g.ctx, h := r.h.toNat, k := 0, ver := o.ver }
          .done (m.onFab fun f => { f with adds := f.adds ++ [{ msg := g, use := use, left := at_ }] })
        else .done (at_.foldl (fun m x => m.rowElement r x.1 x.2) m)

/-- The answer to a row that has been decided: an `epadd` row's comes once its elements have been added. -/
def rowLanding (r : RowMsg) : Option FabReply := if r.add then none else some .landed

/-- A decided row goes on (17 R450): one of its elements is added, whichever; with none left it is acknowledged. -/
def Mach.addRow (m : Mach) (tick : Nat) (a : RowAdd) (r : RowMsg) : Mach :=
  let k := Config.laneOrder tick 0 % a.left.length
  match a.left[k]? with
  | some x => (m.rowAddAt r x.1 x.2).onFab fun f => { f with adds := f.adds.map fun b => if b = a then { b with left := b.left.eraseIdx k } else b }
  | none => (m.onFab fun f => { f with adds := f.adds.erase a }).answer a.msg .landed

/-- How a row is decided: the machine with its answer, or without one while it waits for a sub-tile (R383). -/
abbrev Decided := Mach × Option FabReply

/-- An access of n bytes to a port's own storage: its core's near memory, or an object of its context. -/
def Mach.portAt (m : Mach) (p : Port) (ptr : W64) (off n : Nat) (kind : Kind) : HomeAt :=
  match ptrAdd ptr off with
  | .error _ => .fail
  | .ok q =>
    if ptrOff q % n ≠ 0 then .fail
    else
      match place m { core := p.core, ctx := p.ctx, site := none, sup := false, lighter := true } q n kind with
      | .ok (.store key _ _) => .store key
      | .ok _ => .fail
      | .error (.fault _) => .fail
      | .error (.miss _ h k) => .miss h k
      | .error .held => .held

/-- The storage of a run of accesses, all translated before `go` goes on; `none` where one has no place. A miss is the pager's, and the row waits for it
(R383). -/
def Mach.portRun (m : Mach) (p : Port) (ptr : W64) : List (Nat × Nat × Kind) → (Option (List Nat) → Decided) → Decided
  | [], go => go (some [])
  | x :: r, go =>
    match m.portAt p ptr x.1 x.2.1 x.2.2 with
    | .store key => m.portRun p ptr r fun ks => go (ks.map (key :: ·))
    | .fail => go none
    | .miss h k => (m.pagerMiss p.ctx h k, none)
    | .held => (m, none)

/-- The tag of a row (R366), where the port has a tag table that covers it. -/
def Mach.tagRun (m : Mach) (p : Port) (row : Nat) (go : Option Nat → Decided) : Decided :=
  if p.tag = 0 ∨ p.rows ≤ row then go none else m.portRun p p.tag [(row, 1, .write)] fun ks => go (ks.bind List.head?)

def Mach.setTag (m : Mach) (key : Nat) (v : Nat) : Mach :=
  let m1 := m.unlogAt key
  { m1 with mem := memSetByte m1.mem key (BitVec.ofNat 8 v) }

/-- A whole location of a port's storage written, with its mark. -/
def Mach.portWord (m : Mach) (key v : Nat) (poison : Bool) : Mach :=
  m.makeMove { dst := key, src := .bytes (wholeBytes (leBytes v 8)) (some poison), fe := .keep }

/-- A failed row at a port is logged before its failure is acknowledged (R368): the entry, or LOST once the log is full. -/
def Mach.logRow (m : Mach) (p : Port) (g : FabMsg) (r : RowMsg) (reason : Nat) : Decided :=
  let done (m : Mach) : Decided := (m, some (.failed reason))
  if p.flog = 0 then done m
  else
    m.portRun p p.flog [(0, 8, .write), (8, 8, .write)] fun
      | some [kc, kl] =>
        let count := memNat m.mem kc 8
        if count < p.fln then
          m.portRun p p.flog [(64 + 8 * count, 8, .write)] fun
            | some [ke] =>
              let e := g.src.toNat * 2 ^ 52 + r.gen.toNat * 2 ^ 44 + reason * 2 ^ 36 + r.row.toNat
              done ((m.portWord ke e false).portWord kc (count + 1) false)
            | _ => done m
        else done (m.portWord kl (memNat m.mem kl 8 + 1) false)
      | _ => done m

/-- A row goes into the spill ring (R367): the slot, then TAIL; it fails when the ring is full, absent or not writable. A poisoned row's element words
are marked (06 R191). -/
def Mach.spillRow (m : Mach) (p : Port) (g : FabMsg) (r : RowMsg) : Decided :=
  if p.spill = 0 ∨ p.spn = 0 then m.logRow p g r 2
  else
    m.portRun p p.spill [(0, 8, .read), (8, 8, .write)] fun
      | some [kh, kt] =>
        let head := memNat m.mem kh 8
        let tail := memNat m.mem kt 8
        if (tail + 2 ^ 64 - head) % 2 ^ 64 = p.spn then m.logRow p g r 2
        else
          let slot := 64 + 272 * (tail % p.spn)
          m.portRun p p.spill ((List.range 34).map fun i => (slot + 8 * i, 8, .write)) fun
            | some ks =>
              let word := g.src.toNat * 2 ^ 52 + r.gen.toNat * 2 ^ 44 + r.otype.toNat * 2 ^ 40 + (r.n - 1) * 2 ^ 34 + r.row.toNat
              let words := (List.range ((r.data.length + 7) / 8)).map fun i => leNat (((r.data.drop (8 * i)).take 8))
              let m1 := (ks.zip [(word, false), (r.col0, false)]).foldl (fun m x => m.portWord x.1 x.2.1 x.2.2) m
              let m2 := ((ks.drop 2).zip words).foldl (fun m x => m.portWord x.1 x.2 r.poison) m1
              (m2.portWord kt (tail + 1) false, some .landed)
            | none => m.logRow p g r 2
      | _ => m.logRow p g r 2

/-- A row decided against its port (R365): the machine and the answer, or a wait for a sub-tile. -/
def Mach.decideRow (m : Mach) (g : FabMsg) (r : RowMsg) : Decided :=
  let squash := r.gen.getLsbD 7
  let gen := r.gen.toNat % 128
  match m.fab.port? g.ctx r.h with
  | none =>
    if squash then (m, some .landed)
    else
      match m.placeRow g r with
      | .done m1 => (m1, rowLanding r)
      | .fail => (m, some (.failed 1))
      | .wait m1 => (m1, none)
  | some p =>
    let stale := match p.redirect with | some (_, _, nv) => decide (nv.toNat ≤ r.mv.toNat) | none => false
    let away := match p.redirect with | some (pk, h, nv) => if r.mv.toNat < nv.toNat then some (pk, h) else none | none => none
    match away with
    | some (pk, h) => (m, some (.redirect pk h))
    | none =>
      if stale ∨ r.mv.toNat < p.ver.toNat then m.logRow p g r 3
      else
        m.tagRun p r.row.toNat fun tag =>
          let tagv := (tag.map fun k => memNat m.mem k 1).getD 0
          if squash then
            match tag with
            | some k => if tagv = 0 ∨ tagv = gen then (m.setTag k (128 + gen), some .landed) else (m, some .landed)
            | none => (m, some .landed)
          else if tag.isSome ∧ 1 ≤ gen ∧ tagv = 128 + gen then (m, some .landed)
          else if p.closed then m.spillRow p g r
          else
            match m.placeRow g r with
            | .fail => m.logRow p g r 1
            | .wait m1 => (m1, none)
            | .done m1 =>
              let m2 := match tag with | some k => if 1 ≤ gen then m1.setTag k gen else m1 | none => m1
              (m2.onFab fun f => f.onPort p.ctx p.h fun p => { p with rcnt := p.rcnt + 1 }, rowLanding r)

/-- `ROW_ARRIVAL` (R365): a row is decided, or one that has been goes on. -/
def execRowArrival (g : FabMsg) (s : State) : Host.Outcome State Fault Refusal :=
  match g.body with
  | .row r =>
    match s.mach.fab.adds.find? (·.msg == g) with
    | some a => .next { s with mach := s.mach.addRow s.tick a r }
    | none =>
      if !s.mach.arrives g then .next s
      else
        match s.mach.decideRow g r with
        | (m1, some a) => .next { s with mach := m1.answer g a }
        | (m1, none) => .next { s with mach := m1 }
  | _ => .next s

end Sys2Proof.Machine
end

