-- ==== Sys2Proof/Machine/Sysreg.lean ====
section
/-! DEFINITION. The system registers: their maps, `srr`, `srw` and the writes that do more than set fields
(03 R76 to R83, R102, R103, 13 R379, R387, R391, R392, 14 R406 to R411, R415, R420, R425, R428). -/

namespace Sys2Proof.Machine

/-- The system registers by name. -/
inductive SysReg where
  | cflags | cspec | qstat | scyc
  | rbud (n : Fin 5) | mbud (n : Fin 5)
  | dom (n : Fin 4)
  | lcid | physid
  | uictl | uivec | uiepc | uicause
  | crcfg (n : Fin 3) | crrp (n : Fin 3) | crwp (n : Fin 3)
  | ctxid | otcfg | mcinv | miss | mlcfg | nearwin
  | stvec | sepc | snpc | scause | sfaddr | sscr (n : Fin 4) | trefl | vstat | secnt | ckpool | bellcfg | rpst
  deriving DecidableEq, Repr

/-- The register of a number; an unassigned number has none (R76, R77, R391, R406). -/
def sysReg? (n : BitVec 15) : Option SysReg :=
  match n.toNat with
  | 0x00 => some .cflags
  | 0x01 => some .cspec
  | 0x02 => some .qstat
  | 0x03 => some .scyc
  | 0x10 => some (.rbud 0) | 0x11 => some (.rbud 1) | 0x12 => some (.rbud 2) | 0x13 => some (.rbud 3) | 0x14 => some (.rbud 4)
  | 0x18 => some (.mbud 0) | 0x19 => some (.mbud 1) | 0x1A => some (.mbud 2) | 0x1B => some (.mbud 3) | 0x1C => some (.mbud 4)
  | 0x20 => some (.dom 0) | 0x21 => some (.dom 1) | 0x22 => some (.dom 2) | 0x23 => some (.dom 3)
  | 0x24 => some .lcid
  | 0x25 => some .physid
  | 0x30 => some .uictl
  | 0x31 => some .uivec
  | 0x32 => some .uiepc
  | 0x33 => some .uicause
  | 0x40 => some (.crcfg 0) | 0x41 => some (.crrp 0) | 0x42 => some (.crwp 0)
  | 0x44 => some (.crcfg 1) | 0x45 => some (.crrp 1) | 0x46 => some (.crwp 1)
  | 0x48 => some (.crcfg 2) | 0x49 => some (.crrp 2) | 0x4A => some (.crwp 2)
  | 0x100 => some .ctxid
  | 0x101 => some .otcfg
  | 0x102 => some .mcinv
  | 0x103 => some .miss
  | 0x104 => some .mlcfg
  | 0x105 => some .nearwin
  | 0x140 => some .stvec
  | 0x141 => some .sepc
  | 0x142 => some .snpc
  | 0x143 => some .scause
  | 0x144 => some .sfaddr
  | 0x146 => some (.sscr 0) | 0x147 => some (.sscr 1) | 0x148 => some (.sscr 2) | 0x149 => some (.sscr 3)
  | 0x14A => some .trefl
  | 0x14B => some .vstat
  | 0x14C => some .secnt
  | 0x14D => some .ckpool
  | 0x14E => some .bellcfg
  | 0x14F => some .rpst
  | _ => none

/-- The registers that trap PRIV at U: PHYSID and the numbers from 0x0100 (R30, R77). -/
def SysReg.supOnly : SysReg → Bool
  | .physid | .ctxid | .otcfg | .mcinv | .miss | .mlcfg | .nearwin | .stvec | .sepc | .snpc | .scause | .sfaddr | .sscr _ | .trefl | .vstat
  | .secnt | .ckpool | .bellcfg | .rpst => true
  | _ => false

/-- The registers with no writable field, whose write traps PRIV at every level (R76). -/
def SysReg.readOnly : SysReg → Bool
  | .qstat | .scyc | .dom _ | .lcid | .physid | .uicause | .ctxid | .otcfg | .miss | .nearwin | .scause | .sfaddr | .ckpool | .rpst => true
  | _ => false

/-- Fields placed in a word: each is a value and its lowest bit. -/
def word (fields : List (Nat × Nat)) : W64 := BitVec.ofNat 64 (fields.foldl (fun a f => a + f.1 * 2 ^ f.2) 0)

def CmdRing.config (r : CmdRing) : W64 := word [(b2n r.run, 63), (b2n r.halt, 62), (r.lsize.toNat, 32), (r.base.toNat, 0)]

/-- RPST (R425). -/
def Replay.status (r : Replay) : W64 :=
  word [(r.pos.toNat, 32), (r.run.toNat, 12), (r.mode, 6), (b2n r.endLog, 5), (b2n r.ovf, 4), (b2n r.unlog, 3)]

/-- BELLCFG (R428). -/
def Bell.config (b : Bell) : W64 :=
  word [(b.tag.toNat, 32), (b2n b.arm, 7), (b2n b.rung, 6), (b2n b.fwd, 5), (b2n b.srcFab, 3), (b2n b.srcPin, 2), (b2n b.srcTrap, 1),
    (b2n b.srcSnap, 0)]

/-- A write to BELLCFG (R428). -/
def Bell.write (b : Bell) (v : W64) : Bell :=
  { b with arm := v.getLsbD 7, rung := b.rung && !v.getLsbD 6, fwd := v.getLsbD 5, srcFab := v.getLsbD 3, srcPin := v.getLsbD 2,
           srcTrap := v.getLsbD 1, srcSnap := v.getLsbD 0 }

/-- The running context of a core (R391). -/
def Mach.context? (m : Mach) (c : CoreId) : Option Context := (m.ctxs[m.cores[c].ctl.ctxid]?).getD none

/-- The value of a register as a read returns it; write-only fields read zero (R7). -/
def Mach.sysRead (m : Mach) (c : CoreId) (r : SysReg) : W64 :=
  let core := m.cores[c]
  let k := core.ctl
  let ctx (f : Context → W64) : W64 := match m.context? c with | some x => f x | none => 0
  match r with
  | .cflags => word [(b2n k.hd, 3), (b2n k.pw, 2), (b2n k.sat, 1), (b2n k.dz, 0)]
  | .cspec => word [(b2n k.specEn, 0)]
  | .qstat => word ((List.range 8).map fun i => ((core.q.toList.getD i []).length, 4 * i))
  | .scyc => BitVec.ofNat 64 m.scyc
  | .rbud n => k.rbud[n].setWidth 64
  | .mbud n => k.mbud[n].setWidth 64
  | .dom n => word [(core.dom[n].1.toNat, 40), (core.dom[n].2.1, 20), (core.dom[n].2.2, 0)]
  | .lcid => word [(m.pkg.toNat, 7), (core.lcidCore.toNat, 0)]
  | .physid => word [(core.physCluster.toNat, 4), (core.physCore.toNat, 0)]
  | .uictl => word [(b2n k.uiOvf, 16), (k.events.length, 8), (b2n k.uiActive, 1), (b2n k.uiEn, 0)]
  | .uivec => word [(k.uiVec.toNat, 2)]
  | .uiepc => word [(k.uiEpc.toNat, 2)]
  | .uicause => word [(k.uiCause.source.toNat, 40), (k.uiCause.status.toNat, 32), (k.uiCause.tag.toNat, 0)]
  | .crcfg n => core.rings[n].config
  | .crrp n => core.rings[n].rp.setWidth 64
  | .crwp n => core.rings[n].wp.setWidth 64
  | .ctxid => BitVec.ofNat 64 k.ctxid
  | .otcfg => ctx fun x => word [(x.otlen - 1, 40), (x.otbase / 4096, 0)]
  | .mcinv => 0
  | .miss => k.miss
  | .mlcfg => ctx fun x => word [(x.mlbase / 65536, 16), (x.pool, 0)]
  | .nearwin => ctx fun x => word [(x.clmSize, 30), (x.clmBase, 22), (x.dsmSize, 11), (x.dsmBase, 0)]
  | .stvec => word [(k.stvec.toNat, 2), (b2n k.stvecEn, 0)]
  | .sepc => word [(k.sepc.toNat, 2)]
  | .snpc => word [(k.snpc.toNat, 2)]
  | .scause => word [(k.causeSrc.toNat, 13), (b2n k.causeAsync, 12), (k.causeClass.toNat, 0)]
  | .sfaddr => k.sfaddr
  | .sscr n => k.sscr[n]
  | .trefl => word [(k.treflMask.toNat, 32), (k.treflAddr.toNat, 2)]
  | .vstat => word [(b2n k.vstatStopped, 63), (k.vstatClass.toNat, 52), (k.vstatAddr.toNat, 2)]
  | .secnt => word [(k.errCorr.toNat, 32), (k.errUnc.toNat, 0)]
  | .ckpool => ctx fun x => x.ckpool
  | .bellcfg => m.bell.config
  | .rpst => match m.replays[k.ctxid]? with | some r => r.status | none => 0

/-- An address field of bits [19:2]. -/
def addrField (v : W64) : BitVec 18 := BitVec.ofNat 18 (v.toNat / 4)

/-- The bits of TREFL.MASK that can be set: not 0, 4, 13 and 15 (R410). -/
def treflWritable : BitVec 16 := 0x5FEE

/-- A write to CRCFGn (R82, R83): clearing RUN leaves no step word waiting, so that a later RUN resumes at RP. DESIGN CHOICE (log 64): where a write meets a
PERM case and has BASE[5:0] nonzero, the spec names no order, and PERM comes first. -/
def Core.writeConfig (k : Core) (n : Fin 3) (v : W64) : Except Trap Core :=
  let r := k.rings[n]
  let run := v.getLsbD 63
  let lsize : BitVec 5 := BitVec.ofNat 5 (bits v.toNat 36 32)
  let base : BitVec 20 := BitVec.ofNat 20 v.toNat
  if r.run && (lsize != r.lsize || base != r.base) then .error { cls := .perm, addr := 0 }
  else if lsize.toNat < 6 ∨ 16 < lsize.toNat ∨ 0x100000 < base.toNat + 4 * 2 ^ lsize.toNat then .error { cls := .perm, addr := 0 }
  else if base.toNat % 64 ≠ 0 then .error { cls := .align, addr := 0 }
  else
    let k1 := { k with rings := k.rings.set n { r with run := run, halt := r.halt && !run, lsize := lsize, base := base } }
    .ok (if run then k1 else k1.abandonStep (strandOfRing n))

/-- A write to CRRPn (R83). -/
def Core.writeRp (k : Core) (n : Fin 3) (v : W64) : Except Trap Core :=
  let r := k.rings[n]
  let p : W32 := v.setWidth 32
  if r.run ∨ 2 ^ r.lsize.toNat < (r.wp - p).toNat then .error { cls := .perm, addr := 0 }
  else .ok { k with rings := k.rings.set n { r with rp := p } }

/-- A write to CRWPn, with the privilege the words it covers are fetched at (R83, R389). -/
def Core.writeWp (k : Core) (n : Fin 3) (v : W64) (sup : Bool) : Except Trap Core :=
  let r := k.rings[n]
  let p : W32 := v.setWidth 32
  if 2 ^ r.lsize.toNat < (p - r.rp).toNat ∨ (p - r.rp).toNat < (r.wp - r.rp).toNat then .error { cls := .perm, addr := 0 }
  else .ok { k with rings := k.rings.set n { r with wp := p, sLevel := r.sLevel ++ [(p, sup)] } }

/-- An entry of the context's mooring list on this package is in use (R387). -/
def Mach.mooringUsed (m : Mach) (ctx : Nat) : Bool := m.moorings.any (·.ctx == ctx)

/-- A write to MLCFG (R387, R392): the list is placed, every bucket empty. -/
def Mach.writeMlcfg (m : Mach) (c : CoreId) (v : W64) : Except Trap Mach :=
  let pool := bits v.toNat 15 0
  let ctx := m.cores[c].ctl.ctxid
  if pool < 640 ∨ 63488 < pool ∨ m.mooringUsed ctx then .error { cls := .shape, addr := 0 }
  else
    match m.context? c with
    | none => .ok m
    | some x =>
      let x1 : Context := { x with mlbase := 65536 * bits v.toNat 39 16, pool := pool }
      .ok { m with ctxs := m.ctxs.setIfInBounds ctx (some x1), mem := x1.emptyList m.mem }

/-- A write to MCINV (R379): every copy of the record and of its map entries is dropped, or every copy of the context's. -/
def Mach.writeMcinv (m : Mach) (c : CoreId) (v : W64) : Mach :=
  let ctx := m.cores[c].ctl.ctxid
  let all := v.getLsbD 63
  let h := v.toNat % 2 ^ 24
  { m with mcache := m.mcache.filter fun x => !(x.ctx == ctx && (all || x.h == h)) }

/-- A write to VSTAT (R411): ADDR while stopped, then RUN resumes the strand there. -/
def Core.writeVstat (k : Core) (v : W64) : Core :=
  if k.ctl.vstatStopped then
    let a := addrField v
    if v.getLsbD 62 then
      { k with ctl := { k.ctl with vstatAddr := a, vstatStopped := false },
               vec := { k.vec with pc := a, status := .running } }
    else { k with ctl := { k.ctl with vstatAddr := a } }
  else k

/-- A write to a register (R7, R8, R76): reserved and read-only fields are unchanged, a 1 clears a W1C bit. -/
def Mach.sysWrite (m : Mach) (c : CoreId) (r : SysReg) (v : W64) : Except Trap Mach :=
  let ok (f : Ctl → Ctl) : Except Trap Mach := .ok (m.onCtl c f)
  let ring (e : Except Trap Core) : Except Trap Mach := e.map fun k => m.onCore c fun _ => k
  match r with
  | .cflags => ok fun k => { k with hd := k.hd && !v.getLsbD 3, pw := k.pw && !v.getLsbD 2, sat := k.sat && !v.getLsbD 1, dz := k.dz && !v.getLsbD 0 }
  | .cspec => ok fun k => { k with specEn := v.getLsbD 0 }
  | .rbud n => ok fun k => { k with rbud := k.rbud.set n (v.setWidth 16) }
  | .mbud n => ok fun k => { k with mbud := k.mbud.set n (v.setWidth 32) }
  | .uictl => ok fun k => { k with uiOvf := k.uiOvf && !v.getLsbD 16, uiEn := v.getLsbD 0 }
  | .uivec => ok fun k => { k with uiVec := addrField v }
  | .uiepc => ok fun k => { k with uiEpc := addrField v }
  | .crcfg n => ring (m.cores[c].writeConfig n v)
  | .crrp n => ring (m.cores[c].writeRp n v)
  | .crwp n =>
    let m1 := m.flushAll c .control
    (m1.cores[c].writeWp n v m.cores[c].ctl.sup).map fun k => m1.onCore c fun _ => k
  | .mcinv => .ok ((m.flushAll c .control).writeMcinv c v)
  | .mlcfg => m.writeMlcfg c v
  | .stvec => ok fun k => { k with stvec := addrField v, stvecEn := v.getLsbD 0 }
  | .sepc => ok fun k => { k with sepc := addrField v }
  | .snpc => ok fun k => { k with snpc := addrField v }
  | .sscr n => ok fun k => { k with sscr := k.sscr.set n v }
  | .trefl => ok fun k => { k with treflMask := BitVec.ofNat 16 (v.toNat / 2 ^ 32) &&& treflWritable, treflAddr := addrField v }
  | .vstat => .ok (m.onCore c fun k => k.writeVstat v)
  | .secnt => ok fun k => { k with errCorr := k.errCorr &&& ~~~BitVec.ofNat 32 (v.toNat / 2 ^ 32), errUnc := k.errUnc &&& ~~~(v.setWidth 32) }
  | .bellcfg => .ok { m with bell := m.bell.write v }
  | _ => .error { cls := .priv, addr := 0 }

def privTrap : Trap := { cls := .priv, addr := 0 }

/-- `srr` (R76, R102). -/
def execSrr (d : Dst) (n : BitVec 15) (s : State) : Host.Outcome State Fault Refusal :=
  let c := s.cur.core
  s.control 1 fun m =>
    match sysReg? n with
    | none => .trap illegalTrap
    | some r =>
      if r.supOnly && !s.ctl.sup then .trap privTrap
      else (m.onCtl c fun k => k.write d (clean (m.sysRead c r))).advance c 1

/-- A write of a system register by number: ILLEGAL, then PRIV, then a poisoned source, then the register's own checks
(R40, R76, R102). -/
def State.writeSys (s : State) (n : BitVec 15) (a : Src) : Host.Outcome State Fault Refusal :=
  let c := s.cur.core
  let words := 1 + litWords [a]
  s.control words fun m =>
    match sysReg? n with
    | none => .trap illegalTrap
    | some r =>
      if (r.supOnly && !s.ctl.sup) || r.readOnly then .trap privTrap
      else orTrap (s.ctl.clean? [a]) fun _ => orTrap (m.sysWrite c r (s.ctl.src a).val) fun m1 => m1.advance c words

/-- `srw` of a register that has no row of its own (R102). -/
def execSrw (n : BitVec 15) (a : Src) (s : State) : Host.Outcome State Fault Refusal := s.writeSys n a

def ringNo (r : RingNo) : Nat :=
  match r with
  | .matrixA => 0
  | .matrixB => 1
  | .copy => 2

/-- `srw crcfgN` (R83). -/
def execCrcfgWrite (ring : RingNo) (a : Src) (s : State) : Host.Outcome State Fault Refusal := s.writeSys (BitVec.ofNat 15 (0x40 + 4 * ringNo ring)) a

/-- `srw crrpN` (R83). -/
def execCrrpWrite (ring : RingNo) (a : Src) (s : State) : Host.Outcome State Fault Refusal := s.writeSys (BitVec.ofNat 15 (0x41 + 4 * ringNo ring)) a

/-- `srw crwpN` (R83). -/
def execCrwpWrite (ring : RingNo) (a : Src) (s : State) : Host.Outcome State Fault Refusal := s.writeSys (BitVec.ofNat 15 (0x42 + 4 * ringNo ring)) a

/-- `srw mcinv` (R379). -/
def execMcinvWrite (a : Src) (s : State) : Host.Outcome State Fault Refusal := s.writeSys 0x102 a

/-- `srw mlcfg` (R387). -/
def execMlcfgWrite (a : Src) (s : State) : Host.Outcome State Fault Refusal := s.writeSys 0x104 a

/-- `srw vstat` (R411). -/
def execVstatWrite (a : Src) (s : State) : Host.Outcome State Fault Refusal := s.writeSys 0x14B a

/-- `uiret` (R105). -/
def execUiret (s : State) : Host.Outcome State Fault Refusal :=
  let c := s.cur.core
  s.control 1 fun m =>
    if !s.ctl.uiActive then .trap illegalTrap
    else .done (m.onCtl c fun k => { k.exchange with uiActive := false, pc := k.uiEpc, wait := none })

end Sys2Proof.Machine
end

