-- ==== Sys2Proof/Machine/Paging.lean ====
section
/-! DEFINITION. Paging and relocation: `pgmov`, `obcopy`, `feset`, the firmware pager's promotion, and the completion of copy
steps (13 R382 to R388, 10 R296, R301). -/

namespace Sys2Proof.Machine

/-! CRC-32C (R382): reflected, polynomial 0x1EDC6F41, which reads 0x82F63B78 reflected. -/

def crcBits : Nat → BitVec 32 → BitVec 32
  | 0, r => r
  | n + 1, r => crcBits n (if r.getLsbD 0 then (r >>> 1) ^^^ 0x82F63B78 else r >>> 1)

def crcByte (r : BitVec 32) (b : Byte) : BitVec 32 := crcBits 8 (r ^^^ b.setWidth 32)
def crc32c (bs : List Byte) : W32 := (bs.foldl crcByte 0xFFFFFFFF) ^^^ 0xFFFFFFFF

/-! The host slot of a sub-tile (R382): data, then bits, then tags. -/

/-- The bytes of a host slot. -/
def hostSlotSize (st : Nat) : Nat := st + st / 64 + 4 * (st / 4096)

/-- The full/empty bits of eight locations as a byte. -/
def bitsByte (full : Nat → Bool) : Byte := BitVec.ofNat 8 ((List.range 8).foldl (fun n j => n + b2n (full j) * 2 ^ j) 0)

/-- Blocks whose tag does not match (R384). -/
def badBlocks (m : Mem) (host st : Nat) : Nat :=
  ((List.range (st / 4096)).filter fun b =>
    crc32c (memBytes m (hostKey (host + 4096 * b)) 4096 ++ memBytes m (hostKey (host + st + 64 * b)) 64)
      != mem32 m (hostKey (host + st + st / 64 + 4 * b))).length

/-- A slot filled from its host slot: data and bits, every location poisoned when a block is bad. -/
def slotFromHost (m : Mem) (host slot st : Nat) : Mem :=
  let locs := List.range (st / 8)
  let empty (j : Nat) : Bool := !(memByte m (hostKey (host + st + j / 8))).getLsbD (j % 8)
  let bad := decide (0 < badBlocks m host st)
  memPaste m { cells := (memSlice m (hostKey host) st slot).cells
               empt := (locs.filter empty).map fun j => slot + 8 * j
               pois := if bad then locs.map fun j => slot + 8 * j else [] } slot st

/-- A slot of a sub-tile that has no host slot yet: zeros with every bit FEINIT (R384). -/
def slotFresh (m : Mem) (slot st : Nat) (empty : Bool) : Mem :=
  memPaste m { cells := [], empt := if empty then (List.range (st / 8)).map fun j => slot + 8 * j else [], pois := [] } slot st

/-- A slot written to its host slot, with its tags. -/
def slotToHost (m : Mem) (host slot st : Nat) : Mem :=
  let bitsOf (b : Nat) : List Byte := (List.range 64).map fun i => bitsByte fun j => memFull m (slot + 4096 * b + 64 * i + 8 * j)
  let tag (b : Nat) : W32 :=
    let t := crc32c (memBytes m (slot + 4096 * b) 4096 ++ bitsOf b)
    if (List.range 512).any fun j => memPoisoned m (slot + 4096 * b + 8 * j) then t ^^^ 0xFFFFFFFF else t
  let blocks := List.range (st / 4096)
  let m1 := memPaste m { cells := (memSlice m slot st (hostKey host)).cells, empt := [], pois := [] } (hostKey host) st
  let m2 := memSetBytes m1 (hostKey (host + st)) (blocks.flatMap bitsOf)
  memSetBytes m2 (hostKey (host + st + st / 64)) (blocks.flatMap fun b => leBytes (tag b).toNat 4)

/-! Entries, records and the cached copies. -/

/-- Word 0 of an entry in memory, written by the device as an atomic update (R380). -/
def Mach.entryWord (m : Mach) (r : ObjRec) (k : Nat) : W64 := mem64 m.mem (r.rmap + 16 * k)
def Mach.hostWord (m : Mach) (r : ObjRec) (k : Nat) : Nat := (mem64 m.mem (r.rmap + 16 * k + 8)).toNat
def Mach.setEntry (m : Mach) (r : ObjRec) (k : Nat) (v : W64) : Mach := { m with mem := memSet64 m.mem (r.rmap + 16 * k) v }

/-- An entry with one bit written. -/
def setBitOf (v : W64) (i : Nat) (b : Bool) : W64 :=
  if b then v ||| BitVec.ofNat 64 (2 ^ i) else v &&& ~~~(BitVec.ofNat 64 (2 ^ i))

def Mach.setBusy (m : Mach) (r : ObjRec) (k : Nat) (b : Bool) : Mach := m.setEntry r k (setBitOf (m.entryWord r k) 61 b)

/-- Every cached copy of a record and its entries dropped (R379). -/
def Mach.invalidate (m : Mach) (ctx h : Nat) : Mach :=
  { m with mcache := m.mcache.filter fun x => !(x.ctx == ctx && x.h == h) }

/-- VER := VER + 1 in the record (R384, R385). -/
def Mach.nextVersion (m : Mach) (ctx h : Nat) (r : ObjRec) : Mach :=
  match (m.ctxs[ctx]?).getD none with
  | none => m
  | some cx => { m with mem := memSetBytes m.mem (cx.otbase + 128 * h + 68) (leBytes (r.ver + 1).toNat 4) }

/-- The record in memory, which the device's own paging reads. -/
def Mach.memRec? (m : Mach) (ctx h : Nat) : Option ObjRec :=
  match (m.ctxs[ctx]?).getD none with
  | none => none
  | some cx => if h < cx.otlen then some (parseRec (memBytes m.mem (cx.otbase + 128 * h) 128)) else none

/-- The accesses and operations in flight that translated an object: each use, and whether it writes (R386). -/
def Mach.usesInFlight (m : Mach) : List (ObjUse × Bool) :=
  (m.pend.filterMap fun
    | .store p => p.use.map fun u => (u, true)
    | _ => none) ++
  (m.fab.adds.map fun a => (a.use, true)) ++
  m.cores.toList.flatMap fun k => (k.mata.flights ++ k.matb.flights ++ k.copy.flights).flatMap (·.uses)

/-- Every write-type access that translated an object under a version has been performed (R384, R385, phase 1). -/
def Mach.writesDone (m : Mach) (ctx h : Nat) (ver : W32) : Bool :=
  m.usesInFlight.all fun u => !(u.2 && u.1.ctx == ctx && u.1.h == h && u.1.ver == ver)

/-- Nothing that translated under an older version is in flight (R385, phase 3). -/
def Mach.drained (m : Mach) (ctx h : Nat) (ver : W32) : Bool :=
  m.usesInFlight.all fun u => !(u.1.ctx == ctx && u.1.h == h && u.1.ver != ver)

/-- A promotion (R384): the machine after it, and the failed blocks. A sub-tile already resident is left as it is. -/
def Mach.promote (m : Mach) (ctx h k : Nat) (r : ObjRec) : Mach × Nat :=
  let w0 := m.entryWord r k
  if entryRes w0 then (m, 0)
  else
    let host := m.hostWord r k
    let slot := entrySlot w0
    let bad := if host = 0 then 0 else badBlocks m.mem host r.stsize
    let mem := if host = 0 then slotFresh m.mem slot r.stsize r.feEmpty else slotFromHost m.mem host slot r.stsize
    let m1 := ({ m with mem := mem }).setEntry r k (setBitOf (setBitOf w0 62 (decide (0 < bad))) 63 true)
    ({ m1.invalidate ctx h with misses := m1.misses.filter fun x => !(x.ctx == ctx && x.h == h && x.k == k) }, bad)

/-- A slot inside HBM, and a host slot inside the memory the host has exposed (R382). -/
def slotOk (slot st : Nat) : Bool := decide (slot + st ≤ hbmEnd)
def hostOk (host st : Nat) : Bool := decide (host % 4096 = 0) && Config.hostExposed host (hostSlotSize st)

/-- The firmware pager serves a miss: no control strand was told of it, or the one that was runs no longer (DESIGN CHOICE, log 61). -/
def Mach.pagerServes (m : Mach) (x : Miss) : Bool := match x.core with | none => true | some c => m.cores[c].ctl.status != .running

/-- `PAGER_PROMOTION` (R383): firmware promotes, as `pgmov` does, for a miss that it serves; where `pgmov` would fault it does nothing. -/
def execPagerPromotion (ctx h k : Nat) (s : State) : Host.Outcome State Fault Refusal :=
  let m := s.mach
  match m.memRec? ctx h, m.misses.any (fun x => x.ctx == ctx && x.h == h && x.k == k && m.pagerServes x) with
  | some r, true =>
    let host := m.hostWord r k
    if entryBusy (m.entryWord r k) ∨ !slotOk (entrySlot (m.entryWord r k)) r.stsize ∨ (host ≠ 0 ∧ !hostOk host r.stsize) then .next s
    else .next { s with mach := (m.promote ctx h k r).1 }
  | _, _ => .next s

/-! The steps (R388). -/

def atZero (cls : TrapClass) : NoPlace × W64 := (trapOf cls 0, 0)

/-- The object a paging step names: PRIV at U, then the handle, the record and the sub-tile. Neither handle 0 nor the physical handle names an object; SHAPE
for the latter is the model's reading of R376 (DEDUCED, log 72). -/
def Mach.pageRec (m : Mach) (c : CoreId) (h k : Nat) : Except (NoPlace × W64) ObjRec :=
  if !m.cores[c].rings[2].level then .error (atZero .priv)
  else if h = 0 ∨ h = physHandle then .error (atZero .shape)
  else
    match m.memRec? m.cores[c].ctl.ctxid h with
    | none => .error (atZero .shape)
    | some r =>
      if r.invalid m.group ∨ r.home ≠ m.pkg.toNat then .error (atZero .perm)
      else if r.tiles ≤ k then .error (atZero .shape)
      else .ok r

/-- `pgmov` in both directions: it waits while BUSY reads 1, then sets it; a demotion holds write-type translations. -/
def State.pgmov (s : State) (w : Sems) (op : Instr) (h : BitVec 24) (k staddr : W32) (down : Bool) : Host.Outcome State Fault Refusal :=
  let c := s.cur.core
  s.copyStep w op 4 false 0 fun m => do
    let r ← m.pageRec c h.toNat k.toNat
    let w0 := m.entryWord r k.toNat
    let host := m.hostWord r k.toNat
    if (down ∧ host = 0) ∨ !slotOk (entrySlot w0) r.stsize ∨ (host ≠ 0 ∧ !hostOk host r.stsize) then .error (atZero .perm)
    else if staddr.toNat % 8 ≠ 0 then .error (atSpm .align staddr)
    else if 0x100000 < staddr.toNat + 8 then .error (atSpm .perm staddr)
    else
      let id := m.nextOp
      let hold : List Hold := if down then [{ ctx := m.cores[c].ctl.ctxid, h := h.toNat, k := k.toNat, core := c, step := id }] else []
      return { bytes := 0, ready := !entryBusy w0, start := fun m => { m.setBusy r k.toNat true with holds := m.holds ++ hold }, flight := fun f => f, sends := [], asks := [] }

/-- `pgmov up` (R384). -/
def execPgmovUp (w : Sems) (h : BitVec 24) (k staddr : W32) (s : State) : Host.Outcome State Fault Refusal :=
  s.pgmov w (.pgmovUp w h k staddr) h k staddr false

/-- `pgmov down` (R384). -/
def execPgmovDown (w : Sems) (h : BitVec 24) (k staddr : W32) (s : State) : Host.Outcome State Fault Refusal :=
  s.pgmov w (.pgmovDown w h k staddr) h k staddr true

/-- `obcopy` (R385): its first phase begins. -/
def execObcopy (w : Sems) (h : BitVec 24) (k : W32) (nslot : BitVec 24) (s : State) : Host.Outcome State Fault Refusal :=
  let c := s.cur.core
  s.copyStep w (.obcopy w h k nslot) 4 false 0 fun m => do
    let r ← m.pageRec c h.toNat k.toNat
    let w0 := m.entryWord r k.toNat
    if !entryRes w0 then .error (atZero .shape)
    else if !slotOk (65536 * nslot.toNat) r.stsize then .error (atZero .perm)
    else
      let hold : Hold := { ctx := m.cores[c].ctl.ctxid, h := h.toNat, k := k.toNat, core := c, step := m.nextOp }
      return { bytes := 0, ready := !entryBusy w0, start := fun m => { m.setBusy r k.toNat true with holds := m.holds ++ [hold] }
               flight := fun f => f, sends := [], asks := [] }

/-- `feset` (R388): the bit alone of each location of a run. -/
def execFeset (w : Sems) (q : MoveQ) (lyd : Fin 8) (doff : W32) (count1 : BitVec 24) (s : State) : Host.Outcome State Fault Refusal :=
  let c := s.cur.core
  let count := count1.toNat + 1
  s.copyStep w (.feset w q lyd doff count1) 3 q.pb q.dl fun m => do
    let v ← m.runWrites (m.lighter c) .bitWrite (m.copyLy c lyd).ptr doff.toNat count [] (feActOf q.fe)
    return .plain count v

/-! Phases and completions. -/

/-- The hold of a step (R385). -/
def Mach.holdOf (m : Mach) (c : CoreId) (id : Nat) : Option Hold := m.holds.find? fun x => x.core == c && x.step == id

/-- The hold of a step released. -/
def Mach.unhold (m : Mach) (c : CoreId) (id : Nat) : Mach := { m with holds := m.holds.filter fun x => !(x.core == c && x.step == id) }

/-- `OBCOPY_SWITCH` (R385): the copy and the switch, once every write-type access has been performed. -/
def execObcopySwitch (c : CoreId) (id : Nat) (s : State) : Host.Outcome State Fault Refusal :=
  let m := s.mach
  match m.cores[c].flight? .copy id, m.holdOf c id with
  | some f, some x =>
    match f.op, m.memRec? x.ctx x.h with
    | .obcopy _ _ _ nslot, some r =>
      if !m.writesDone x.ctx x.h r.ver then .next s
      else
        let w0 := m.entryWord r x.k
        let new := 65536 * nslot.toNat
        let mem := memPaste m.mem (memSlice m.mem (entrySlot w0) r.stsize new) new r.stsize
        let m1 := ({ m with mem := mem }).setEntry r x.k (BitVec.ofNat 64 (w0.toNat / 2 ^ 40 * 2 ^ 40 + new))
        .next { s with mach := ((m1.nextVersion x.ctx x.h r).invalidate x.ctx x.h).unhold c id }
    | _, _ => .next s
  | _, _ => .next s

/-- The demotion of a held sub-tile (R384). -/
def Mach.demote (m : Mach) (x : Hold) (r : ObjRec) : Mach :=
  let w0 := m.entryWord r x.k
  ((({ m with mem := slotToHost m.mem (m.hostWord r x.k) (entrySlot w0) r.stsize }).setEntry r x.k (setBitOf w0 63 false)).nextVersion x.ctx x.h r).invalidate x.ctx x.h

/-- Each slot of an operand ring is filled once its push and all those before it have completed (10 R307). -/
def fillSlots (r : OpRing) : List (Nat × Bool) → OpRing
  | (_, true) :: rest => fillSlots { r with filled := r.filled + 1, resv := rest } rest
  | l => { r with resv := l }

/-- A started copy step completes: its writes are made, its pending bytes taken off, its slot filled and its write pointer moved unless it failed, its failure
reported, its semaphore raised and its event sent (10 R296, R301, R307, R309, 12 R351). -/
def Mach.finishStep (m : Mach) (c : CoreId) (f : Flight) (others : Bool) (status : BitVec 8 := f.status) : Mach :=
  let m1 := m.makeMoves f.moves
  let m2 := match f.pb with | some (dl, n) => m1.addBytes c dl (-(n : Int)) others | none => m1
  let m3 := m2.onCore c fun k =>
    let k1 := match (if f.failed.isSome then none else f.push) with
      | some g => { k with rg := k.rg.set g ((k.rg[g]).map fun r => fillSlots r (r.resv.map fun x => if x.1 = f.id then (x.1, true) else x)) }
      | none => k
    match (if f.failed.isSome then none else f.wpTo) with
    | some (i, wp) => k1.onRing i fun r => { r with wp := wp, sLevel := r.sLevel ++ [(wp, false)] }
    | none => k1
  ((m3.onCore c fun k => k.reportFailed .copy f).dropFlight c .copy f.id).raiseStep c .copy f.raises f.op f.rp f.words status

/-- The status word of a paging step (R388), written last. -/
def Mach.pageStatus (m : Mach) (c : CoreId) (staddr : W32) (bad : Nat) : Mach :=
  let code := if 0 < bad then 11 else 0
  { m with mem := memSet64 m.mem (spmKey c staddr.toNat) (BitVec.ofNat 64 (code * 2 ^ 56 + bad)) }

/-- A row that a closed port of a context decided is still being added: it was decided before the close, which waits for it (12 R367). -/
def Mach.closing (m : Mach) (ctx : Nat) : Bool :=
  m.fab.adds.any fun a => a.use.ctx == ctx && m.fab.ports.any fun p => p.ctx == ctx && p.h.toNat == a.use.h && p.closed

/-- `COPY_STEP_COMPLETE` (10 R296): the step's messages are answered, and its own phases are over. A collective completes by its own event. -/
def execCopyStepComplete (c : CoreId) (id : Nat) (s : State) : Host.Outcome State Fault Refusal :=
  let m := s.mach
  let others := Config.remoteArrived s.tick
  let ctx := m.cores[c].ctl.ctxid
  match m.cores[c].flight? .copy id with
  | none => .next s
  | some f =>
    if !f.msgs.isEmpty ∨ !f.got.isEmpty then .next s
    else
      match f.op with
      | .a2av .. | .rscat .. | .agath .. | .bcast .. => .next s
      | .lbregClose .. => if m.closing ctx then .next s else .next { s with mach := m.finishStep c f others }
      | .pgmovUp _ h k staddr =>
        match m.memRec? ctx h.toNat with
        | none => .next { s with mach := (m.pageStatus c staddr 0).finishStep c f others }
        | some r =>
          let (m1, bad) := m.promote ctx h.toNat k.toNat r
          .next { s with mach := ((m1.setBusy r k.toNat false).pageStatus c staddr bad).finishStep c f others }
      | .pgmovDown _ h k staddr =>
        match m.memRec? ctx h.toNat with
        | none => .next { s with mach := ((m.unhold c id).pageStatus c staddr 0).finishStep c f others }
        | some r =>
          match m.holdOf c id with
          | some x => if m.writesDone x.ctx x.h r.ver then .next { s with mach := (m.demote x r).unhold c id } else .next s
          | none =>
            if m.drained ctx h.toNat r.ver then .next { s with mach := ((m.setBusy r k.toNat false).pageStatus c staddr 0).finishStep c f others }
            else .next s
      | .obcopy _ h k _ =>
        match m.memRec? ctx h.toNat with
        | none => .next { s with mach := (m.unhold c id).finishStep c f others }
        | some r =>
          if (m.holdOf c id).isNone ∧ m.drained ctx h.toNat r.ver then .next { s with mach := (m.setBusy r k.toNat false).finishStep c f others }
          else .next s
      | _ => .next { s with mach := m.finishStep c f others }

end Sys2Proof.Machine
end

