-- ==== Sys2Proof/Machine/Collective.lean ====
section
/-! DEFINITION. The collectives `a2av`, `rscat`, `agath` and `bcast`: their starts, arrivals and ends (12 R354 to R357). -/

namespace Sys2Proof.Machine

/-! The plan of a rank (R356). -/

/-- The sum of the first n lengths. -/
def offOf (t : List Nat) (n : Nat) : Nat := (t.take n).foldl (· + ·) 0

/-- What a rank sends to the others, its own piece, and the receive slots by source rank. -/
structure CollPlan where
  sends : List (Nat × Nat × Nat)
  own : Nat × Nat
  slots : List (Nat × Nat)
  region : Nat

def collPlan (kind : Nat) (ord : Bool) (lens : List Nat) (n i root : Nat) : CollPlan :=
  let others := (List.range n).filter (· != i)
  let len (j : Nat) : Nat := lens.getD j 0
  match kind with
  | 0 =>
    { sends := others.map fun j => (j, offOf lens j, len j), own := (offOf lens i, len i)
      slots := (List.range n).map fun s => (offOf (lens.drop n) s, len (n + s)), region := offOf (lens.drop n) n }
  | 1 =>
    { sends := others.map fun j => (j, offOf lens j, len j), own := (offOf lens i, len i)
      slots := (List.range n).map fun s => (if ord then len i * (s + 1) else 0, len i), region := if ord then len i * (n + 1) else len i }
  | 2 =>
    { sends := others.map fun j => (j, 0, len i), own := (0, len i), slots := (List.range n).map fun s => (offOf lens s, len s), region := offOf lens n }
  | _ =>
    { sends := if i = root then others.map fun j => (j, 0, len 0) else [], own := (0, 0)
      slots := (List.range n).map fun s => if s = root ∧ i ≠ root then (0, len 0) else (0, 0), region := if i = root then 0 else len 0 }

/-- Every source byte offset of a rank's pieces, by location. -/
def CollPlan.sources (p : CollPlan) : List Nat :=
  (((p.sends.map (·.2)) ++ [p.own]).flatMap fun x => (List.range (x.2 / 8)).map fun k => x.1 + 8 * k).eraseDups

/-- The bytes that a rank sends to the others (R357). -/
def CollPlan.sent (p : CollPlan) : Nat := (p.sends.map (·.2.2)).foldl (· + ·) 0

/-! Members (R355, 01 R25). -/

/-- The package and core of a rank of the level's domain. -/
def Mach.rankAt (m : Mach) (c : CoreId) (k : Fin 4) (rank : Nat) : BitVec 12 × CoreId :=
  let b := m.barrier c k
  match b.members.find? fun d => (m.cores[d].dom[k]).2.2 == rank with
  | some d => (m.pkg, d)
  | none =>
    let t := (m.cores[c].task.bind fun t => m.ferry.tasks.find? (·.id == t))
    let size := (t.map (·.recd.size)).getD 1
    let pkg0 := (t.map (·.recd.pkg0)).getD m.pkg.toNat
    (BitVec.ofNat 12 (pkg0 + rank / size), Config.rankCore m.cores[c].dom[k].1.toNat rank)

/-! Pieces. -/

def Mach.onColl (m : Mach) (c : CoreId) (id : Nat) (f : CollRun → CollRun) : Mach :=
  m.onFab fun g => { g with colls := g.colls.map fun r => if r.core = c ∧ r.flight = id then f r else r }

def Fabric.coll? (f : Fabric) (c : CoreId) (id : Nat) : Option CollRun := f.colls.find? fun r => r.core == c && r.flight == id

/-- The locations of a piece as they were read. -/
def CollRun.piece (r : CollRun) (off len : Nat) : List LocData :=
  (List.range (len / 8)).map fun k => ((r.src.find? fun x => x.1 == off + 8 * k).map (·.2)).getD { data := 0, full := true, poison := false }

/-- One 32-bit element combined (R356): FP32 sum, I32 wrapping sum, FP32 maximum. -/
def redOp (red : Nat) (a b : W32) : W32 :=
  match red with
  | 0 => (fp32Add (a.setWidth 64) (b.setWidth 64)).setWidth 32
  | 1 => a + b
  | _ => BitVec.ofNat 32 (fp32.round (Ex.minMax true (fp32.decode a.toNat) (fp32.decode b.toNat)) .rne false).bits

/-- A location's two elements combined. -/
def redLoc (red : Nat) (a b : W64) : W64 :=
  (redOp red ((a >>> 32).setWidth 32) ((b >>> 32).setWidth 32)) ++ (redOp red (a.setWidth 32) (b.setWidth 32))

/-- Data written to a rank's receive region from a byte offset. The bit follows the step's mode; with `counted` the source bit counts as
full, and with `dataOnly` the bit stays (R356). -/
def Mach.landAt (m : Mach) (r : CollRun) (off : Nat) (ds : List LocData) (counted dataOnly : Bool) : Mach :=
  ds.zipIdx.foldl (fun m x =>
    match (r.keys[off / 8 + x.2]?).getD none with
    | none => m
    | some key =>
      let d := if counted then { x.1 with full := true } else x.1
      m.makeMove (locMove d key (if dataOnly then .keep else feActOf r.fe))) m

/-- Data combined into a rank's receive region (R356): the data alone, and a poison mark that arrives. -/
def Mach.combineAt (m : Mach) (r : CollRun) (off : Nat) (ds : List LocData) : Mach :=
  ds.zipIdx.foldl (fun m x =>
    match (r.keys[off / 8 + x.2]?).getD none with
    | none => m
    | some key =>
      m.makeMove { dst := key, src := .bytes (wholeWord (redLoc r.red (mem64 m.mem key) x.1.data)) (if x.1.poison then some true else none), fe := .keep }) m

/-- Some of a receive region's locations from an offset are on a remote record: they cannot be placed (13 R378). -/
def CollRun.lost (r : CollRun) (off len : Nat) : Bool := (List.range (len / 8)).any fun k => ((r.keys[off / 8 + k]?).getD none).isNone

/-- The source region has been read: the own copy is made and the pieces leave (R354, R356). -/
def Mach.collLaunch (m : Mach) (c : CoreId) (id : Nat) : Mach :=
  match m.fab.coll? c id with
  | none => m
  | some r =>
    if r.ready then m
    else
      let own := r.piece r.own.1 r.own.2
      let slot := r.slots.getD r.rank (0, 0)
      let staged := r.kind = 1 ∧ r.ord
      let short := !staged && decide (slot.2 < r.own.2)
      let lost := !staged && r.lost slot.1 r.own.2
      let m1 := if staged ∨ short ∨ lost then m else m.landAt r slot.1 own (decide (r.kind = 1)) false
      let m2 := m1.onColl c id fun r => { r with ready := true, reason := if r.reason ≠ 0 then r.reason else if short then 2 else if lost then 3 else 0 }
      let sends : List Sending := r.sends.flatMap fun x =>
        let ds := r.piece x.2.1 x.2.2
        let (pkg, core) := m.rankAt c r.level x.1
        (chunks 512 ds.length ds).zipIdx.map fun k =>
          (pkg.toNat, .coll { coll := r.coll, core := core, rank := r.rank, off := 4096 * k.2, locs := k.1 }, [])
      m2.sendAll c .copy id r.ctx sends

/-! The start (R355). -/

/-- The descriptor checks and the run that starts. -/
def State.collective (s : State) (w : Sems) (op : Instr) (q : FabQ) (desc : W32) (kind : Nat) : Host.Outcome State Fault Refusal :=
  let c := s.cur.core
  s.copyStep w op 2 q.pb q.dl fun m => do
    let key ← m.ownRun c desc 64 64
    let f (k n : Nat) : Nat := memNat m.mem (key + k) n
    let shape : Except (NoPlace × W64) Plan := .error (atSpm .shape desc)
    let level : Fin 4 := Fin.ofNat 4 (f 4 1)
    let red := f 5 1
    let root := f 6 2
    let ctx := m.cores[c].ctl.ctxid
    let coll : W32 := BitVec.ofNat 32 (f 0 4)
    let n := m.cores[c].dom[level].2.1
    let i := m.cores[c].dom[level].2.2
    if f 4 1 / 4 ≠ 0 ∨ f 8 4 = 0 ∨ f 36 28 ≠ 0 ∨ (kind = 1 ∧ (red / 8 ≠ 0 ∨ red % 4 = 3)) ∨ (kind ≠ 1 ∧ red ≠ 0) ∨ (kind = 3 ∧ n ≤ root) ∨
      (kind ≠ 3 ∧ root ≠ 0) ∨ 65536 < n then shape
    else
      let ltab : W32 := BitVec.ofNat 32 (f 12 4)
      let staddr : W32 := BitVec.ofNat 32 (f 32 4)
      let count := if kind = 0 then 2 * n else if kind = 3 then 1 else n
      let lkey ← m.ownRun c ltab (4 * count) 8
      if staddr.toNat % 8 ≠ 0 then .error (atSpm .align staddr)
      else if 0x100000 < staddr.toNat + 8 then .error (atSpm .perm staddr)
      else
        let lens := (List.range count).map fun k => memNat m.mem (lkey + 4 * k) 4
        let p := collPlan kind (red / 4 % 2 == 1) lens n i root
        let sbuf : W64 := BitVec.ofNat 64 (f 16 8)
        let rbuf : W64 := BitVec.ofNat 64 (f 24 8)
        let inside := match m.fab.buf? ctx coll c with
          | none => false
          | some b => ptrHandle b.ptr == ptrHandle rbuf && decide (ptrOff b.ptr ≤ ptrOff rbuf) && decide (ptrOff rbuf + p.region ≤ ptrOff b.ptr + b.len)
        if (lens.any fun l => l % 16 != 0) ∨ !inside ∨ m.fab.colls.any (fun r => r.core == c && r.coll == coll) ∨ !totalOk q.fe (p.sent + p.own.2) then shape
        else
          let rs ← (List.range (p.region / 8)).mapM fun k => do
            let a ← copyAddr rbuf ((8 * k : Nat) : Int)
            m.moveEnd (m.lighter c) a 8 (dstKind q.fe)
          let ss ← p.sources.mapM fun (off : Nat) => do
            let a ← copyAddr sbuf (off : Int)
            let e ← m.moveSource (m.lighter c) q.fe a
            return (off, e, a)
          let _ ← needFull m q.fe (ss.map fun x => ((x.2.1, x.2.1), x.2.2))
          let id := m.nextOp
          let run : CollRun :=
            { core := c, flight := id, ctx := ctx, coll := coll, level := level, kind := kind, red := red % 4, ord := red / 4 % 2 == 1, timeout := f 8 4,
              rank := i, fe := q.fe, staddr := staddr, sends := p.sends.filter fun x => x.2.2 != 0, own := p.own, slots := p.slots,
              keys := rs.map fun e => match e with | .loc key _ => some key | _ => none
              src := ss.filterMap fun x => if x.2.1.isFar then none else some (x.1, x.2.1.data m)
              ready := false, landed := List.replicate n 0, bounces := 0, reason := 0, start := m.scyc }
          return { bytes := p.sent, ready := true, start := fun m => m.onFab fun g => { g with colls := g.colls ++ [run] }
                   flight := fun f =>
                     { f with uses := (rs.filterMap fun e => match e with | .loc _ (some u) => some (u, true) | _ => none).eraseDups ++
                                ((ss.filterMap fun x => match x.2.1 with | .loc _ (some u) => some (u, false) | _ => none).eraseDups) }
                   sends := getSends (ss.filterMap fun x => match x.2.1 with | .far home ptr => some (home, ptr, .coll x.1) | _ => none) q.fe
                   asks := [] }

/-- The start of a collective whose source region is all at hand goes on at once. -/
def State.collStart (s : State) (w : Sems) (op : Instr) (q : FabQ) (desc : W32) (kind : Nat) : Host.Outcome State Fault Refusal :=
  let c := s.cur.core
  let id := s.mach.nextOp
  match s.collective w op q desc kind with
  | .next t =>
    .next { t with mach :=
      match t.mach.cores[c].flight? .copy id with
      | some f => if f.msgs.isEmpty then t.mach.collLaunch c id else t.mach
      | none => t.mach }
  | o => o

/-- `a2av` (R356). -/
def execA2av (w : Sems) (q : FabQ) (desc : W32) (s : State) : Host.Outcome State Fault Refusal := s.collStart w (.a2av w q desc) q desc 0
/-- `rscat` (R356). -/
def execRscat (w : Sems) (q : FabQ) (desc : W32) (s : State) : Host.Outcome State Fault Refusal := s.collStart w (.rscat w q desc) q desc 1
/-- `agath` (R356). -/
def execAgath (w : Sems) (q : FabQ) (desc : W32) (s : State) : Host.Outcome State Fault Refusal := s.collStart w (.agath w q desc) q desc 2
/-- `bcast` (R356). -/
def execBcast (w : Sems) (q : FabQ) (desc : W32) (s : State) : Host.Outcome State Fault Refusal := s.collStart w (.bcast w q desc) q desc 3

/-! Arrivals (R354). -/

/-- `COLLECTIVE_MESSAGE_ARRIVAL` (R354): bounced, refused, or landed. -/
def execCollectiveMessageArrival (g : FabMsg) (s : State) : Host.Outcome State Fault Refusal :=
  let m := s.mach
  match m.arrives g, g.body with
  | true, .coll x =>
    match m.fab.colls.find? fun r => r.core == x.core && r.coll == x.coll && r.ctx == g.ctx with
    | none => .next { s with mach := m.answer g .bounced }
    | some r =>
      if r.kind = 1 ∧ !r.ready then .next { s with mach := m.answer g .bounced }
      else
        let slot := r.slots.getD x.rank (0, 0)
        let len := 8 * x.locs.length
        if r.landed.length ≤ x.rank ∨ slot.2 < x.off + len then
          .next { s with mach := (m.onColl r.core r.flight fun r => { r with reason := if r.reason = 0 then 2 else r.reason }).answer g .slotRefused }
        else if r.lost (slot.1 + x.off) len then .next { s with mach := m.answer g (.failed 3) }
        else
          let m1 :=
            if r.kind = 1 ∧ !r.ord then m.combineAt r x.off x.locs
            else m.landAt r (slot.1 + x.off) x.locs false (decide (r.kind = 1))
          .next { s with mach := (m1.onColl r.core r.flight fun r =>
            { r with landed := r.landed.set x.rank (r.landed.getD x.rank 0 + len) }).answer g .landed }
  | _, _ => .next s

/-! Ends (R357). -/

/-- Every receive slot is full: another rank's by what has landed, the own one by the own copy, which is the whole own piece. -/
def CollRun.received (r : CollRun) : Bool :=
  (List.range r.slots.length).all fun k => (r.slots.getD k (0, 0)).2 == (if k = r.rank then r.own.2 else r.landed.getD k 0)

/-- The ordered reduction of `rscat` with ORD 1 (R356): rank by rank into the receive region. -/
def Mach.foldOrdered (m : Mach) (r : CollRun) : Mach :=
  let len := r.own.2
  let own := r.piece r.own.1 len
  let seg (k j : Nat) : LocData :=
    if k = r.rank then own.getD j { data := 0, full := true, poison := false }
    else
      match (r.keys[(len * (k + 1)) / 8 + j]?).getD none with
      | some key => m.locData key
      | none => { data := 0, full := true, poison := false }
  let out := (List.range (len / 8)).map fun j =>
    (List.range r.slots.length).foldl (fun (a : LocData) k =>
      if k = 0 then a else { data := redLoc r.red a.data (seg k j).data, full := true, poison := a.poison || (seg k j).poison }) (seg 0 j)
  m.landAt r 0 out true false

/-- A collective step ends with a reason: its status word, its semaphore and its event (R357). Messages still out are no longer waited
for. -/
def Mach.collEnd (m : Mach) (c : CoreId) (f : Flight) (r : CollRun) (reason : Nat) (others : Bool) : Mach :=
  let m1 := if reason = 0 ∧ r.kind = 1 ∧ r.ord then m.foldOrdered r else m
  let bytes := ((List.range r.landed.length).map fun k => r.landed.getD k 0).foldl (· + ·) 0
  let code := if reason = 0 then 0 else 12
  let word := code * 2 ^ 56 + reason * 2 ^ 48 + min r.bounces 65535 * 2 ^ 32 + bytes % 2 ^ 32
  let m2 := { m1 with mem := memSetPoison (memSet64 m1.mem (spmKey c r.staddr.toNat) (BitVec.ofNat 64 word)) (spmKey c r.staddr.toNat) false }
  let m3 := m2.onFab fun g =>
    { g with colls := g.colls.filter fun x => !(x.core == c && x.flight == f.id)
             net := (g.net.map fun e => if e.core = c ∧ e.strand = .copy ∧ e.flight = f.id then { e with live := false } else e).filter fun e =>
               e.live || (!e.delivered && e.msg.dst == m.pkg && e.resendAt.isNone) }
  m3.finishStep c { f with msgs := [], failed := none } others (if reason = 0 then 0 else 12)

/-- `COLLECTIVE_COMPLETE` (R357): every send is acknowledged and every slot full, within TIMEOUT; or a reason stands. -/
def execCollectiveComplete (c : CoreId) (id : Nat) (s : State) : Host.Outcome State Fault Refusal :=
  let m := s.mach
  match m.cores[c].flight? .copy id, m.fab.coll? c id with
  | some f, some r =>
    if r.reason ≠ 0 ∨ (r.ready ∧ f.msgs.isEmpty ∧ r.received ∧ m.scyc ≤ r.start + r.timeout) then
      .next { s with mach := m.collEnd c f r r.reason (Config.remoteArrived s.tick) }
    else .next s
  | _, _ => .next s

/-- `COLLECTIVE_TIMEOUT` (R357): TIMEOUT s-cycles from the step's start have passed. -/
def execCollectiveTimeout (c : CoreId) (id : Nat) (s : State) : Host.Outcome State Fault Refusal :=
  let m := s.mach
  match m.cores[c].flight? .copy id, m.fab.coll? c id with
  | some f, some r =>
    if r.start + r.timeout ≤ m.scyc then
      .next { s with mach := m.collEnd c f r (if r.reason = 0 then 1 else r.reason) (Config.remoteArrived s.tick) }
    else .next s
  | _, _ => .next s

end Sys2Proof.Machine
end

