-- ==== Sys2Proof/Machine/Epilogue.lean ====
section
/-! DEFINITION. The epilogues: scaling, bias, activation, quantisation, and their destinations (06 R189, R191, R197 to R200,
12 R364). -/

namespace Sys2Proof.Machine

/-! Values (R197, R198). -/

/-- An activation of an FP32 value, with the flags it raises. -/
def actOf (a : Act) (x : Ex) : Ex × FpFlags :=
  let sigm : Ex × FpFlags := let r := exSigm x; let o := fp32.round r.1 .rne false; (fp32.decode o.bits, r.2.or o.fl)
  match a with
  | .none => (x, {})
  | .relu => if x.isNan then (x, {}) else if (Ex.zero false).lt x then (x, {}) else (.zero false, {})
  | .sigm => sigm
  | .tanh => let r := exTanh x; let o := fp32.round r.1 .rne false; (fp32.decode o.bits, r.2.or o.fl)
  | .silu =>
    let p := x.mul sigm.1
    let o := fp32.round p.1 .rne false
    (fp32.decode o.bits, (sigm.2.or o.fl).or (.invalid p.2))

/-- An element before quantisation: the value, and its flags: OF from every rounding, NV from the activation. -/
def epValue (acc : W32) (f : Ex) (bias : Option Ex) (a : Act) : Ex × FpFlags :=
  let o1 := fp32.round ((fp32.decode acc.toNat).mul f).1 .rne false
  let (x2, of2) : Ex × Bool :=
    match bias with
    | none => (fp32.decode o1.bits, false)
    | some b => let o := fp32.round ((fp32.decode o1.bits).add b .rne).1 .rne false; (fp32.decode o.bits, o.fl.of)
  let (x3, fl) := actOf a x2
  (x3, { nv := fl.nv, of := o1.fl.of || of2 || fl.of })

/-- A quantised element: its bits, NV and OF, and whether a range clamp applied. -/
structure Quant where
  bits : Nat
  nv : Bool
  of : Bool
  clamp : Bool

/-- The element type of an OTYPE (R197): the MX forms are those of E4M3 to E2M1. -/
def epType (otype : BitVec 4) : Nat := if 9 ≤ otype.toNat then otype.toNat - 6 else otype.toNat

def quantise (e : EpArgs) (x : Ex) (k : Option Int) : Quant :=
  let t := epType e.otype
  if 9 ≤ e.otype.toNat then
    match k with
    | none => { bits := (fmt! t).nanOut.bits, nv := true, of := false, clamp := false }
    | some k =>
      let o := (fmt! t).round (x.mul (.fin false 1 (-k) false)).1 (rmodeOf e.round) true
      { bits := o.bits, nv := o.fl.nv, of := o.fl.of, clamp := false }
  else if t = 8 then
    let (n, fl) := cvtToInt x 8 (rmodeOf e.round)
    { bits := wrapN 8 n, nv := fl.nv, of := false, clamp := fl.nv && !x.isNan }
  else
    let o := (fmt! t).round x (rmodeOf e.round) e.sat
    { bits := o.bits, nv := o.fl.nv, of := o.fl.of, clamp := false }

/-- A count with more added, saturating (R189). -/
def countUp (c : BitVec n) (k : Nat) : BitVec n := BitVec.ofNat n (min (c.toNat + k) (2 ^ n - 1))

/-- What an epilogue computes: the elements of its rows, the scale words of an MX form, and its counts. -/
structure EpOut where
  elem : Nat → Nat → Quant
  scales : List (Nat × W32)
  nans : Nat
  clamps : Nat
  nv : Bool
  of : Bool
  sat : Bool

/-- The computation over an M x N block. -/
def epCompute (e : EpArgs) (a : AccTile) (x : MmaShape) (f : Ex) (bias : Nat → Option Ex) : EpOut :=
  let val (r n : Nat) : Ex × FpFlags := epValue ((a.vals[64 * r + n]?).getD 0) f (bias n) e.act
  let mx := decide (9 ≤ e.otype.toNat)
  let block (r q : Nat) : Option Int :=
    packExp (epType e.otype) (((List.range 32).filter fun j => decide (32 * q + j < x.n)).map fun j => (fp32Bits (val r (32 * q + j)).1).toNat)
  let elem (r n : Nat) : Quant := quantise e (val r n).1 (if mx then block r (n / 32) else none)
  let all : List (Nat × Nat) := (List.range x.m).flatMap fun r => (List.range x.n).map fun n => (r, n)
  let of (p : Nat × Nat) : Bool := (val p.1 p.2).2.of || (elem p.1 p.2).of
  { elem := elem
    scales := if mx then
        (List.range x.m).flatMap fun r => ((List.range 2).filter fun q => decide (32 * q < x.n)).map fun q =>
          (e.scidx.toNat * 128 + 2 * r + q, packLane 0 (block r q))
      else []
    nans := (all.filter fun p => (val p.1 p.2).1.isNan).length
    clamps := (all.filter fun p => of p || (elem p.1 p.2).clamp).length
    nv := all.any fun p => (val p.1 p.2).2.nv || (elem p.1 p.2).nv
    of := all.any of
    sat := all.any fun p => (elem p.1 p.2).clamp }

/-! Destinations (R199). -/

/-- The bytes of a row of n elements: FP4 two to a byte (R108). -/
def rowBytes (t n : Nat) (elem : Nat → Quant) : List Byte :=
  if t = 7 then (List.range (n / 2)).map fun i => BitVec.ofNat 8 ((elem (2 * i)).bits + 16 * (elem (2 * i + 1)).bits)
  else (List.range n).flatMap fun i => leBytes (elem i).bits (esizeOf t)

/-- A byte of a destination: its address, mask, value, and whether it belongs to a poisoned row. -/
structure DestByte where
  addr : Nat
  mask : Byte
  val : Byte
  poison : Bool

/-- The masked bytes of one location among destination bytes. -/
def locBytes (bs : List DestByte) (loc : Nat) : List (Byte × Byte) :=
  (List.range 8).map fun i => (bs.filter fun b => b.addr == loc + i).foldl (fun p b => (p.1 ||| b.mask, maskByte p.2 b.mask b.val)) (0, 0)

/-- One write for each location touched; with FE it is set full as its data is written. -/
def wordMoves (bs : List DestByte) (fe : Bool) : List PendMove :=
  ((bs.map fun b => locOf b.addr).eraseDups).map fun loc =>
    { dst := loc, src := .bytes (locBytes bs loc) (some (bs.any fun b => locOf b.addr == loc && b.poison)), fe := if fe then .full else .keep }

/-- An element as a write of a remote object. -/
def elemPut (bs : List DestByte) (ptr : Nat) (fe : Bool) : PutWord :=
  { ptr := BitVec.ofNat 64 ptr, bytes := bs.map fun b => (b.mask, b.val), fe := if fe then .full else .keep, full := true,
    mark := if bs.any (·.poison) then some true else none }

/-- Where an epilogue's rows go: local writes with the sub-tiles translated, remote writes by row, or the entries of a per-row table
with the map version. -/
inductive EpDest where
  | moves (key : Nat → Nat → Nat) (uses : List (ObjUse × Bool))
  | far (home : Nat) (ptr : Nat → Nat → Nat)
  | table (entries : List W64) (mv : W32)

/-- An epilogue: `dest` checks and forms its destination; the values are computed and the tile read as it starts. -/
def State.epilogue (s : State) (w : Sems) (e : EpArgs) (op : Instr) (add : Bool) (dest : Mach → MmaShape → Except (NoPlace × W64) EpDest) :
    Host.Outcome State Fault Refusal :=
  let c := s.cur.core
  let t := matStrand s.cur.strand
  s.array t w op 4 fun m =>
    let k := m.cores[c]
    let ty := epType e.otype
    match blockShape k.sets[engineNo (engineOf t)].cur.sh[e.sh] none with
    | none => .trap shapeTrap
    | some x =>
      if ty = 7 ∧ x.n % 2 ≠ 0 then .trap shapeTrap
      else
        match dest m x with
        | .error (np, ea) => np.run m ea
        | .ok d =>
          let a := k.acc[e.tile.toNat]
          let bias (n : Nat) : Option Ex := if e.bias then some (fp32.decode (m.spmNat c (256 * e.baddr.toNat + 4 * n) 4)) else none
          let out := epCompute e a x (fp32.decode (k.eng t).f[e.f].toNat) bias
          let sends (r : Nat) : Bool := match d with | .table es _ => ((es.getD r 0).toNat / 2 ^ 28 % 2 ^ 24 != 0) && !e.gen.getLsbD 7 | _ => true
          let prows := ((List.range x.m).filter fun r => a.pois.getLsbD r && sends r).length
          let mst (q : Mst) : Mst :=
            { q with nanout := countUp q.nanout out.nans, clamp := countUp q.clamp out.clamps, prows := countUp q.prows prows,
                     sat := q.sat || out.sat, of := q.of || out.of, nv := q.nv || out.nv }
          let m1 := m.onCore c fun k =>
            { (k.onEng t fun g => { g with mst := mst g.mst }) with
              acc := if e.kill then k.acc.set e.tile.toNat { a with live := false } else k.acc
              scale := if out.scales.isEmpty then k.scale else
                Vector.ofFn fun i : Fin 16384 => ((out.scales.find? fun p => p.1 == i.val).map (·.2)).getD k.scale[i] }
          let byte (addr r n : Nat) : List DestByte :=
            let q := out.elem r n
            if ty = 7 then [{ addr := addr, mask := if n % 2 = 0 then 0x0F else 0xF0, val := BitVec.ofNat 8 (q.bits * 16 ^ (n % 2)), poison := a.pois.getLsbD r }]
            else (leBytes q.bits (esizeOf ty)).zipIdx.map fun b => { addr := addr + b.2, mask := 0xFF, val := b.1, poison := a.pois.getLsbD r }
          let rowOf (at_ : Nat → Nat → Nat) (r : Nat) : List DestByte := (List.range x.n).flatMap fun n => byte (at_ r n) r n
          let flight := m1.nextOp
          let ctx := k.ctl.ctxid
          match d with
          | .moves key uses =>
            .done (m1.launchStep c t w op 4 fun f =>
              { f with moves := wordMoves ((List.range x.m).flatMap (rowOf key)) e.fe, uses := uses })
          | .far home ptr =>
            let m2 := m1.launchStep c t w op 4 id
            .done ((List.range x.m).foldl (fun m r =>
              m.send c t flight ctx (BitVec.ofNat 12 home) (.puts ((List.range x.n).map fun n => elemPut (byte (ptr r n) r n) (ptr r n) e.fe)) []) m2)
          | .table es mv =>
            let m2 := m1.launchStep c t w op 4 id
            let squash := e.gen.getLsbD 7
            .done ((List.range x.m).foldl (fun m r =>
              let en := (es.getD r 0).toNat
              let h := en / 2 ^ 28 % 2 ^ 24
              if h = 0 then m
              else
                let row : RowMsg :=
                  { h := BitVec.ofNat 24 h, row := BitVec.ofNat 28 en, col0 := 64 * e.hi.toNat, otype := e.otype, n := x.n, gen := e.gen, mv := mv, add := add,
                    fe := e.fe, data := if squash then [] else rowBytes ty x.n (out.elem r), poison := a.pois.getLsbD r && !squash }
                m.send c t flight ctx (BitVec.ofNat 12 (en / 2 ^ 52)) (.row row) []) m2)

/-- `epil` (R199): DST + m x PITCH + n x esize, near. -/
def execEpil (w : Sems) (e : EpArgs) (dst : W32) (s : State) : Host.Outcome State Fault Refusal :=
  s.epilogue w e (.epil w e dst) false fun m x =>
    let c := s.cur.core
    let t := epType e.otype
    let rowb := if t = 7 then x.n / 2 else x.n * esizeOf t
    let at_ : W64 := dst.setWidth 64
    let pitch := e.hi.toNat
    if dst.toNat % 16 ≠ 0 then .error (trapOf .align at_, 0)
    else if pitch < rowb then .error (trapOf .shape 0, 0)
    else
      match m.nearRun c dst.toNat ((x.m - 1) * pitch + rowb) with
      | none => .error (trapOf .perm at_, 0)
      | some key => .ok (.moves (fun r n => key + r * pitch + (if t = 7 then n / 2 else n * esizeOf t)) [])

/-- The address of an element of `epobj`: the dense address of R162 in a layout. -/
def epobjPtr (ly : LayoutReg) (row col : Nat) : Except NoPlace W64 :=
  ptrAdd ly.ptr ((row : Int) * ly.str 1 + (if ly.type = 7 then ((col / 2 : Nat) : Int) else (col : Int) * ly.str 0))

/-- A location that a failed promotion left poisoned (R190, 13 R380, R384): its sub-tile's entry has POIS, and it still has its mark. -/
def Mach.unpromoted (m : Mach) (site : CacheSite) (pl : Place) : Bool :=
  match pl with
  | .store key _ (some u) =>
    memPoisoned m.mem (locOf key) && (objRec? m site u.ctx u.h).any fun r => (mapEntry m site u.ctx u.h u.k r).1.getLsbD 62
  | _ => false

/-- Every element of a block translated, in row-major order; one that a failed promotion left poisoned faults POISON (R190). -/
def Mach.epobjPlaces (m : Mach) (c : CoreId) (e : EpArgs) (ly : LayoutReg) (row0 col0 : Nat) (x : MmaShape) :
    Except (NoPlace × W64) (List ((Nat × Nat) × W64 × Place)) :=
  ((List.range x.m).flatMap fun r => (List.range x.n).map fun n => (r, n)).mapM fun p => do
    let ptr ← (epobjPtr ly (row0 + p.1) (col0 + p.2)).mapError fun np => (np, ly.ptr)
    let pl ← (if ptrOff ptr % esizeOf ly.type.toNat ≠ 0 then .error (trapOf .align ptr)
      else place m (m.vasker c) ptr (esizeOf ly.type.toNat) (if e.fe then .bitWrite else .write)).mapError fun np => (np, ptr)
    if m.unpromoted (some (clusterFin c)) pl then .error (trapOf .poison ptr, ptr) else return (p, ptr, pl)

/-- `epobj` (R199): it translates its object once, at its start. -/
def execEpobj (w : Sems) (e : EpArgs) (ly : Fin 8) (row0 : BitVec 29) (s : State) : Host.Outcome State Fault Refusal :=
  s.epilogue w e (.epobj w e ly row0) false fun m x => do
    let c := s.cur.core
    let l := m.cores[c].sets[engineNo (engineOf (matStrand s.cur.strand))].cur.ly[ly]
    if l.kind ≠ 0 ∨ l.type.toNat ≠ epType e.otype then .error (trapOf .shape l.ptr, 0)
    else
      let pls ← m.epobjPlaces c e l row0.toNat (64 * e.hi.toNat) x
      let find (r n : Nat) : Option (W64 × Place) := (pls.find? fun p => p.1 == (r, n)).map (·.2)
      match pls.findSome? (fun p => match p.2.2 with | .remote home _ => some home | _ => none) with
      | some home => .ok (.far home fun r n => ((find r n).map (·.1.toNat)).getD 0)
      | none =>
        let key (r n : Nat) : Nat := match find r n with | some (_, .store key _ _) => key | _ => 0
        let uses := (pls.filterMap fun p => match p.2.2 with | .store _ _ (some u) => some (u, true) | _ => none).eraseDups
        .ok (.moves key uses)

/-- The per-row table read at the start (R200, R364): 64 entries and the map version. DESIGN CHOICE (log 70): a TADDR that is no multiple of 64 faults ALIGN,
a table that passes the end of SPM faults PERM, both at TADDR, and a poisoned word of the table, or the poisoned map version, faults POISON at itself. -/
def Mach.rowTable (m : Mach) (c : CoreId) (taddr : Nat) (x : MmaShape) : Except (NoPlace × W64) EpDest :=
  let at_ (a : Nat) : W64 := BitVec.ofNat 64 a
  let entry (r : Nat) : W64 := BitVec.ofNat 64 (m.spmNat c (taddr + 8 * r) 8)
  if taddr % 64 ≠ 0 then .error (trapOf .align (at_ taddr), 0)
  else if 0x100000 < taddr + 520 then .error (trapOf .perm (at_ taddr), 0)
  else
    match (List.range x.m ++ [64]).find? fun r => memPoisoned m.mem (spmKey c (taddr + 8 * r)) with
    | some r => .error (trapOf .poison (at_ (taddr + 8 * r)), 0)
    | none =>
      match (List.range x.m).find? fun r => decide (m.group ≤ (entry r).toNat / 2 ^ 52) with
      | some r => .error (trapOf .perm (at_ (taddr + 8 * r)), 0)
      | none => .ok (.table ((List.range 64).map entry) (BitVec.ofNat 32 (m.spmNat c (taddr + 512) 4)))

/-- `eprow` (R200): each row travels as one message. -/
def execEprow (w : Sems) (e : EpArgs) (taddr : BitVec 20) (s : State) : Host.Outcome State Fault Refusal :=
  s.epilogue w e (.eprow w e taddr) false fun m x => m.rowTable s.cur.core taddr.toNat x

/-- `epadd` (R200): each FP32 element is added at its destination. -/
def execEpadd (w : Sems) (e : EpArgs) (taddr : BitVec 20) (s : State) : Host.Outcome State Fault Refusal :=
  s.epilogue w e (.epadd w e taddr) true fun m x => m.rowTable s.cur.core taddr.toNat x

end Sys2Proof.Machine
end

