-- ==== Sys2Proof/Machine/FabReply.lean ====
section
/-! DEFINITION. The answers to the package's own messages: acknowledgements, data, failures, bounces and timeouts (06 R200, 12 R343,
R344, R351, R354, R365). -/

namespace Sys2Proof.Machine

/-- An answer that a message can have. -/
def replyFits (b : FabBody) (r : FabReply) : Bool :=
  match b, r with
  | _, .failed _ => true
  | .puts _, .landed => true
  | .get _ n needFull, .data l => decide (l.length = n / 8) && (!needFull || l.all (·.full))
  | .get _ _ needFull, .empty _ => needFull
  | .atom .., .old _ => true
  | .atom .., .access .poisoned => true
  | .access .., .access _ => true
  | .row _, .landed => true
  | .row _, .redirect _ _ => true
  | .coll _, .landed => true
  | .coll _, .bounced => true
  | .coll _, .slotRefused => true
  | _, _ => false

/-- The message of a number that its step still waits for. -/
def Fabric.live? (f : Fabric) (id : Nat) : Option FabEntry := f.net.find? fun e => e.msg.id == id && e.live

def Fabric.onEntry (f : Fabric) (id : Nat) (g : FabEntry → FabEntry) : Fabric := { f with net := f.net.map fun e => if e.msg.id = id then g e else e }

/-- An answer that this package may receive now: the one its own home has made, or one that fits from another package's. -/
def Mach.replyDue (m : Mach) (e : FabEntry) (r : FabReply) : Bool :=
  e.resendAt.isNone && if e.msg.dst = m.pkg then e.reply == some r else replyFits e.msg.body r

/-- A message is over: its step no longer waits for it. -/
def Mach.closeEntry (m : Mach) (e : FabEntry) : Mach :=
  (m.onFab fun f => { f with net := f.net.filter fun x => x.msg.id != e.msg.id }).onFlight e.core e.strand e.flight fun f =>
    { f with msgs := f.msgs.filter (· != e.msg.id) }

/-- A message that its sender gives up (R344): one of this package not yet performed may still be. -/
def Mach.giveUp (m : Mach) (e : FabEntry) : Mach :=
  if e.msg.dst = m.pkg ∧ !e.delivered then
    (m.onFab fun f => f.onEntry e.msg.id fun x => { x with live := false }).onFlight e.core e.strand e.flight fun f =>
      { f with msgs := f.msgs.filter (· != e.msg.id) }
  else m.closeEntry e

/-- The first remote failure of a flight stands (R351). -/
def Mach.failFlight (m : Mach) (e : FabEntry) (cls : TrapClass) (addr : Option W64) : Mach :=
  m.onFlight e.core e.strand e.flight fun f =>
    { f with failed := match f.failed with | some x => some x | none => some { cls := cls, addr := addr.getD f.far } }

/-- ROWFAIL counts a failed row, saturating (06 R189, R200). -/
def Mach.rowFail (m : Mach) (e : FabEntry) : Mach :=
  m.onEng e.core e.strand fun g => { g with mst := { g.mst with rowfail := countUp g.mst.rowfail 1 } }

/-- The data of a get of a collective's source region. -/
def collSrc (l : List (MoveDst × FeAct × LocData)) : List (Nat × LocData) :=
  l.filterMap fun x => match x.1 with | .coll off => some (off, x.2.2) | _ => none

/-- What comes once the last answer of a flight is in: the data kept back moves on, unless the step failed; a collective whose
source region has been read goes on; and one whose sends are all acknowledged takes its bytes off its counter (R300, R356, 17 R453). -/
def Mach.answered (m : Mach) (e : FabEntry) (others : Bool) : Mach :=
  match m.cores[e.core].flight? e.strand e.flight with
  | none => m
  | some f =>
    if !f.msgs.isEmpty then m
    else
      let m1 := m.onFlight e.core e.strand e.flight fun f => { f with got := [], moves := if f.failed.isSome ∧ !f.got.isEmpty then [] else f.moves }
      let m2 := if f.failed.isNone ∧ !f.got.isEmpty then m1.landed e.core e.strand e.flight e.msg.ctx (inOrder f.got) else m1
      match m2.fab.coll? e.core e.flight with
      | none => m2
      | some r =>
        if !r.ready then
          if f.failed.isSome then m2.onColl e.core e.flight fun r => { r with reason := if r.reason = 0 then 3 else r.reason }
          else m2.collLaunch e.core e.flight
        else
          match f.pb with
          | some (dl, n) => (m2.onFlight e.core e.strand e.flight fun f => { f with pb := none }).addBytes e.core dl (-(n : Int)) others
          | none => m2

/-- What an answer does to its step. -/
def Mach.takeReply (m : Mach) (e : FabEntry) (r : FabReply) : Mach :=
  match e.msg.body, r with
  | .get _ _ needFull, .data l =>
    let got := (e.dests.zip l).map fun x => (x.1.1, x.1.2, x.2)
    match m.fab.coll? e.core e.flight with
    | some _ => m.onColl e.core e.flight fun r => { r with src := r.src ++ collSrc got }
    | none =>
      let kept := needFull || ((m.cores[e.core].flight? e.strand e.flight).any fun f => keepsGot f.op)
      if kept then m.onFlight e.core e.strand e.flight fun f => { f with got := f.got ++ got.map fun x => (e.msg.id, x) }
      else m.landed e.core e.strand e.flight e.msg.ctx got
  | _, .empty p => m.failFlight e .feExpire (some p)
  | .atom .., .old v =>
    let op : Option Instr := (m.cores[e.core].flight? e.strand e.flight).map (·.op)
    match op with
    | some (.fatom _ _ _ _ oaddr _) =>
      m.onFlight e.core e.strand e.flight fun f =>
        { f with moves := f.moves ++ [{ dst := spmKey e.core (oaddr.toNat + 8), src := .bytes (wholeWord v) (some false), fe := .keep }] }
    | _ => m
  | .atom .., .access .poisoned => m.failFlight e .poison none
  | .coll _, .slotRefused => m.onColl e.core e.flight fun r => { r with reason := if r.reason = 0 then 2 else r.reason }
  | .coll _, .failed _ => m.onColl e.core e.flight fun r => { r with reason := if r.reason = 0 then 3 else r.reason }
  | _, .failed _ => m.failFlight e .fabric none
  | _, _ => m

/-- The time a bounced message waits before it is sent again (R354). -/
def bounceWait (b : Nat) : Nat := 64 * 2 ^ min b 10

/-- FBTMO in s-cycles; 0 counts as 1 (R344). -/
def Mach.fabLimit (m : Mach) : Nat := max m.fab.fbtmo.toNat 1

/-- An acknowledgement of a message sent at an s-cycle would come after its LIMIT (R344). -/
def Mach.tooLate (m : Mach) (start : Nat) : Bool := decide (start + m.fabLimit < m.scyc)

/-- A message that FBTMO bounds: a collective's own has its descriptor's timeout (R344, R357). -/
def FabEntry.timed (e : FabEntry) : Bool := match e.msg.body with | .coll _ => false | _ => true

/-- The answer to a strand's access to a remote record has come; after LIMIT it counts as failed (R344). -/
def Mach.remoteReply (m : Mach) (id : Nat) (a : RemoteReply) : Mach :=
  { m with remotes := m.remotes.map fun r => if r.id = id ∧ r.reply.isNone then { r with reply := some (if m.tooLate r.start then .refused else a) } else r }

/-- A message fails at its sender (R344): a row counts in ROWFAIL; of any other step it is a remote failure. -/
def Mach.failMessage (m : Mach) (e : FabEntry) (others : Bool) : Mach :=
  match e.msg.body with
  | .row _ => (m.rowFail e).giveUp e
  | _ => ((m.failFlight e .fabric none).giveUp e).answered e others

/-- `FABRIC_REPLY` (R343, R351, R354): the answer to a message of a copy or matrix step other than a row, or of a strand. One that comes after LIMIT
finds its message failed. -/
def execFabricReply (id : Nat) (reply : FabReply) (s : State) : Host.Outcome State Fault Refusal :=
  let m := s.mach
  let others := Config.remoteArrived s.tick
  match m.fab.live? id with
  | some e =>
    match e.msg.body with
    | .row _ => .next s
    | _ =>
      if !m.replyDue e reply then .next s
      else if e.timed && m.tooLate e.start then .next { s with mach := m.failMessage e others }
      else
        match reply with
        | .bounced =>
          let m1 := m.onFab fun f => f.onEntry id fun e =>
            { e with bounces := e.bounces + 1, resendAt := some (m.scyc + bounceWait (e.bounces + 1)) }
          .next { s with mach := m1.onColl e.core e.flight fun r => { r with bounces := r.bounces + 1 } }
        | _ => .next { s with mach := ((m.takeReply e reply).closeEntry e).answered e others }
  | none =>
    match reply with
    | .access a => .next { s with mach := m.remoteReply id a }
    | .failed _ => .next { s with mach := m.remoteReply id .refused }
    | _ => .next s

/-- The atomic of a `fatom` of this package that the lock gate holds (14 R426): the mooring budget bounds it, and no reply timeout (19 R474). -/
def Mach.heldByGate (m : Mach) (e : FabEntry) : Bool :=
  e.msg.dst == m.pkg && !e.delivered && m.gateHolds e.core e.msg

/-- `FABRIC_REPLY_TIMEOUT` (R344): no answer came in time. A collective's own timeout is its descriptor's. -/
def execFabricReplyTimeout (id : Nat) (s : State) : Host.Outcome State Fault Refusal :=
  let m := s.mach
  match m.fab.live? id with
  | some e =>
    if m.scyc < e.start + m.fabLimit ∨ !e.timed ∨ m.heldByGate e then .next s
    else .next { s with mach := m.failMessage e (Config.remoteArrived s.tick) }
  | none =>
    match m.remotes.find? (·.id == id) with
    | some r => if m.scyc < r.start + m.fabLimit then .next s else .next { s with mach := m.remoteReply id .refused }
    | none => .next s

/-- `ROW_ACK` (06 R200, R365): a row is acknowledged as landed or failed, or redirected; a row is redirected once. An acknowledgement after LIMIT finds
the row failed. -/
def execRowAck (id : Nat) (reply : FabReply) (s : State) : Host.Outcome State Fault Refusal :=
  let m := s.mach
  match m.fab.live? id with
  | some e =>
    match e.msg.body with
    | .row r =>
      if !m.replyDue e reply then .next s
      else if m.tooLate e.start then .next { s with mach := (m.rowFail e).closeEntry e }
      else
        match reply with
        | .redirect pkg h =>
          if e.redirected then .next { s with mach := (m.rowFail e).closeEntry e }
          else
            let m1 := m.onFab fun f => f.onEntry id fun e =>
              { e with msg := { e.msg with dst := pkg, body := .row { r with h := h } }, delivered := false, reply := none, redirected := true }
            .next { s with mach := m1 }
        | .failed _ => .next { s with mach := (m.rowFail e).closeEntry e }
        | _ => .next { s with mach := m.closeEntry e }
    | _ => .next s
  | none => .next s

/-- `BOUNCE_RESEND` (R354): the wait after a bounce is over, and the message is sent again. -/
def execBounceResend (id : Nat) (s : State) : Host.Outcome State Fault Refusal :=
  let m := s.mach
  match m.fab.live? id with
  | some e =>
    match e.resendAt with
    | some t =>
      let m1 := m.onFab fun f => f.onEntry id fun e => { e with resendAt := none, delivered := false, reply := none }
      if t ≤ m.scyc then .next { s with mach := m1 } else .next s
    | none => .next s
  | none => .next s

end Sys2Proof.Machine
end

