-- ==== Sys2Proof/Decode.lean ====
section
/-! DEFINITION. The decoders of the five code sections (02 R38 to R61 and the chapters' own word formats), total on any
words, and the encoder written from the same tables. A word list that is not an instruction is refused. -/

namespace Sys2Proof

/-- The answer of a decoder: an instruction and the words it takes; an illegal word (R39); or a legal header whose
following words are not all present (R42, R44). -/
inductive Decoded where
  | ok (i : Instr) (words : Nat)
  | illegal
  | short
  deriving DecidableEq, Repr

/-! Fields of a word, most significant first, given the widths a format table lists. -/

/-- The bits a list of widths takes. -/
def widthSum : List Nat → Nat
  | [] => 0
  | n :: ns => n + widthSum ns

/-- The fields of a word under a format's widths. -/
def fields : List Nat → Nat → List Nat
  | [], _ => []
  | n :: ns, w => w / 2 ^ widthSum ns % 2 ^ n :: fields ns w

/-- The word whose fields these are: each pair is a width and a value. -/
def pack : List (Nat × Nat) → Nat
  | [] => 0
  | (n, v) :: r => v % 2 ^ n * 2 ^ widthSum (r.map Prod.fst) + pack r

/-- The formats of R46. -/
def fmtCR : List Nat := [6, 5, 5, 5, 1, 4, 6]
def fmtCI : List Nat := [6, 5, 5, 1, 15]
def fmtCM : List Nat := [6, 5, 5, 4, 1, 2, 3, 6]
def fmtCA : List Nat := [6, 5, 5, 5, 2, 3, 4, 1, 1]
def fmtCF : List Nat := [6, 16, 10]
def fmtCB : List Nat := [6, 3, 1, 22]
def fmtCL : List Nat := [6, 26]
def fmtCJ : List Nat := [6, 5, 5, 1, 15]
/-- The vector word (R51) and the qualifier prefix (R53). -/
def fmtV : List Nat := [7, 7, 7, 7, 1, 3]
def fmtVP : List Nat := [7, 4, 3, 1, 1, 1, 2, 1, 3, 9]
/-- The step-word header (R55) and the sampler word (R60). -/
def fmtStep : List Nat := [6, 4, 4, 2, 16]
def fmtS : List Nat := [6, 4, 4, 4, 1, 13]

/-- A field as a number below n, when it is one. -/
def toFin? (n v : Nat) : Option (Fin n) := if h : v < n then some ⟨v, h⟩ else none

/-- An answer for a candidate instruction: it must be well formed. -/
def finish (o : Option Instr) (words : Nat) : Decoded :=
  match o with
  | some i => if wellFormed i then .ok i words else .illegal
  | none => .illegal

/-- A candidate whose literal or extension words are missing. -/
def lacking (o : Option Instr) : Decoded :=
  match finish o 0 with
  | .ok _ _ => .short
  | r => r

/-! The control strand (R45 to R50). -/

def toDst (v : Nat) : Dst := if h : v < 31 then .x ⟨v, h⟩ else .none

/-- A source field: a register, or the instruction's literal when it holds 31. -/
def toSrc (lit : Src) (v : Nat) : Src := if h : v < 31 then .x ⟨v, h⟩ else lit

/-- R45: how many literal words follow, from the source fields and the L bit; then the instruction built with the literal. -/
def withLit (l : Nat) (srcs : List Nat) (rest : List W32) (k : (Nat → Src) → Option Instr) : Decoded :=
  match (srcs.filter (· == 31)).length, l with
  | 0, 0 => finish (k (toSrc (.lit32 0))) 1
  | 1, 0 =>
    match rest with
    | w :: _ => finish (k (toSrc (.lit32 w))) 2
    | [] => lacking (k (toSrc (.lit32 0)))
  | 1, 1 =>
    match rest with
    | lo :: hi :: _ => finish (k (toSrc (.lit64 (hi ++ lo)))) 3
    | _ => lacking (k (toSrc (.lit64 0)))
  | _, _ => .illegal

def toOrd (v : Nat) : Ord :=
  match v with
  | 0 => .none
  | 1 => .acq
  | 2 => .rel
  | _ => .acqRel

def toScope? (v : Nat) : Option Scope :=
  match v with
  | 0 => some .core
  | 1 => some .cluster
  | 2 => some .die
  | 3 => some .package
  | 4 => some .fabric
  | _ => none

def toCond? (v : Nat) : Option Cond :=
  match v with
  | 0 => some .eq
  | 1 => some .ne
  | 2 => some .lt
  | 3 => some .le
  | 4 => some .gt
  | 5 => some .ge
  | 6 => some .ltn
  | 7 => some .len
  | 8 => some .gtn
  | 9 => some .gen
  | _ => none

def toEngine? (v : Nat) : Option Engine :=
  match v with
  | 0 => some .vector
  | 1 => some .matrixA
  | 2 => some .matrixB
  | 3 => some .copy
  | _ => none

def toRing? (v : Nat) : Option RingNo :=
  match v with
  | 0 => some .matrixA
  | 1 => some .matrixB
  | 2 => some .copy
  | _ => none

/-- The two-source functions of major 0x01 (R50). -/
def alu2 (fn : Nat) : Option (Dst → Src → Src → Instr) :=
  match fn with
  | 0x00 => some .add | 0x01 => some .sub | 0x02 => some .mul | 0x03 => some .mulh
  | 0x04 => some .mulhn | 0x05 => some .div | 0x06 => some .divn | 0x07 => some .rem
  | 0x08 => some .remn | 0x09 => some .and | 0x0A => some .or | 0x0B => some .xor
  | 0x0C => some .andn | 0x0D => some .shl | 0x0E => some .shr | 0x0F => some .sar
  | 0x10 => some .rol | 0x11 => some .min | 0x12 => some .max | 0x13 => some .minn
  | 0x14 => some .maxn | 0x15 => some .adds | 0x16 => some .subs | 0x17 => some .addsn
  | 0x18 => some .subsn | 0x19 => some .muls
  | _ => none

/-- The single-source functions of major 0x01 (R50). -/
def alu1 (fn : Nat) : Option (Dst → Src → Instr) :=
  match fn with
  | 0x1A => some .abs | 0x1B => some .neg | 0x1C => some .clz | 0x1D => some .ctz
  | 0x1E => some .popc | 0x1F => some .sext8 | 0x20 => some .sext16 | 0x21 => some .sext32
  | 0x22 => some .mov
  | _ => none

def toWalkStart? (v : Nat) (lit : Option W32) : Option WalkStart :=
  if v = 0x44 then some .zero
  else if v = 0x7F then lit.map .lit
  else (toFin? 4 v).map .cursor

/-- Format CM (R46, R47). -/
def memForm (n : Nat) (rest : List W32) (store : Bool) (ld : Dst → Src → MemQ → Instr) (st : Src → Src → MemQ → Instr) : Decoded :=
  match fields fmtCM n with
  | [_, d, base, cls, l, ord, scope, off] =>
    withLit l (if store then [d, base] else [base]) rest fun src => do
      let sc ← toScope? scope
      let q : MemQ := { cls := BitVec.ofNat 4 cls, ord := toOrd ord, scope := sc, off := BitVec.ofNat 6 off }
      some (if store then st (src d) (src base) q else ld (toDst d) (src base) q)
  | _ => .illegal

def loadForm (n : Nat) (rest : List W32) (c : Dst → Src → MemQ → Instr) : Decoded :=
  memForm n rest false c (fun _ _ _ => .ret)

def storeForm (n : Nat) (rest : List W32) (c : Src → Src → MemQ → Instr) : Decoded :=
  memForm n rest true (fun _ _ _ => .ret) c

/-- Format CA (R46, R47, R290). -/
def atomForm (n : Nat) (rest : List W32) (c : Dst → Src → Src → AtomQ → Instr) : Decoded :=
  match fields fmtCA n with
  | [_, d, base, b, ord, scope, cls, l, r] =>
    if r ≠ 0 then .illegal else
    withLit l [base, b] rest fun src => do
      let sc ← toScope? scope
      some (c (toDst d) (src base) (src b) { cls := BitVec.ofNat 4 cls, ord := toOrd ord, scope := sc })
  | _ => .illegal

/-- `acas`: field d is the expected value, a source as well (R45, R290). -/
def casForm (n : Nat) (rest : List W32) : Decoded :=
  match fields fmtCA n with
  | [_, d, base, b, ord, scope, cls, l, r] =>
    if r ≠ 0 then .illegal else
    withLit l [d, base, b] rest fun src => do
      let sc ← toScope? scope
      some (.acas (src d) (src base) (src b) { cls := BitVec.ofNat 4 cls, ord := toOrd ord, scope := sc })
  | _ => .illegal

/-- Format CI with a propagated source (R88). -/
def immForm (n : Nat) (rest : List W32) (c : Dst → Src → BitVec 15 → Instr) : Decoded :=
  match fields fmtCI n with
  | [_, d, a, l, imm] => withLit l [a] rest fun src => some (c (toDst d) (src a) (BitVec.ofNat 15 imm))
  | _ => .illegal

/-- The rows of `alloc`, by a literal kind. -/
def allocRow (d : Dst) (a b : Src) : Instr :=
  if b.isKind 8 then .allocBump d a b else if b.isStatusKind then .allocStatus d a b else .allocRing d a b

/-- The rows of `rpctl`, by a literal selector. -/
def rpctlInstr (d : Dst) (a b : Src) : Instr :=
  match rpctlRow b with
  | .rdst => .rpctlRdst d a b
  | .ck => .rpctlCk d a b
  | .rdhash => .rpctlRdhash d a b
  | .config => .rpctlConfig d a b
  | .stop => .rpctlStop d a b

/-- The rows of `srw`, by the register number (R77, R391, R406). -/
def srwInstr (imm : Nat) (a : Src) : Instr :=
  match imm with
  | 0x40 => .crcfgWrite .matrixA a | 0x41 => .crrpWrite .matrixA a | 0x42 => .crwpWrite .matrixA a
  | 0x44 => .crcfgWrite .matrixB a | 0x45 => .crrpWrite .matrixB a | 0x46 => .crwpWrite .matrixB a
  | 0x48 => .crcfgWrite .copy a | 0x49 => .crrpWrite .copy a | 0x4A => .crwpWrite .copy a
  | 0x102 => .mcinvWrite a
  | 0x104 => .mlcfgWrite a
  | 0x14B => .vstatWrite a
  | _ => .srw (BitVec.ofNat 15 imm) a

/-- Format CR with its function code: d, a, b, L and fn, the reserved bits being 0. Each row of the maps of R49. -/
def decodeCR (op d a b l fn : Nat) (rest : List W32) : Decoded :=
  let two (c : Src → Src → Option Instr) : Decoded := withLit l [a, b] rest fun s => c (s a) (s b)
  let one (c : Src → Option Instr) : Decoded := withLit l [a] rest fun s => c (s a)
  let zero (c : Option Instr) : Decoded := if l = 0 then finish c 1 else .illegal
  let dd := toDst d
  match op with
  | 0x01 => if fn < 0x1A then two fun x y => (alu2 fn).map fun c => c dd x y
            else one fun x => if b = 0 then (alu1 fn).map fun c => c dd x else none
  | 0x08 => two fun x y => do some (.cmp (← toFin? 8 d) x y (← toCond? fn))
  | 0x0A => two fun x y => do some (.sel dd x y (← toFin? 8 fn))
  | 0x0B =>
    match fn with
    | 0 => zero do some (.kand (← toFin? 8 d) (← toFin? 8 a) (← toFin? 8 b))
    | 1 => zero do some (.kor (← toFin? 8 d) (← toFin? 8 a) (← toFin? 8 b))
    | 2 => zero do some (.kxor (← toFin? 8 d) (← toFin? 8 a) (← toFin? 8 b))
    | 3 => zero do if b = 0 then some (.knot (← toFin? 8 d) (← toFin? 8 a)) else none
    | 4 => zero do if b = 0 then some (.kmov (← toFin? 8 d) (← toFin? 8 a)) else none
    | _ => .illegal
  | 0x0C =>
    match fn with
    | 0 => two fun x y => some (.padd dd x y)
    | 1 => two fun x y => some (.psub dd x y)
    | 2 => one fun x => if b = 0 then some (.phdl dd x) else none
    | 3 => one fun x => if b = 0 then some (.poff dd x) else none
    | 4 => two fun x y => some (.pmake dd x y)
    | _ => .illegal
  | 0x1F => if fn = 0 then two fun x y => if d = 0 then some (.cireq x y) else none else .illegal
  | 0x30 =>
    match fn with
    | 0 => one fun x => if d = 0 ∧ b = 0 then some (.jr x) else none
    | 1 => one fun x => if d = 0 ∧ b = 0 then some (.callr x) else none
    | 2 => zero (if d = 0 ∧ a = 0 ∧ b = 0 then some .ret else none)
    | _ => .illegal
  | 0x32 =>
    match fn with
    | 0 => zero do if a = 0 then some (.qrd dd (← toFin? 8 b)) else none
    | 1 => one fun x => do if d = 0 then some (.qwr (← toFin? 8 b) x) else none
    | 2 => zero do if a = 0 then some (.qtryrd dd (← toFin? 8 b)) else none
    | 3 => one fun x => do if d = 0 then some (.qtrywr (← toFin? 8 b) x) else none
    | _ => .illegal
  | 0x33 =>
    match fn with
    | 0 => one fun x => do some (.shwr (← toFin? 8 d) x (← toEngine? b))
    | 1 => one fun x => do some (.lywr (← toFin? 8 d) x (← toEngine? b))
    | 2 => zero do if d = 0 ∧ a = 0 then some (.shswap (← toEngine? b)) else none
    | _ => .illegal
  | 0x34 =>
    match fn with
    | 0 => one fun x => do some (.csel dd x (← toFin? 8 b))
    | 1 => one fun x => do if b = 0 then some (.pchk (← toFin? 8 d) x) else none
    | 2 => one fun x => if b = 0 then some (.pclr dd x) else none
    | _ => .illegal
  | 0x37 => if fn = 0 then zero (if d = 0 ∧ a = 0 ∧ b = 0 then some .uiret else none) else .illegal
  | 0x38 =>
    match fn with
    | 0 => one fun x => do some (.smwait dd x (← toFin? 15 b))
    | 1 => one fun x => do some (.smadd dd x (← toFin? 15 b))
    | 2 => zero do if d = 0 ∧ a = 0 then some (.mxlock (← toFin? 8 b)) else none
    | 3 => zero do if d = 0 ∧ a = 0 then some (.mxfree (← toFin? 8 b)) else none
    | 4 => one fun x => if b = 0 then some (.dbar dd x) else none
    | 5 => two fun x y => some (.moor dd x y)
    | 6 => one fun x => if d = 0 ∧ b = 0 then some (if x.isYieldEnd then .yieldEnd x else .yieldPoint x) else none
    | _ => .illegal
  | 0x39 =>
    match fn with
    | 0 => two fun x y => some (.launch dd x y)
    | 1 => two fun x y => some (allocRow dd x y)
    | 2 => two fun x y => if d = 0 then some (if y.isKind 8 then .freeBump x y else .freeRing x y) else none
    | _ => .illegal
  | 0x3A =>
    match fn with
    | 0 => two fun x y => if d = 0 then some (.attn x y) else none
    | 1 => two fun x y => if d = 0 then some (.atcommit x y) else none
    | 2 => two fun x y => if d = 0 then some (.atdrop x y) else none
    | 3 => two fun x y => some (.exalloc dd x y)
    | 4 => two fun x y => if d = 0 then some (.exfree x y) else none
    | 5 => two fun x y => some (.exinv dd x y)
    | _ => .illegal
  | 0x3B =>
    match fn with
    | 0 => two fun x y => if d = 0 then some (.sample x y) else none
    | 1 => two fun x y => if d = 0 then some (.sbind x y) else none
    | _ => .illegal
  | 0x3C =>
    match fn with
    | 0 => two fun x y => some (.hins dd x y)
    | 1 => two fun x y => some (.htop dd x y)
    | 2 => two fun x y => if d = 0 then some (.hclr x y) else none
    | _ => .illegal
  | 0x3D =>
    match fn with
    | 0 => two fun x y => some (.obqry dd x y)
    | 1 => two fun x y => some (.obprobe dd x y)
    | _ => .illegal
  | 0x3E =>
    match fn with
    | 0 => one fun x => if d = 0 ∧ b = 0 then some (.trap x) else none
    | 1 => one fun x => if d = 0 ∧ b = 0 then some (if x.isKind 2 then .retsEnd x else .retsReturn x) else none
    | 2 => one fun x => if d = 0 ∧ b = 0 then some (.snap x) else none
    | 3 => two fun x y => some (rpctlInstr dd x y)
    | _ => .illegal
  | _ => .illegal

/-- The control section: a header and at most two literal words (R38, R46, R49). -/
def decodeControl (ws : List W32) : Decoded :=
  match ws with
  | [] => .short
  | w :: rest =>
    let n := w.toNat
    match n / 2 ^ 26 with
    | 0x02 => immForm n rest .addi
    | 0x03 => immForm n rest .andi
    | 0x04 => immForm n rest .ori
    | 0x05 => immForm n rest .xori
    | 0x06 =>
      match fields [6, 5, 5, 1, 7, 2, 6] n with
      | [_, d, a, l, r, kind, amount] =>
        if r ≠ 0 then .illegal else
        withLit l [a] rest fun s =>
          let x := BitVec.ofNat 6 amount
          match kind with
          | 0 => some (.shli (toDst d) (s a) x)
          | 1 => some (.shri (toDst d) (s a) x)
          | 2 => some (.sari (toDst d) (s a) x)
          | _ => some (.roli (toDst d) (s a) x)
      | _ => .illegal
    | 0x07 =>
      match fields fmtCI n with
      | [_, d, a, l, imm] => if a = 0 ∧ l = 0 then finish (some (.movi (toDst d) (BitVec.ofNat 15 imm))) 1 else .illegal
      | _ => .illegal
    | 0x09 =>
      match fields [6, 5, 5, 1, 4, 11] n with
      | [_, d, a, l, c, imm] =>
        withLit l [a] rest fun s => do some (.cmpi (← toFin? 8 d) (s a) (← toCond? c) (BitVec.ofNat 11 imm))
      | _ => .illegal
    | 0x0D => immForm n rest .paddi
    | 0x10 => loadForm n rest .ld
    | 0x11 => loadForm n rest .ld32
    | 0x12 => loadForm n rest .ld32s
    | 0x13 => loadForm n rest .ld16
    | 0x14 => loadForm n rest .ld16s
    | 0x15 => loadForm n rest .ld8
    | 0x16 => loadForm n rest .ld8s
    | 0x17 => loadForm n rest .ldwait
    | 0x18 => loadForm n rest .ldcons
    | 0x19 => storeForm n rest .st
    | 0x1A => storeForm n rest .st32
    | 0x1B => storeForm n rest .st16
    | 0x1C => storeForm n rest .st8
    | 0x1D => storeForm n rest .stfill
    | 0x1E =>
      match fields fmtCF n with
      | [_, mask, r] => if r = 0 then finish (some (.fence (BitVec.ofNat 16 mask))) 1 else .illegal
      | _ => .illegal
    | 0x20 => atomForm n rest .aadd
    | 0x21 => atomForm n rest .afadd
    | 0x22 => atomForm n rest .axchg
    | 0x23 => casForm n rest
    | 0x24 => atomForm n rest .amin
    | 0x25 => atomForm n rest .amax
    | 0x26 => atomForm n rest .aminn
    | 0x27 => atomForm n rest .amaxn
    | 0x28 => atomForm n rest .aand
    | 0x29 => atomForm n rest .aor
    | 0x2A => atomForm n rest .axor
    | 0x2D =>
      match fields fmtCL n with
      | [_, disp] => finish (some (.b (BitVec.ofNat 26 disp))) 1
      | _ => .illegal
    | 0x2E =>
      match fields fmtCL n with
      | [_, disp] => finish (some (.call (BitVec.ofNat 26 disp))) 1
      | _ => .illegal
    | 0x2F =>
      match fields fmtCB n with
      | [_, k, neg, disp] =>
        finish ((toFin? 8 k).map fun k => if neg = 0 then .bc k (BitVec.ofNat 22 disp) else .bcn k (BitVec.ofNat 22 disp)) 1
      | _ => .illegal
    | 0x31 =>
      match fields fmtCJ n with
      | [_, a, b, l, len] => withLit l [a, b] rest fun s => some (.jtab (s a) (s b) (BitVec.ofNat 15 len))
      | _ => .illegal
    | 0x35 =>
      match fields fmtCI n with
      | [_, d, a, l, imm] => if a = 0 ∧ l = 0 then finish (some (.srr (toDst d) (BitVec.ofNat 15 imm))) 1 else .illegal
      | _ => .illegal
    | 0x36 =>
      match fields fmtCI n with
      | [_, d, a, l, imm] => withLit l [a] rest fun s => if d = 0 then some (srwInstr imm (s a)) else none
      | _ => .illegal
    | op =>
      match fields fmtCR n with
      | [_, d, a, b, l, r, fn] => if r = 0 then decodeCR op d a b l fn rest else .illegal
      | _ => .illegal

/-! The vector strand (R51 to R54 and R139 to R173). -/

/-- A register field value 0x00 to 0x3F (R52). -/
def toVReg? (v : Nat) : Option VReg :=
  if v < 0x20 then (toFin? 32 v).map .v
  else if v < 0x40 then some (.ind (Fin.ofNat 4 (v / 8)) (Fin.ofNat 8 v))
  else none

def toVDst? (v : Nat) : Option VDst :=
  if v = 0x44 then some .none else (toVReg? v).map .reg

def toVSrc? (v : Nat) (lit : W32) : Option VSrc :=
  if v < 0x40 then (toVReg? v).map .reg
  else if v < 0x44 then some (.oq (Fin.ofNat 4 v))
  else if v = 0x44 then some .zero
  else if v = 0x7F then some (.lit lit)
  else none

/-- How the b field (or a) of a vector opcode is read: which of a and b may hold a literal (R52, R142). -/
inductive VShape where
  | ab | a | b | none
  deriving DecidableEq, Repr

/-- The literal words of a vector instruction: a's before b's (R52). -/
def vectorLits (shape : VShape) (a b : Nat) (rest : List W32) (k : W32 → W32 → Option Instr) (base : Nat) : Decoded :=
  let la := (shape == .ab || shape == .a) && a == 0x7F
  let lb := (shape == .ab || shape == .b) && b == 0x7F
  match la, lb, rest with
  | false, false, _ => finish (k 0 0) base
  | true, false, w :: _ => finish (k w 0) (base + 1)
  | false, true, w :: _ => finish (k 0 w) (base + 1)
  | true, true, w :: v :: _ => finish (k w v) (base + 2)
  | _, _, _ => lacking (k 0 0)

def vec2 (op : Nat) : Option (Option Qual → VDst → VSrc → VSrc → Guard → Instr) :=
  match op with
  | 0x01 => some .vadd | 0x02 => some .vsub | 0x03 => some .vmul | 0x04 => some .vfma | 0x05 => some .vfnma
  | 0x06 => some .vmin | 0x07 => some .vmax | 0x0A => some .vadds | 0x0B => some .vsubs | 0x0C => some .vmulh
  | 0x16 => some .vsel | 0x17 => some .vcsel | 0x20 => some .vand | 0x21 => some .vor | 0x22 => some .vxor
  | 0x24 => some .vshl | 0x25 => some .vshr | 0x26 => some .vsar | 0x28 => some .vxrot | 0x29 => some .vxbc
  | 0x2B => some .vyrot | 0x2C => some .vybc | 0x34 => some .vperm | 0x36 => some .vshuf
  | _ => none

noncomputable def vec1 (op : Nat) : Option (Option Qual → VDst → VSrc → Guard → Instr) :=
  match op with
  | 0x08 => some .vabs | 0x09 => some .vneg | 0x19 => some .vmov | 0x23 => some .vnot | 0x35 => some .vtrans
  | 0x38 => some .vrcp | 0x39 => some .vrsqrt | 0x3A => some .vsqrt | 0x3B => some .vexp2 | 0x3C => some .vlog2
  | 0x3D => some .vtanh | 0x3E => some .vsigm
  | _ => none

def vecCmp (op : Nat) : Option (Option Qual → Fin 8 → VSrc → VSrc → Guard → Instr) :=
  match op with
  | 0x10 => some .vceq | 0x11 => some .vcne | 0x12 => some .vclt
  | 0x13 => some .vcle | 0x14 => some .vcgt | 0x15 => some .vcge
  | _ => none

/-- Opcodes 0x2A, 0x2D, 0x31 and 0x32, whose b is an operation code (R155, R161). -/
def vecRed (op : Nat) : Option (Option Qual → VDst → VSrc → Fin 6 → Guard → Instr) :=
  match op with
  | 0x2A => some .vxred | 0x2D => some .vyred | 0x31 => some .vsgred | 0x32 => some .vsgscan
  | _ => none

/-- Loads of the memory group: a is the layout, b the offset or index operand (R163, R164). -/
def vecLoad (op : Nat) : Option (Option Qual → VDst → Fin 8 → VSrc → Guard → Instr) :=
  match op with
  | 0x40 => some .vld | 0x42 => some .vldwait | 0x43 => some .vldcons | 0x45 => some .vgath
  | _ => none

/-- Stores of the memory group: d is the data source (R163, R164). -/
def vecStore (op : Nat) : Option (Option Qual → VReg → Fin 8 → VSrc → Guard → Instr) :=
  match op with
  | 0x41 => some .vst | 0x44 => some .vstfill | 0x46 => some .vscat
  | _ => none

/-- The instruction a word of the memory group names (R163, R164): a load, a store, a gather or a scatter. -/
def decodeVectorMemory (q : Option Qual) (w : W32) (rest : List W32) (words : Nat) : Decoded :=
  match fields fmtV w.toNat with
  | [op, d, a, b, pn, pred] =>
    let g : Guard := { p := Fin.ofNat 8 pred, pn := pn == 1 }
    if (vecLoad op).isSome then
      vectorLits .b a b rest (fun _ y => do some ((← vecLoad op) q (← toVDst? d) (← toFin? 8 a) (← toVSrc? b y) g)) words
    else if (vecStore op).isSome then
      vectorLits .b a b rest (fun _ y => do some ((← vecStore op) q (← toVReg? d) (← toFin? 8 a) (← toVSrc? b y) g)) words
    else .illegal
  | _ => .illegal

/-- The instruction a vector word names, once a prefix has been read; `words` counts the words before the literals. Lean's compiler
cannot build a constructor numbered above 244, so some definitions of this file are marked noncomputable; the kernel evaluates them. -/
noncomputable def decodeVectorWord (q : Option Qual) (w : W32) (rest : List W32) (words : Nat) : Decoded :=
  match fields fmtV w.toNat with
  | [op, d, a, b, pn, pred] =>
    let g : Guard := { p := Fin.ofNat 8 pred, pn := pn == 1 }
    let bare : Bool := q.isNone && pred == 0 && pn == 0
    if (vec2 op).isSome then
      vectorLits .ab a b rest (fun x y => do some ((← vec2 op) q (← toVDst? d) (← toVSrc? a x) (← toVSrc? b y) g)) words
    else if (vec1 op).isSome then
      vectorLits .a a b rest (fun x _ => do if b = 0 then some ((← vec1 op) q (← toVDst? d) (← toVSrc? a x) g) else none) words
    else if (vecCmp op).isSome then
      vectorLits .ab a b rest (fun x y => do some ((← vecCmp op) q (← toFin? 8 d) (← toVSrc? a x) (← toVSrc? b y) g)) words
    else if (vecRed op).isSome then
      vectorLits .a a b rest (fun x _ => do some ((← vecRed op) q (← toVDst? d) (← toVSrc? a x) (← toFin? 6 b) g)) words
    else if (vecLoad op).isSome || (vecStore op).isSome then decodeVectorMemory q w rest words
    else
      match op with
      | 0x18 => vectorLits .a a b rest (fun x _ => do some (.vcvt q (← toVDst? d) (← toVSrc? a x) (← toFin? 4 b) g)) words
      | 0x33 => vectorLits .a a b rest (fun x _ => do some (.vpack q (← toVDst? d) (← toVSrc? a x) (← toFin? 2 b) g)) words
      | 0x47 => vectorLits .b a b rest (fun _ y => do some (.vqrd q (← toFin? 4 d) (← toFin? 8 a) (← toVSrc? b y) g)) words
      | 0x30 => if bare then vectorLits .b a b rest (fun _ y => do some (.vwalk (← toFin? 4 d) (← toFin? 8 a) (← toWalkStart? b (some y)))) words else .illegal
      | 0x48 => if bare then finish (do some (.vpand (← toFin? 8 d) (← toFin? 8 a) (← toFin? 8 b))) words else .illegal
      | 0x49 => if bare then finish (do some (.vpor (← toFin? 8 d) (← toFin? 8 a) (← toFin? 8 b))) words else .illegal
      | 0x4A => if bare then finish (do some (.vpxor (← toFin? 8 d) (← toFin? 8 a) (← toFin? 8 b))) words else .illegal
      | 0x4B => if bare then finish (do if b = 0 then some (.vpnot (← toFin? 8 d) (← toFin? 8 a)) else none) words else .illegal
      | 0x50 => if bare then vectorLits .b a b rest (fun _ y => do some (.vloop (← toFin? 8 d) (BitVec.ofFin (← toFin? 16 a)) (← toVSrc? b y))) words else .illegal
      | 0x51 => if bare then finish (if d = 0 ∧ a = 0 ∧ b = 0 then some .vlend else none) words else .illegal
      | 0x52 => if bare then vectorLits .b a b rest (fun _ y => do if a = 0 then some (.vbset (← toFin? 4 d) (← toVSrc? b y)) else none) words else .illegal
      | 0x53 => if bare then vectorLits .b a b rest (fun _ y => do if a = 0 then some (.vbadd (← toFin? 4 d) (← toVSrc? b y)) else none) words else .illegal
      | 0x54 => if bare then vectorLits .b a b rest (fun _ y => do if a = 0 then some (.vsmwait (← toFin? 15 d) (← toVSrc? b y)) else none) words else .illegal
      | 0x55 => if bare then vectorLits .b a b rest (fun _ y => do if a = 0 then some (.vsmadd (← toFin? 15 d) (← toVSrc? b y)) else none) words else .illegal
      | 0x56 => if q.isNone then finish (do if a = 0 then some (.vqget (← toVDst? d) (← toFin? 2 b) g) else none) words else .illegal
      | 0x57 => if bare then vectorLits .a a b rest (fun x _ => do if d = 0 then some (.vqput (← toVSrc? a x) (← toFin? 3 b)) else none) words else .illegal
      | _ => .illegal
  | _ => .illegal

/-- The fields of a prefix word (R53). -/
def toQual? (w : W32) : Option Qual :=
  match fields fmtVP w.toNat with
  | [op, type, round, sat, ftz, spec, sg, sgen, sh, r] =>
    if op = 0x7E ∧ r = 0 then
      some { type := BitVec.ofNat 4 type, round := BitVec.ofNat 3 round, sat := sat == 1, ftz := ftz == 1, spec := spec == 1,
             sg := Fin.ofNat 4 sg, sgen := sgen == 1, sh := Fin.ofNat 8 sh }
    else none
  | _ => none

/-- The vector section: an optional qualifier prefix, the instruction word and its literals (R38, R51 to R53). A prefix
as the last word of SPM is illegal. `word` reads the instruction word. -/
def decodePrefixed (word : Option Qual → W32 → List W32 → Nat → Decoded) (ws : List W32) : Decoded :=
  match ws with
  | [] => .short
  | w :: rest =>
    if w.toNat / 2 ^ 25 = 0x7E then
      match toQual? w, rest with
      | some q, w2 :: rest2 => if w2.toNat / 2 ^ 25 = 0x7E then .illegal else word (some q) w2 rest2 2
      | _, _ => .illegal
    else word none w rest 1

/-- The whole vector section. -/
noncomputable def decodeVector (ws : List W32) : Decoded := decodePrefixed decodeVectorWord ws

/-! The matrix and copy step words (R55 to R59 and the chapters that define the opcodes). -/

/-- A step word with n extension words: the ext field must say so (R55). -/
def withExt (ext n : Nat) (rest : List W32) (k : List Nat → Option Instr) : Decoded :=
  if ext ≠ n then .illegal
  else if rest.length < n then .short
  else finish (k ((rest.take n).map (·.toNat))) (n + 1)

def toFlag (v : Nat) : Bool := v == 1

def toOpDesc (w : Nat) : OpDesc :=
  match fields [4, 1, 1, 3, 3, 20] w with
  | [ty, src, pop, ring, slot, addr] =>
    { ty := BitVec.ofNat 4 ty, fixed := toFlag src, pop := toFlag pop, ring := Fin.ofNat 8 ring, slot := Fin.ofNat 8 slot, addr := BitVec.ofNat 20 addr }
  | _ => { ty := 0, fixed := false, pop := false, ring := 0, slot := 0, addr := 0 }

/-- The `mma` family (R182, R185, R192). -/
def mmaForm (w : Sems) (ext f : Nat) (rest : List W32) (c : Sems → MmaArgs → Instr) : Decoded :=
  withExt ext 3 rest fun e =>
    match fields [6, 3, 3, 3, 1] f, e with
    | [tile, sh, fa, fb, r], [x, y, z] =>
      match fields [1, 1, 14, 14, 2] z with
      | [sau, sbu, sa, sb, r2] =>
        if r = 0 ∧ r2 = 0 then
          some (c w { tile := BitVec.ofNat 6 tile, sh := Fin.ofNat 8 sh, fa := Fin.ofNat 8 fa, fb := Fin.ofNat 8 fb, opA := toOpDesc x, opB := toOpDesc y,
                      sau := toFlag sau, sbu := toFlag sbu, saidx := BitVec.ofNat 14 sa, sbidx := BitVec.ofNat 14 sb })
        else none
      | _ => none
    | _, _ => none

def toAct? (v : Nat) : Option Act :=
  match v with
  | 0 => some .none
  | 1 => some .relu
  | 2 => some .silu
  | 3 => some .sigm
  | 4 => some .tanh
  | _ => none

/-- The epilogue family (R197); `c` also takes extension word 1. -/
def epForm (w : Sems) (ext f : Nat) (rest : List W32) (c : Sems → EpArgs → Nat → Option Instr) : Decoded :=
  withExt ext 3 rest fun e =>
    match fields [6, 3, 3, 3, 1] f, e with
    | [tile, sh, fn, act, bias], [x, y, z] =>
      match fields [16, 4, 3, 1, 1, 7] y, fields [4, 3, 1, 12, 8, 1, 3] z with
      | [hi, otype, round, sat, fe, scidx], [cls, scope, r1, baddr, gen, kill, r2] => do
        let act ← toAct? act
        let scope ← toScope? scope
        if r1 = 0 ∧ r2 = 0 then
          c w { tile := BitVec.ofNat 6 tile, sh := Fin.ofNat 8 sh, f := Fin.ofNat 8 fn, act := act, bias := toFlag bias, hi := BitVec.ofNat 16 hi,
                otype := BitVec.ofNat 4 otype, round := BitVec.ofNat 3 round, sat := toFlag sat, fe := toFlag fe, scidx := BitVec.ofNat 7 scidx,
                cls := BitVec.ofNat 4 cls, scope := scope, baddr := BitVec.ofNat 12 baddr, gen := BitVec.ofNat 8 gen, kill := toFlag kill } x
        else none
      | _, _ => none
    | _, _ => none

/-- `accst` and `accld` (R196). -/
def accForm (w : Sems) (ext f : Nat) (rest : List W32) (c : Sems → BitVec 6 → W32 → BitVec 4 → Scope → Instr) : Decoded :=
  withExt ext 2 rest fun e =>
    match fields [6, 10] f, e with
    | [tile, r], [x, y] =>
      match fields [4, 3, 25] y with
      | [cls, scope, r2] => do
        let scope ← toScope? scope
        if r = 0 ∧ r2 = 0 then some (c w (BitVec.ofNat 6 tile) (BitVec.ofNat 32 x) (BitVec.ofNat 4 cls) scope) else none
      | _ => none
    | _, _ => none

def plainStep (ext f : Nat) (i : Instr) : Decoded :=
  if ext = 0 ∧ f = 0 then finish (some i) 1 else .illegal

/-- The matrix section (R57). -/
def decodeMatrix (ws : List W32) : Decoded :=
  match ws with
  | [] => .short
  | h :: rest =>
    match fields fmtStep h.toNat with
    | [op, aw, rs, ext, f] =>
      let w : Sems := { aw := BitVec.ofNat 4 aw, rs := BitVec.ofNat 4 rs }
      match op with
      | 0x01 => mmaForm w ext f rest .mma
      | 0x02 => mmaForm w ext f rest .mmaz
      | 0x03 => mmaForm w ext f rest .mmasg
      | 0x04 => withExt ext 1 rest fun e =>
          match e with
          | [v] => if f % 2 ^ 13 = 0 then some (.fset w (Fin.ofNat 8 (f / 2 ^ 13)) (BitVec.ofNat 32 v)) else none
          | _ => none
      | 0x05 => if ext = 0 ∧ f % 2 ^ 13 = 0 then finish (some (.fqrd w (Fin.ofNat 8 (f / 2 ^ 13)))) 1 else .illegal
      | 0x06 => withExt ext 2 rest fun e =>
          match fields [2, 14] f, e with
          | [fmt, cnt], [src, y] =>
            match fields [4, 14, 14] y with
            | [cls, r, didx] => do
              let fmt ← toFin? 3 fmt
              if r = 0 then some (.scld w fmt (BitVec.ofNat 14 cnt) (BitVec.ofNat 32 src) (BitVec.ofNat 4 cls) (BitVec.ofNat 14 didx)) else none
            | _ => none
          | _, _ => none
      | 0x07 =>
        match fields [6, 6, 4] f with
        | [tile, cnt, r] => if ext = 0 ∧ r = 0 then finish (some (.acczero w (BitVec.ofNat 6 tile) (BitVec.ofNat 6 cnt))) 1 else .illegal
        | _ => .illegal
      | 0x08 => epForm w ext f rest fun w e x => some (.epil w e (BitVec.ofNat 32 x))
      | 0x09 => epForm w ext f rest fun w e x => some (.epobj w e (Fin.ofNat 8 (x / 2 ^ 29)) (BitVec.ofNat 29 x))
      | 0x0A => epForm w ext f rest fun w e x => if x < 2 ^ 20 then some (.eprow w e (BitVec.ofNat 20 x)) else none
      | 0x0B => epForm w ext f rest fun w e x => if x < 2 ^ 20 then some (.epadd w e (BitVec.ofNat 20 x)) else none
      | 0x0C => accForm w ext f rest .accst
      | 0x0D => accForm w ext f rest .accld
      | 0x0E =>
        match fields [1, 1, 14] f with
        | [mode, r, tag] =>
          if ext = 0 ∧ r = 0 then
            if mode = 0 then finish (some (.mqwr w (BitVec.ofNat 14 tag))) 1
            else if tag = 0 then finish (some (.mqwrSt w)) 1 else .illegal
          else .illegal
        | _ => .illegal
      | 0x0F => plainStep ext f (.mrel w)
      | 0x10 => plainStep ext f (.msync w)
      | 0x11 => withExt ext 1 rest fun e =>
          match e with
          | [v] => if f = 0 then some (.mthr w (BitVec.ofNat 32 v)) else none
          | _ => none
      | 0x12 =>
        match fields [8, 8] f with
        | [count, disp] => if ext = 0 then finish (some (.mjmp w (BitVec.ofNat 8 count) (BitVec.ofNat 8 disp))) 1 else .illegal
        | _ => .illegal
      | _ => .illegal
    | _ => .illegal

def toFeMode? (v : Nat) : Option FeMode :=
  match v with
  | 0 => some .dataAndBits
  | 1 => some .dataOnly
  | 2 => some .setFull
  | 3 => some .setEmpty
  | 4 => some .requireFull
  | _ => none

/-- The common fields of a data-moving step (R299): FE, SCOPE, PB and DL in bits [15:7]. -/
def toMoveQ? (f : Nat) : Option MoveQ :=
  match fields [3, 3, 1, 2, 7] f with
  | [fe, sc, pb, dl, _] => do some { fe := (← toFeMode? fe), scope := (← toScope? sc), pb := toFlag pb, dl := Fin.ofNat 4 dl }
  | _ => none

/-- The common fields of a fabric step (R348): bits [12:10] are reserved. -/
def toFabQ? (f : Nat) : Option FabQ :=
  match fields [3, 3, 1, 2, 7] f with
  | [fe, r, pb, dl, _] => do if r = 0 then some { fe := (← toFeMode? fe), pb := toFlag pb, dl := Fin.ofNat 4 dl } else none
  | _ => none

def toAtomOp? (v : Nat) : Option AtomOp :=
  match v with
  | 0 => some .add
  | 1 => some .fadd
  | 2 => some .xchg
  | 3 => some .cas
  | 4 => some .min
  | 5 => some .max
  | 6 => some .minn
  | 7 => some .maxn
  | 8 => some .and
  | 9 => some .or
  | 10 => some .xor
  | _ => none

/-- The low seven operation bits of a data-moving step: a 3-bit, a 3-bit and a 1-bit field (R302). -/
def lowFields (f : Nat) : Nat × Nat × Nat := (f / 16 % 8, f / 2 % 8, f % 2)

/-- The copy section (R58, R302, R348, R388). -/
def decodeCopy (ws : List W32) : Decoded :=
  match ws with
  | [] => .short
  | h :: rest =>
    match fields fmtStep h.toNat with
    | [op, aw, rs, ext, f] =>
      let w : Sems := { aw := BitVec.ofNat 4 aw, rs := BitVec.ofNat 4 rs }
      let (hi, mid, lo) := lowFields f
      let w32 (v : Nat) : W32 := BitVec.ofNat 32 v
      match op with
      | 0x01 => withExt ext 3 rest fun e =>
          match e with
          | [x, y, z] => do
            let m ← toMoveQ? f
            if lo = 0 ∧ z < 2 ^ 24 then some (.tmov w m (Fin.ofNat 8 hi) (Fin.ofNat 8 mid) (w32 x) (w32 y) (BitVec.ofNat 24 z)) else none
          | _ => none
      | 0x02 => withExt ext 1 rest fun e =>
          match e with
          | [x] => do
            let m ← toMoveQ? f
            if lo = 0 then some (.tmov2d w m (Fin.ofNat 8 hi) (Fin.ofNat 8 mid) (w32 x)) else none
          | _ => none
      | 0x03 => withExt ext 3 rest fun e =>
          match e with
          | [x, y, z] => do
            let m ← toMoveQ? f
            if mid = 0 ∧ lo = 0 ∧ z < 2 ^ 20 then some (.rrot w m (Fin.ofNat 8 hi) (w32 x) (w32 y) (BitVec.ofNat 20 z)) else none
          | _ => none
      | 0x04 => withExt ext 3 rest fun e =>
          match e with
          | [x, y, z] => do
            let m ← toMoveQ? f
            if lo = 0 ∧ y < 2 ^ 17 ∧ z < 2 ^ 16 then some (.gath w m (Fin.ofNat 8 hi) (Fin.ofNat 8 mid) (w32 x) (BitVec.ofNat 17 y) (BitVec.ofNat 16 z)) else none
          | _ => none
      | 0x05 => withExt ext 3 rest fun e =>
          match e with
          | [x, y, z] => do
            let m ← toMoveQ? f
            if lo = 0 ∧ y < 2 ^ 17 ∧ z < 2 ^ 16 then some (.scat w m (Fin.ofNat 8 hi) (Fin.ofNat 8 mid) (w32 x) (BitVec.ofNat 17 y) (BitVec.ofNat 16 z)) else none
          | _ => none
      | 0x06 => withExt ext 1 rest fun e =>
          match e with
          | [x] => do
            let m ← toMoveQ? f
            if lo = 0 then some (.rpush w m (Fin.ofNat 8 hi) (Fin.ofNat 8 mid) (w32 x)) else none
          | _ => none
      | 0x07 => withExt ext 3 rest fun e =>
          match e with
          | [x, y, z] => do
            let m ← toMoveQ? f
            if hi = 0 ∧ lo = 0 ∧ y < 2 ^ 24 then some (.cfill w m (Fin.ofNat 8 mid) (w32 x) (BitVec.ofNat 24 y) (w32 z)) else none
          | _ => none
      | 0x08 => withExt ext 2 rest fun e =>
          match fields [9, 3, 2, 1, 1] f, e with
          | [_, lys, ring, r1, r2], [x, y] => do
            let m ← toMoveQ? f
            let ring ← toRing? ring
            if r1 = 0 ∧ r2 = 0 ∧ y < 2 ^ 16 then some (.crstr w m (Fin.ofNat 8 lys) ring (w32 x) (BitVec.ofNat 16 y)) else none
          | _, _ => none
      | 0x09 => withExt ext 3 rest fun e =>
          match e with
          | [x, y, z] => do
            let m ← toFabQ? f
            if lo = 0 then some (.fwr w m (Fin.ofNat 8 hi) (Fin.ofNat 8 mid) (w32 x) (w32 y) (BitVec.ofNat 12 (z / 2 ^ 20)) (BitVec.ofNat 20 z)) else none
          | _ => none
      | 0x0A => withExt ext 3 rest fun e =>
          match e with
          | [x, y, z] => do
            let m ← toFabQ? f
            if lo = 0 then some (.frd w m (Fin.ofNat 8 hi) (Fin.ofNat 8 mid) (w32 x) (w32 y) (BitVec.ofNat 12 (z / 2 ^ 20)) (BitVec.ofNat 20 z)) else none
          | _ => none
      | 0x0B => withExt ext 3 rest fun e =>
          match fields [4, 8, 3, 1] f, e with
          | [aop, r, lyd, r2], [x, y, z] => do
            let aop ← toAtomOp? aop
            if r = 0 ∧ r2 = 0 ∧ z % 2 ^ 20 = 0 then some (.fatom w aop (Fin.ofNat 8 lyd) (w32 x) (w32 y) (BitVec.ofNat 12 (z / 2 ^ 20))) else none
          | _, _ => none
      | 0x0C => withExt ext 1 rest fun e =>
          match fields [3, 13] f, e with
          | [opc, r], [x] =>
            if r ≠ 0 then none else
            match opc with
            | 0 => some (.lbregBuffer w (w32 x))
            | 1 => some (.lbregPort w (w32 x))
            | 2 => some (.lbregClose w (w32 x))
            | 3 => some (.lbregOpen w (w32 x))
            | 4 => some (.lbregRedirect w (w32 x))
            | _ => none
          | _, _ => none
      | 0x0D => withExt ext 1 rest fun e =>
          match fields [3, 13] f, e with
          | [kind, r], [x] =>
            if r ≠ 0 then none else
            match kind with
            | 0 => some (.lbrelBuffer w (w32 x))
            | 1 => if x < 2 ^ 24 then some (.lbrelPort w (BitVec.ofNat 24 x)) else none
            | _ => none
          | _, _ => none
      | 0x0E => withExt ext 1 rest fun e =>
          match e with
          | [x] => do let m ← toFabQ? f; if f % 128 = 0 then some (.a2av w m (w32 x)) else none
          | _ => none
      | 0x0F => withExt ext 1 rest fun e =>
          match e with
          | [x] => do let m ← toFabQ? f; if f % 128 = 0 then some (.rscat w m (w32 x)) else none
          | _ => none
      | 0x10 => withExt ext 1 rest fun e =>
          match e with
          | [x] => do let m ← toFabQ? f; if f % 128 = 0 then some (.agath w m (w32 x)) else none
          | _ => none
      | 0x11 => withExt ext 1 rest fun e =>
          match e with
          | [x] => do let m ← toFabQ? f; if f % 128 = 0 then some (.bcast w m (w32 x)) else none
          | _ => none
      | 0x12 => if ext = 0 ∧ f % 2 ^ 15 = 0 then finish (some (.csync w (toFlag (f / 2 ^ 15)))) 1 else .illegal
      | 0x13 => if ext = 0 ∧ f < 2 ^ 14 then finish (some (.cqwr w (BitVec.ofNat 14 f))) 1 else .illegal
      | 0x14 => withExt ext 3 rest fun e =>
          match e with
          | [x, y, z] =>
            if f % 2 ^ 15 = 0 ∧ x < 2 ^ 24 then
              some (if f = 0 then .pgmovUp w (BitVec.ofNat 24 x) (w32 y) (w32 z) else .pgmovDown w (BitVec.ofNat 24 x) (w32 y) (w32 z))
            else none
          | _ => none
      | 0x15 => withExt ext 2 rest fun e =>
          match e with
          | [x, y] => do
            let m ← toMoveQ? f
            if hi = 0 ∧ lo = 0 ∧ y < 2 ^ 24 then some (.feset w m (Fin.ofNat 8 mid) (w32 x) (BitVec.ofNat 24 y)) else none
          | _ => none
      | 0x16 => withExt ext 3 rest fun e =>
          match e with
          | [x, y, z] => if f = 0 ∧ x < 2 ^ 24 ∧ z < 2 ^ 24 then some (.obcopy w (BitVec.ofNat 24 x) (w32 y) (BitVec.ofNat 24 z)) else none
          | _ => none
      | _ => .illegal
    | _ => .illegal

/-! The samplers (R60, R61, R236). -/

/-- An instruction of fixed fields: a G field of 4 or more, an unused field, or L = 1 is illegal (R60). Noncomputable as
`decodeVectorWord` is. -/
noncomputable def decodeSampler (ws : List W32) : Decoded :=
  match ws with
  | [] => .short
  | h :: rest =>
    match fields fmtS h.toNat with
    | [op, d, a, b, l, imm] =>
      let r (v : Nat) : Fin 16 := Fin.ofNat 16 v
      let i13 : BitVec 13 := BitVec.ofNat 13 imm
      let reg3 (c : Fin 16 → Fin 16 → Fin 16 → Instr) : Decoded := if l = 0 ∧ imm = 0 then finish (some (c (r d) (r a) (r b))) 1 else .illegal
      let reg2 (c : Fin 16 → Fin 16 → Instr) : Decoded := if l = 0 ∧ imm = 0 ∧ b = 0 then finish (some (c (r d) (r a))) 1 else .illegal
      let withImm (c : SImm → Option Instr) : Decoded :=
        if l = 0 then finish (c (.imm i13)) 1
        else if imm ≠ 0 then .illegal
        else match rest with
          | w :: _ => finish (c (.lit w)) 2
          | [] => lacking (c (.lit 0))
      match op with
      | 0x01 => if l = 0 ∧ b = 0 then finish (some (.sld (r d) (r a) i13)) 1 else .illegal
      | 0x02 => if l = 0 ∧ d = 0 ∧ imm = 0 then finish (some (.scst (r a) (r b))) 1 else .illegal
      | 0x03 => reg3 .sadd
      | 0x04 => reg3 .ssub
      | 0x05 => reg3 .smul
      | 0x06 => reg3 .sfma
      | 0x07 => reg3 .smax
      | 0x08 => reg3 .smin
      | 0x09 => reg2 .sexp2
      | 0x0A => reg2 .slog2
      | 0x0B => reg2 .srcp
      | 0x0C => reg2 .sbc
      | 0x0D => if l = 0 ∧ b = 0 then finish (do some (.sxred (r d) (r a) (← toFin? 3 imm))) 1 else .illegal
      | 0x0E => reg2 .smov
      | 0x0F => withImm fun v => if a = 0 ∧ b = 0 then some (.shmov (r d) v) else none
      | 0x10 => withImm fun v => if b = 0 then some (.shadd (r d) (r a) v) else none
      | 0x11 => reg3 .shmul
      | 0x12 => if l = 0 then finish (do some (.scmp (r d) (r a) (r b) (← toFin? 11 imm))) 1 else .illegal
      | 0x13 => reg3 .ssel
      | 0x14 => if l = 0 ∧ b = 0 then finish (do some (.stbl (r d) (r a) (← toFin? 2 imm))) 1 else .illegal
      | 0x15 => if l = 0 ∧ d = 0 then finish (do some (.stbw (r a) (r b) (← toFin? 2 imm))) 1 else .illegal
      | 0x16 => reg2 .smask
      | 0x17 => if l = 0 ∧ d = 0 ∧ b = 0 ∧ imm = 0 then finish (some (.spsort (r a))) 1 else .illegal
      | 0x18 => if l = 0 ∧ a = 0 ∧ b = 0 ∧ imm = 0 then finish (some (.scsum (r d))) 1 else .illegal
      | 0x19 =>
        if l ≠ 0 then .illegal else
        match imm with
        | 0 => finish (some (.sdrawDraw (r d) (r a) (r b))) 1
        | 1 => finish (some (.sdrawCut (r d) (r a) (r b))) 1
        | _ => .illegal
      | 0x1A => if l = 0 ∧ b = 0 then finish (do some (.sgen (r d) (← toFin? 4 a) (← toFin? 2 imm))) 1 else .illegal
      | 0x1B => if l = 0 ∧ imm < 128 then finish (some (.saccept (r d) (r a) (r b) (BitVec.ofNat 5 imm) (Fin.ofNat 4 (imm / 32)))) 1 else .illegal
      | 0x1C => if l = 0 ∧ d = 0 ∧ b = 0 then finish (some (.sbnz (r a) i13)) 1 else .illegal
      | 0x1D => if l = 0 ∧ d = 0 ∧ a = 0 ∧ b = 0 then finish (some (.sjmp i13)) 1 else .illegal
      | 0x1E =>
        if l = 0 ∧ d = 0 ∧ b = 0 then
          match imm with
          | 0 => finish (some (.sendToken (r a))) 1
          | 1 => finish (some (.sendCount (r a))) 1
          | 2 => finish (some (.sendBlock (r a))) 1
          | 3 => finish (some (.sendNone (r a))) 1
          | _ => .illegal
        else .illegal
      | 0x1F => if l = 0 ∧ a = 0 ∧ b = 0 ∧ imm = 0 then finish (some (.ssoft (r d))) 1 else .illegal
      | _ => .illegal
    | _ => .illegal

/-! The encoder, from the same tables. -/

def encDst (d : Dst) : Nat :=
  match d with
  | .x r => r.val
  | .none => 31

def encSrc (v : Src) : Nat :=
  match v with
  | .x r => r.val
  | _ => 31

/-- The L bit of the instruction's sources (R45): 1 exactly when one is a two-word literal. -/
def encL : List Src → Nat
  | [] => 0
  | .lit64 _ :: _ => 1
  | _ :: r => encL r

/-- The literal words of the instruction's sources, low word first (R45). -/
def encLits : List Src → List W32
  | [] => []
  | .x _ :: r => encLits r
  | .lit32 w :: _ => [w]
  | .lit64 w :: _ => [w.truncate 32, (w >>> 32).truncate 32]

def encOrd (o : Ord) : Nat :=
  match o with
  | .none => 0
  | .acq => 1
  | .rel => 2
  | .acqRel => 3

def encCond (c : Cond) : Nat :=
  match c with
  | .eq => 0
  | .ne => 1
  | .lt => 2
  | .le => 3
  | .gt => 4
  | .ge => 5
  | .ltn => 6
  | .len => 7
  | .gtn => 8
  | .gen => 9

def encEngine (e : Engine) : Nat :=
  match e with
  | .vector => 0
  | .matrixA => 1
  | .matrixB => 2
  | .copy => 3

def encRing (r : RingNo) : Nat :=
  match r with
  | .matrixA => 0
  | .matrixB => 1
  | .copy => 2

def encBool (b : Bool) : Nat := if b then 1 else 0

/-- A word from its fields. -/
def word (fs : List (Nat × Nat)) : W32 := BitVec.ofNat 32 (pack fs)

def encCR (op d a b : Nat) (ss : List Src) (fn : Nat) : List W32 :=
  word [(6, op), (5, d), (5, a), (5, b), (1, encL ss), (4, 0), (6, fn)] :: encLits ss

def encCI (op d a : Nat) (ss : List Src) (imm : Nat) : List W32 :=
  word [(6, op), (5, d), (5, a), (1, encL ss), (15, imm)] :: encLits ss

def encCM (op d base : Nat) (ss : List Src) (q : MemQ) : List W32 :=
  word [(6, op), (5, d), (5, base), (4, q.cls.toNat), (1, encL ss), (2, encOrd q.ord), (3, q.scope.rank), (6, q.off.toNat)] :: encLits ss

def encCA (op d base b : Nat) (ss : List Src) (q : AtomQ) : List W32 :=
  word [(6, op), (5, d), (5, base), (5, b), (2, encOrd q.ord), (3, q.scope.rank), (4, q.cls.toNat), (1, encL ss), (1, 0)] :: encLits ss

def encVReg (r : VReg) : Nat :=
  match r with
  | .v n => n.val
  | .ind c o => 0x20 + 8 * c.val + o.val

def encVDst (d : VDst) : Nat :=
  match d with
  | .reg r => encVReg r
  | .none => 0x44

def encVSrc (v : VSrc) : Nat :=
  match v with
  | .reg r => encVReg r
  | .oq n => 0x40 + n.val
  | .zero => 0x44
  | .lit _ => 0x7F

def encVLit (v : VSrc) : List W32 :=
  match v with
  | .lit w => [w]
  | _ => []

def encStart (v : WalkStart) : Nat :=
  match v with
  | .zero => 0x44
  | .cursor n => n.val
  | .lit _ => 0x7F

def encStartLit (v : WalkStart) : List W32 :=
  match v with
  | .lit w => [w]
  | _ => []

def encQual (q : Option Qual) : List W32 :=
  match q with
  | none => []
  | some q =>
    [word [(7, 0x7E), (4, q.type.toNat), (3, q.round.toNat), (1, encBool q.sat), (1, encBool q.ftz), (1, encBool q.spec), (2, q.sg.val),
           (1, encBool q.sgen), (3, q.sh.val), (9, 0)]]

def noGuard : Guard := { p := 0, pn := false }

def encV (q : Option Qual) (op d a b : Nat) (g : Guard) : List W32 :=
  encQual q ++ [word [(7, op), (7, d), (7, a), (7, b), (1, encBool g.pn), (3, g.p.val)]]

def encStep (op : Nat) (w : Sems) (ext f : Nat) (e : List Nat) : List W32 :=
  word [(6, op), (4, w.aw.toNat), (4, w.rs.toNat), (2, ext), (16, f)] :: e.map (BitVec.ofNat 32)

def encDesc (o : OpDesc) : Nat :=
  pack [(4, o.ty.toNat), (1, encBool o.fixed), (1, encBool o.pop), (3, o.ring.val), (3, o.slot.val), (20, o.addr.toNat)]

def encMma (op : Nat) (w : Sems) (m : MmaArgs) : List W32 :=
  encStep op w 3 (pack [(6, m.tile.toNat), (3, m.sh.val), (3, m.fa.val), (3, m.fb.val), (1, 0)])
    [encDesc m.opA, encDesc m.opB, pack [(1, encBool m.sau), (1, encBool m.sbu), (14, m.saidx.toNat), (14, m.sbidx.toNat), (2, 0)]]

def encAct (a : Act) : Nat :=
  match a with
  | .none => 0
  | .relu => 1
  | .silu => 2
  | .sigm => 3
  | .tanh => 4

def encEp (op : Nat) (w : Sems) (e : EpArgs) (x : Nat) : List W32 :=
  encStep op w 3 (pack [(6, e.tile.toNat), (3, e.sh.val), (3, e.f.val), (3, encAct e.act), (1, encBool e.bias)])
    [x, pack [(16, e.hi.toNat), (4, e.otype.toNat), (3, e.round.toNat), (1, encBool e.sat), (1, encBool e.fe), (7, e.scidx.toNat)],
     pack [(4, e.cls.toNat), (3, e.scope.rank), (1, 0), (12, e.baddr.toNat), (8, e.gen.toNat), (1, encBool e.kill), (3, 0)]]

def encAcc (op : Nat) (w : Sems) (tile : BitVec 6) (addr : W32) (cls : BitVec 4) (scope : Scope) : List W32 :=
  encStep op w 2 (pack [(6, tile.toNat), (10, 0)]) [addr.toNat, pack [(4, cls.toNat), (3, scope.rank), (25, 0)]]

def encFe (m : FeMode) : Nat :=
  match m with
  | .dataAndBits => 0
  | .dataOnly => 1
  | .setFull => 2
  | .setEmpty => 3
  | .requireFull => 4

def encMove (m : MoveQ) (hi mid lo : Nat) : Nat :=
  pack [(3, encFe m.fe), (3, m.scope.rank), (1, encBool m.pb), (2, m.dl.val), (3, hi), (3, mid), (1, lo)]

def encFab (m : FabQ) (hi mid lo : Nat) : Nat :=
  pack [(3, encFe m.fe), (3, 0), (1, encBool m.pb), (2, m.dl.val), (3, hi), (3, mid), (1, lo)]

def encAtomOp (o : AtomOp) : Nat :=
  match o with
  | .add => 0
  | .fadd => 1
  | .xchg => 2
  | .cas => 3
  | .min => 4
  | .max => 5
  | .minn => 6
  | .maxn => 7
  | .and => 8
  | .or => 9
  | .xor => 10

def encS (op d a b imm : Nat) : List W32 :=
  [word [(6, op), (4, d), (4, a), (4, b), (1, 0), (13, imm)]]

def encSImm (op d a : Nat) (v : SImm) : List W32 :=
  match v with
  | .imm i => encS op d a 0 i.toNat
  | .lit w => [word [(6, op), (4, d), (4, a), (4, 0), (1, 1), (13, 0)], w]

def encRingReg (base : Nat) (r : RingNo) : Nat := base + 4 * encRing r

/-- The words of an instruction; a step that no word names has none. -/
def encode (i : Instr) : List W32 :=
  match i with
  | .add d a b => encCR 0x01 (encDst d) (encSrc a) (encSrc b) [a, b] 0x00
  | .sub d a b => encCR 0x01 (encDst d) (encSrc a) (encSrc b) [a, b] 0x01
  | .mul d a b => encCR 0x01 (encDst d) (encSrc a) (encSrc b) [a, b] 0x02
  | .mulh d a b => encCR 0x01 (encDst d) (encSrc a) (encSrc b) [a, b] 0x03
  | .mulhn d a b => encCR 0x01 (encDst d) (encSrc a) (encSrc b) [a, b] 0x04
  | .div d a b => encCR 0x01 (encDst d) (encSrc a) (encSrc b) [a, b] 0x05
  | .divn d a b => encCR 0x01 (encDst d) (encSrc a) (encSrc b) [a, b] 0x06
  | .rem d a b => encCR 0x01 (encDst d) (encSrc a) (encSrc b) [a, b] 0x07
  | .remn d a b => encCR 0x01 (encDst d) (encSrc a) (encSrc b) [a, b] 0x08
  | .and d a b => encCR 0x01 (encDst d) (encSrc a) (encSrc b) [a, b] 0x09
  | .or d a b => encCR 0x01 (encDst d) (encSrc a) (encSrc b) [a, b] 0x0A
  | .xor d a b => encCR 0x01 (encDst d) (encSrc a) (encSrc b) [a, b] 0x0B
  | .andn d a b => encCR 0x01 (encDst d) (encSrc a) (encSrc b) [a, b] 0x0C
  | .shl d a b => encCR 0x01 (encDst d) (encSrc a) (encSrc b) [a, b] 0x0D
  | .shr d a b => encCR 0x01 (encDst d) (encSrc a) (encSrc b) [a, b] 0x0E
  | .sar d a b => encCR 0x01 (encDst d) (encSrc a) (encSrc b) [a, b] 0x0F
  | .rol d a b => encCR 0x01 (encDst d) (encSrc a) (encSrc b) [a, b] 0x10
  | .min d a b => encCR 0x01 (encDst d) (encSrc a) (encSrc b) [a, b] 0x11
  | .max d a b => encCR 0x01 (encDst d) (encSrc a) (encSrc b) [a, b] 0x12
  | .minn d a b => encCR 0x01 (encDst d) (encSrc a) (encSrc b) [a, b] 0x13
  | .maxn d a b => encCR 0x01 (encDst d) (encSrc a) (encSrc b) [a, b] 0x14
  | .adds d a b => encCR 0x01 (encDst d) (encSrc a) (encSrc b) [a, b] 0x15
  | .subs d a b => encCR 0x01 (encDst d) (encSrc a) (encSrc b) [a, b] 0x16
  | .addsn d a b => encCR 0x01 (encDst d) (encSrc a) (encSrc b) [a, b] 0x17
  | .subsn d a b => encCR 0x01 (encDst d) (encSrc a) (encSrc b) [a, b] 0x18
  | .muls d a b => encCR 0x01 (encDst d) (encSrc a) (encSrc b) [a, b] 0x19
  | .abs d a => encCR 0x01 (encDst d) (encSrc a) 0 [a] 0x1A
  | .neg d a => encCR 0x01 (encDst d) (encSrc a) 0 [a] 0x1B
  | .clz d a => encCR 0x01 (encDst d) (encSrc a) 0 [a] 0x1C
  | .ctz d a => encCR 0x01 (encDst d) (encSrc a) 0 [a] 0x1D
  | .popc d a => encCR 0x01 (encDst d) (encSrc a) 0 [a] 0x1E
  | .sext8 d a => encCR 0x01 (encDst d) (encSrc a) 0 [a] 0x1F
  | .sext16 d a => encCR 0x01 (encDst d) (encSrc a) 0 [a] 0x20
  | .sext32 d a => encCR 0x01 (encDst d) (encSrc a) 0 [a] 0x21
  | .mov d a => encCR 0x01 (encDst d) (encSrc a) 0 [a] 0x22
  | .addi d a imm => encCI 0x02 (encDst d) (encSrc a) [a] imm.toNat
  | .andi d a imm => encCI 0x03 (encDst d) (encSrc a) [a] imm.toNat
  | .ori d a imm => encCI 0x04 (encDst d) (encSrc a) [a] imm.toNat
  | .xori d a imm => encCI 0x05 (encDst d) (encSrc a) [a] imm.toNat
  | .shli d a amount => encCI 0x06 (encDst d) (encSrc a) [a] (0 + amount.toNat)
  | .shri d a amount => encCI 0x06 (encDst d) (encSrc a) [a] (64 + amount.toNat)
  | .sari d a amount => encCI 0x06 (encDst d) (encSrc a) [a] (128 + amount.toNat)
  | .roli d a amount => encCI 0x06 (encDst d) (encSrc a) [a] (192 + amount.toNat)
  | .movi d imm => encCI 0x07 (encDst d) 0 [] imm.toNat
  | .cmp k a b c => encCR 0x08 k.val (encSrc a) (encSrc b) [a, b] (encCond c)
  | .cmpi k a c imm => encCI 0x09 k.val (encSrc a) [a] (encCond c * 2048 + imm.toNat)
  | .sel d a b k => encCR 0x0A (encDst d) (encSrc a) (encSrc b) [a, b] k.val
  | .kand d a b => encCR 0x0B d.val a.val b.val [] 0
  | .kor d a b => encCR 0x0B d.val a.val b.val [] 1
  | .kxor d a b => encCR 0x0B d.val a.val b.val [] 2
  | .knot d a => encCR 0x0B d.val a.val 0 [] 3
  | .kmov d a => encCR 0x0B d.val a.val 0 [] 4
  | .padd d a b => encCR 0x0C (encDst d) (encSrc a) (encSrc b) [a, b] 0x00
  | .psub d a b => encCR 0x0C (encDst d) (encSrc a) (encSrc b) [a, b] 0x01
  | .phdl d a => encCR 0x0C (encDst d) (encSrc a) 0 [a] 0x02
  | .poff d a => encCR 0x0C (encDst d) (encSrc a) 0 [a] 0x03
  | .pmake d a b => encCR 0x0C (encDst d) (encSrc a) (encSrc b) [a, b] 0x04
  | .paddi d a imm => encCI 0x0D (encDst d) (encSrc a) [a] imm.toNat
  | .ld d base q => encCM 0x10 (encDst d) (encSrc base) [base] q
  | .ld32 d base q => encCM 0x11 (encDst d) (encSrc base) [base] q
  | .ld32s d base q => encCM 0x12 (encDst d) (encSrc base) [base] q
  | .ld16 d base q => encCM 0x13 (encDst d) (encSrc base) [base] q
  | .ld16s d base q => encCM 0x14 (encDst d) (encSrc base) [base] q
  | .ld8 d base q => encCM 0x15 (encDst d) (encSrc base) [base] q
  | .ld8s d base q => encCM 0x16 (encDst d) (encSrc base) [base] q
  | .ldwait d base q => encCM 0x17 (encDst d) (encSrc base) [base] q
  | .ldcons d base q => encCM 0x18 (encDst d) (encSrc base) [base] q
  | .st v base q => encCM 0x19 (encSrc v) (encSrc base) [v, base] q
  | .st32 v base q => encCM 0x1A (encSrc v) (encSrc base) [v, base] q
  | .st16 v base q => encCM 0x1B (encSrc v) (encSrc base) [v, base] q
  | .st8 v base q => encCM 0x1C (encSrc v) (encSrc base) [v, base] q
  | .stfill v base q => encCM 0x1D (encSrc v) (encSrc base) [v, base] q
  | .fence mask => [word [(6, 0x1E), (16, mask.toNat), (10, 0)]]
  | .cireq a b => encCR 0x1F 0 (encSrc a) (encSrc b) [a, b] 0x00
  | .aadd d base b q => encCA 0x20 (encDst d) (encSrc base) (encSrc b) [base, b] q
  | .afadd d base b q => encCA 0x21 (encDst d) (encSrc base) (encSrc b) [base, b] q
  | .axchg d base b q => encCA 0x22 (encDst d) (encSrc base) (encSrc b) [base, b] q
  | .acas e base b q => encCA 0x23 (encSrc e) (encSrc base) (encSrc b) [e, base, b] q
  | .amin d base b q => encCA 0x24 (encDst d) (encSrc base) (encSrc b) [base, b] q
  | .amax d base b q => encCA 0x25 (encDst d) (encSrc base) (encSrc b) [base, b] q
  | .aminn d base b q => encCA 0x26 (encDst d) (encSrc base) (encSrc b) [base, b] q
  | .amaxn d base b q => encCA 0x27 (encDst d) (encSrc base) (encSrc b) [base, b] q
  | .aand d base b q => encCA 0x28 (encDst d) (encSrc base) (encSrc b) [base, b] q
  | .aor d base b q => encCA 0x29 (encDst d) (encSrc base) (encSrc b) [base, b] q
  | .axor d base b q => encCA 0x2A (encDst d) (encSrc base) (encSrc b) [base, b] q
  | .b disp => [word [(6, 0x2D), (26, disp.toNat)]]
  | .call disp => [word [(6, 0x2E), (26, disp.toNat)]]
  | .bc k disp => [word [(6, 0x2F), (3, k.val), (1, 0), (22, disp.toNat)]]
  | .bcn k disp => [word [(6, 0x2F), (3, k.val), (1, 1), (22, disp.toNat)]]
  | .jr a => encCR 0x30 0 (encSrc a) 0 [a] 0x00
  | .callr a => encCR 0x30 0 (encSrc a) 0 [a] 0x01
  | .ret => encCR 0x30 0 0 0 [] 2
  | .jtab a b len => word [(6, 0x31), (5, encSrc a), (5, encSrc b), (1, encL [a, b]), (15, len.toNat)] :: encLits [a, b]
  | .qrd d q => encCR 0x32 (encDst d) 0 q.val [] 0
  | .qwr q a => encCR 0x32 0 (encSrc a) q.val [a] 1
  | .qtryrd d q => encCR 0x32 (encDst d) 0 q.val [] 2
  | .qtrywr q a => encCR 0x32 0 (encSrc a) q.val [a] 3
  | .shwr r a e => encCR 0x33 r.val (encSrc a) (encEngine e) [a] 0
  | .lywr r a e => encCR 0x33 r.val (encSrc a) (encEngine e) [a] 1
  | .shswap e => encCR 0x33 0 0 (encEngine e) [] 2
  | .csel d a k => encCR 0x34 (encDst d) (encSrc a) k.val [a] 0
  | .pchk k a => encCR 0x34 k.val (encSrc a) 0 [a] 1
  | .pclr d a => encCR 0x34 (encDst d) (encSrc a) 0 [a] 0x02
  | .srr d n => encCI 0x35 (encDst d) 0 [] n.toNat
  | .srw n a => encCI 0x36 0 (encSrc a) [a] n.toNat
  | .crcfgWrite ring a => encCI 0x36 0 (encSrc a) [a] (encRingReg 0x40 ring)
  | .crrpWrite ring a => encCI 0x36 0 (encSrc a) [a] (encRingReg 0x41 ring)
  | .crwpWrite ring a => encCI 0x36 0 (encSrc a) [a] (encRingReg 0x42 ring)
  | .mcinvWrite a => encCI 0x36 0 (encSrc a) [a] 0x102
  | .vstatWrite a => encCI 0x36 0 (encSrc a) [a] 0x14B
  | .mlcfgWrite a => encCI 0x36 0 (encSrc a) [a] 0x104
  | .uiret => encCR 0x37 0 0 0 [] 0
  | .smwait d a n => encCR 0x38 (encDst d) (encSrc a) n.val [a] 0
  | .smadd d a n => encCR 0x38 (encDst d) (encSrc a) n.val [a] 1
  | .mxlock n => encCR 0x38 0 0 n.val [] 2
  | .mxfree n => encCR 0x38 0 0 n.val [] 3
  | .dbar d a => encCR 0x38 (encDst d) (encSrc a) 0 [a] 0x04
  | .moor d a b => encCR 0x38 (encDst d) (encSrc a) (encSrc b) [a, b] 0x05
  | .yieldPoint a => encCR 0x38 0 (encSrc a) 0 [a] 0x06
  | .yieldEnd a => encCR 0x38 0 (encSrc a) 0 [a] 0x06
  | .launch d a b => encCR 0x39 (encDst d) (encSrc a) (encSrc b) [a, b] 0x00
  | .allocRing d a b => encCR 0x39 (encDst d) (encSrc a) (encSrc b) [a, b] 0x01
  | .allocBump d a b => encCR 0x39 (encDst d) (encSrc a) (encSrc b) [a, b] 0x01
  | .allocStatus d a b => encCR 0x39 (encDst d) (encSrc a) (encSrc b) [a, b] 0x01
  | .freeRing a b => encCR 0x39 0 (encSrc a) (encSrc b) [a, b] 0x02
  | .freeBump a b => encCR 0x39 0 (encSrc a) (encSrc b) [a, b] 0x02
  | .attn a b => encCR 0x3A 0 (encSrc a) (encSrc b) [a, b] 0x00
  | .attnAccept _ _ => []
  | .attnComplete _ _ => []
  | .atcommit a b => encCR 0x3A 0 (encSrc a) (encSrc b) [a, b] 0x01
  | .atdrop a b => encCR 0x3A 0 (encSrc a) (encSrc b) [a, b] 0x02
  | .exalloc d a b => encCR 0x3A (encDst d) (encSrc a) (encSrc b) [a, b] 0x03
  | .exfree a b => encCR 0x3A 0 (encSrc a) (encSrc b) [a, b] 0x04
  | .exinv d a b => encCR 0x3A (encDst d) (encSrc a) (encSrc b) [a, b] 0x05
  | .exclusiveAccept _ _ => []
  | .exinvSwitch _ _ => []
  | .exinvDrain _ _ => []
  | .sample a b => encCR 0x3B 0 (encSrc a) (encSrc b) [a, b] 0x00
  | .sbind a b => encCR 0x3B 0 (encSrc a) (encSrc b) [a, b] 0x01
  | .hins d a b => encCR 0x3C (encDst d) (encSrc a) (encSrc b) [a, b] 0x00
  | .htop d a b => encCR 0x3C (encDst d) (encSrc a) (encSrc b) [a, b] 0x01
  | .hclr a b => encCR 0x3C 0 (encSrc a) (encSrc b) [a, b] 0x02
  | .obqry d a b => encCR 0x3D (encDst d) (encSrc a) (encSrc b) [a, b] 0x00
  | .obprobe d a b => encCR 0x3D (encDst d) (encSrc a) (encSrc b) [a, b] 0x01
  | .trap a => encCR 0x3E 0 (encSrc a) 0 [a] 0x00
  | .retsReturn a => encCR 0x3E 0 (encSrc a) 0 [a] 0x01
  | .retsEnd a => encCR 0x3E 0 (encSrc a) 0 [a] 0x01
  | .snap a => encCR 0x3E 0 (encSrc a) 0 [a] 0x02
  | .rpctlRdst d a b => encCR 0x3E (encDst d) (encSrc a) (encSrc b) [a, b] 0x03
  | .rpctlCk d a b => encCR 0x3E (encDst d) (encSrc a) (encSrc b) [a, b] 0x03
  | .rpctlRdhash d a b => encCR 0x3E (encDst d) (encSrc a) (encSrc b) [a, b] 0x03
  | .rpctlConfig d a b => encCR 0x3E (encDst d) (encSrc a) (encSrc b) [a, b] 0x03
  | .rpctlStop d a b => encCR 0x3E (encDst d) (encSrc a) (encSrc b) [a, b] 0x03
  | .gateRelease _ _ => []
  | .vadd q d a b g => encV q 0x01 (encVDst d) (encVSrc a) (encVSrc b) g ++ encVLit a ++ encVLit b
  | .vsub q d a b g => encV q 0x02 (encVDst d) (encVSrc a) (encVSrc b) g ++ encVLit a ++ encVLit b
  | .vmul q d a b g => encV q 0x03 (encVDst d) (encVSrc a) (encVSrc b) g ++ encVLit a ++ encVLit b
  | .vfma q d a b g => encV q 0x04 (encVDst d) (encVSrc a) (encVSrc b) g ++ encVLit a ++ encVLit b
  | .vfnma q d a b g => encV q 0x05 (encVDst d) (encVSrc a) (encVSrc b) g ++ encVLit a ++ encVLit b
  | .vmin q d a b g => encV q 0x06 (encVDst d) (encVSrc a) (encVSrc b) g ++ encVLit a ++ encVLit b
  | .vmax q d a b g => encV q 0x07 (encVDst d) (encVSrc a) (encVSrc b) g ++ encVLit a ++ encVLit b
  | .vabs q d a g => encV q 0x08 (encVDst d) (encVSrc a) 0 g ++ encVLit a
  | .vneg q d a g => encV q 0x09 (encVDst d) (encVSrc a) 0 g ++ encVLit a
  | .vadds q d a b g => encV q 0x0A (encVDst d) (encVSrc a) (encVSrc b) g ++ encVLit a ++ encVLit b
  | .vsubs q d a b g => encV q 0x0B (encVDst d) (encVSrc a) (encVSrc b) g ++ encVLit a ++ encVLit b
  | .vmulh q d a b g => encV q 0x0C (encVDst d) (encVSrc a) (encVSrc b) g ++ encVLit a ++ encVLit b
  | .vceq q pd a b g => encV q 0x10 pd.val (encVSrc a) (encVSrc b) g ++ encVLit a ++ encVLit b
  | .vcne q pd a b g => encV q 0x11 pd.val (encVSrc a) (encVSrc b) g ++ encVLit a ++ encVLit b
  | .vclt q pd a b g => encV q 0x12 pd.val (encVSrc a) (encVSrc b) g ++ encVLit a ++ encVLit b
  | .vcle q pd a b g => encV q 0x13 pd.val (encVSrc a) (encVSrc b) g ++ encVLit a ++ encVLit b
  | .vcgt q pd a b g => encV q 0x14 pd.val (encVSrc a) (encVSrc b) g ++ encVLit a ++ encVLit b
  | .vcge q pd a b g => encV q 0x15 pd.val (encVSrc a) (encVSrc b) g ++ encVLit a ++ encVLit b
  | .vsel q d a b g => encV q 0x16 (encVDst d) (encVSrc a) (encVSrc b) g ++ encVLit a ++ encVLit b
  | .vcsel q d a b g => encV q 0x17 (encVDst d) (encVSrc a) (encVSrc b) g ++ encVLit a ++ encVLit b
  | .vcvt q d a dir g => encV q 0x18 (encVDst d) (encVSrc a) dir.val g ++ encVLit a
  | .vmov q d a g => encV q 0x19 (encVDst d) (encVSrc a) 0 g ++ encVLit a
  | .vand q d a b g => encV q 0x20 (encVDst d) (encVSrc a) (encVSrc b) g ++ encVLit a ++ encVLit b
  | .vor q d a b g => encV q 0x21 (encVDst d) (encVSrc a) (encVSrc b) g ++ encVLit a ++ encVLit b
  | .vxor q d a b g => encV q 0x22 (encVDst d) (encVSrc a) (encVSrc b) g ++ encVLit a ++ encVLit b
  | .vnot q d a g => encV q 0x23 (encVDst d) (encVSrc a) 0 g ++ encVLit a
  | .vshl q d a b g => encV q 0x24 (encVDst d) (encVSrc a) (encVSrc b) g ++ encVLit a ++ encVLit b
  | .vshr q d a b g => encV q 0x25 (encVDst d) (encVSrc a) (encVSrc b) g ++ encVLit a ++ encVLit b
  | .vsar q d a b g => encV q 0x26 (encVDst d) (encVSrc a) (encVSrc b) g ++ encVLit a ++ encVLit b
  | .vxrot q d a b g => encV q 0x28 (encVDst d) (encVSrc a) (encVSrc b) g ++ encVLit a ++ encVLit b
  | .vxbc q d a b g => encV q 0x29 (encVDst d) (encVSrc a) (encVSrc b) g ++ encVLit a ++ encVLit b
  | .vxred q d a op g => encV q 0x2A (encVDst d) (encVSrc a) op.val g ++ encVLit a
  | .vyrot q d a b g => encV q 0x2B (encVDst d) (encVSrc a) (encVSrc b) g ++ encVLit a ++ encVLit b
  | .vybc q d a b g => encV q 0x2C (encVDst d) (encVSrc a) (encVSrc b) g ++ encVLit a ++ encVLit b
  | .vyred q d a op g => encV q 0x2D (encVDst d) (encVSrc a) op.val g ++ encVLit a
  | .vwalk sg ly start => encV none 0x30 sg.val ly.val (encStart start) noGuard ++ encStartLit start
  | .vsgred q d a op g => encV q 0x31 (encVDst d) (encVSrc a) op.val g ++ encVLit a
  | .vsgscan q d a op g => encV q 0x32 (encVDst d) (encVSrc a) op.val g ++ encVLit a
  | .vpack q d a kind g => encV q 0x33 (encVDst d) (encVSrc a) kind.val g ++ encVLit a
  | .vperm q d a b g => encV q 0x34 (encVDst d) (encVSrc a) (encVSrc b) g ++ encVLit a ++ encVLit b
  | .vtrans q d a g => encV q 0x35 (encVDst d) (encVSrc a) 0 g ++ encVLit a
  | .vshuf q d a b g => encV q 0x36 (encVDst d) (encVSrc a) (encVSrc b) g ++ encVLit a ++ encVLit b
  | .vrcp q d a g => encV q 0x38 (encVDst d) (encVSrc a) 0 g ++ encVLit a
  | .vrsqrt q d a g => encV q 0x39 (encVDst d) (encVSrc a) 0 g ++ encVLit a
  | .vsqrt q d a g => encV q 0x3A (encVDst d) (encVSrc a) 0 g ++ encVLit a
  | .vexp2 q d a g => encV q 0x3B (encVDst d) (encVSrc a) 0 g ++ encVLit a
  | .vlog2 q d a g => encV q 0x3C (encVDst d) (encVSrc a) 0 g ++ encVLit a
  | .vtanh q d a g => encV q 0x3D (encVDst d) (encVSrc a) 0 g ++ encVLit a
  | .vsigm q d a g => encV q 0x3E (encVDst d) (encVSrc a) 0 g ++ encVLit a
  | .vld q d ly off g => encV q 0x40 (encVDst d) ly.val (encVSrc off) g ++ encVLit off
  | .vst q v ly off g => encV q 0x41 (encVReg v) ly.val (encVSrc off) g ++ encVLit off
  | .vldwait q d ly off g => encV q 0x42 (encVDst d) ly.val (encVSrc off) g ++ encVLit off
  | .vldcons q d ly off g => encV q 0x43 (encVDst d) ly.val (encVSrc off) g ++ encVLit off
  | .vstfill q v ly off g => encV q 0x44 (encVReg v) ly.val (encVSrc off) g ++ encVLit off
  | .vgath q d ly off g => encV q 0x45 (encVDst d) ly.val (encVSrc off) g ++ encVLit off
  | .vscat q v ly off g => encV q 0x46 (encVReg v) ly.val (encVSrc off) g ++ encVLit off
  | .vqrd q oq ly off g => encV q 0x47 oq.val ly.val (encVSrc off) g ++ encVLit off
  | .vqrdImageArrival _ _ _ => []
  | .vpand d a b => encV none 0x48 d.val a.val b.val noGuard
  | .vpor d a b => encV none 0x49 d.val a.val b.val noGuard
  | .vpxor d a b => encV none 0x4A d.val a.val b.val noGuard
  | .vpnot d a => encV none 0x4B d.val a.val 0 noGuard
  | .vloop stages mask n => encV none 0x50 stages.val mask.toNat (encVSrc n) noGuard ++ encVLit n
  | .vlend => encV none 0x51 0 0 0 noGuard
  | .vbset c v => encV none 0x52 c.val 0 (encVSrc v) noGuard ++ encVLit v
  | .vbadd c v => encV none 0x53 c.val 0 (encVSrc v) noGuard ++ encVLit v
  | .vsmwait n v => encV none 0x54 n.val 0 (encVSrc v) noGuard ++ encVLit v
  | .vsmadd n v => encV none 0x55 n.val 0 (encVSrc v) noGuard ++ encVLit v
  | .vqget d mode g => encV none 0x56 (encVDst d) 0 mode.val g
  | .vqput v mode => encV none 0x57 0 (encVSrc v) mode.val noGuard ++ encVLit v
  | .mma w m => encMma 0x01 w m
  | .mmaz w m => encMma 0x02 w m
  | .mmasg w m => encMma 0x03 w m
  | .fset w n v => encStep 0x04 w 1 (n.val * 8192) [v.toNat]
  | .fqrd w n => encStep 0x05 w 0 (n.val * 8192) []
  | .mthr w v => encStep 0x11 w 1 0 [v.toNat]
  | .scld w fmt count1 src cls didx => encStep 0x06 w 2 (fmt.val * 16384 + count1.toNat) [src.toNat, pack [(4, cls.toNat), (14, 0), (14, didx.toNat)]]
  | .acczero w tile count1 => encStep 0x07 w 0 (pack [(6, tile.toNat), (6, count1.toNat), (4, 0)]) []
  | .epil w e dst => encEp 0x08 w e dst.toNat
  | .epobj w e ly row0 => encEp 0x09 w e (ly.val * 2 ^ 29 + row0.toNat)
  | .eprow w e taddr => encEp 0x0A w e taddr.toNat
  | .epadd w e taddr => encEp 0x0B w e taddr.toNat
  | .accst w tile addr cls scope => encAcc 0x0C w tile addr cls scope
  | .accld w tile addr cls scope => encAcc 0x0D w tile addr cls scope
  | .mqwr w tag => encStep 0x0E w 0 tag.toNat []
  | .mqwrSt w => encStep 0x0E w 0 0x8000 []
  | .mrel w => encStep 0x0F w 0 0 []
  | .msync w => encStep 0x10 w 0 0 []
  | .mjmp w count disp => encStep 0x12 w 0 (count.toNat * 256 + disp.toNat) []
  | .leaseGrant _ => []
  | .matrixStepComplete _ _ _ => []
  | .tmov w m lys lyd soff doff count1 => encStep 0x01 w 3 (encMove m lys.val lyd.val 0) [soff.toNat, doff.toNat, count1.toNat]
  | .tmov2d w m lys lyd rec => encStep 0x02 w 1 (encMove m lys.val lyd.val 0) [rec.toNat]
  | .rrot w m dist saddr daddr count1 => encStep 0x03 w 3 (encMove m dist.val 0 0) [saddr.toNat, daddr.toNat, count1.toNat]
  | .gath w m lys lyd iaddr rowb rows1 => encStep 0x04 w 3 (encMove m lys.val lyd.val 0) [iaddr.toNat, rowb.toNat, rows1.toNat]
  | .scat w m lys lyd iaddr rowb rows1 => encStep 0x05 w 3 (encMove m lys.val lyd.val 0) [iaddr.toNat, rowb.toNat, rows1.toNat]
  | .rpush w m lys rg soff => encStep 0x06 w 1 (encMove m lys.val rg.val 0) [soff.toNat]
  | .cfill w m lyd doff count1 pat => encStep 0x07 w 3 (encMove m 0 lyd.val 0) [doff.toNat, count1.toNat, pat.toNat]
  | .crstr w m lys ring soff words1 => encStep 0x08 w 2 (encMove m lys.val 0 0 + 4 * encRing ring) [soff.toNat, words1.toNat]
  | .csync w pop => encStep 0x12 w 0 (encBool pop * 2 ^ 15) []
  | .cqwr w tag => encStep 0x13 w 0 tag.toNat []
  | .copyStepComplete _ _ => []
  | .fwr w m lys lyd soff doff pkg count1 => encStep 0x09 w 3 (encFab m lys.val lyd.val 0) [soff.toNat, doff.toNat, pkg.toNat * 2 ^ 20 + count1.toNat]
  | .frd w m lys lyd soff doff pkg count1 => encStep 0x0A w 3 (encFab m lys.val lyd.val 0) [soff.toNat, doff.toNat, pkg.toNat * 2 ^ 20 + count1.toNat]
  | .fatom w aop lyd doff oaddr pkg => encStep 0x0B w 3 (encAtomOp aop * 4096 + 2 * lyd.val) [doff.toNat, oaddr.toNat, pkg.toNat * 2 ^ 20]
  | .lbregBuffer w rec => encStep 0x0C w 1 0 [rec.toNat]
  | .lbregPort w rec => encStep 0x0C w 1 8192 [rec.toNat]
  | .lbregClose w rec => encStep 0x0C w 1 16384 [rec.toNat]
  | .lbregOpen w rec => encStep 0x0C w 1 24576 [rec.toNat]
  | .lbregRedirect w rec => encStep 0x0C w 1 32768 [rec.toNat]
  | .lbrelBuffer w key => encStep 0x0D w 1 0 [key.toNat]
  | .lbrelPort w h => encStep 0x0D w 1 8192 [h.toNat]
  | .a2av w m desc => encStep 0x0E w 1 (encFab m 0 0 0) [desc.toNat]
  | .rscat w m desc => encStep 0x0F w 1 (encFab m 0 0 0) [desc.toNat]
  | .agath w m desc => encStep 0x10 w 1 (encFab m 0 0 0) [desc.toNat]
  | .bcast w m desc => encStep 0x11 w 1 (encFab m 0 0 0) [desc.toNat]
  | .collectiveMessageArrival _ => []
  | .bounceResend _ => []
  | .collectiveComplete _ _ => []
  | .collectiveTimeout _ _ => []
  | .pgmovUp w h k staddr => encStep 0x14 w 3 0 [h.toNat, k.toNat, staddr.toNat]
  | .pgmovDown w h k staddr => encStep 0x14 w 3 0x8000 [h.toNat, k.toNat, staddr.toNat]
  | .feset w m lyd doff count1 => encStep 0x15 w 2 (encMove m 0 lyd.val 0) [doff.toNat, count1.toNat]
  | .obcopy w h k nslot => encStep 0x16 w 3 0 [h.toNat, k.toNat, nslot.toNat]
  | .obcopySwitch _ _ => []
  | .sld d a idx => encS 0x01 d.val a.val 0 idx.toNat
  | .scst a b => encS 0x02 0 a.val b.val 0
  | .sadd d a b => encS 0x03 d.val a.val b.val 0
  | .ssub d a b => encS 0x04 d.val a.val b.val 0
  | .smul d a b => encS 0x05 d.val a.val b.val 0
  | .sfma d a b => encS 0x06 d.val a.val b.val 0
  | .smax d a b => encS 0x07 d.val a.val b.val 0
  | .smin d a b => encS 0x08 d.val a.val b.val 0
  | .sexp2 d a => encS 0x09 d.val a.val 0 0
  | .slog2 d a => encS 0x0A d.val a.val 0 0
  | .srcp d a => encS 0x0B d.val a.val 0 0
  | .sbc d a => encS 0x0C d.val a.val 0 0
  | .sxred d a op => encS 0x0D d.val a.val 0 op.val
  | .smov d a => encS 0x0E d.val a.val 0 0
  | .shmov d v => encSImm 0x0F d.val 0 v
  | .shadd d a v => encSImm 0x10 d.val a.val v
  | .shmul d a b => encS 0x11 d.val a.val b.val 0
  | .scmp d a b c => encS 0x12 d.val a.val b.val c.val
  | .ssel d a b => encS 0x13 d.val a.val b.val 0
  | .stbl d a table => encS 0x14 d.val a.val 0 table.val
  | .stbw a b table => encS 0x15 0 a.val b.val table.val
  | .smask d a => encS 0x16 d.val a.val 0 0
  | .spsort a => encS 0x17 0 a.val 0 0
  | .scsum d => encS 0x18 d.val 0 0 0
  | .sdrawDraw d a b => encS 0x19 d.val a.val b.val 0
  | .sdrawCut d a b => encS 0x19 d.val a.val b.val 1
  | .sgen d g mode => encS 0x1A d.val g.val 0 mode.val
  | .saccept d a b n g => encS 0x1B d.val a.val b.val (g.val * 32 + n.toNat)
  | .sbnz a disp => encS 0x1C 0 a.val 0 disp.toNat
  | .sjmp disp => encS 0x1D 0 0 0 disp.toNat
  | .sendToken a => encS 0x1E 0 a.val 0 0
  | .sendCount a => encS 0x1E 0 a.val 0 1
  | .sendBlock a => encS 0x1E 0 a.val 0 2
  | .sendNone a => encS 0x1E 0 a.val 0 3
  | .ssoft d => encS 0x1F d.val 0 0 0
  | .sampleAccept _ => []
  | .samplerBlock _ => []
  | .samplerFinalPhase _ => []
  | .watchdogExhausted _ => []
  | .sampleComplete _ => []
  | .shardContribution _ => []
  | .shardTokenArrival _ _ => []
  | .rootTimeout _ => []
  | .shardReplyTimeout _ => []
  | .contributionHoldTimeout _ _ => []
  | .rowArrival _ => []
  | .rowAck _ _ => []
  | .fabricMessageArrival _ => []
  | .fabricAtomicHome _ => []
  | .fabricReply _ _ => []
  | .fabricReplyTimeout _ => []
  | .waitRetry _ _ => []
  | .moorWakeAttempt _ _ => []
  | .moorPoolRetry _ _ => []
  | .feExpire _ _ => []
  | .moorExpire _ => []
  | .stepWaitExpire _ _ => []
  | .replayHoldExpire _ _ => []
  | .swapPoint _ _ => []
  | .userEventDelivery _ => []
  | .asyncTrapDelivery _ _ => []
  | .pagerPromotion _ _ _ => []
  | .tqtailWrite _ _ => []
  | .tqctlWrite _ _ => []
  | .registerWrite _ _ _ => []
  | .hostBar4Write _ _ => []
  | .hostBar4Read _ _ => []
  | .hostFeByteWrite _ _ => []
  | .taskAdmission _ => []
  | .taskDispatch => []
  | .tokenAging _ => []
  | .preemptionDecision _ => []
  | .drainTimeout _ => []
  | .checkpointSave _ => []
  | .taskKill _ => []
  | .restore => []
  | .coreShareEnd _ => []
  | .taskRetire _ _ => []
  | .taskComplete _ => []
  | .ckrqctlGo _ => []
  | .bootctlGo _ => []
  | .firmwareVerifyDone => []
  | .attctlGo _ => []
  | .attestationResponse => []
  | .measurementExtend _ _ _ => []
  | .powerCapWrite _ => []
  | .routeWrite _ _ => []
  | .firmwareDma _ _ _ _ => []
  | .firmwareHbmAccess _ _ _ _ => []
  | .contextCreate _ _ => []
  | .contextDestroy _ => []
  | .coldReset _ => []
  | .throttleDown => []
  | .throttleUp => []
  | .thermalTrip => []
  | .bellPin => []
  | .bellMessage _ => []
  | .snapshotLatch => []
  | .fabricBringUp _ _ _ => []

/-! The opcode table's numbering of an instruction's bits. -/

/-- The words of an instruction whose bits are w, bit 0 the least significant bit of the first word; the bits above nbits
are 0, up to the longest instruction of four words. -/
def tableWords (w : Nat) : List W32 :=
  [BitVec.ofNat 32 w, BitVec.ofNat 32 (w / 2 ^ 32), BitVec.ofNat 32 (w / 2 ^ 64), BitVec.ofNat 32 (w / 2 ^ 96)]

/-- The instruction of a decoder's answer. -/
def Decoded.instr? : Decoded → Option Instr
  | .ok i _ => some i
  | _ => none

/-- The decoders read one table word in the order control, vector, matrix, copy, sampler: the sections share one 32-bit
space (02), and the table does not say which section a word stands in. -/
noncomputable def decodeTableWord (nbits w : Nat) : Option Instr :=
  let ws := tableWords (w % 2 ^ nbits)
  (decodeControl ws).instr? <|> (decodeVector ws).instr? <|> (decodeMatrix ws).instr? <|> (decodeCopy ws).instr? <|> (decodeSampler ws).instr?

end Sys2Proof
end

