-- ==== Sys2Proof/Machine/Sampler.lean ====
section
/-! DEFINITION. The sampler: the crossing hash, the running operation, candidate memory, its tables, and the instructions of logit programs
(08 R225 to R245). -/

namespace Sys2Proof.Machine

def Mach.onSamp (m : Mach) (cl : Fin 16) (f : Sampler → Sampler) : Mach := { m with samp := { m.samp with units := m.samp.units.set cl (f m.samp.units[cl]) } }
def Mach.onRun (m : Mach) (cl : Fin 16) (r : SampRun) : Mach := m.onSamp cl fun x => { x with run := some r }

/-! The crossing hash (R228, R229). -/

def cross (key ctr : W64) : W32 :=
  let x0 : W32 := ctr.setWidth 32 ^^^ key.setWidth 32
  let x1 := x0 * 0x6A5D39E7
  let x2 := x1 ^^^ (x1 >>> 16)
  let x3 := x2 ^^^ (ctr >>> 32).setWidth 32 ^^^ (key >>> 32).setWidth 32
  let x4 := x3 * 0xB40F2C53
  x4 ^^^ (x4 >>> 15)

/-- `Draw`, exact in FP32. -/
def drawOf (x : W32) : W32 := BitVec.ofNat 32 (fp32.round (.fin false (x.toNat / 256) (-24) false) .rne false).bits

/-- The uses of a G register that are left (R229). -/
def SampRun.usesLeft (r : SampRun) (g : Fin 4) : Nat := 64 - (r.g[g] - (r.sc.ctr * 256 + BitVec.ofNat 64 (64 * g.val))).toNat

/-- One use of a G register: the counter advances, and its hash. -/
def SampRun.useG (r : SampRun) (g : Fin 4) : SampRun × W32 :=
  let v := r.g[g] + 1
  ({ r with g := r.g.set g v }, cross r.sc.key v)

/-! FP32 with flags (R236). -/

def SampFlags.raise (a : SampFlags) (f : FpFlags) : SampFlags :=
  { sat := a.sat || f.sat, nx := a.nx || f.nx, uf := a.uf || f.uf, of := a.of || f.of, dz := a.dz || f.dz, nv := a.nv || f.nv }

def SampRun.flag (r : SampRun) (f : FpFlags) : SampRun := { r with flags := r.flags.raise f }

abbrev Fl := W32 × FpFlags

def val32 (v : W32) : Ex := fp32.decode v.toNat

/-- An exact result rounded to FP32, nearest-even. -/
def round32Fl (x : Ex) (bad : Bool) : Fl :=
  let o := fp32.round x .rne false
  (BitVec.ofNat 32 o.bits, o.fl.or (.invalid bad))

def fAdd (a b : W32) : Fl := let (x, bad) := (val32 a).add (val32 b) .rne; round32Fl x bad
def fSub (a b : W32) : Fl := let (x, bad) := (val32 a).add (val32 b).negate .rne; round32Fl x bad
def fMul (a b : W32) : Fl := let (x, bad) := (val32 a).mul (val32 b); round32Fl x bad
def fFma (a b d : W32) : Fl := let (x, bad) := (val32 a).fma (val32 b) (val32 d) .rne; round32Fl x bad
def fMinMax (max : Bool) (a b : W32) : Fl := round32Fl ((val32 a).minMax max (val32 b)) (anySig [val32 a, val32 b])
def fSpecial (f : Ex → Ex × FpFlags) (a : W32) : Fl :=
  let (x, fl) := f (val32 a)
  let (v, fl2) := round32Fl x false
  (v, fl.or fl2)

/-- Results with their flags gathered. -/
def gather (l : List Fl) : List W32 × FpFlags := (l.map (·.1), l.foldl (fun a x => a.or x.2) {})

/-- Two operations one after the other. -/
def Fl.bind (a : Fl) (f : W32 → Fl) : Fl := let (v, fl) := f a.1; (v, a.2.or fl)

def one32 : W32 := 0x3F800000
def negInf32 : W32 := 0xFF800000
def noId : W32 := 0xFFFFFFFF

/-- The mass of a logit against a maximum: Exp2 of the rounded difference. -/
def massOf (x mx : W32) : Fl := (fSub x mx).bind (fSpecial exExp2)

/-! Candidate memory (R235, R240, R241). -/

def candMax : Nat := 16384

/-- *Better*. -/
def better (a b : W32 × W32) : Bool := (val32 b.1).lt (val32 a.1) || ((val32 a.1).eq (val32 b.1) && decide (a.2.toNat < b.2.toNat))

/-- The index of the entry not better than any other, the lowest among equals: `i` is the index of the head, `w` the best so far. -/
def worstOf : List (W32 × W32) → Nat → Nat × (W32 × W32) → Nat
  | [], _, w => w.1
  | e :: l, i, w => worstOf l (i + 1) (if better w.2 e then (i, e) else w)

/-- An entry kept: appended, or in the place of the worst when it is better. -/
def keepEntry (l : List (W32 × W32)) (e : W32 × W32) : List (W32 × W32) :=
  if l.length < candMax then l ++ [e]
  else
    match l with
    | [] => [e]
    | h :: t =>
      let w := worstOf t 1 (0, h)
      match l[w]? with
      | some x => if better e x then l.set w e else l
      | none => l

/-- One lane of `scst`. -/
def SampRun.append1 (r : SampRun) (x0 id : W32) : SampRun :=
  let v := val32 x0
  if v.isNan then r.flag { nv := true }
  else
    let inf := v == .inf false
    let x : W32 := if inf then 0x7F7FFFFF else x0
    let r0 := if inf then r.flag { nv := true } else r
    if x = negInf32 then r0
    else
      let r1 :=
        if (val32 r0.mx).lt (val32 x) then
          let s : Fl := if r0.mx = negInf32 then (one32, {}) else (massOf r0.mx x).bind fun e => fFma r0.sm e one32
          ({ r0 with sm := s.1, mx := x }).flag s.2
        else
          let s : Fl := (massOf x r0.mx).bind fun e => fAdd r0.sm e
          ({ r0 with sm := s.1 }).flag s.2
      { r1 with cand := keepEntry r1.cand (x, id) }

/-- A block appended, lane by lane (R235). -/
def SampRun.append (r : SampRun) (l : List (W32 × W32)) : SampRun := l.foldl (fun r x => r.append1 x.1 x.2) r

/-- An entry placed in a descending list, before the entries that are not better. -/
def insertBest (e : W32 × W32) : List (W32 × W32) → List (W32 × W32)
  | [] => [e]
  | x :: l => if better x e then x :: insertBest e l else e :: x :: l

/-- The best k entries in descending order; equal entries keep their order. -/
def bestOf (l : List (W32 × W32)) (k : Nat) : List (W32 × W32) := (l.foldr insertBest []).take k

/-- `ssoft`: the weights, and SM, or +0 without entries. -/
def SampRun.soft (r : SampRun) : SampRun × W32 :=
  let (ws, fl) := gather (r.cand.map fun e => massOf e.1 r.mx)
  (({ r with cand := ws.zip (r.cand.map fun (e : W32 × W32) => e.2) }).flag fl, if r.cand.isEmpty then 0 else r.sm)

/-- Prefix sums from a start. -/
def prefixSums : W32 → List W32 → List Fl
  | _, [] => []
  | c, v :: l => let s := fAdd c v; s :: prefixSums s.1 l

/-- `scsum`: the prefix sums, and the last one. -/
def SampRun.csum (r : SampRun) : SampRun × W32 :=
  let (cs, fl) := gather (prefixSums 0 (r.cand.map (·.1)))
  (({ r with cand := cs.zip (r.cand.map fun (e : W32 × W32) => e.2) }).flag fl, (cs.getLast?).getD 0)

/-- `sdraw`: the index found, and whether a NaN was met; `cut` takes a sum that equals u × T. There is an entry. -/
def drawIndex (cand : List (W32 × W32)) (u t : W32) (cut : Bool) : Nat × Bool :=
  let (ut, bad) := (val32 u).mul (val32 t)
  let hit (e : W32 × W32) : Bool := ut.lt (val32 e.1) || (cut && ut.eq (val32 e.1))
  let i := match cand.findIdx? hit with | some i => i | none => cand.length - 1
  (i, bad || ut.isNan || (cand.take (i + 1)).any fun e => (val32 e.1).isNan)

/-! The run of an instruction (R231 to R233). -/

/-- How an instruction of a logit program goes on: to the next word; to a word at a displacement; held in place; a fault; or the phase has
changed. -/
inductive SampGo where
  | go (m : Mach) (r : SampRun)
  | jump (m : Mach) (r : SampRun) (disp : Int)
  | hold (m : Mach) (r : SampRun)
  | fault (m : Mach) (r : SampRun) (cls : TrapClass)
  | leave (m : Mach) (r : SampRun)

/-- The sampler at (ROOTPKG, ROOTCL) runs the root (R252). -/
def Mach.isRoot (m : Mach) (cl : Fin 16) (d : SampDesc) : Bool := d.shard && d.rootpkg == m.pkg && d.rootcl == cl

/-- An answer on its way to a shard. -/
def Mach.shardReply (m : Mach) (g : ShardMsg) (token : Option (W32 × Bool)) : Mach :=
  let r : ShardReply := { coll := g.coll, shard := g.shard, token := token }
  if g.src = m.pkg then { m with samp := { m.samp with replies := m.samp.replies ++ [(g.cl, r)] } }
  else { m with samp := { m.samp with outReplies := m.samp.outReplies ++ [(g.src, g.cl, r)] } }

/-- The ids for which a context counts tokens. -/
def SampCtx.covers (c : SampCtx) : Option (Nat × Nat) := if c.tcount = 0 ∨ c.tlen = 0 then none else some (c.tbase, c.tlen)

/-- The contribution of a shard (R252). -/
def SampRun.contribution (r : SampRun) (pkg : BitVec 12) (cl : Fin 16) (failed : Bool) : ShardMsg :=
  let d := r.job.desc
  { src := pkg, cl := cl, root := d.rootcl, coll := d.coll, shard := d.shidx, timeout := d.timeout, mx := r.mx, sm := r.sm,
    cands := bestOf r.cand (min d.kc r.cand.length), failed := failed, covers := r.sc.covers }

/-- A contribution leaves a shard that is not the root. -/
def Mach.contribute (m : Mach) (r : SampRun) (cl : Fin 16) (failed : Bool) : Mach :=
  let g := r.contribution m.pkg cl failed
  if r.job.desc.rootpkg = m.pkg then { m with samp := { m.samp with contribs := m.samp.contribs ++ [g] } }
  else { m with samp := { m.samp with outContribs := m.samp.outContribs ++ [(r.job.desc.rootpkg, g)] } }

/-- The contributions that answer to another sampler than the root's own. -/
def SampRun.others (r : SampRun) : List ShardMsg := r.gath.filter fun g => g.shard != r.job.desc.shidx

/-- The shards whose contributions a root lacks. -/
def SampRun.missing (r : SampRun) : List Nat :=
  (List.range r.job.desc.nsh).filter fun i => i != r.job.desc.shidx && !(r.gath.any fun g => g.shard == i)

/-- The operation ends (R233, R234, R254): a token, with whether it is counted, goes from a root to every shard; in every other outcome a
root sends INCOMPLETE to the shards that contributed and holds the collective for the others, and a shard whose program faulted before
it contributed sends its failure mark. `program` tells a program's own fault. -/
def Mach.endRun (m : Mach) (cl : Fin 16) (r : SampRun) (outcome code : Nat) (token : W32) (count program : Bool) : Mach :=
  let d := r.job.desc
  let emits := outcome == 0 || outcome == 1
  let m1 :=
    if m.isRoot cl d then
      let m2 := r.others.foldl (fun m g => m.shardReply g (if emits then some (token, count) else none)) m
      if emits ∨ r.missing.isEmpty then m2 else m2.onSamp cl fun x => { x with finished := x.finished ++ [(d.coll, r.missing)] }
    else
      match r.phase with
      | .sent _ => m
      | _ => if d.shard && program then m.contribute r cl true else m
  m1.onRun cl { r with phase := .ended outcome code token, upd := [] }

/-- A fault of the program (R233). -/
def Mach.sampFault (m : Mach) (cl : Fin 16) (r : SampRun) (cls : TrapClass) : Mach := m.endRun cl r 4 cls.code.toNat noId false true

/-- The state that an instruction leaves. -/
def SampGo.settle (g : SampGo) (cl : Fin 16) (words : Nat) : Mach :=
  match g with
  | .go m r => m.onRun cl { r with pc := r.pc + words, held := false }
  | .jump m r d =>
    let to_ : Int := (r.pc : Int) + d
    if to_ < 0 ∨ (r.sc.plen : Int) ≤ to_ then m.sampFault cl r .illegal else m.onRun cl { r with pc := to_.toNat, held := false }
  | .hold m r => m.onRun cl { r with held := true }
  | .fault m r cls => m.sampFault cl r cls
  | .leave m r => m.onRun cl { r with held := false }

/-- The sampler that the instruction runs on is that of the agent's cluster. An instruction whose cost exceeds the budget is not issued
(R232); one that is held has been charged. -/
def State.sampler (s : State) (cost : SampRun → Nat) (words : Nat) (f : Mach → SampRun → SampGo) : Host.Outcome State Fault Refusal :=
  let cl := clusterFin s.cur.core
  match s.mach.samp.units[cl].run with
  | none => .next s
  | some r =>
    let issue (fin : Bool) : Host.Outcome State Fault Refusal :=
      if !r.held ∧ (if r.sc.budget = 0 then 16384 else r.sc.budget) < r.charge + cost r then
        .next { s with mach := s.mach.onRun cl { r with phase := .exhausted fin } }
      else
        let r1 := if r.held then r else { r with charge := r.charge + cost r }
        .next { s with mach := (f s.mach r1).settle cl words }
    match r.phase with
    | .block => issue false
    | .final => issue true
    | _ => .next s

/-- An instruction that only works on the operation's registers. -/
def State.sampReg (s : State) (cost : SampRun → Nat) (words : Nat) (f : SampRun → SampRun) : Host.Outcome State Fault Refusal :=
  s.sampler cost words fun m r => .go m (f r)

/-! Register results. -/

def SampRun.setW (r : SampRun) (d : Fin 16) (v : Vector W32 64) : SampRun := { r with w := r.w.set d v }
def SampRun.setH (r : SampRun) (d : Fin 16) (v : W32) : SampRun := { r with h := r.h.set d v }

/-- A lane result for every lane, with the flags of all. -/
def SampRun.lanes (r : SampRun) (d : Fin 16) (f : Fin 64 → Fl) : SampRun :=
  let v := Vector.ofFn f
  (r.setW d (v.map (·.1))).flag (v.toList.foldl (fun a x => a.or x.2) {})

/-- A lane operation of two sources (R237). -/
def State.sampLane2 (s : State) (d a b : Fin 16) (f : W32 → W32 → Fl) : Host.Outcome State Fault Refusal :=
  s.sampReg (fun _ => 1) 1 fun r => r.lanes d fun i => f r.w[a][i] r.w[b][i]

/-- A lane operation of one source, charged 4 (R237). -/
def State.sampLane1 (s : State) (d a : Fin 16) (f : W32 → Fl) : Host.Outcome State Fault Refusal :=
  s.sampReg (fun _ => 4) 1 fun r => r.lanes d fun i => f r.w[a][i]

/-- ⌈CN/64⌉, at least 1 (R236). -/
def SampRun.blocks (r : SampRun) : Nat := max 1 ((r.cand.length + 63) / 64)

/-! The lane operations (R237). -/

def execSadd (d a b : Fin 16) (s : State) : Host.Outcome State Fault Refusal := s.sampLane2 d a b fAdd
def execSsub (d a b : Fin 16) (s : State) : Host.Outcome State Fault Refusal := s.sampLane2 d a b fSub
def execSmul (d a b : Fin 16) (s : State) : Host.Outcome State Fault Refusal := s.sampLane2 d a b fMul
def execSfma (d a b : Fin 16) (s : State) : Host.Outcome State Fault Refusal :=
  s.sampReg (fun _ => 1) 1 fun r => r.lanes d fun i => fFma r.w[a][i] r.w[b][i] r.w[d][i]
def execSmax (d a b : Fin 16) (s : State) : Host.Outcome State Fault Refusal := s.sampLane2 d a b (fMinMax true)
def execSmin (d a b : Fin 16) (s : State) : Host.Outcome State Fault Refusal := s.sampLane2 d a b (fMinMax false)
def execSexp2 (d a : Fin 16) (s : State) : Host.Outcome State Fault Refusal := s.sampLane1 d a (fSpecial exExp2)
def execSlog2 (d a : Fin 16) (s : State) : Host.Outcome State Fault Refusal := s.sampLane1 d a (fSpecial exLog2)
def execSrcp (d a : Fin 16) (s : State) : Host.Outcome State Fault Refusal := s.sampLane1 d a (fSpecial exRcp)
def execSbc (d a : Fin 16) (s : State) : Host.Outcome State Fault Refusal :=
  s.sampReg (fun _ => 1) 1 fun r => r.setW d (Vector.replicate 64 r.h[a])
def execSmov (d a : Fin 16) (s : State) : Host.Outcome State Fault Refusal :=
  s.sampReg (fun _ => 1) 1 fun r => r.setW d r.w[a]
def execSsel (d a b : Fin 16) (s : State) : Host.Outcome State Fault Refusal :=
  s.sampReg (fun _ => 1) 1 fun r => r.setW d (Vector.ofFn fun i : Fin 64 => if r.w[d][i] ≠ 0 then r.w[a][i] else r.w[b][i])

/-- The conditions of `scmp` (R237): FP32 ones under 05 R149. -/
def scmpOf (c : Fin 11) (x y : W32) : Fl :=
  let a := val32 x
  let b := val32 y
  let nan := a.isNan || b.isNan
  let out (v : Bool) : W32 := if v then 0xFFFFFFFF else 0
  let fl : FpFlags := { nv := if c.val < 2 then anySig [a, b] else nan }
  match c.val with
  | 0 => (out (a.eq b), fl)
  | 1 => (out (!a.eq b), fl)
  | 2 => (out (a.lt b), fl)
  | 3 => (out (a.lt b || a.eq b), fl)
  | 4 => (out (b.lt a), fl)
  | 5 => (out (b.lt a || a.eq b), fl)
  | 6 => (out (decide (x.toNat < y.toNat)), {})
  | 7 => (out (decide (x.toNat ≤ y.toNat)), {})
  | 8 => (out (decide (y.toNat < x.toNat)), {})
  | 9 => (out (decide (y.toNat ≤ x.toNat)), {})
  | _ => (out (x == y), {})

def execScmp (d a b : Fin 16) (c : Fin 11) (s : State) : Host.Outcome State Fault Refusal := s.sampLane2 d a b (scmpOf c)

/-- One level of the tree of 05 R155. -/
def sampLevel (f : W32 → W32 → Fl) : List W32 → List Fl
  | x :: y :: l => f x y :: sampLevel f l
  | [x] => [(x, {})]
  | [] => []

/-- The tree over 2^n values. -/
def sampTree (f : W32 → W32 → Fl) : Nat → List W32 → FpFlags → Fl
  | 0, l, fl => (l.headD 0, fl)
  | n + 1, l, fl => let (vs, fl2) := gather (sampLevel f l); sampTree f n vs (fl.or fl2)

/-- `sxred` (R237). -/
def execSxred (d a : Fin 16) (op : Fin 3) (s : State) : Host.Outcome State Fault Refusal :=
  s.sampReg (fun _ => 6) 1 fun r =>
    let f := match op.val with | 0 => fAdd | 1 => fMinMax true | _ => fMinMax false
    let (v, fl) := sampTree f 6 r.w[a].toList {}
    (r.setH d v).flag fl

/-! The scalar operations (R238). -/

def simmVal (v : SImm) : W32 := match v with | .imm i => i.signExtend 32 | .lit w => w
def simmWords (v : SImm) : Nat := match v with | .imm _ => 1 | .lit _ => 2

def execShmov (d : Fin 16) (v : SImm) (s : State) : Host.Outcome State Fault Refusal :=
  s.sampReg (fun _ => 1) (simmWords v) fun r => r.setH d (simmVal v)
def execShadd (d a : Fin 16) (v : SImm) (s : State) : Host.Outcome State Fault Refusal :=
  s.sampReg (fun _ => 1) (simmWords v) fun r => r.setH d (r.h[a] + simmVal v)
def execShmul (d a b : Fin 16) (s : State) : Host.Outcome State Fault Refusal :=
  s.sampReg (fun _ => 1) 1 fun r => let (v, fl) := fMul r.h[a] r.h[b]; (r.setH d v).flag fl

/-! The tables (R226, R227, R239). -/

/-- A table of the context: counts, biases, or the mask. -/
inductive Tab where
  | count | bias | mask
  deriving DecidableEq, Repr

/-- The pointer of an id's entry: none where it is not present, or PERM where it leaves the pointer's range. -/
def SampCtx.entry (c : SampCtx) (t : Tab) (id : W32) : Option (Except NoPlace W64) :=
  let p := match t with | .count => c.tcount | .bias => c.tbias | .mask => c.tmask
  if p = 0 ∨ id.toNat < c.tbase ∨ c.tbase + c.tlen ≤ id.toNat then none
  else
    let k := id.toNat - c.tbase
    some (ptrAdd p ((if t = .mask then k / 8 else 4 * k : Nat) : Int))

/-- Who a sampler's table accesses translate as. -/
def SampRun.asker (r : SampRun) : Asker := { core := r.job.core, ctx := r.job.ctx, site := some (clusterFin r.job.core), sup := false, lighter := false }

/-- A table access translated and checked (R227, R233): a misaligned entry is SHAPE. -/
def Mach.tabPlace (m : Mach) (r : SampRun) (p : Except NoPlace W64) (n : Nat) (kind : Kind) : Except NoPlace (Place × W64) :=
  match p with
  | .error e => .error e
  | .ok p =>
    if ptrOff p % n ≠ 0 then .error (trapOf .shape p)
    else
      match place m r.asker p n kind with
      | .error e => .error e
      | .ok (.store key mt use) => if memPoisoned m.mem (locOf key) then .error (trapOf .poison p) else .ok (.store key mt use, p)
      | .ok pl => .ok (pl, p)

/-- The remote accesses of a core's sampler operation are numbered from here on. -/
def sampLane : Nat := 2 ^ 21

/-- The remote accesses of the operation dropped. -/
def Mach.dropRemotes (m : Mach) (c : CoreId) : Mach := { m with remotes := m.remotes.filter fun r => !(r.core == c && r.strand == .copy && decide (sampLane ≤ r.lane)) }

/-- The entries of lanes read: the values, none where an entry is not present. `waiting` tells that an answer is still out. -/
inductive TabRead where
  | vals (m : Mach) (l : List (Option Nat)) (waiting : Bool)
  | hold (m : Mach)
  | fault (m : Mach) (cls : TrapClass)

def Mach.tabRead (m : Mach) (r : SampRun) (t : Tab) (n : Nat) : Nat → List W32 → TabRead
  | _, [] => .vals m [] false
  | i, id :: ids =>
    let next (m : Mach) (v : Option Nat) (w : Bool) : TabRead :=
      match m.tabRead r t n (i + 1) ids with
      | .vals m1 l w1 => .vals m1 (v :: l) (w || w1)
      | o => o
    match r.sc.entry t id with
    | none => next m none false
    | some p =>
      match m.tabPlace r p n .read with
      | .error (.fault x) => .fault m x.cls
      | .error (.miss ctx h k) => .hold (m.pagerMiss ctx h k)
      | .error .held => .hold m
      | .ok (.remote home _, p) =>
        let (m1, a) := m.remotePeek r.job.core .copy (sampLane + i) home r.job.ctx p (.load n)
        match a with
        | none => next m1 none true
        | some (.value v) => next m1 (some v) false
        | some .poisoned => .fault m1 .poison
        | some _ => .fault m1 .fabric
      | .ok (pl, _) => next m (some (m.readPlace pl n)) false

/-- A table instruction: every lane's entry, then the result. -/
def State.sampTable (s : State) (a : Fin 16) (t : Tab) (n : Nat) (f : SampRun → List (Option Nat) → SampRun) : Host.Outcome State Fault Refusal :=
  s.sampler (fun _ => 8) 1 fun m r =>
    match m.tabRead r t n 0 r.w[a].toList with
    | .vals m1 l w => if w then .hold m1 r else .go (m1.dropRemotes r.job.core) (f r l)
    | .hold m1 => .hold m1 r
    | .fault m1 cls => .fault (m1.dropRemotes r.job.core) r cls

/-- `stbl` (R239). -/
def execStbl (d a : Fin 16) (table : Fin 2) (s : State) : Host.Outcome State Fault Refusal :=
  s.sampTable a (if table = 0 then .count else .bias) 4 fun r l =>
    r.lanes d fun i =>
      match (l.getD i.val none) with
      | none => (0, {})
      | some v => if table = 0 then round32Fl (.ofInt v) false else (BitVec.ofNat 32 v, {})

/-- `smask` (R239). -/
def execSmask (d a : Fin 16) (s : State) : Host.Outcome State Fault Refusal :=
  s.sampTable a .mask 1 fun r l =>
    r.setW d (Vector.ofFn fun i : Fin 64 =>
      match l.getD i.val none with
      | none => r.w[d][i]
      | some v => if bit v ((r.w[a][i].toNat - r.sc.tbase) % 8) then r.w[d][i] else negInf32)

/-- `stbw` (R239). -/
def execStbw (a b : Fin 16) (table : Fin 2) (s : State) : Host.Outcome State Fault Refusal :=
  s.sampler (fun _ => 1) 1 fun m r =>
    if 8 ≤ r.upd.length then .fault m r .shape
    else .go m { r with upd := r.upd ++ [{ bias := table == 1, id := r.h[a], val := r.h[b] }] }

/-! Candidate memory's instructions. -/

/-- `scst` (R235): in the final phase it is illegal (R245). -/
def execScst (a b : Fin 16) (s : State) : Host.Outcome State Fault Refusal :=
  s.sampler (fun _ => 2) 1 fun m r =>
    match r.phase with
    | .final => .fault m r .illegal
    | _ =>
      let n := r.h[b].toNat
      if 64 < n then .fault m r .shape
      else .go m (r.append ((r.w[a].toList.zip r.w[a + 1].toList).take n))

/-- `sld` (R240). -/
def execSld (d a : Fin 16) (idx : BitVec 13) (s : State) : Host.Outcome State Fault Refusal :=
  s.sampReg (fun _ => 2) 1 fun r =>
    let j := r.h[a].toNat + idx.toNat
    let e (i : Fin 64) : W32 × W32 := r.cand.getD (j + i.val) (negInf32, noId)
    (r.setW d (Vector.ofFn fun i => (e i).1)).setW (d + 1) (Vector.ofFn fun i => (e i).2)

/-- `spsort` (R240). -/
def execSpsort (a : Fin 16) (s : State) : Host.Outcome State Fault Refusal :=
  s.sampReg (fun r => 16 * r.blocks) 1 fun r => { r with cand := bestOf r.cand r.h[a].toNat }

/-- `ssoft` (R240). -/
def execSsoft (d : Fin 16) (s : State) : Host.Outcome State Fault Refusal :=
  s.sampReg (fun r => 4 * r.blocks) 1 fun r => let (r1, v) := r.soft; r1.setH d v

/-- `scsum` (R240). -/
def execScsum (d : Fin 16) (s : State) : Host.Outcome State Fault Refusal :=
  s.sampReg (fun r => r.blocks) 1 fun r => let (r1, v) := r.csum; r1.setH d v

/-- `sdraw` in both codes (R241). -/
def State.sdraw (s : State) (d a b : Fin 16) (cut : Bool) : Host.Outcome State Fault Refusal :=
  s.sampler (fun r => 2 + r.blocks) 1 fun m r =>
    if r.cand.isEmpty then .fault m r .shape
    else
      let (i, nan) := drawIndex r.cand r.h[a] r.h[b] cut
      let r1 := (r.setH d (BitVec.ofNat 32 i)).flag (.invalid nan)
      .go m (if cut then { r1 with cand := r1.cand.take (i + 1) } else r1)

def execSdrawDraw (d a b : Fin 16) (s : State) : Host.Outcome State Fault Refusal := s.sdraw d a b false
def execSdrawCut (d a b : Fin 16) (s : State) : Host.Outcome State Fault Refusal := s.sdraw d a b true

/-- `sgen` (R242). -/
def execSgen (d : Fin 16) (g : Fin 4) (mode : Fin 2) (s : State) : Host.Outcome State Fault Refusal :=
  s.sampler (fun _ => 2) 1 fun m r =>
    if r.usesLeft g = 0 then .fault m r .shape
    else
      let (r1, x) := r.useG g
      .go m (r1.setH d (if mode = 0 then drawOf x else x))

/-- The positions of `saccept` from j on (R243): the accepted count. -/
def acceptFrom (a b : Fin 16) (g : Fin 4) : Nat → Nat → SampRun → Nat → SampRun × Nat
  | 0, _, r, k => (r, k)
  | n + 1, j, r, k =>
    let p := val32 (r.w[a].toList.getD j 0)
    let q := val32 (r.w[b].toList.getD j 0)
    let (r1, x) := r.useG g
    let neg (v : Ex) : Bool := v.lt (.zero false)
    let inf (v : Ex) : Bool := v == .inf false
    if p.isNan ∨ q.isNan ∨ neg p ∨ neg q ∨ (inf p ∧ inf q) then (r1.flag { nv := true }, k)
    else if inf q then (r1, k)
    else if inf p ∨ ((val32 (drawOf x)).mul q).1.lt p then acceptFrom a b g n (j + 1) r1 (k + 1)
    else (r1, k)

/-- `saccept` (R243). -/
def execSaccept (d a b : Fin 16) (n : BitVec 5) (g : Fin 4) (s : State) : Host.Outcome State Fault Refusal :=
  s.sampler (fun _ => 2 * n.toNat) 1 fun m r =>
    if r.usesLeft g < n.toNat then .fault m r .shape
    else
      let (r1, k) := acceptFrom a b g n.toNat 0 r 0
      .go m { r1.setH d (BitVec.ofNat 32 k) with accepted := BitVec.ofNat 32 k }

/-! Branches (R244). -/

def execSbnz (a : Fin 16) (disp : BitVec 13) (s : State) : Host.Outcome State Fault Refusal :=
  s.sampler (fun _ => 1) 1 fun m r => if r.h[a] ≠ 0 then .jump m r disp.toInt else .go m r

def execSjmp (disp : BitVec 13) (s : State) : Host.Outcome State Fault Refusal :=
  s.sampler (fun _ => 1) 1 fun m r => .jump m r disp.toInt

/-! The commit of a token (R234, R239, R245). -/

/-- How a commit goes: performed, waiting, or a fault. -/
inductive Commit where
  | done (m : Mach) (r : SampRun)
  | hold (m : Mach) (r : SampRun)
  | fault (m : Mach) (r : SampRun) (cls : TrapClass)

/-- The updates of a token in recorded order, the count increment last, each with its entry's pointer. -/
def SampRun.updates (r : SampRun) (tok : W32) (count : Bool) : List (TabUpdate × Except NoPlace W64) :=
  (r.upd ++ (if count then [({ bias := false, id := tok, val := 1 } : TabUpdate)] else [])).filterMap fun (u : TabUpdate) =>
    (r.sc.entry (if u.bias then .bias else .count) u.id).map fun p => (u, p)

/-- An entry's new value, with the flags. -/
def TabUpdate.apply (u : TabUpdate) (old : W32) : Fl :=
  if u.bias then fAdd old u.val
  else
    let s := old.toNat + u.val.toNat
    (BitVec.ofNat 32 (min s (2 ^ 32 - 1)), { sat := decide (2 ^ 32 ≤ s) })

/-- The translation of each update from number `i` on, before any is performed. -/
def Mach.updCheck (m : Mach) (r : SampRun) : List (TabUpdate × Except NoPlace W64) → Except NoPlace Unit
  | [] => .ok ()
  | u :: l =>
    match m.tabPlace r u.2 4 .atomic with
    | .error e => .error e
    | .ok _ => m.updCheck r l

/-- The checks that the homes of remote entries make before any update is performed (R234, 13 R378): none out, or the class of a failure. -/
def Mach.updAsk (m : Mach) (r : SampRun) : Nat → List (TabUpdate × Except NoPlace W64) → Mach × Option (Option TrapClass)
  | _, [] => (m, some none)
  | i, u :: l =>
    match m.tabPlace r u.2 4 .atomic with
    | .ok (.remote home _, p) =>
      let (m1, a) := m.remotePeek r.job.core .copy (sampLane + 128 + i) home r.job.ctx p (.check [(p, .table)])
      let (m2, b) := m1.updAsk r (i + 1) l
      match a, b with
      | none, _ => (m2, none)
      | _, none => (m2, none)
      | some (.value _), some c => (m2, some c)
      | some .poisoned, _ => (m2, some (some .poison))
      | some _, _ => (m2, some (some .fabric))
    | _ => m.updAsk r (i + 1) l

/-- An update that is dropped, with NV raised. -/
def SampRun.lost (r : SampRun) : SampRun := { r with done := r.done + 1 }.flag { nv := true }

/-- The updates performed, one indivisible read-modify-write each; a remote entry's is performed at its home. One that fails after its checks have passed is
dropped, as one without an entry is: a token that is emitted is emitted (R234, R254). -/
def Mach.updPerform (m : Mach) (r : SampRun) : List (TabUpdate × Except NoPlace W64) → Mach × SampRun × Bool
  | [] => (m, r, true)
  | u :: l =>
    match m.tabPlace r u.2 4 .atomic with
    | .error (.fault _) => m.updPerform r.lost l
    | .error (.miss ctx h k) => (m.pagerMiss ctx h k, r, false)
    | .error .held => (m, r, false)
    | .ok (.remote home _, p) =>
      let (m1, a) := m.remoteAsk r.job.core .copy (sampLane + r.done) home r.job.ctx p (.table u.1.bias u.1.val)
      match a with
      | none => (m1, r, false)
      | some (.value v) => m1.updPerform ({ r with done := r.done + 1 }.flag (u.1.apply (BitVec.ofNat 32 v)).2) l
      | some _ => m1.updPerform r.lost l
    | .ok (pl, _) =>
      let (v, fl) := u.1.apply (BitVec.ofNat 32 (m.readPlace pl 4))
      let m1 := match pl with
        | .store key _ _ => m.makeMove { dst := key, src := .bytes (wholeBytes (leBytes v.toNat 4)) none, fe := .keep }
        | _ => m
      m1.updPerform ({ r with done := r.done + 1 }.flag fl) l

/-- The checks of a commit: they fail it before any update is performed (R233, R234). -/
def Mach.commitCheck (m : Mach) (r : SampRun) (l : List (TabUpdate × Except NoPlace W64)) : Commit :=
  if r.committing then .done m r
  else
    match m.updCheck r l with
    | .error (.fault x) => .fault m r x.cls
    | .error (.miss ctx h k) => .hold (m.pagerMiss ctx h k) r
    | .error .held => .hold m r
    | .ok _ =>
      match m.updAsk r 0 l with
      | (m1, none) => .hold m1 r
      | (m1, some (some cls)) => .fault m1 r cls
      | (m1, some none) => .done (m1.dropRemotes r.job.core) { r with committing := true }

/-- A token's updates performed and CTR advanced; NV is raised for each recorded update without an entry, and for the increment where `lone`
says that no other shard covers it. -/
def Mach.commit (m : Mach) (cl : Fin 16) (r : SampRun) (tok : W32) (count lone : Bool) : Commit :=
  match m.commitCheck r (r.updates tok count) with
  | .done m0 r0 =>
    match m0.updPerform r0 ((r0.updates tok count).drop r0.done) with
    | (m1, r1, true) =>
      let absent (u : TabUpdate) : Bool := (r.sc.entry (if u.bias then .bias else .count) u.id).isNone
      let nv := r.upd.any absent || (count && lone && (r.sc.entry .count tok).isNone)
      let m2 := m1.onSamp cl fun x => { x with ctxs := x.ctxs.map fun c => if c.1 = r.job.idx then (c.1, { c.2 with ctr := c.2.ctr + 1 }) else c }
      .done m2 (r1.flag (.invalid nv))
    | (m1, r1, false) => .hold m1 r1
  | o => o

/-- No shard's tables cover a token: its root raises NV (R245). Outside a sharded operation there is no other shard. -/
def SampRun.uncovered (r : SampRun) (tok : W32) : Bool :=
  !(r.others.any fun g => match g.covers with | some (b, n) => decide (b ≤ tok.toNat) && decide (tok.toNat < b + n) | none => false)

/-- A token emitted in the final phase, or by the fallback: committed, then sent to the shards. -/
def Mach.emit (m : Mach) (cl : Fin 16) (r : SampRun) (tok : W32) (count : Bool) (outcome : Nat) : Commit :=
  match m.commit cl r tok count (r.uncovered tok) with
  | .done m1 r1 => .done (m1.endRun cl r1 outcome 0 tok count false) r1
  | o => o

/-- `send` with a token (R245). -/
def State.sendTok (s : State) (a : Fin 16) (count : Bool) : Host.Outcome State Fault Refusal :=
  let cl := clusterFin s.cur.core
  s.sampler (fun _ => 1) 1 fun m r =>
    match r.phase with
    | .final =>
      match r.cand[r.h[a].toNat]? with
      | none => .fault m r .shape
      | some e =>
        match m.emit cl r e.2 count (if r.fell then 1 else 0) with
        | .done m1 r1 => .leave m1 (match m1.samp.units[cl].run with | some x => x | none => r1)
        | .hold m1 r1 => .hold m1 r1
        | .fault m1 r1 cls => .fault m1 r1 cls
    | _ => .fault m r .illegal

def execSendToken (a : Fin 16) (s : State) : Host.Outcome State Fault Refusal := s.sendTok a false
def execSendCount (a : Fin 16) (s : State) : Host.Outcome State Fault Refusal := s.sendTok a true

/-- The merge of R253: SM and the entries of the contributions, in shard order. -/
def mergeMass (mx : W32) : List ShardMsg → Fl → Fl
  | [], a => a
  | g :: l, a =>
    mergeMass mx l
      (if g.mx = negInf32 then a
       else
        let s := (massOf g.mx mx).bind fun e => fFma g.sm e a.1
        (s.1, a.2.or s.2))

def SampRun.inOrder (r : SampRun) : List ShardMsg := (List.range r.job.desc.nsh).filterMap fun i => r.gath.find? fun g => g.shard == i

def SampRun.merge (r : SampRun) : SampRun :=
  let l := r.inOrder
  let mx := l.foldl (fun a g => if (val32 a).lt (val32 g.mx) then g.mx else a) negInf32
  let (sm, fl) := mergeMass mx l (0, {})
  ({ r with cand := l.flatMap fun (g : ShardMsg) => g.cands, mx := mx, sm := sm }).flag fl

/-- A root that has every contribution, its own included, goes on to its final phase; one whose program was abandoned draws without it. -/
def Mach.rootReady (m : Mach) (cl : Fin 16) (r : SampRun) : Mach :=
  match r.phase with
  | .gather =>
    if r.missing.isEmpty ∧ r.gath.any (fun g => g.shard == r.job.desc.shidx) then
      m.onRun cl { r.merge with phase := if r.fell then .exhausted true else .ready }
    else m.onRun cl r
  | _ => m.onRun cl r

/-- The block phase is over (R230, R252). -/
def Mach.blocksDone (m : Mach) (cl : Fin 16) (r : SampRun) : Mach :=
  if !r.job.desc.shard then m.onRun cl { r with phase := if r.fell then .exhausted true else .ready }
  else if m.isRoot cl r.job.desc then
    m.rootReady cl { r with phase := .gather, gath := r.gath ++ [r.contribution m.pkg cl false] }
  else (m.contribute r cl false).onRun cl { r with phase := .sent m.scyc }

/-- `send` code 2 (R245): the next block, or the end of the block phase. -/
def execSendBlock (_a : Fin 16) (s : State) : Host.Outcome State Fault Refusal :=
  let cl := clusterFin s.cur.core
  s.sampler (fun _ => 1) 1 fun m r =>
    match r.phase with
    | .block =>
      if r.seg < r.job.desc.segs.length then .leave m { r with phase := .load }
      else
        let m1 := m.blocksDone cl { r with held := false }
        .leave m1 (match m1.samp.units[cl].run with | some x => x | none => r)
    | _ => .fault m r .illegal

/-- `send` code 3 (R245). -/
def execSendNone (_a : Fin 16) (s : State) : Host.Outcome State Fault Refusal :=
  let cl := clusterFin s.cur.core
  s.sampler (fun _ => 1) 1 fun m r =>
    match r.phase with
    | .final =>
      let m1 := m.endRun cl r 2 0 noId false false
      .leave m1 (match m1.samp.units[cl].run with | some x => x | none => r)
    | _ => .fault m r .illegal

end Sys2Proof.Machine
end

