-- ==== Sys2Proof/Machine/SampEvents.lean ====
section
/-! DEFINITION. `sample` and `sbind`, the fetch of a logit program's words, and the steps of a sampling operation that no word names
(08 R226, R230 to R233, R246 to R254). -/

namespace Sys2Proof.Machine

/-! `sample` (R246, R247, R249, R250). -/

/-- The reserved bits and the fields of an image of 128 bytes. -/
def parseSample (img : Nat) : SampDesc :=
  let f (k n : Nat) : Nat := img / 256 ^ k % 256 ^ n
  { resaddr := f 0 4, auxaddr := f 4 4, ltype := f 9 1, raise := BitVec.ofNat 4 (f 10 1), shard := f 11 1 % 2 == 1, cmask := BitVec.ofNat 16 (f 12 2),
    segs := (List.range (min (f 8 1) 4)).map fun i => { addr := f (16 + 12 * i) 4, count := f (20 + 12 * i) 4, id0 := f (24 + 12 * i) 4 },
    coll := BitVec.ofNat 32 (f 64 4), nsh := f 68 1, shidx := f 69 1, kc := f 70 2, rootpkg := BitVec.ofNat 12 (f 72 2), rootcl := Fin.ofNat 16 (f 74 1),
    timeout := f 76 4 }

def SampDesc.esize (d : SampDesc) : Nat := if d.ltype = 0 then 4 else 2

/-- A run of n bytes wholly in own SPM or own CLM (R33, R247), by its storage address. -/
def Mach.ownRunKey (m : Mach) (c : CoreId) (ctx a n : Nat) : Option Nat :=
  if a + n ≤ 0x100000 then some (spmKey c a)
  else if 0x10000000 ≤ a ∧ a + n ≤ 0x10800000 then
    match nearPlace m { core := c, ctx := ctx, site := some (clusterFin c), sup := false, lighter := false } (mkPtr 0 a) n .write with
    | .ok (.store key _ _) => some key
    | _ => none
  else none

/-- The checks of R247 at issue, in the order of its table. -/
def Mach.checkSample (m : Mach) (c : CoreId) (ctx img : Nat) (d : SampDesc) : Option TrapClass :=
  let f (k n : Nat) : Nat := img / 256 ^ k % 256 ^ n
  let runs : List (Nat × Nat × Nat) :=
    [(d.resaddr, 16, 16)] ++ (if d.auxaddr = 0 then [] else [(d.auxaddr, 512, 64)]) ++ d.segs.map fun s => (s.addr, max s.count 1 * d.esize, d.esize)
  if runs.any fun r => r.1 % r.2.2 != 0 then some .align
  else if runs.any fun r => (m.ownRunKey c ctx r.1 r.2.1).isNone then some .perm
  else if f 10 1 / 16 ≠ 0 ∨ f 11 1 / 2 ≠ 0 ∨ f 14 2 ≠ 0 ∨ f 8 1 = 0 ∨ 4 < f 8 1 ∨ 2 < d.ltype ∨ f (16 + 12 * f 8 1) (12 * (4 - f 8 1)) ≠ 0 ∨
      d.segs.any (fun s => s.count == 0 || decide (2 ^ 24 < s.count) || decide (0xFFFFFFFF < s.id0 + s.count)) ∨ f 80 48 ≠ 0 ∨
      (!d.shard ∧ f 64 16 ≠ 0) ∨
      (d.shard ∧ (d.nsh = 0 ∨ 64 < d.nsh ∨ d.nsh ≤ d.shidx ∨ d.kc = 0 ∨ 1024 < d.kc ∨ 16384 < d.nsh * d.kc ∨ d.timeout = 0 ∨ f 72 2 / 4096 ≠ 0 ∨
        f 74 1 / 16 ≠ 0 ∨ f 75 1 ≠ 0)) then some .shape
  else none

/-- A 128-byte block of own SPM, read seeing the strand's earlier stores to it: ALIGN, PERM, or POISON with the first poisoned location. -/
def Mach.spmBlock (m : Mach) (c : CoreId) (a : W64) : Except Trap (Mach × Nat) :=
  if a.toNat % 64 ≠ 0 then .error { cls := .align, addr := 0 }
  else if 0x100000 < a.toNat + 128 then .error { cls := .perm, addr := 0 }
  else
    let m1 := m.flushRun c .control (spmKey c a.toNat) 128
    match (List.range 16).find? fun i => memPoisoned m1.mem (spmKey c (a.toNat + 8 * i)) with
    | some i => .error { cls := .poison, addr := a + BitVec.ofNat 64 (8 * i) }
    | none => .ok (m1, memNat m1.mem (spmKey c a.toNat) 128)

/-- The operations of a sampler that are queued or running. -/
def Sampler.jobs (x : Sampler) : List SampJob := x.queue ++ (match x.run with | some r => [r.job] | none => [])

/-- `sample` (R246, R247, R249, R250): a fifth operation of a core waits, without a budget. -/
def execSample (a b : Src) (s : State) : Host.Outcome State Fault Refusal :=
  let c := s.cur.core
  let cl := clusterFin c
  let words := 1 + litWords [a, b]
  let bv := (s.ctl.src b).val
  s.control words fun m =>
    orTrap (s.ctl.clean? [a, b]) fun _ =>
      if bv.toNat / 1024 ≠ 0 then .trap { cls := .shape, addr := 0 }
      else
        orTrap (m.spmBlock c (s.ctl.src a).val) fun (m1, img) =>
          let d := parseSample img
          match m.checkSample c s.ctl.ctxid img d with
          | some cls => .trap { cls := cls, addr := 0 }
          | none =>
            let x := m1.samp.units[cl]
            if 4 ≤ (x.jobs.filter fun j => j.core == c).length then .stay m
            else
              let id := m1.nextOp
              let second := d.shard && (x.jobs.any fun j => j.desc.shard && j.desc.coll == d.coll)
              let job : SampJob := { id := id, core := c, ctx := s.ctl.ctxid, idx := bv.toNat % 1024, desc := d, second := second }
              let m2 := { m1.flushClasses c .control d.cmask with nextOp := id + 1 }
              let m3 := (m2.onSamp cl fun x => { x with queue := x.queue ++ [job] }).onCore c fun k =>
                { k with forked := k.forked ++ [id], ctl := { k.ctl with armed := attachArmed 6 id k.ctl.armed } }
              m3.advance c words

/-! `sbind` (R226, R246, R250, R251). -/

def parseCtx (owner img : Nat) : SampCtx :=
  let f (k n : Nat) : Nat := img / 256 ^ k % 256 ^ n
  { owner := owner, key := BitVec.ofNat 64 (f 0 8), ctr := BitVec.ofNat 64 (f 8 8), tcount := BitVec.ofNat 64 (f 16 8), tbias := BitVec.ofNat 64 (f 24 8),
    tmask := BitVec.ofNat 64 (f 32 8), tbase := f 40 4, tlen := f 44 4, pbase := f 48 4, plen := f 52 2, final := f 54 2, budget := f 56 4,
    fb := f 60 1 % 2 == 1, params := Vector.ofFn fun i : Fin 8 => BitVec.ofNat 32 (f (64 + 4 * i.val) 4) }

/-- The image of a context; an unbound one reads as zeros. -/
def ctxImage (x : Option SampCtx) : List Byte :=
  match x with
  | none => List.replicate 128 0
  | some c =>
    leBytes c.key.toNat 8 ++ leBytes c.ctr.toNat 8 ++ leBytes c.tcount.toNat 8 ++ leBytes c.tbias.toNat 8 ++ leBytes c.tmask.toNat 8 ++
    leBytes c.tbase 4 ++ leBytes c.tlen 4 ++ leBytes c.pbase 4 ++ leBytes c.plen 2 ++ leBytes c.final 2 ++ leBytes c.budget 4 ++
    leBytes (b2n c.fb) 4 ++ (c.params.toList.flatMap fun w => leBytes w.toNat 4) ++ List.replicate 32 0

/-- An image that `sbind` refuses with SHAPE (R226, R251). -/
def badCtx (img : Nat) : Bool :=
  let f (k n : Nat) : Nat := img / 256 ^ k % 256 ^ n
  let c := parseCtx 0 img
  f 60 4 / 2 != 0 || f 96 32 != 0 || decide (16384 < c.plen) || decide (c.plen ≤ c.final) || c.pbase % 4 != 0 || decide (c.pbase < 0x10000000) ||
  decide (0x10800000 < c.pbase + 4 * c.plen)

def Sampler.ctx? (x : Sampler) (idx : Nat) : Option SampCtx := (x.ctxs.find? fun c => c.1 == idx).map (·.2)
def Sampler.setCtx (x : Sampler) (idx : Nat) (c : Option SampCtx) : Sampler :=
  let rest := x.ctxs.filter fun e => e.1 != idx
  { x with ctxs := match c with | some c => rest ++ [(idx, c)] | none => rest }

/-- The words of an image stored to own SPM by the control strand. -/
def Mach.storeImage (m : Mach) (c : CoreId) (a : Nat) (bs : List Byte) : Mach :=
  (List.range 16).foldl (fun m i => m.issueStore c .control (spmKey c (a + 8 * i)) ((bs.drop (8 * i)).take 8) 0 .none .normal none) m

/-- `sbind` (R246, R250, R251): it waits for the operations on its context, and comes before the later ones; each trap reports A. -/
def execSbind (a b : Src) (s : State) : Host.Outcome State Fault Refusal :=
  let c := s.cur.core
  let cl := clusterFin c
  let words := 1 + litWords [a, b]
  let av := (s.ctl.src a).val
  let bv := (s.ctl.src b).val.toNat
  let idx := bv % 1024
  s.control words fun m =>
    orTrap (s.ctl.clean? [a, b]) fun _ =>
      if av.toNat % 64 ≠ 0 then .trap { cls := .align, addr := av }
      else if 0x100000 < av.toNat + 128 then .trap { cls := .perm, addr := av }
      else if bv / 2 ^ 32 ≠ 0 ∨ bits bv 30 10 ≠ 0 then .trap { cls := .shape, addr := av }
      else
        let x := m.samp.units[cl]
        let id := ((x.binds.find? fun y => y.core == c).map (·.id)).getD m.nextOp
        if x.jobs.any fun j => j.idx == idx && decide (j.id < id) then
          if x.binds.any fun y => y.core == c then .stay m
          else .stay (({ m with nextOp := m.nextOp + 1 } : Mach).onSamp cl fun x => { x with binds := x.binds ++ [({ id := id, core := c, idx := idx } : SampBind)] })
        else
          let m1 := m.onSamp cl fun x => { x with binds := x.binds.filter fun y => y.core != c }
          if (x.ctx? idx).any fun y => y.owner != s.ctl.ctxid then .trapFrom m1 { cls := .perm, addr := av }
          else if bit bv 31 then (m1.storeImage c av.toNat (ctxImage (x.ctx? idx))).advance c words
          else
            match m1.spmBlock c av with
            | .error t => .trapFrom m1 { t with addr := av }
            | .ok (m2, img) =>
              let y := parseCtx s.ctl.ctxid img
              if y.plen = 0 then (m2.onSamp cl fun x => x.setCtx idx none).advance c words
              else if badCtx img then .trapFrom m2 { cls := .shape, addr := av }
              else (m2.onSamp cl fun x => x.setCtx idx (some y)).advance c words

/-! The fetch of a program's words (R231, R233). -/

/-- The word at an offset of the program: none past its end, and a poison mark. -/
def Mach.progWord (m : Mach) (cl : Fin 16) (r : SampRun) (k : Nat) : Option (W32 × Bool) :=
  if r.sc.plen ≤ k then none
  else
    let key := clmKey cl.val (r.sc.pbase - 0x10000000 + 4 * k)
    some (mem32 m.mem key, memPoisoned m.mem (locOf key))

/-- What a program's next fetch brings: an instruction, or the class that ends the program. -/
noncomputable def Mach.progFetch (m : Mach) (cl : Fin 16) (r : SampRun) : Except TrapClass Instr :=
  match m.progWord cl r r.pc with
  | none => .error .illegal
  | some (w, bad) =>
    if bad then .error .poison
    else
      match decodeSampler [w] with
      | .ok i _ => .ok i
      | .illegal => .error .illegal
      | .short =>
        match m.progWord cl r (r.pc + 1) with
        | none => .error .illegal
        | some (w2, bad2) =>
          if bad2 then .error .poison
          else match decodeSampler [w, w2] with | .ok i _ => .ok i | _ => .error .illegal

/-! Acceptance (R229, R230, R247, R252). -/

/-- The operation that a job starts. -/
def SampJob.start (j : SampJob) (c : SampCtx) (now : Nat) : SampRun :=
  { job := j, sc := c, start := now, w := Vector.replicate 16 (Vector.replicate 64 0),
    h := Vector.ofFn fun i : Fin 16 => if h : 8 ≤ i.val then c.params[i.val - 8]'(by omega) else 0,
    g := Vector.ofFn fun i : Fin 4 => c.ctr * 256 + BitVec.ofNat 64 (64 * i.val),
    cand := [], mx := negInf32, sm := 0, flags := .clear, upd := [], accepted := noId, charge := 0, phase := .load, seg := 0, off := 0, blk := 0, pc := 0,
    held := false, committing := false, done := 0, fell := false, gath := [], sectors := [] }

/-- W14 and W15 take the auxiliary words. -/
def Mach.loadAux (m : Mach) (r : SampRun) (key : Nat) : SampRun :=
  let word (i : Nat) : W32 := mem32 m.mem (key + 4 * i)
  (r.setW 14 (Vector.ofFn fun i : Fin 64 => word i.val)).setW 15 (Vector.ofFn fun i : Fin 64 => word (64 + i.val))

/-- A root takes the contributions held for it; a failed one ends it at once, and so does poison in its own auxiliary words (R233): each that
contributed is answered INCOMPLETE (R254). -/
def Mach.takeHeld (m : Mach) (cl : Fin 16) (r : SampRun) (bad : Bool) : Mach :=
  let coll := r.job.desc.coll
  let got := (m.samp.units[cl].held.filter fun g => g.2.coll == coll).map fun (g : Nat × ShardMsg) => g.2
  let r1 := { r with gath := got }
  let m1 := m.onSamp cl fun x => { x with held := x.held.filter fun g => g.2.coll != coll }
  if bad then m1.sampFault cl r1 .poison
  else if got.any (·.failed) then m1.endRun cl r1 3 0 noId false false
  else m1.onRun cl r1

/-- The head of the queue may be accepted: no operation runs, and no earlier `sbind` waits on its context. -/
def Sampler.head? (x : Sampler) : Option SampJob :=
  match x.run, x.queue with
  | none, j :: _ => if x.binds.any (fun b => b.idx == j.idx && decide (b.id < j.id)) then none else some j
  | _, _ => none

/-- `SAMPLE_ACCEPT` (R230, R247). -/
def execSampleAccept (cl : Fin 16) (s : State) : Host.Outcome State Fault Refusal :=
  let m := s.mach
  let x := m.samp.units[cl]
  match x.head? with
  | none => .next s
  | some j =>
    let m1 := m.onSamp cl fun x => { x with queue := x.queue.drop 1 }
    let fail (r : SampRun) (cls : TrapClass) : Mach := m1.onRun cl { r with phase := .ended 4 cls.code.toNat noId }
    match x.ctx? j.idx with
    | none => .next { s with mach := fail (j.start (parseCtx j.ctx 0) m.scyc) .perm }
    | some c =>
      let r := j.start c m.scyc
      if c.owner ≠ j.ctx ∨ (j.desc.shard ∧ m.group ≤ j.desc.rootpkg.toNat) then .next { s with mach := fail r .perm }
      else if j.desc.shard ∧ (j.second ∨ x.finished.any (fun f => f.1 == j.desc.coll)) then .next { s with mach := fail r .shape }
      else
        let aux := if j.desc.auxaddr = 0 then none else m.ownRunKey j.core j.ctx j.desc.auxaddr 512
        let bad := aux.any fun key => (List.range 64).any fun i => memPoisoned m.mem (key + 8 * i)
        let r1 := match aux with | some key => m.loadAux r key | none => r
        if m.isRoot cl j.desc then .next { s with mach := m1.takeHeld cl (if bad then r else r1) bad }
        else if bad then .next { s with mach := m1.sampFault cl r .poison }
        else .next { s with mach := m1.onRun cl r1 }

/-! The block phase (R230, R249). -/

/-- A sector read once: the operation's copy of it. -/
def Mach.sector (m : Mach) (r : SampRun) (key : Nat) : SampRun × Sector :=
  match r.sectors.find? (·.key == key) with
  | some x => (r, x)
  | none =>
    let x : Sector := { key := key, bytes := memBytes m.mem key 64, bad := (List.range 8).map fun i => memPoisoned m.mem (key + 8 * i) }
    ({ r with sectors := r.sectors ++ [x] }, x)

/-- n logits from a storage address: their widened values, whether a word is poisoned, and NV for signalling NaNs. -/
def Mach.logits (m : Mach) (lt es : Nat) : Nat → Nat → SampRun → SampRun × List W32 × Bool
  | 0, _, r => (r, [], false)
  | n + 1, key, r =>
    let (r1, x) := m.sector r (key - key % 64)
    let off := key % 64
    let v := leNat ((x.bytes.drop off).take es)
    let bad := x.bad.getD (off / 8) false
    let (w, fl) : Fl :=
      match lt with
      | 0 => (BitVec.ofNat 32 v, {})
      | 1 => round32Fl (bf16.decode v) (bf16.decode v).isSig
      | _ => round32Fl (fp16.decode v) (fp16.decode v).isSig
    let (r2, ws, bad2) := m.logits lt es n (key + es) (r1.flag fl)
    (r2, w :: ws, bad || bad2)

/-- The next block: its values with their ids, and whether it is poisoned. The position moves past it. -/
def Mach.nextBlock (m : Mach) (r : SampRun) : Option (SampRun × List (W32 × W32) × Bool) :=
  match r.job.desc.segs[r.seg]? with
  | none => none
  | some g =>
    match m.ownRunKey r.job.core r.job.ctx g.addr (g.count * r.job.desc.esize) with
    | none => none
    | some key =>
      let n := min 64 (g.count - r.off)
      let (r1, ws, bad) := m.logits r.job.desc.ltype r.job.desc.esize n (key + r.job.desc.esize * r.off) r
      let r2 := if g.count ≤ r.off + 64 then { r1 with seg := r.seg + 1, off := 0, blk := r.blk + 1 } else { r1 with off := r.off + 64, blk := r.blk + 1 }
      some (r2, ws.zipIdx.map fun x => (x.1, BitVec.ofNat 32 (g.id0 + r.off + x.2)), bad)

/-- `SAMPLER_BLOCK` (R230): the next block is loaded, and the program starts from PBASE. -/
def execSamplerBlock (cl : Fin 16) (s : State) : Host.Outcome State Fault Refusal :=
  let m := s.mach
  match m.samp.units[cl].run with
  | none => .next s
  | some r =>
    if r.phase ≠ .load then .next s
    else
      match m.nextBlock r with
      | none => .next s
      | some (r1, l, bad) =>
        if bad then .next { s with mach := m.sampFault cl r1 .poison }
        else
          let r2 := (r1.setW 0 (Vector.ofFn fun i : Fin 64 => (l.getD i.val (negInf32, noId)).1)).setW 1 (Vector.ofFn fun i : Fin 64 => (l.getD i.val (negInf32, noId)).2)
          let r3 := (r2.setH 0 (BitVec.ofNat 32 l.length)).setH 1 (BitVec.ofNat 32 r.blk)
          .next { s with mach := m.onRun cl { r3 with phase := .block, pc := 0, held := false } }

/-- `SAMPLER_FINAL_PHASE` (R230). -/
def execSamplerFinalPhase (cl : Fin 16) (s : State) : Host.Outcome State Fault Refusal :=
  let m := s.mach
  match m.samp.units[cl].run with
  | none => .next s
  | some r =>
    if r.phase ≠ .ready then .next s
    else
      let r1 := (r.setH 0 (BitVec.ofNat 32 r.cand.length)).setH 1 r.mx
      .next { s with mach := m.onRun cl { r1 with phase := .final, pc := r.sc.final, held := false } }

/-! The watchdog (R232, R252). -/

/-- Every logit of the operation appended again: the blocks from the first, `fuel` bounding their number. -/
def Mach.appendAll (m : Mach) : Nat → SampRun → SampRun × Bool
  | 0, r => (r, false)
  | n + 1, r =>
    match m.nextBlock r with
    | none => (r, false)
    | some (r1, l, bad) => if bad then (r1, true) else m.appendAll n (r1.append l)

def SampDesc.blocks (d : SampDesc) : Nat := (d.segs.map fun s => (s.count + 63) / 64).foldl (· + ·) 0

/-- The operation without its program: CN, MX and SM reset, and every logit appended. -/
def Mach.withoutProgram (m : Mach) (r : SampRun) : SampRun × Bool :=
  m.appendAll r.job.desc.blocks { r with upd := [], cand := [], mx := negInf32, sm := 0, seg := 0, off := 0, blk := 0, fell := true }

/-- The draw of the fallback: weights, prefix sums, and a draw by counter CTR × 256 + 193. -/
def SampRun.fallback (r : SampRun) : Option (SampRun × W32) :=
  let (r1, _) := r.soft
  let (r2, t) := r1.csum
  if r2.cand.isEmpty then none
  else
    let u := drawOf (cross r.sc.key (r.sc.ctr * 256 + 193))
    let (i, nan) := drawIndex r2.cand u t false
    (r2.cand[i]?).map fun e => (r2.flag (.invalid nan), e.2)

/-- `WATCHDOG_EXHAUSTED` (R232): a fault, or the fallback. In a sharded operation a shard contributes without its program, and a root in its
final phase draws from the merge (R252). -/
def execWatchdogExhausted (cl : Fin 16) (s : State) : Host.Outcome State Fault Refusal :=
  let m := s.mach
  match m.samp.units[cl].run with
  | none => .next s
  | some r =>
    match r.phase with
    | .exhausted fin =>
      if !r.sc.fb ∧ !r.fell then .next { s with mach := m.sampFault cl r .watchdog }
      else
        let root := m.isRoot cl r.job.desc
        let (r1, bad) :=
          if root ∧ fin then (({ r with upd := [], fell := true } : SampRun).merge, false)
          else m.withoutProgram r
        if bad then .next { s with mach := m.sampFault cl r1 .poison }
        else if r.job.desc.shard ∧ !fin then .next { s with mach := m.blocksDone cl { r1 with held := false } }
        else
          match r1.fallback with
          | none => .next { s with mach := m.sampFault cl r1 .shape }
          | some (r2, tok) =>
            match m.emit cl r2 tok true 1 with
            | .done m1 _ => .next { s with mach := m1 }
            | .hold m1 r3 => .next { s with mach := m1.onRun cl { r with sectors := r3.sectors, committing := r3.committing, done := r3.done, flags := r3.flags, fell := true, upd := [] } }
            | .fault m1 r3 cls => .next { s with mach := m1.sampFault cl r3 cls }
    | _ => .next s

/-! The end of an operation (R248, R249). -/

/-- STATUS (R248). -/
def SampRun.status (r : SampRun) (outcome code : Nat) : Nat :=
  let f := r.flags
  code * 2 ^ 56 + outcome * 2 ^ 48 + b2n f.sat * 2 ^ 47 + b2n f.nx * 2 ^ 46 + b2n f.uf * 2 ^ 45 + b2n f.of * 2 ^ 44 + b2n f.dz * 2 ^ 43 + b2n f.nv * 2 ^ 42 +
  r.charge % 2 ^ 32

/-- A 16-byte record written to storage, whole locations. -/
def Mach.writeRecord (m : Mach) (key : Nat) (bs : List Byte) : Mach :=
  let at_ (m : Mach) (k : Nat) : Mach := m.makeMove { dst := key + k, src := .bytes (wholeBytes ((bs.drop k).take 8)) (some false), fe := .keep }
  at_ (at_ m 0) 8

/-- `SAMPLE_COMPLETE` (R248, R249): the record, then the semaphore, and the event; an ILLEGAL word's address is reported with it (02 R41). -/
def execSampleComplete (cl : Fin 16) (s : State) : Host.Outcome State Fault Refusal :=
  let m := s.mach
  match m.samp.units[cl].run with
  | none => .next s
  | some r =>
    match r.phase with
    | .ended outcome code token =>
      let c := r.job.core
      let rec_ := leBytes token.toNat 4 ++ leBytes r.accepted.toNat 4 ++ leBytes (r.status outcome code) 8
      let m1 := match m.ownRunKey c r.job.ctx r.job.desc.resaddr 16 with | some key => m.writeRecord key rec_ | none => m
      let lawless : Bool := outcome == 4 && code == TrapClass.illegal.code.toNat
      let m2 := ((m1.dropRemotes c).onSamp cl fun x =>
        { x with run := none, illegal := if lawless then some (r.job.id, r.sc.pbase + 4 * r.pc) else x.illegal }).onCore c fun k =>
        { k.raise r.job.desc.raise with forked := k.forked.filter (· != r.job.id) }
      .next { s with mach := m2.onCtl c fun k => k.fireOp 6 r.job.id (BitVec.ofNat 8 outcome) }
    | _ => .next s

/-! Sharded sampling (R252 to R254). -/

/-- A contribution reaches its root's sampler. -/
def Mach.rootTakes (m : Mach) (g : ShardMsg) : Mach :=
  let cl := g.root
  let x := m.samp.units[cl]
  let hold : Mach :=
    let colls := (x.held.map fun (h : Nat × ShardMsg) => h.2.coll).eraseDups
    if colls.contains g.coll || decide (colls.length < 16) then m.onSamp cl fun x => { x with held := x.held ++ [(m.scyc, g)] } else m.shardReply g none
  let late : Mach :=
    if x.finished.any fun f => f.1 == g.coll && f.2.contains g.shard then
      (m.shardReply g none).onSamp cl fun x =>
        { x with finished := (x.finished.map fun f => if f.1 = g.coll then (f.1, f.2.filter (· != g.shard)) else f).filter fun f => !f.2.isEmpty }
    else hold
  match x.run with
  | none => late
  | some r =>
    if !m.isRoot cl r.job.desc ∨ r.job.desc.coll ≠ g.coll then late
    else
      let open_ := match r.phase with | .load | .block | .gather | .exhausted false => true | _ => false
      match r.phase with
      | .ended _ _ _ => late
      | _ =>
        if !open_ ∨ !r.missing.contains g.shard then m.shardReply g none
        else
          let r1 := { r with gath := r.gath ++ [g] }
          if g.failed then m.endRun cl r1 3 0 noId false false else m.rootReady cl r1

/-- `SHARD_CONTRIBUTION` (R252, R253): one of this package is on its way; another package's comes from its own. -/
def execShardContribution (msg : ShardMsg) (s : State) : Host.Outcome State Fault Refusal :=
  let m := s.mach
  if msg.src = m.pkg then
    if m.samp.contribs.contains msg then .next { s with mach := ({ m with samp := { m.samp with contribs := m.samp.contribs.erase msg } } : Mach).rootTakes msg }
    else .next s
  else if msg.src.toNat < m.group then .next { s with mach := m.rootTakes msg }
  else .next s

/-- `SHARD_TOKEN_ARRIVAL` (R253, R254): a shard commits its part of the token, or ends INCOMPLETE. A token that a root has emitted fails no shard: its
updates are as those whose checks have passed. An answer that finds no shard waiting is dropped. -/
def execShardTokenArrival (cl : Fin 16) (r : ShardReply) (s : State) : Host.Outcome State Fault Refusal :=
  let m := s.mach
  let own := m.samp.replies.contains (cl, r)
  let take (m : Mach) : Mach := if own then { m with samp := { m.samp with replies := m.samp.replies.erase (cl, r) } } else m
  let drop : Host.Outcome State Fault Refusal := if own then .next { s with mach := take m } else .next s
  match m.samp.units[cl].run with
  | none => drop
  | some x =>
    let d := x.job.desc
    match x.phase with
    | .sent _ =>
      if d.coll ≠ r.coll ∨ d.shidx ≠ r.shard ∨ (!own ∧ d.rootpkg = m.pkg) then drop
      else
        match r.token with
        | none => .next { s with mach := (take m).endRun cl x 3 0 noId false false }
        | some (tok, count) =>
          match m.commit cl { x with committing := true } tok (count && (x.sc.entry .count tok).isSome) false with
          | .done m1 x1 => .next { s with mach := (take m1).endRun cl x1 (if x1.fell then 1 else 0) 0 tok false false }
          | .hold m1 x1 => .next { s with mach := m1.onRun cl x1 }
          | .fault m1 x1 cls => .next { s with mach := (take m1).sampFault cl x1 cls }
    | _ => drop

/-- `ROOT_TIMEOUT` (R254). -/
def execRootTimeout (cl : Fin 16) (s : State) : Host.Outcome State Fault Refusal :=
  let m := s.mach
  match m.samp.units[cl].run with
  | none => .next s
  | some r =>
    let open_ := match r.phase with | .load | .block | .gather | .exhausted false => true | _ => false
    if !m.isRoot cl r.job.desc ∨ !open_ ∨ m.scyc < r.start + r.job.desc.timeout then .next s
    else .next { s with mach := m.endRun cl r 3 0 noId false false }

/-- `SHARD_REPLY_TIMEOUT` (R254). -/
def execShardReplyTimeout (cl : Fin 16) (s : State) : Host.Outcome State Fault Refusal :=
  let m := s.mach
  match m.samp.units[cl].run with
  | none => .next s
  | some r =>
    match r.phase with
    | .sent since => if m.scyc < since + 2 * r.job.desc.timeout then .next s else .next { s with mach := m.endRun cl r 3 0 noId false false }
    | _ => .next s

/-- `CONTRIBUTION_HOLD_TIMEOUT` (R252): a held contribution is dropped, and its shard ends by its own timeout. -/
def execContributionHoldTimeout (cl : Fin 16) (k : Nat) (s : State) : Host.Outcome State Fault Refusal :=
  let m := s.mach
  match m.samp.units[cl].held[k]? with
  | none => .next s
  | some g =>
    if m.scyc < g.1 + g.2.timeout then .next s
    else .next { s with mach := m.onSamp cl fun x => { x with held := x.held.eraseIdx k } }

end Sys2Proof.Machine
end

