-- ==== Sys2Proof/Machine/Ferry.lean ====
section
/-! DEFINITION. The ferrymaster: queues, admission, dependences, rank, placement, dispatch and pre-emption (01 R22 to R25, 11 R311 to
R328). -/

namespace Sys2Proof.Machine

/-! Placement (01 R22, R25, 11 R320). -/

def coreAt (cl k : Nat) : Option CoreId := if h : 8 * cl + k < 128 then some ⟨8 * cl + k, h⟩ else none

/-- The cores of a cluster from its lowest. -/
def clusterCores (cl n : Nat) : List CoreId := (List.range n).filterMap (coreAt cl)

/-- A domain of n cores among the free ones, in rank order: the lowest whole clusters, then the lowest cores of the lowest other cluster. -/
def domainOf (free : CoreId → Bool) (n : Nat) : Option (List CoreId) :=
  let whole := ((List.range 16).filter fun cl => (clusterCores cl 8).all free).take (n / 8)
  let cores := whole.flatMap fun cl => clusterCores cl 8
  if whole.length < n / 8 then none
  else if n % 8 = 0 then some cores
  else
    match (List.range 16).find? fun cl => !whole.contains cl && (clusterCores cl (n % 8)).all free with
    | some cl => some (cores ++ clusterCores cl (n % 8))
    | none => none

/-- A core is free: no task runs on it, and its cluster is not withdrawn (01 R29). -/
def Mach.freeCore (m : Mach) (c : CoreId) : Bool := m.cores[c].task.isNone && !m.withdrawn.getLsbD (clusterOf c)

/-- A task has cores on this package. -/
def Mach.local (m : Mach) (t : Task) : Bool := decide (t.recd.pkg0 ≤ m.pkg.toNat) && decide (m.pkg.toNat < t.recd.pkg0 + t.recd.npkg)

/-! Dependences and rank (R319, R321). -/

/-- The ancestors of a task in the window. -/
def ancestors (ts : List Task) : Nat → Option Nat → List Nat
  | 0, _ => []
  | fuel + 1, some p => p :: ancestors ts fuel ((ts.find? (·.id == p)).bind (·.parent))
  | _, none => []

/-- Two ranges overlap, and one of them is written. -/
def TaskRange.conflicts (a b : TaskRange) : Bool :=
  a.handle == b.handle && (a.w || b.w) && decide (max a.lo0 b.lo0 < min a.hi0 b.hi0) && decide (max a.lo1 b.lo1 < min a.hi1 b.hi1)

/-- A dependence of a task is unsatisfied: an earlier task of its context, no ancestor of it, has not completed and overlaps it. -/
def Ferry.blocked (f : Ferry) (t : Task) : Bool :=
  let anc := ancestors f.tasks f.tasks.length t.parent
  f.tasks.any fun u => decide (u.order < t.order) && u.ctx == t.ctx && !anc.contains u.id && t.recd.ranges.any fun a => u.recd.ranges.any a.conflicts

/-- Tasks whose dependences are satisfied become ready, and age from then on. -/
def Mach.readyUp (m : Mach) : Mach :=
  { m with ferry := { m.ferry with tasks := m.ferry.tasks.map fun (t : Task) =>
      if (t.state == .admitted || t.state == .saved) && !m.ferry.blocked t then { t with state := .ready, agedAt := m.scyc } else t } }

/-- a ranks before b. -/
def ranksBefore (a b : Task) : Bool := decide (b.tokens < a.tokens) || (a.tokens == b.tokens && decide (a.order < b.order))

/-- The highest-ranked ready task that needs cores on this package. -/
def Mach.topReady (m : Mach) : Option Task :=
  (m.ferry.tasks.filter fun t => t.state == .ready && m.local t).foldl (fun best t =>
    match best with
    | none => some t
    | some b => if ranksBefore t b then some t else some b) none

/-- The place that the highest-ranked ready task takes now, on every package it spans (R320, R321). While it has none, the free cores are kept
for it. -/
def Mach.placeTop (m : Mach) (tick : Nat) : Option (Task × List CoreId) :=
  match m.topReady with
  | none => none
  | some t => if t.recd.npkg = 1 ∨ Config.remotePlace tick then (domainOf m.freeCore t.recd.size).map fun cs => (t, cs) else none

/-! Completion objects (R313, R325). -/

/-- STATUS of a completion object (R313). -/
def statusWord (user : BitVec 8) (kind : BitVec 2) (low : BitVec 4) : W64 := BitVec.ofNat 64 (user.toNat * 256 + kind.toNat * 64 + low.toNat)

/-- A completion object written; one that cannot be written is left, and a missing sub-tile is waited for. -/
inductive Written where
  | done (m : Mach)
  | wait (m : Mach)

def Mach.writeCompletion (m : Mach) (ctx : Nat) (p status : W64) : Written :=
  if p.toNat % 16 ≠ 0 then .done m
  else
    match m.agentPlaces ctx p 2 .fill with
    | .error (.miss x h k) => .wait (m.agentMiss x h k)
    | .error .held => .wait m
    | .error (.fault _) => .done m
    | .ok [some done, some st] =>
      let m1 : Mach := { (m.unlogAt st) with mem := storeMem m.mem st (leBytes status.toNat 8) }
      let m2 : Mach := { (m1.unlogAt done) with mem := storeMem m1.mem done (leBytes 1 8) }
      .done (m2.setBit done true)
    | .ok _ => .done m

/-- The event of a child's completion (10 R295), at the core that runs or keeps its parent's strand. -/
def Mach.fireChild (m : Mach) (id : Nat) (status : W64) : Mach :=
  let fire (k : Core) : Core := { k with ctl := k.ctl.fireOp 8 id (status.setWidth 8) }
  { m with cores := m.cores.map fire
           ferry := { m.ferry with tasks := m.ferry.tasks.map fun (t : Task) =>
             { t with ckpt := t.ckpt.map fun (k : Checkpoint) => { k with cores := k.cores.map fire } } } }

/-- A child completes for its parent (R318). -/
def Mach.childDone (m : Mach) (parent : Option Nat) : Mach :=
  match parent with
  | none => m
  | some p => m.onTask p fun t => { t with children := t.children - 1 }

/-! Queues and admission (R315, R316). -/

def Mach.onQueue (m : Mach) (q : Fin 64) (f : TaskQueue → TaskQueue) : Mach :=
  { m with ferry := { m.ferry with queues := m.ferry.queues.set q (f m.ferry.queues[q]) } }

/-- `TQTAIL_WRITE` (R315): ignored at a queue that `launch` feeds, and where more slots would be written than the queue has. -/
def execTqtailWrite (q : Fin 64) (v : W64) (s : State) : Host.Outcome State Fault Refusal :=
  let x := s.mach.ferry.queues[q]
  let tail : W32 := v.setWidth 32
  if x.src ∨ 2 ^ x.lsize < (tail - x.head).toNat then .next s
  else .next (s.onMach fun m => m.onQueue q fun x => { x with tail := tail })

/-- `TQCTL_WRITE` (R315): LSIZE outside 4 to 12 leaves EN at 0, and a write that sets EN clears FAULT. -/
def execTqctlWrite (q : Fin 64) (v : W64) (s : State) : Host.Outcome State Fault Refusal :=
  let lsize := bits v.toNat 11 8
  let en := v.getLsbD 31 && decide (4 ≤ lsize) && decide (lsize ≤ 12)
  .next (s.onMach fun m => m.onQueue q fun x =>
    { x with en := en, src := v.getLsbD 30, ctx := bits v.toNat 21 16, lsize := lsize, fault := if en then 0 else x.fault })

/-- The queue whose turn it is: the next enabled one that is not empty. -/
def Ferry.nextQueue (f : Ferry) : Option (Fin 64) :=
  ((List.range 64).map fun i => Fin.ofNat 64 (f.turnQ + i)).find? fun q => f.queues[q].en && f.queues[q].head != f.queues[q].tail

/-- A record enters the window (R316), with an admission order; it is ready once its dependences are satisfied. -/
def Mach.admitTask (m : Mach) (q : Nat) (ctx id : Nat) (t : TaskRec) (parent : Option Nat) (far : Option (BitVec 12 × Nat)) (ckpt : Option Checkpoint) : Mach :=
  let x : Task :=
    { id := id, queue := q, ctx := ctx, recd := t, state := if ckpt.isSome then .saved else .admitted, tokens := t.prio, agedAt := m.scyc,
      order := m.ferry.nextOrder, parent := parent, children := 0, cores := [], disp := 0, drainAt := 0, user := 0, kind := 0, cls := 0,
      ckpt := ckpt, far := far }
  ({ m with ferry := { m.ferry with tasks := m.ferry.tasks ++ [x], nextOrder := m.ferry.nextOrder + 1 } } : Mach).readyUp

/-- A slot is taken: the head advances, and the turn passes on. -/
def Mach.takeSlot (m : Mach) (q : Fin 64) : Mach :=
  let m1 := m.onQueue q fun x => { x with head := x.head + 1 }
  { m1 with ferry := { m1.ferry with turnQ := (q.val + 1) % 64,
                                     launched := m1.ferry.launched.filter fun l => !(l.queue == q.val && l.slot == m.ferry.queues[q].head) } }

/-- An unreadable head slot stops its queue (R316). -/
def Mach.stopQueue (m : Mach) (q : Fin 64) (t : Trap) : Mach :=
  let m1 := m.onQueue q fun x => { x with en := false, fault := t.cls.code }
  { m1 with ferry := { m1.ferry with turnQ := (q.val + 1) % 64 } }

/-- The head slot of a queue admitted, or refused (R314, R316). -/
def Mach.admitHead (m : Mach) (q : Fin 64) (tick : Nat) : Mach :=
  let x := m.ferry.queues[q]
  match ptrAdd x.base (256 * (x.head.toNat % 2 ^ x.lsize)) with
  | .error _ => m.stopQueue q { cls := .perm, addr := x.base }
  | .ok p =>
    match m.agentRead x.ctx p 32 tick with
    | .error (.fault t) => m.stopQueue q t
    | .error (.miss c h k) => m.agentMiss c h k
    | .error .held => m
    | .ok bs =>
      let child := m.ferry.launched.find? fun l => l.queue == q.val && l.slot == x.head
      let t := parseTask bs
      match m.refusal x.ctx bs with
      | some reason =>
        let status := statusWord 0 3 (BitVec.ofNat 4 reason)
        match m.writeCompletion x.ctx t.compl status with
        | .wait m1 => m1
        | .done m1 =>
          match child with
          | some l => ((m1.takeSlot q).childDone l.parent).fireChild l.id status
          | none => m1.takeSlot q
      | none =>
        let id := match child with | some l => l.id | none => m.freshTask (Config.idStart tick)
        (m.takeSlot q).admitTask q.val x.ctx id t (child.bind (·.parent)) none none

/-- `TASK_ADMISSION` (R316, R321): the next head slot, while the window has room; with `far`, a task of another package's that spans this
one takes its place in this package's order. -/
def execTaskAdmission (far : Option FarTask) (s : State) : Host.Outcome State Fault Refusal :=
  let m := s.mach
  if 1024 ≤ m.ferry.tasks.length then .next s
  else
    match far with
    | some x =>
      let t := parseTask x.record
      let spans := decide (t.pkg0 ≤ m.pkg.toNat) && decide (m.pkg.toNat < t.pkg0 + t.npkg)
      let known := m.ferry.tasks.any fun u => u.far == some (x.pkg, x.id)
      if x.pkg = m.pkg ∨ m.group ≤ x.pkg.toNat ∨ !spans ∨ known ∨ 64 ≤ x.ctx ∨ x.record.length ≠ 256 ∨ (m.refusal x.ctx x.record).isSome then .next s
      else .next { s with mach := m.admitTask 64 x.ctx (m.freshTask (Config.idStart s.tick)) t none (some (x.pkg, x.id)) none }
    | none =>
      match m.ferry.nextQueue with
      | none => .next s
      | some q => .next { s with mach := m.admitHead q s.tick }

/-! Dispatch (R322). -/

/-- DOM0 to DOM3 of the cores of a domain, in rank order, and the barriers of its levels (01 R23 to R25, R333). `phase` gives the phase number of
a level at a core. -/
def Mach.formDomain (m : Mach) (t : Task) (cores : List CoreId) (start : Nat) (phase : Fin 4 → CoreId → W32) : Mach :=
  let used (k : Fin 4) : List Nat := (m.barriers.filter (·.level == k)).map fun b => b.id.toNat
  let fresh (k : Fin 4) (more : List Nat) : BitVec 24 :=
    let u := used k ++ more
    BitVec.ofNat 24 (freshFrom u (2 ^ 24 - 1) u.length start)
  let clusters := clustersOf cores
  let ids0 : List (Nat × BitVec 24) := clusters.foldl (fun l cl => l ++ [(cl, fresh 0 (l.map fun x => x.2.toNat))]) []
  let id1 := fresh 1 []
  let id2 := fresh 2 []
  let id3 := fresh 3 []
  let n := cores.length
  let far := (m.pkg.toNat - t.recd.pkg0) * t.recd.size
  let new (k : Fin 4) (id : BitVec 24) (ms : List CoreId) (remote : Bool) : Barrier :=
    { level := k, id := id, members := ms, remote := remote, arrived := [], passed := [], bytes := 0, phase := phase k (ms.headD 0) }
  let inCluster (cl : Nat) : List CoreId := cores.filter fun c => clusterOf c == cl
  let bars := (ids0.map fun x => new 0 x.2 (inCluster x.1) false) ++
    [new 1 id1 cores false, new 2 id2 cores false, new 3 id3 cores (decide (1 < t.recd.npkg))]
  let dom (c : CoreId) (i : Nat) : Vector (BitVec 24 × Nat × Nat) 4 :=
    let mine := inCluster (clusterOf c)
    let id0 := ((ids0.find? fun x => x.1 == clusterOf c).map (·.2)).getD 0
    #v[(id0, mine.length, mine.idxOf c), (id1, n, i), (id2, n, i), (id3, t.recd.size * t.recd.npkg, far + i)]
  let m1 := cores.zipIdx.foldl (fun m x => m.onCore x.1 fun k => { k with dom := dom x.1 x.2, task := some t.id }) m
  { m1 with barriers := m1.barriers ++ bars }

/-- The context's registers at dispatch and at restore (13 R391, 14 R406). -/
def Ctl.loadContext (k : Ctl) (ctx : Nat) (cx : Option Context) : Ctl :=
  let stvec := (cx.map (·.stvec)).getD 0
  let trefl := (cx.map (·.trefl)).getD 0
  { k with ctxid := ctx, stvec := addrField stvec, stvecEn := stvec.getLsbD 0,
           treflMask := BitVec.ofNat 16 (trefl.toNat / 2 ^ 32) &&& treflWritable, treflAddr := addrField trefl }

/-- A command ring of its RING entry: an LSIZE of 0 leaves RUN at 0 (R82, R311, R322). -/
def ringOfEntry (e : W32 × W32) : CmdRing :=
  { run := ringRun e.1 && ringLsize e.1 != 0, halt := false, lsize := BitVec.ofNat 5 (ringLsize e.1), base := BitVec.ofNat 20 (ringBase e.1), rp := 0, wp := e.2, sLevel := [] }

/-- A register of an image; an image of zeros leaves it zero (R322). -/
def imageReg (v : Nat) (zero : α) (parse : Nat → Option α) : Option α := if v = 0 then some zero else parse v

def mapFin8 (f : Fin 8 → Option α) : Option (Vector α 8) :=
  match (List.finRange 8).mapM f with
  | some [a, b, c, d, e, g, h, i] => some #v[a, b, c, d, e, g, h, i]
  | _ => none

/-- The set of an engine of the SLIMG block's bytes for it: none where an image is invalid. -/
def imageSet (m : Mem) (at_ : Nat) : Option RegSet :=
  match mapFin8 fun r : Fin 8 => imageReg (memNat m (at_ + 32 * r.val) 32) .zero parseShape,
        mapFin8 fun r : Fin 8 => imageReg (memNat m (at_ + 256 + 64 * r.val) 64) .zero parseLayout with
  | some sh, some ly => some { sh := sh, ly := ly }
  | _, _ => none

/-- The sets of the four engines, of the SLIMG block in a core's SPM. -/
def imageSets (m : Mem) (c : CoreId) (slimg : Nat) : Option (Vector EngineSets 4) :=
  if slimg = 0 then some (Vector.replicate 4 .zero)
  else
    match (List.range 4).mapM fun e => imageSet m (spmKey c (slimg + 768 * e)) with
    | some [a, b, d, e] =>
      let both (x : RegSet) : EngineSets := { cur := x, shadow := x, swap := false }
      some #v[both a, both b, both d, both e]
    | _ => none

/-- A core as dispatch sets it: SPM apart (R71, R132, R322, R376). Its error counts stay. -/
def Core.dispatch (old : Core) (c : CoreId) (t : Task) (cx : Option Context) (sets : Vector EngineSets 4) : Core :=
  let k := Core.reset c
  let r := t.recd
  let ctl : Ctl := { k.ctl with
    x := (k.ctl.x.set 0 (clean r.arg0)).set 1 (clean r.arg1), pc := BitVec.ofNat 18 (r.centry / 4), status := .running,
    mbud := Vector.replicate 5 (BitVec.ofNat 32 (if r.mbud = 0 then 16777216 else r.mbud)), errCorr := old.ctl.errCorr, errUnc := old.ctl.errUnc }
  let vec : Vec := { k.vec with pc := BitVec.ofNat 18 (bits r.ventry.toNat 19 0 / 4), status := if r.ventry.getLsbD 31 then .running else .ended }
  let ring (i : Nat) : CmdRing := ringOfEntry (r.rings.getD i (0, 0))
  { k with ctl := ctl.loadContext t.ctx cx, vec := vec, rings := #v[ring 0, ring 1, ring 2], sets := sets, bp := r.imglen, imglen := r.imglen,
           rhCtl := hashStart, rhVec := hashStart }

/-- The locations of a task's IMAGE, by storage, translated as an EXEC read; each may be of another package. -/
def Mach.imagePlaces (m : Mach) (ctx : Nat) (p : W64) (n : Nat) : Except NoPlace (List (Option Nat)) :=
  (List.range n).mapM fun (i : Nat) =>
    match ptrAdd p (8 * (i : Int)) with
    | .error e => .error e
    | .ok q =>
      if ptrHandle q = 0 then .error (trapOf .perm q)
      else if ptrOff q % 8 ≠ 0 then .error (trapOf .align q)
      else
        match place m (agent ctx) q 8 .exec with
        | .ok (.store key _ _) => .ok (some key)
        | .ok (.remote _ _) => .ok none
        | .ok (.cap _) => .error (trapOf .perm q)
        | .error e => .error e

/-- The image copied to the SPM of a core, with its bits and marks; the rest of SPM is 0 and full (R322, 10 R298, R300). -/
def Mach.loadImageTo (m : Mach) (c : CoreId) (keys : List (Option Nat)) (tick : Nat) : Mach :=
  let z : Mach := { m with mem := memZero m.mem (spmKey c 0) 0x100000 }
  keys.zipIdx.foldl (fun z x =>
    let to_ := spmKey c (8 * x.2)
    let mem : Mem :=
      match x.1 with
      | some key => memSetPoison (memSetFull (memSetBytes z.mem to_ (memBytes m.mem key 8)) to_ (memFull m.mem key)) to_ (memPoisoned m.mem key)
      | none =>
        memSetFull (memSetBytes z.mem to_ ((List.range 8).map fun j => Config.remoteByte tick (8 * x.2 + j))) to_ (Config.remoteFull tick (8 * x.2))
    { z with mem := mem }) z

/-- A task that ends at dispatch: no strand issues, and it retires with KIND 01 and the class (R322, 13 R372). -/
def Mach.failDispatch (m : Mach) (id : Nat) (cls : TrapClass) : Mach :=
  m.onTask id fun t => { t with state := .killing, kind := 1, cls := cls.code, cores := [] }

/-- A task dispatched onto its domain (R322). -/
def Mach.dispatch (m : Mach) (t : Task) (cores : List CoreId) (tick : Nat) : Mach :=
  match m.imagePlaces t.ctx t.recd.image (t.recd.imglen / 8) with
  | .error (.miss x h k) => m.agentMiss x h k
  | .error .held => m
  | .error (.fault e) => m.failDispatch t.id e.cls
  | .ok keys =>
    let cx := (m.ctxs[t.ctx]?).getD none
    let m1 := cores.foldl (fun m c => m.loadImageTo c keys tick) m
    match imageSets m1.mem (cores.headD 0) t.recd.slimg with
    | none => m.failDispatch t.id .shape
    | some sets =>
      let m2 := cores.foldl (fun m c => m.onCore c fun k => k.dispatch c t cx sets) m1
      let m3 := m2.formDomain t cores (Config.idStart tick) fun _ _ => 0
      let m4 : Mach := { m3 with ferry := { m3.ferry with nextDisp := m3.ferry.nextDisp + 1 } }
      m4.onTask t.id fun t => { t with state := .running, cores := cores, disp := m3.ferry.nextDisp }

/-- `TASK_DISPATCH` (R321, R322): the highest-ranked ready task, where it has a place; one with a checkpoint is restored instead. -/
def execTaskDispatch (s : State) : Host.Outcome State Fault Refusal :=
  match s.mach.placeTop s.tick with
  | some (t, cores) => if t.ckpt.isSome then .next s else .next { s with mach := s.mach.dispatch t cores s.tick }
  | none => .next s

/-- `TOKEN_AGING` (R321). -/
def execTokenAging (id : Nat) (s : State) : Host.Outcome State Fault Refusal :=
  let now := s.mach.scyc
  .next (s.onMach fun m => m.onTask id fun t =>
    if t.state == .ready && decide (t.agedAt + 65536 ≤ now) then { t with tokens := if t.tokens < 255 then t.tokens + 1 else t.tokens, agedAt := t.agedAt + 65536 }
    else t)

/-! Pre-emption (R326 to R328). -/

/-- The actions of R327. -/
inductive Preempt where
  | drain | kill | save
  deriving DecidableEq, Repr

/-- The action that a running task would receive; a checkpoint that does not fit its pool counts as NOCKPT (14 R421). -/
def Mach.preemptAction (m : Mach) (t : Task) : Option Preempt :=
  if t.recd.remain * 256 < m.ferry.fmdrain.toNat * 256 then some .drain
  else if t.recd.phint.getLsbD 0 then some .kill
  else if m.mayCheckpoint t then some .save
  else none

/-- The action applied (R328). -/
def Mach.preempt (m : Mach) (t : Task) (a : Preempt) : Mach :=
  match a with
  | .drain => m.onTask t.id fun t => { t with state := .draining, drainAt := m.scyc }
  | .kill => m.requestStop t .killing
  | .save => m.stopToSave t

/-- A task whose cores will come free: it drains, stops or is killed. -/
def Task.going (t : Task) : Bool := t.state == .draining || t.state == .stopping || t.state == .killing

/-- Candidates in the order they are taken: ascending PRIO, the latest dispatched first among equals. -/
def takenBefore (a b : Task) : Bool := decide (a.recd.prio < b.recd.prio) || (a.recd.prio == b.recd.prio && decide (b.disp < a.disp))

def insertTask (t : Task) : List Task → List Task
  | [] => [t]
  | u :: r => if takenBefore t u then t :: u :: r else u :: insertTask t r

/-- The least run of candidates whose cores, with those already free or going, form a domain of n cores. -/
def chooseTasks (n : Nat) (free : CoreId → Bool) : List Task → List Task → Option (List Task)
  | [], taken => if (domainOf (fun c => free c || taken.any fun t => t.cores.contains c) n).isSome then some taken else none
  | t :: r, taken =>
    if (domainOf (fun c => free c || taken.any fun t => t.cores.contains c) n).isSome then some taken else chooseTasks n free r (taken ++ [t])

/-- The actions applied to the chosen tasks in turn, each as it stands then (R421). -/
def Mach.preemptAll (m : Mach) (ts : List Task) : Mach :=
  ts.foldl (fun m t => match m.preemptAction t with | some a => m.preempt t a | none => m) m

/-- `PREEMPTION_DECISION` (R326, R327): for the highest-ranked ready task when it has no place; with `far`, the decision of PKG0 for a task that
spans packages: 0 drain, 1 kill, 2 checkpoint. -/
def execPreemptionDecision (far : Option (Nat × Fin 3)) (s : State) : Host.Outcome State Fault Refusal :=
  let m := s.mach
  match far with
  | some (id, a) =>
    match m.ferry.tasks.find? fun t => t.id == id && t.recd.pkg0 != m.pkg.toNat && t.state == .running with
    | some t =>
      match a.val with
      | 0 => .next { s with mach := m.preempt t .drain }
      | 1 => .next { s with mach := m.preempt t .kill }
      | _ => if m.mayCheckpoint t then .next { s with mach := m.preempt t .save } else .next s
    | none => .next s
  | none =>
    match m.topReady with
    | none => .next s
    | some h =>
      let running := m.ferry.tasks.filter fun t => t.state == .running && !t.cores.isEmpty
      if (domainOf m.freeCore h.recd.size).isSome ∨ !running.any (fun t => decide (t.recd.prio < h.tokens)) then .next s
      else
        let cands := (running.filter fun t => decide (t.recd.prio < h.tokens) && (m.preemptAction t).isSome && t.recd.pkg0 == m.pkg.toNat).foldl
          (fun l t => insertTask t l) []
        let going := m.ferry.tasks.filter Task.going
        let free (c : CoreId) : Bool := m.freeCore c || (going.any (fun t => t.cores.contains c) && !m.withdrawn.getLsbD (clusterOf c))
        match chooseTasks h.recd.size free cands [] with
        | some ts => .next { s with mach := m.preemptAll ts }
        | none => .next s

/-- `DRAIN_TIMEOUT` (R328): a drain that has lasted too long becomes a checkpoint, when the task may be checkpointed. -/
def execDrainTimeout (id : Nat) (s : State) : Host.Outcome State Fault Refusal :=
  let m := s.mach
  match m.ferry.tasks.find? fun t => t.id == id && t.state == .draining with
  | some t =>
    if t.drainAt + 2 * m.ferry.fmdrain.toNat * 256 ≤ m.scyc ∧ m.mayCheckpoint t then .next { s with mach := m.stopToSave t } else .next s
  | none => .next s

end Sys2Proof.Machine
end

