-- ==== Sys2Proof/Machine/VecCtl.lean ====
section
/-! DEFINITION. Index bases, predicates, the loop unit, semaphores and queues of the vector strand (05 R138, R139, R167 to
R174). -/

namespace Sys2Proof.Machine

/-- A scalar operand of an instruction that acts on no lanes: it waits for a queue's image, and a poisoned scalar traps
(R141, R146). -/
def Mach.vscalar (m : Mach) (c : CoreId) (b : VSrc) (k : Vec → W32 → Run) : Run :=
  match m.cores[c].vec.source b with
  | none => m.blockVec c
  | some (r, v1) => if (r.at 0).tag ≠ 0 then .trap { cls := tagClass (r.at 0).tag, addr := r.faddr } else k v1 (r.at 0).bits

/-! Index bases (R138, R139). -/

/-- The pending write of an index base; the instruction's own retirement does not lower it. -/
def State.baseWrite (s : State) (n : Fin 4) (x : VSrc) (f : BitVec 3 → W32 → BitVec 3) : Host.Outcome State Fault Refusal :=
  let c := s.cur.core
  s.vector fun m =>
    m.vscalar c x fun v1 w =>
      let val := f (v1.laterBase n) w
      match (m.onVec c fun _ => v1).retireV c (vwords none [x]) with
      | .done m1 => .done (m1.onVec c fun v => { v with bw := v.bw ++ [{ base := n, val := val, count := 2 }] })
      | r => r

/-- `vbset` (R139). -/
def execVbset (n : Fin 4) (x : VSrc) (s : State) : Host.Outcome State Fault Refusal := s.baseWrite n x fun _ w => w.setWidth 3
/-- `vbadd` (R139): it adds to the value the base will hold. -/
def execVbadd (n : Fin 4) (x : VSrc) (s : State) : Host.Outcome State Fault Refusal := s.baseWrite n x fun b w => b + w.setWidth 3

/-! Predicates (R167): all 1,024 bits, whatever the shape. -/

def State.predOp (s : State) (d : Fin 8) (f : Vec → BitVec 1024) : Host.Outcome State Fault Refusal :=
  let c := s.cur.core
  s.vector fun m => (m.onVec c fun v => { v with p := v.p.set d (f v) }).retireV c 1

/-- `vpand` (R167). -/
def execVpand (d a b : Fin 8) (s : State) : Host.Outcome State Fault Refusal := s.predOp d fun v => v.predicate a &&& v.predicate b
/-- `vpor` (R167). -/
def execVpor (d a b : Fin 8) (s : State) : Host.Outcome State Fault Refusal := s.predOp d fun v => v.predicate a ||| v.predicate b
/-- `vpxor` (R167). -/
def execVpxor (d a b : Fin 8) (s : State) : Host.Outcome State Fault Refusal := s.predOp d fun v => v.predicate a ^^^ v.predicate b
/-- `vpnot` (R167). -/
def execVpnot (d a : Fin 8) (s : State) : Host.Outcome State Fault Refusal := s.predOp d fun v => ~~~v.predicate a

/-! The loop unit (R168 to R171). -/

/-- SetStagePreds: P(k + 1) of the loop's stages. -/
def Vec.stagePreds (v : Vec) : Vec :=
  let l := v.loop
  { v with p := Vector.ofFn fun i : Fin 8 =>
      if 1 ≤ i.val ∧ i.val ≤ l.ls then (if i.val - 1 ≤ l.lj ∧ l.lj < l.lk + (i.val - 1) then BitVec.allOnes 1024 else 0) else v.p[i] }

/-- A rotation: each base of the mask goes down by 1, its value in effect and every pending value (R138). -/
def Vec.rotateBases (v : Vec) : Vec :=
  let mask := v.loop.lmask
  { v with
    b := Vector.ofFn fun c : Fin 4 => if mask.getLsbD c.val then v.b[c] - 1 else v.b[c]
    bw := v.bw.map fun w => if mask.getLsbD w.base.val then { w with val := w.val - 1 } else w }

/-- `Exit()` but for the program counter: the bases of the mask are restored and their pending writes dropped, and the stage
predicates are cleared (R138, R169). -/
def Vec.exitLoop (v : Vec) : Vec :=
  let l := v.loop
  { v with
    b := Vector.ofFn fun c : Fin 4 => if l.lmask.getLsbD c.val then l.lentryb[c] else v.b[c]
    bw := v.bw.filter fun w => !l.lmask.getLsbD w.base.val
    p := Vector.ofFn fun i : Fin 8 => if 1 ≤ i.val ∧ i.val ≤ l.ls then 0 else v.p[i]
    loop := { l with act := false, lstop := false } }

/-- `vloop` (R169): with no iteration left it goes on after the next `vlend`. -/
def execVloop (stages : Fin 8) (mask : BitVec 4) (n : VSrc) (s : State) : Host.Outcome State Fault Refusal :=
  let c := s.cur.core
  s.vector fun m =>
    if m.cores[c].vec.loop.act then .trap illegalTrap
    else
      m.vscalar c n fun v1 w =>
        let pc := v1.pc
        let first := v1.loop.lbase
        match (m.onVec c fun _ => v1).retireV c (vwords none [n]) with
        | .done m1 =>
          .done (m1.onVec c fun v =>
            if w.toNat ≤ first then { v with loop := { v.loop with lbase := 0 }, skip := true }
            else
              { v with loop := { act := true, ls := stages.val, lmask := mask, lfirst := first, lk := w.toNat - first, lj := 0, lstart := v.pc,
                                 lvpc := pc, lentryb := Vector.ofFn fun i : Fin 4 => v.laterBase i, lstop := false, lbase := 0 } }.stagePreds)
        | r => r

/-- The stop request's effect at the end of an iteration (R169, R171): no further stage-0 iteration. -/
def LoopUnit.stopAt (l : LoopUnit) (stop : Bool) : LoopUnit :=
  if stop && !l.lstop && decide (l.lj + 1 < l.lk) then { l with lstop := true, lbase := l.lfirst + l.lj + 1, lk := l.lj + 1 } else l

/-- `vlend` (R169): the end of an iteration, which is also the vector engine's swap point (R100). -/
def execVlend (s : State) : Host.Outcome State Fault Refusal :=
  let c := s.cur.core
  s.vector fun m =>
    let v0 := m.cores[c].vec
    if v0.skip then
      if 2 ^ 18 ≤ v0.pc.toNat + 1 then .trap pastSpm else .done (m.onVec c fun v => { v with skip := false, pc := v.pc + 1 })
    else if !v0.loop.act then .trap illegalTrap
    else
      let v : Vec := { v0.retire with loop := v0.loop.stopAt m.cores[c].stop }
      let l := v.loop
      let end_ (m : Mach) (v : Vec) : Run := .done (((m.endWait c .vector).onVec c fun _ => { v with wait := none, issued := false }).onCore c fun k => k.swapPoint .vector)
      if l.lj + 1 < l.lk + l.ls - 1 then end_ m { ({ v with loop := { l with lj := l.lj + 1 } }.rotateBases.stagePreds) with pc := l.lstart }
      else if l.lstop then end_ m { v.exitLoop with pc := l.lvpc, status := .stopped }
      else if 2 ^ 18 ≤ v.pc.toNat + 1 then .trap pastSpm
      else end_ m { v.exitLoop with pc := v.pc + 1 }

/-! Semaphores (R172). -/

/-- `vsmwait` (R172). -/
def execVsmwait (n : Fin 15) (x : VSrc) (s : State) : Host.Outcome State Fault Refusal :=
  let c := s.cur.core
  s.vector fun m =>
    m.vscalar c x fun v1 w =>
      match m.cores[c].semPassed n .vector w with
      | some _ => ((m.onCore c fun k => k.dropWaiter n .vector).onVec c fun _ => v1).retireV c (vwords none [x])
      | none => (m.onCore c fun k => k.addWaiter n .vector w false).blockVec c

/-- `vsmadd` (R172, R330): a release at core scope, which a load that is kept back precedes (R261); a clamp sets no flag. -/
def execVsmadd (n : Fin 15) (x : VSrc) (s : State) : Host.Outcome State Fault Refusal :=
  let c := s.cur.core
  s.vector fun m =>
    m.vscalar c x fun v1 w =>
      if m.keepsLoad c then .stay m else
      (((m.flushAll c .vector).onCore c fun k => k.semAdd n w.toNat).onVec c fun _ => v1).retireV c (vwords none [x])

/-! Queues (R173). -/

/-- `vqget` (R173): mode 0 the low word to every active lane; mode 1 the two words to lanes (0, 0) and (0, 1), each if active. -/
def execVqget (d : VDst) (mode : Fin 2) (g : Guard) (s : State) : Host.Outcome State Fault Refusal :=
  let c := s.cur.core
  s.vector fun m =>
    match m.cores[c].q[(0 : Fin 8)] with
    | [] => m.blockVec c
    | e :: rest =>
      match m.vin c none d .zero .zero g with
      | none => m.blockVec c
      | some (x, v1) =>
        let lane (i : Nat) : Option Lane :=
          if !x.active i then none
          else if mode = 0 ∨ i = 0 then some { bits := e.setWidth 32, tag := 0 }
          else if i = 1 then some { bits := (e >>> 32).setWidth 32, tag := 0 }
          else none
        ((m.popQ c 0 rest).onVec c fun _ => v1.writeLanes d lane none).retireV c 1

/-- VFLAGS as a word (R134). -/
def Vec.flags (v : Vec) : Nat :=
  b2n v.flagNv + 2 * b2n v.flagDz + 4 * b2n v.flagOf + 8 * b2n v.flagUf + 16 * b2n v.flagNx + 32 * b2n v.flagSat

/-- `vqput` (R173): mode 1 reports and clears VFLAGS; mode 2 also ends the strand, outside a loop body only (R169). The write is
made after the strand's earlier accesses (R85, R261). -/
def execVqput (x : VSrc) (mode : Fin 3) (s : State) : Host.Outcome State Fault Refusal :=
  let c := s.cur.core
  s.vector fun m =>
    if mode = 2 ∧ m.cores[c].vec.loop.act then .trap illegalTrap
    else
      m.vscalar c x fun v1 w =>
        if 8 ≤ m.cores[c].q[(1 : Fin 8)].length then m.blockVec c
        else if m.keepsLoad c then .stay m
        else
          let entry : W64 := if mode = 1 then BitVec.ofNat 64 v1.flags else w.setWidth 64
          let v2 := if mode = 1 then
              { v1 with flagSat := false, flagNx := false, flagUf := false, flagOf := false, flagDz := false, flagNv := false }
            else v1
          match (((m.flushAll c .vector).pushQ c 1 entry).onVec c fun _ => v2).retireV c (vwords none [x]) with
          | .done m1 => .done (if mode = 2 then (m1.onVec c fun v => { v with status := .ended }).onCtl c Ctl.fireVector else m1)
          | r => r

end Sys2Proof.Machine
end

