-- ==== Sys2Proof/Machine/Fetch.lean ====
section
/-! DEFINITION. Instruction boundaries, and the fetch of the control, vector, matrix and copy strands (02 R42 to R44, 03 R82, R86, R104,
11 R328, 14 R405, R414). -/

namespace Sys2Proof.Machine

/-! Fetch from own SPM (R42, R43). -/

/-- What a fetch brings: an instruction and its words, or a trap and the words that its instruction is known to have. -/
inductive Fetch where
  | ok (i : Instr) (words : Nat)
  | trap (words : Nat) (t : Trap)

def Mach.codeWord (m : Mach) (c : CoreId) (p : Nat) : W32 := mem32 m.mem (spmKey c (4 * p))

/-- The words of SPM from a word index, at most the four that an instruction can take. -/
def Mach.codeWords (m : Mach) (c : CoreId) (pc : BitVec 18) : List W32 :=
  (List.range (min 4 (2 ^ 18 - pc.toNat))).map fun i => m.codeWord c (pc.toNat + i)

/-- The first of n words that stands in a poisoned location: a fetch is a load (R43, 10 R282). -/
def Mach.codePoison (m : Mach) (c : CoreId) (pc : BitVec 18) (n : Nat) : Option Trap :=
  ((List.range n).find? fun i => memPoisoned m.mem (locOf (spmKey c (4 * (pc.toNat + i))))).map fun i =>
    { cls := .poison, addr := BitVec.ofNat 64 (4 * (pc.toNat + i)) }

/-- The instruction at a program counter: a word at or past the end of SPM traps PERM (R42). -/
def Mach.fetch (m : Mach) (c : CoreId) (pc : BitVec 18) (dec : List W32 → Decoded) : Fetch :=
  match m.codePoison c pc 1 with
  | some t => .trap 1 t
  | none =>
    match dec (m.codeWords c pc) with
    | .illegal => .trap 1 illegalTrap
    | .short => .trap 1 pastSpm
    | .ok i n => match m.codePoison c pc n with | some t => .trap n t | none => .ok i n

/-- A fetch as accesses of the strand: loads of class 15 at core scope (R43). -/
def fetchLoads (c : CoreId) (pc : BitVec 18) : List Access :=
  (List.range 4).map fun (i : Nat) => { loc := locOf (spmKey c (4 * (pc.toNat + i))), cls := 15, rel := false, mtype := .normal, kind := .load, masks := [] }

/-- The earlier stores of the strand that its fetch follows. -/
def Mach.beforeFetch (m : Mach) (c : CoreId) (t : Strand) (pc : BitVec 18) : Mach := m.flushReqs c t (fetchLoads c pc)

/-! Boundaries of the control strand (R86, R104, 11 R328, 14 R405). -/

/-- The control strand can stand at a boundary: it has sent nothing whose answer it must take, and it has no barrier to leave. -/
def Mach.mayBound (m : Mach) (c : CoreId) : Bool :=
  !(m.remotes.any fun r => r.core == c && r.strand == .control && decide (r.lane < imageLane)) && (m.askOf c).isNone && !m.leaving c

/-- A stop request takes effect at the boundary: a blocked instruction is abandoned (R328). -/
def Mach.stopControl (m : Mach) (c : CoreId) : Mach := (m.withdraw c .control).onCtl c fun k => { k with status := .stopped }

/-- The first pending asynchronous trap delivered, at U (R405). -/
def Mach.asyncDue (m : Mach) (c : CoreId) : Option Mach :=
  let k := m.cores[c].ctl
  match k.sup, k.pending with
  | false, a :: rest => some ((m.onCtl c fun k => { k with pending := rest }).deliverAsync c a)
  | _, _ => none

/-- The oldest pending completion event delivered, at U (R104, 14 R407). -/
def Mach.eventDue (m : Mach) (c : CoreId) : Option Mach :=
  let k := m.cores[c].ctl
  match k.events with
  | e :: rest => if k.uiEn && !k.uiActive && !k.sup then some ((m.withdraw c .control).onCtl c fun k => k.deliverEvent e rest) else none
  | [] => none

/-- What comes at a boundary before the next instruction issues: one asynchronous trap, else one event, else a stop. -/
def Mach.boundary (m : Mach) (c : CoreId) : Option Mach :=
  if !m.mayBound c then none
  else
    match m.asyncDue c with
    | some m1 => some m1
    | none =>
      match m.eventDue c with
      | some m1 => some m1
      | none => if m.cores[c].stop then some (m.stopControl c) else none

/-- A wait in place or moored makes no attempt before it is due (10 R287, 11 R338, 13 R387). -/
def Wait.attemptDue (w : Wait) (now : Nat) : Bool :=
  !w.fe || (!w.moored && (w.woken || decide (w.last + (if w.full then 256 else 8) ≤ now)))

/-! Uncorrectable and corrected errors of storage (14 R414, R415). -/

/-- A count that saturates. -/
def countErr (n : W32) : W32 := if n = 0xFFFFFFFF then n else n + 1

/-- The core in whose SPM a location lies. -/
def spmCore? (loc : Nat) : Option CoreId :=
  if spmKey 0 0 ≤ loc then
    let n := (loc - spmKey 0 0) / 0x100000
    if h : n < 128 then some ⟨n, h⟩ else none
  else none

/-- An error counted: in a core's SRAM by the core, elsewhere by the package. -/
def State.countError (s : State) (core : Option CoreId) (corrected : Bool) : State :=
  match core with
  | some c => s.onCtl c fun k => if corrected then { k with errCorr := countErr k.errCorr } else { k with errUnc := countErr k.errUnc }
  | none => { s with fw := if corrected then { s.fw with sepkgCorr := countErr s.fw.sepkgCorr } else { s.fw with sepkgUnc := countErr s.fw.sepkgUnc } }

/-- The number of SCAUSE.SRC that names a strand (14 R406). -/
def causeSrcOf (t : Strand) : BitVec 3 := BitVec.ofNat 3 (strandNo t)

/-- A vector register with an uncorrectable error in a lane. -/
def VecReg.spoiled (v : VecReg) (l : Fin 1024) : VecReg :=
  let lanes := v.lanes.set l { bits := v.lanes[l].bits, tag := 7 }
  { lanes := lanes, faddr := v.faddrAfter lanes (some 0) }

/-- An error applied: the mark, tag or trap that R414 gives it, and its count. -/
def State.error (s : State) (e : Ecc) : State :=
  match e with
  | .corrected core => s.countError core true
  | .location loc =>
    let l := locOf loc
    (s.onMach fun m => { m with mem := memSetPoison m.mem l true }).countError (spmCore? l) false
  | .register c r => (s.onCtl c fun k => k.setX r { val := 0, tag := 7 }).countError (some c) false
  | .shadow c r => (s.onCtl c fun k => { k with sx := k.sx.set r { val := 0, tag := 7 } }).countError (some c) false
  | .lane c v l => (s.onVec c fun x => { x with v := x.v.set v (x.v[v].spoiled l) }).countError (some c) false
  | .image c q n l =>
    (s.onVec c fun x => { x with oq := x.oq.set q (x.oq[q].modify n fun i =>
      match i with | .loaded r => .loaded (r.spoiled l) | .arrived r => .arrived (r.spoiled l) | i => i) }).countError (some c) false
  | .accRow c tile row =>
    (s.onCore c fun k => { k with acc := k.acc.set tile { k.acc[tile] with pois := k.acc[tile].pois ||| BitVec.ofNat 64 (2 ^ row.val) } }).countError
      (some c) false
  | .untagged c t =>
    (s.onMach fun m => m.raiseAsync c { src := causeSrcOf t, trap := { cls := .poison, addr := 0 }, miss := none }).countError (some c) false
  | .block ad seq b =>
    (s.onMach fun m => m.onDie ad fun x =>
      match (x.rec? seq).bind fun r => locate r.exts b with
      | some a => { x with cells := x.cells.map fun c => if c.1 = a then (c.1, { c.2 with bad := true }) else c }
      | none => x).countError none false
  | .sampler cl =>
    (s.onMach fun m =>
      match m.samp.units[cl].run with
      | none => m
      | some r => match r.phase with | .ended .. => m | _ => m.sampFault cl r .poison).countError none false

/-- `USER_EVENT_DELIVERY` (R104): no asynchronous trap is due before it. -/
def execUserEventDelivery (c : CoreId) (s : State) : Host.Outcome State Fault Refusal :=
  let m := s.mach
  if m.cores[c].ctl.status == .running && m.mayBound c && (m.asyncDue c).isNone then
    match m.eventDue c with
    | some m1 => .next { s with mach := m1 }
    | none => .next s
  else .next s

/-- `ASYNC_TRAP_DELIVERY` (R405): a pending asynchronous trap is delivered; with `e`, an error of storage comes about, which may cause
one (14 R414). -/
def execAsyncTrapDelivery (c : CoreId) (e : Option Ecc) (s : State) : Host.Outcome State Fault Refusal :=
  match e with
  | some e => .next (s.error e)
  | none =>
    let m := s.mach
    if m.cores[c].ctl.status == .running && m.mayBound c then
      match m.asyncDue c with
      | some m1 => .next { s with mach := m1 }
      | none => .next s
    else .next s

/-! Engine fetch (R44, R82). -/

/-- What the fetch of a step word brings: the step, or a fault with its event's source and the words that the header names (R295). -/
inductive StepFetch where
  | ok (i : Instr) (words : Nat)
  | fault (source : BitVec 8) (words : Nat) (t : Trap)

/-- The step word at a command ring's read pointer, when all its words lie between the pointers; none while they do not. DESIGN CHOICE (log 62): its
words are read in one event, so that a store into the span between the pointers leaves no two words of one location at different times (R44 allows each
word to be old or new by itself). -/
def Mach.stepFetch (m : Mach) (c : CoreId) (t : Strand) : Option StepFetch :=
  let r := m.cores[c].rings[ringOf t]
  let avail := (r.wp - r.rp).toNat
  let at_ (i : Nat) : Nat := r.addr (r.rp + BitVec.ofNat 32 i)
  let word (i : Nat) : W32 := mem32 m.mem (spmKey c (at_ i))
  let bad (n : Nat) : Option Trap :=
    ((List.range n).find? fun i => memPoisoned m.mem (locOf (spmKey c (at_ i)))).map fun i => { cls := .poison, addr := BitVec.ofNat 64 (at_ i) }
  if avail = 0 then none
  else
    match bad 1 with
    | some f => some (.fault (headerSource t 0) 1 f)
    | none =>
      let h := word 0
      let n := 1 + bits h.toNat 17 16
      let ws := (List.range (min 4 avail)).map word
      match (if t = .copy then decodeCopy ws else decodeMatrix ws) with
      | .illegal => some (.fault (headerSource t h) n illegalTrap)
      | .short => none
      | .ok i n => some (match bad n with | some f => .fault (stepSource t i) n f | none => .ok i n)

/-- A strand that fetches: its ring runs and no stop request stands (03 R83, 11 R328). -/
def Core.fetches (k : Core) (t : Strand) : Bool := k.rings[ringOf t].run && !k.stop

end Sys2Proof.Machine
end

