-- ==== Sys2Proof/Machine/Waits.lean ====
section
/-! DEFINITION. The life of a wait: retries, wakes, expiries, the lock gate's release, and swap points (03 R100, 06 R190, 10 R287, R297,
11 R338, R339, 13 R387, 14 R426). -/

namespace Sys2Proof.Machine

/-- The waiting forms of the control and vector strands on a location's full/empty state (10 R286, 11 R339, 05 R164). -/
def State.waitingForm (s : State) (i : Instr) : Option (Host.Outcome State Fault Refusal) :=
  match i with
  | .ldwait d base q => some (execLdwait d base q s)
  | .ldcons d base q => some (execLdcons d base q s)
  | .stfill v base q => some (execStfill v base q s)
  | .moor d a b => some (execMoor d a b s)
  | .vldwait q d ly off g => some (execVldwait q d ly off g s)
  | .vldcons q d ly off g => some (execVldcons q d ly off g s)
  | .vstfill q v ly off g => some (execVstfill q v ly off g s)
  | _ => none

/-- The control strand's atomics (R290). -/
def State.atomicForm (s : State) (i : Instr) : Option (Host.Outcome State Fault Refusal) :=
  match i with
  | .aadd d base b q => some (execAadd d base b q s)
  | .afadd d base b q => some (execAfadd d base b q s)
  | .axchg d base b q => some (execAxchg d base b q s)
  | .acas e base b q => some (execAcas e base b q s)
  | .amin d base b q => some (execAmin d base b q s)
  | .amax d base b q => some (execAmax d base b q s)
  | .aminn d base b q => some (execAminn d base b q s)
  | .amaxn d base b q => some (execAmaxn d base b q s)
  | .aand d base b q => some (execAand d base b q s)
  | .aor d base b q => some (execAor d base b q s)
  | .axor d base b q => some (execAxor d base b q s)
  | _ => none

/-- The wait of a control or vector strand that runs and that no boundary is about to abandon. -/
def Mach.openWait (m : Mach) (c : CoreId) (t : Strand) : Option Wait :=
  let k := m.cores[c]
  match t with
  | .control => if k.ctl.status == .running && (m.boundary c).isNone then k.ctl.wait else none
  | .vector => if k.vec.status == .running && !k.vec.skip then k.vec.wait else none
  | _ => none

/-- A new attempt of the instruction that waits, if it is of the given form. -/
def State.attempt (s : State) (c : CoreId) (t : Strand) (form : State → Instr → Option (Host.Outcome State Fault Refusal)) :
    Host.Outcome State Fault Refusal :=
  let s1 : State := { s with cur := { core := c, strand := t } }
  let got := if t = .control then s.mach.fetch c s.mach.cores[c].ctl.pc decodeControl else s.mach.fetch c s.mach.cores[c].vec.pc (decodePrefixed decodeVectorMemory)
  match got with
  | .ok i _ => (form s1 i).getD (.next s)
  | .trap .. => .next s

/-- `WAIT_RETRY` (R287): a retry in place, 8 s-cycles after the last attempt. -/
def execWaitRetry (c : CoreId) (t : Strand) (s : State) : Host.Outcome State Fault Refusal :=
  match s.mach.openWait c t with
  | some w => if w.fe && !w.moored && !w.woken && !w.full && w.attemptDue s.mach.scyc then s.attempt c t State.waitingForm else .next s
  | none => .next s

/-- An entry of a strand of this package stands in this package's list. -/
def Mach.mooredHere (m : Mach) (c : CoreId) (t : Strand) : Bool := m.moorings.any fun e => e.pkg == m.pkg && e.core == c && e.strand == t

/-- `MOOR_WAKE_ATTEMPT` (R338): a woken strand makes one attempt. A strand moored at a remote home is woken from outside the package. -/
def execMoorWakeAttempt (c : CoreId) (t : Strand) (s : State) : Host.Outcome State Fault Refusal :=
  match s.mach.openWait c t with
  | some w =>
    if w.woken then s.attempt c t State.waitingForm
    else if w.moored && !s.mach.mooredHere c t then (s.onMach fun m => m.wakeStrand c t).attempt c t State.waitingForm
    else .next s
  | none => .next s

/-- `MOOR_POOL_RETRY` (R387): a strand that found the pool full tries again after 256 s-cycles. -/
def execMoorPoolRetry (c : CoreId) (t : Strand) (s : State) : Host.Outcome State Fault Refusal :=
  match s.mach.openWait c t with
  | some w => if w.full && w.attemptDue s.mach.scyc then s.attempt c t State.waitingForm else .next s
  | none => .next s

/-! Expiries. -/

/-- Nothing stands between a wait and its expiry: no message of the instruction is out, no semaphore has released it, and no closed
barrier lets it leave. -/
def Mach.mayExpire (m : Mach) (c : CoreId) (t : Strand) : Bool :=
  !(m.remotes.any fun r => r.core == c && r.strand == t && decide (r.lane < imageLane)) &&
  !(m.cores[c].smw.any fun l => l.any fun w => w.strand == t && w.released.isSome) && (t == .vector || !m.leaving c)

/-- `FE_EXPIRE` (R338): a wait reaches its budget and traps precisely; its mooring entry is withdrawn. -/
def execFeExpire (c : CoreId) (t : Strand) (s : State) : Host.Outcome State Fault Refusal :=
  let m := s.mach
  match m.openWait c t with
  | some w =>
    if w.expired m.scyc && w.expiry == .trap && m.mayExpire c t then
      match t with
      | .control => .next { s with mach := m.takeTrap c (m.cores[c].ctl.pc + BitVec.ofNat 18 w.words) w.trap }
      | _ => .next { s with mach := m.vecTrap c w.trap }
    else .next s
  | none => .next s

/-- `MOOR_EXPIRE` (R339): `moor` answers 0 at its budget and takes no trap. -/
def execMoorExpire (c : CoreId) (s : State) : Host.Outcome State Fault Refusal :=
  let m := s.mach
  match m.openWait c .control with
  | some w =>
    match w.expiry with
    | .moor d =>
      if w.expired m.scyc && m.mayExpire c .control then
        let s1 : State := { s with cur := { core := c, strand := .control } }
        match s1.control w.words fun m => (m.withdraw c .control |>.onCtl c fun k => k.write d (clean 0)).advance c w.words with
        | .next s2 => .next { s2 with cur := s.cur }
        | r => r
      else .next s
    | _ => .next s
  | none => .next s

/-- What a copy step word does where it stands. -/
def State.tryCopy (s : State) (i : Instr) : Option (Host.Outcome State Fault Refusal) :=
  match i with
  | .tmov w m lys lyd soff doff count1 => some (execTmov w m lys lyd soff doff count1 s)
  | .tmov2d w m lys lyd rec => some (execTmov2d w m lys lyd rec s)
  | .rrot w m dist saddr daddr count1 => some (execRrot w m dist saddr daddr count1 s)
  | .gath w m lys lyd iaddr rowb rows1 => some (execGath w m lys lyd iaddr rowb rows1 s)
  | .scat w m lys lyd iaddr rowb rows1 => some (execScat w m lys lyd iaddr rowb rows1 s)
  | .rpush w m lys rg soff => some (execRpush w m lys rg soff s)
  | .cfill w m lyd doff count1 pat => some (execCfill w m lyd doff count1 pat s)
  | .crstr w m lys ring soff words1 => some (execCrstr w m lys ring soff words1 s)
  | .csync w pop => some (execCsync w pop s)
  | .cqwr w tag => some (execCqwr w tag s)
  | .fwr w m lys lyd soff doff pkg count1 => some (execFwr w m lys lyd soff doff pkg count1 s)
  | .frd w m lys lyd soff doff pkg count1 => some (execFrd w m lys lyd soff doff pkg count1 s)
  | .fatom w aop lyd doff oaddr pkg => some (execFatom w aop lyd doff oaddr pkg s)
  | .lbregBuffer w rec => some (execLbregBuffer w rec s)
  | .lbregPort w rec => some (execLbregPort w rec s)
  | .lbregClose w rec => some (execLbregClose w rec s)
  | .lbregOpen w rec => some (execLbregOpen w rec s)
  | .lbregRedirect w rec => some (execLbregRedirect w rec s)
  | .lbrelBuffer w key => some (execLbrelBuffer w key s)
  | .lbrelPort w h => some (execLbrelPort w h s)
  | .a2av w m desc => some (execA2av w m desc s)
  | .rscat w m desc => some (execRscat w m desc s)
  | .agath w m desc => some (execAgath w m desc s)
  | .bcast w m desc => some (execBcast w m desc s)
  | .pgmovUp w h k staddr => some (execPgmovUp w h k staddr s)
  | .pgmovDown w h k staddr => some (execPgmovDown w h k staddr s)
  | .feset w m lyd doff count1 => some (execFeset w m lyd doff count1 s)
  | .obcopy w h k nslot => some (execObcopy w h k nslot s)
  | _ => none

/-- A fetched copy step waits: it neither starts nor faults, and no sub-tile is missing (R297). -/
def State.copyWaits (s : State) (c : CoreId) (i : Instr) : Bool :=
  let s1 : State := { s with cur := { core := c, strand := .copy }, mach := { s.mach with misses := [] } }
  match s1.tryCopy i with
  | some (.next s2) => (s2.mach.cores[c].copy.fetched).isSome && s2.mach.misses.isEmpty
  | _ => false

/-- A fetched matrix step waits on its await, its ring slots or a queue (R190); a wait for the lease or for earlier steps is none. -/
def Core.matrixWaits (k : Core) (t : Strand) (i : Instr) (aw : BitVec 4) : Bool :=
  !k.awaitOk t aw || !k.slotsFilled i ||
  match i with
  | .fqrd .. => k.q[inQueue t].isEmpty
  | .mqwr .. | .mqwrSt .. => (k.eng t).flights.isEmpty && decide (8 ≤ k.q[outQueue t].length)
  | _ => false

/-- The await field of a matrix step word. -/
def matrixAwait (i : Instr) : BitVec 4 :=
  match arrayAwait? i with
  | some aw => aw
  | none =>
    match i with
    | .fset w _ _ => w.aw
    | .fqrd w _ => w.aw
    | .mthr w _ => w.aw
    | .scld w .. => w.aw
    | .acczero w .. => w.aw
    | .accst w .. => w.aw
    | .accld w .. => w.aw
    | .mqwr w _ => w.aw
    | .mqwrSt w => w.aw
    | .mrel w => w.aw
    | .msync w => w.aw
    | .mjmp w _ _ => w.aw
    | _ => 15

def strandOfRingNo (r : RingNo) : Strand := match r with | .matrixA => .matrixA | .matrixB => .matrixB | .copy => .copy

/-- The await field of a copy step word. -/
def copyAwait (i : Instr) : BitVec 4 :=
  match i with
  | .tmov w .. => w.aw
  | .tmov2d w .. => w.aw
  | .rrot w .. => w.aw
  | .gath w .. => w.aw
  | .scat w .. => w.aw
  | .rpush w .. => w.aw
  | .cfill w .. => w.aw
  | .crstr w .. => w.aw
  | .csync w .. => w.aw
  | .cqwr w .. => w.aw
  | .fwr w .. => w.aw
  | .frd w .. => w.aw
  | .fatom w .. => w.aw
  | .lbregBuffer w .. => w.aw
  | .lbregPort w .. => w.aw
  | .lbregClose w .. => w.aw
  | .lbregOpen w .. => w.aw
  | .lbregRedirect w .. => w.aw
  | .lbrelBuffer w .. => w.aw
  | .lbrelPort w .. => w.aw
  | .a2av w .. => w.aw
  | .rscat w .. => w.aw
  | .agath w .. => w.aw
  | .bcast w .. => w.aw
  | .pgmovUp w .. => w.aw
  | .pgmovDown w .. => w.aw
  | .feset w .. => w.aw
  | .obcopy w .. => w.aw
  | _ => 15

/-- `STEP_WAIT_EXPIRE` (R190, R297): a step that still waits at its budget, counted from its fetch, faults FE_EXPIRE; FBTMO bounds the checks that are
out. -/
def execStepWaitExpire (c : CoreId) (r : RingNo) (s : State) : Host.Outcome State Fault Refusal :=
  let m := s.mach
  let t := strandOfRingNo r
  let k := m.cores[c]
  match (k.eng t).fetched with
  | none => .next s
  | some f =>
    let aw := if t = .copy then copyAwait f.op else matrixAwait f.op
    let waits := if t = .copy then !k.awaitOk t aw || s.copyWaits c f.op else k.matrixWaits t f.op aw
    if k.fetches t && decide (f.at_ + f.budget ≤ m.scyc) && waits && !(t == .copy && m.asksOut c) then
      .next { s with mach := m.engFault c t aw (stepSource t f.op) f.words { cls := .feExpire, addr := 0 } }
    else .next s

/-! The lock gate (R426). -/

/-- The message of an atomic of a core's copy strand to this package that has not arrived. -/
def Mach.heldAtom (m : Mach) (c : CoreId) : Option FabEntry :=
  m.fab.net.find? fun e =>
    e.core == c && e.strand == .copy && e.live && !e.delivered && e.msg.dst == m.pkg && (match e.msg.body with | .atom .. => true | _ => false)

/-- `GATE_RELEASE` (R426): the current chunk names the strand of a held atomic, or the log has ended: it is performed. -/
def execGateRelease (c : CoreId) (t : Strand) (s : State) : Host.Outcome State Fault Refusal :=
  match t with
  | .control =>
    match s.mach.openWait c .control with
    | some w => if w.expiry == .replay then s.attempt c .control State.atomicForm else .next s
    | none => .next s
  | .copy =>
    match s.mach.heldAtom c with
    | some e => execFabricAtomicHome e.msg s
    | none => .next s
  | _ => .next s

/-- `REPLAY_HOLD_EXPIRE` (R426): a held atomic reaches its budget: REPLAY_DIV, as a trap or as the status of a `fatom`. -/
def execReplayHoldExpire (c : CoreId) (t : Strand) (s : State) : Host.Outcome State Fault Refusal :=
  let m := s.mach
  match t with
  | .control =>
    match m.openWait c .control with
    | some w =>
      if w.expired m.scyc && w.expiry == .replay then .next { s with mach := m.takeTrap c (m.cores[c].ctl.pc + BitVec.ofNat 18 w.words) w.trap }
      else .next s
    | none => .next s
  | .copy =>
    match m.heldAtom c with
    | some e =>
      if decide (e.start + e.budget ≤ m.scyc) && m.gateHolds c e.msg then
        .next { s with mach := ((m.failFlight e .replayDiv none).closeEntry e).answered e (Config.remoteArrived s.tick) }
      else .next s
    | none => .next s
  | _ => .next s

/-! Swap points (R100). -/

/-- `SWAP_POINT` (R100): a matrix or copy strand is between two step words whenever it moves; the vector strand is between two
instructions, and inside a loop body its swap point is `vlend`. -/
def execSwapPoint (c : CoreId) (e : Engine) (s : State) : Host.Outcome State Fault Refusal :=
  match e with
  | .vector => if (s.core c).vec.loop.act || (s.core c).vec.skip || (s.core c).vec.issued then .next s else .next (s.onCore c fun k => k.swapPoint .vector)
  | e => .next (s.onCore c fun k => k.swapPoint e)

end Sys2Proof.Machine
end

