-- ==== Sys2Proof/Machine/FerryEnd.lean ====
section
/-! DEFINITION. The end of tasks: shares, retirement, kills and completion; checkpoints, restores and re-admission (11 R323 to R328, 14 R408,
R420 to R424). -/

namespace Sys2Proof.Machine

/-! Shares and retirement (R323, R324). -/

/-- A command ring exists on a core: the RING entry of the task that runs there has a nonzero LSIZE (R323). -/
def Mach.ringExists (m : Mach) (c : CoreId) (t : Strand) : Bool :=
  match m.cores[c].task.bind fun id => m.ferry.tasks.find? (·.id == id) with
  | none => false
  | some x => ringLsize (x.recd.rings.getD (ringOf t) (0, 0)).1 != 0

/-- A command ring counts as drained: absent, or halted, or with its pointers equal; with no step started and uncompleted. -/
def Mach.ringDrained (m : Mach) (c : CoreId) (t : Strand) : Bool :=
  let k := m.cores[c]
  let r := k.rings[ringOf t]
  let e := k.eng t
  !m.ringExists c t || ((r.halt || (r.rp == r.wp && e.fetched.isNone)) && e.flights.isEmpty)

def ctlEnded (k : Core) : Bool := match k.ctl.status with | .ended _ => true | _ => false

/-- `CORE_SHARE_END` (R323): the control strand has ended and every command ring has drained. -/
def execCoreShareEnd (c : CoreId) (s : State) : Host.Outcome State Fault Refusal :=
  let k := s.core c
  let drained (t : Strand) : Bool := s.mach.ringDrained c t
  if k.task.isSome && ctlEnded k && drained .matrixA && drained .matrixB && drained .copy && k.forked.isEmpty then
    .next (s.onCore c fun k => { k with shareDone := true })
  else .next s

/-- What the end of a task's run leaves on its cores: their strands' stores are performed, nothing of theirs waits or is asked, their landing
buffers in near memory are released, and their domain is free (R277, R324, R328, R353). -/
def Mach.freeDomain (m : Mach) (cores : List CoreId) : Mach :=
  let mine (c : CoreId) : Bool := cores.contains c
  let m0 : Mach := { m with pend := m.pend.filter fun p => match p with | .load c .. => !mine c | _ => true }
  let m1 := cores.foldl (fun m c => ((m.flushAll c .control).flushAll c .vector).withdraw c .control |>.withdraw c .vector) m0
  let m2 : Mach := { m1 with
    remotes := m1.remotes.filter fun r => !mine r.core
    barriers := m1.barriers.filter fun b => !b.members.any mine
    fab := { m1.fab with bufs := m1.fab.bufs.filter fun b => !(mine b.core && ptrHandle b.ptr == 0) }
    attn := m1.attn.map fun (x : AttnDie) => { x with asks := x.asks.filter fun a => !mine a.core }
    samp := { m1.samp with units := m1.samp.units.map fun (x : Sampler) => { x with binds := x.binds.filter fun b => !mine b.core } } }
  cores.foldl (fun m c => m.onCore c fun k =>
    { k with task := none, dom := Vector.replicate 4 (0, 0, 0), stop := false, shareDone := false,
             lease := .free, leaseLast := true, rings := k.rings.map fun r => { r with run := false } }) m2

/-- A task retires (R324, R328, R408): its domain is free, and what it kept of the checkpoint pool. -/
def Mach.retire (m : Mach) (t : Task) (user : BitVec 8) (kind : BitVec 2) (cls : BitVec 4) : Mach :=
  (m.freeDomain t.cores).onTask t.id fun t => { t with state := .retired, user := user, kind := kind, cls := cls, cores := [], ckpt := none }

/-- The user code that a core's control strand ended with. -/
def Core.userCode (k : Core) : BitVec 8 := match k.ctl.status with | .ended u => u | _ => 0

def reportKind (r : BitVec 16) : BitVec 2 := (r >>> 6).setWidth 2

/-- The reports that a task's retirement on this package waits for: on PKG0 those of the other packages, elsewhere PKG0's own that it holds them all
(R324); a task that was sent away whole reports for every package. -/
def Mach.reportsDue (m : Mach) (t : Task) : Nat :=
  if m.local t then (if t.recd.pkg0 = m.pkg.toNat then t.recd.npkg - 1 else 1) else t.recd.npkg

/-- USER: the first nonzero user code in ascending DOM3.INDEX order, the reports' after this package's cores' (R324). -/
def Mach.userOf (m : Mach) (t : Task) (far : List (BitVec 16)) : BitVec 8 :=
  (((t.cores.map fun c => m.cores[c].userCode) ++ far.map fun (r : BitVec 16) => (r >>> 8).setWidth 8).find? (· != 0)).getD 0

/-- `TASK_RETIRE` (R324): every core's share on this package has ended, and the reports of the other packages, `far`, have come, each as the low half
of a STATUS word (R313). A report of an end by trap stops the task here too (14 R408). -/
def execTaskRetire (id : Nat) (far : List (BitVec 16)) (s : State) : Host.Outcome State Fault Refusal :=
  let m := s.mach
  match m.ferry.tasks.find? fun t => t.id == id && (t.state == .running || t.state == .draining || (t.state == .ready && !m.local t)) with
  | none => .next s
  | some t =>
    let here := m.local t
    if far.length ≠ m.reportsDue t then .next s
    else
      let bad := far.find? fun r => reportKind r != 0
      let done := t.cores.all fun c => m.cores[c].shareDone
      match bad with
      | some r =>
        if here ∧ !done then
          .next { s with mach := (m.requestStop t .killing).onTask id fun t => { t with kind := reportKind r, cls := r.setWidth 4 } }
        else .next { s with mach := m.retire t (m.userOf t far) (reportKind r) (r.setWidth 4) }
      | none =>
        if !done then .next s
        else .next { s with mach := m.retire t (m.userOf t far) 0 0 }

/-! Stopped strands (R328, 14 R420). -/

/-- No strand of a core runs, and nothing that it has forked is in flight. -/
def Mach.coreStopped (m : Mach) (c : CoreId) : Bool :=
  let k := m.cores[c]
  k.ctl.status != .running && k.vec.status != .running && k.mata.flights.isEmpty && k.matb.flights.isEmpty && k.copy.flights.isEmpty &&
  k.mata.fetched.isNone && k.matb.fetched.isNone && k.copy.fetched.isNone && k.forked.isEmpty &&
  !(m.remotes.any fun r => r.core == c) && k.vec.oq.all fun l => l.all fun i => match i with | .reserved .. => false | _ => true

/-- `TASK_KILL` (R328, 14 R408): once its strands have stopped and the other packages' reports have come, the task retires with KIND 10, or with KIND 01
where a trap ended it. -/
def execTaskKill (id : Nat) (s : State) : Host.Outcome State Fault Refusal :=
  let m := s.mach
  match m.ferry.tasks.find? fun t => t.id == id && t.state == .killing with
  | some t =>
    let far := (Config.remoteReports s.tick).take (m.reportsDue t)
    if t.cores.all m.coreStopped && far.length == m.reportsDue t then .next { s with mach := m.retire t (m.userOf t far) (if t.kind = 1 then 1 else 2) (if t.kind = 1 then t.cls else 0) }
    else .next s
  | none => .next s

/-- `TASK_COMPLETE` (R318, R325): a retired task without outstanding children, those launched by its cores on other packages among them, writes its
completion object; PKG0's ferrymaster does so, and its window entry is freed. -/
def execTaskComplete (id : Nat) (s : State) : Host.Outcome State Fault Refusal :=
  let m := s.mach
  let far := Config.remoteChildren s.tick
  match m.ferry.tasks.find? fun t => t.id == id && t.state == .retired && t.children == 0 && (t.recd.npkg == 1 || far == 0) with
  | none => .next s
  | some t =>
    let status := statusWord t.user t.kind t.cls
    match (if t.recd.pkg0 = m.pkg.toNat then m.writeCompletion t.ctx t.recd.compl status else .done m) with
    | .wait m1 => .next { s with mach := m1 }
    | .done m1 =>
      let m2 : Mach := { m1 with ferry := { m1.ferry with tasks := m1.ferry.tasks.filter fun t => t.id != id } }
      .next { s with mach := ((m2.childDone t.parent).fireChild id status).readyUp }

/-! Checkpoints (14 R420 to R423). -/

def slotBytes : Nat := 2490368

/-- The device address of a slot of a context's pool. -/
def poolSlot (x : Context) (n : Nat) : Nat := x.ckpool.toNat / 2 ^ 16 % 2 ^ 24 * 65536 + slotBytes * n

/-- Spans by rising base with a further one. -/
def spanInsert (x : Nat × Nat) : List (Nat × Nat) → List (Nat × Nat)
  | [] => [x]
  | y :: l => if x.1 ≤ y.1 then x :: y :: l else y :: spanInsert x l

/-- What spans of rising base cover from an address on, without overlap. -/
def spansFrom (top : Nat) : List (Nat × Nat) → List (Nat × Nat)
  | [] => []
  | (b, n) :: l =>
    let a := max b top
    if b + n ≤ a then spansFrom top l else (a, b + n - a) :: spansFrom (b + n) l

/-- The live spans of a core's SPM, by rising address: up to BP, and what the allocated rings cover beyond it (R420). -/
def Core.liveSpans (k : Core) : List (Nat × Nat) :=
  (0, k.bp) :: spansFrom k.bp ((k.rg.toList.filterMap fun r => r.map fun r => (r.base, r.ss * r.ns)).foldr spanInsert [])

/-- SPM of a core as it is saved: the live spans at their near addresses. -/
def Mach.saveSpm (m : Mach) (c : CoreId) : Mem :=
  m.cores[c].liveSpans.foldl (fun sl x => memPaste sl (memSlice m.mem (spmKey c x.1) x.2 x.1) x.1 x.2) { cells := [], empt := [], pois := [] }

/-- A tile as a checkpoint keeps it: one that is not live is saved as nothing (06 R188). -/
def AccTile.saved (t : AccTile) : AccTile := if t.live then t else .zero

/-- What a checkpoint saves of a core (R420): waits are abandoned, what an operand queue's load has brought has arrived, and the lease is not saved. -/
def Core.image (k : Core) : Core :=
  { k with
    acc := k.acc.map AccTile.saved, reread := none
    ctl := { k.ctl with wait := none }
    vec := { k.vec with wait := none, oq := k.vec.oq.map fun (l : List OqImage) => l.map fun i => match i with | .loaded r => .arrived r | i => i }
    smw := Vector.replicate 15 [], lease := .free, leaseLast := true, stop := false, shareDone := false, task := none
    dom := Vector.replicate 4 (0, 0, 0) }

/-- The phase number of a level at a core. -/
def Mach.phaseOf (m : Mach) (c : CoreId) (k : Fin 4) : W32 := (m.barrier c k).phase

/-- The 512-byte task header (R421) around its checksum. -/
def taskHeader (size first : Nat) (phases : List W32) (record : List Byte) : List Byte :=
  let a := leBytes 0x4B5A4348 4 ++ leBytes 1 2 ++ leBytes size 2 ++ leBytes first 4 ++ phases.flatMap fun p => leBytes p.toNat 4
  let b := List.replicate 228 0 ++ record
  a ++ leBytes (crc32c (a ++ b)).toNat 4 ++ b

/-- The 20 bytes of a range (R312). -/
def rangeBytes (r : TaskRange) : List Byte :=
  leBytes (b2n r.w * 2 ^ 31 + r.handle) 4 ++ leBytes r.lo0 4 ++ leBytes r.hi0 4 ++ leBytes r.lo1 4 ++ leBytes r.hi1 4

/-- The 256 bytes of a task record (R311). -/
def recordBytes (t : TaskRec) : List Byte :=
  leBytes t.image.toNat 8 ++ leBytes t.imglen 4 ++ leBytes t.centry 4 ++ leBytes t.ventry.toNat 4 ++
  ((t.rings.take 3).flatMap fun r => leBytes r.1.toNat 4 ++ leBytes r.2.toNat 4) ++ leBytes t.slimg 4 ++ leBytes t.size 2 ++ leBytes t.pkg0 2 ++
  leBytes t.npkg 2 ++ leBytes t.prio 1 ++ leBytes t.grant.toNat 1 ++ leBytes t.phint.toNat 1 ++ leBytes t.ranges.length 1 ++ leBytes 0 2 ++
  leBytes t.mbud 4 ++ leBytes t.remain 4 ++ leBytes t.clmsave 4 ++ leBytes t.compl.toNat 8 ++ leBytes t.arg0.toNat 8 ++ leBytes t.arg1.toNat 8 ++
  (t.ranges.flatMap rangeBytes) ++ List.replicate (20 * (8 - t.ranges.length)) 0

/-- Bits one per location, eight to a byte, of n locations from an address. -/
def locBits (f : Nat → Bool) (a n : Nat) : List Byte :=
  (List.range (n / 8)).map fun i => (List.range 8).foldl (fun (v : Byte) j => if f (a + 64 * i + 8 * j) then v ||| BitVec.ofNat 8 (2 ^ j) else v) 0

/-- A granule of CLM as a checkpoint stores it (R423): data, full/empty bits, poison marks. -/
def granuleBytes (m : Mem) (a : Nat) : List Byte := memBytes m a 65536 ++ locBits (memFull m) a 8192 ++ locBits (memPoisoned m) a 8192

/-- The granules of a context's CLM window that a task saves, of one cluster: storage address and count (R423). -/
def clmSpan (x : Context) (t : Task) (cl : Nat) : Nat × Nat := (clmKey cl (65536 * x.clmBase), min t.recd.clmsave x.clmSize)

/-! A core's image as the pool holds it (R420): a header, then the sections in their order. -/

def imageMagic : Nat := 0x4B5A4349

/-- The sizes of the register sections: control strand, per-core state, vector registers, operand queues, shape and layout sets, matrix strands. -/
def registerSections : List Nat := [2048, 1024, 151808, 73728, 6144, 512]
def registersSize : Nat := registerSections.sum
def scaleSize : Nat := 65536

/-- The header and the sections before ACC. -/
def fixedPart : Nat := 64 + registersSize + scaleSize

/-- Exactly n bytes of a list, zeros after its end. -/
def fitted (n : Nat) (bs : List Byte) : List Byte := (bs ++ List.replicate n 0).take n

def Core.registerBytes (k : Core) (phase : W32) : List Byte :=
  registerSections.zipIdx.flatMap fun x => fitted x.1 (Config.sectionBytes x.2 k phase)

def wordsBytes (ws : List W32) : List Byte := ws.flatMap fun w => leBytes w.toNat 4

/-- A live tile: its entries, then its row poison bits. -/
def AccTile.bytes (t : AccTile) : List Byte := wordsBytes t.vals.toList ++ leBytes t.pois.toNat 8

def Core.accBytes (k : Core) : List Byte :=
  leBytes ((List.range 64).foldl (fun v i => v + if (k.acc.toList.getD i .zero).live then 2 ^ i else 0) 0) 8 ++ (k.acc.toList.filter (·.live)).flatMap AccTile.bytes

/-- SPM's live bytes, then a full/empty bit for each location of them, then a poison bit for each. -/
def spmBytes (spans : List (Nat × Nat)) (spm : Mem) : List Byte :=
  (spans.flatMap fun x => memBytes spm x.1 x.2) ++ (spans.flatMap fun x => locBits (memFull spm) x.1 (x.2 / 8)) ++
  spans.flatMap fun x => locBits (memPoisoned spm) x.1 (x.2 / 8)

/-- The image of the core of a rank. The header's fields are words in the order given, and its CRC covers the sections (log 43). -/
def Core.imageBytes (k : Core) (spm : Mem) (phase : W32) (rank : Nat) : List Byte :=
  let sections := k.registerBytes phase ++ wordsBytes k.scale.toList ++ k.accBytes ++ spmBytes k.liveSpans spm
  fitted 64 (leBytes imageMagic 4 ++ leBytes rank 4 ++ leBytes (64 + sections.length) 4 ++ leBytes (crc32c sections).toNat 4) ++ sections

/-- The n little-endian words of a list of bytes. -/
def words32Of : Nat → List Byte → List W32
  | 0, _ => []
  | n + 1, bs => BitVec.ofNat 32 (leNat (bs.take 4)) :: words32Of n (bs.drop 4)

def tileOf (bs : List Byte) : AccTile :=
  let ws := (words32Of 4096 bs).toArray
  { live := true, pois := BitVec.ofNat 64 (leNat ((bs.drop 16384).take 8)), vals := Vector.ofFn fun i => ws.getD i.val 0 }

/-- The tiles of an ACC section, and how many bytes it takes. -/
def accOf (bs : List Byte) : Vector AccTile 64 × Nat :=
  let mask := leNat (bs.take 8)
  let place (i : Nat) : Nat := 8 + 16392 * ((List.range i).filter (bit mask)).length
  (Vector.ofFn fun i => if bit mask i.val then tileOf (bs.drop (place i.val)) else .zero, place 64)

/-- The addresses of the live locations, span after span. -/
def liveLocs (spans : List (Nat × Nat)) : List Nat := spans.flatMap fun x => (List.range (x.2 / 8)).map fun i => x.1 + 8 * i

/-- The locations of the live spans whose bit in a run of bits is b. -/
def locsWith (spans : List (Nat × Nat)) (bits : List Byte) (b : Bool) : List Nat :=
  let arr := bits.toArray
  ((liveLocs spans).zipIdx.filter fun x => (arr.getD (x.2 / 8) 0).getLsbD (x.2 % 8) == b).map (·.1)

/-- The live spans of a core's SPM from an image's last section. -/
def spmOf (spans : List (Nat × Nat)) (bs : List Byte) : Mem :=
  let n := (spans.map (·.2)).sum
  let sorted (l : List Nat) : List Nat := l.foldl locInsert []
  let data := (spans.foldl (fun (x : Mem × List Byte) y => (memSetBytes x.1 y.1 (x.2.take y.2), x.2.drop y.2)) ({ cells := [], empt := [], pois := [] }, bs)).1
  { data with empt := sorted (locsWith spans ((bs.drop n).take (n / 64)) false), pois := sorted (locsWith spans ((bs.drop (n + n / 64)).take (n / 64)) true) }

/-- What an image holds: the core, its SPM and the phase number of its DOM0; none where the header or the CRC is bad (R424), or the length is not that of
its contents. -/
def imageOfBytes (rank : Nat) (bs : List Byte) : Option (Core × Mem × W32) :=
  let f := byteField bs
  let len := f 8 4
  let sections := (bs.take len).drop 64
  if f 0 4 ≠ imageMagic ∨ f 4 4 ≠ rank ∨ len < fixedPart + 8 ∨ slotBytes < len ∨ f 12 4 ≠ (crc32c sections).toNat then none
  else
    (Config.sectionsRead (sections.take registersSize)).bind fun x =>
      let scale := (words32Of 16384 (sections.drop registersSize)).toArray
      let tail := sections.drop (registersSize + scaleSize)
      let acc := accOf tail
      let k : Core := { x.1 with scale := Vector.ofFn fun i => scale.getD i.val 0, acc := acc.1 }
      let n := (k.liveSpans.map (·.2)).sum
      if tail.length = acc.2 + n + n / 32 then some (k, spmOf k.liveSpans (tail.drop acc.2), x.2) else none

/-- The pool written: the task header, the cores' images and the CLM saves (R420, R421, R423). -/
def Mach.writePool (m : Mach) (x : Context) (t : Task) (first : Nat) (ck : Checkpoint) : Mach :=
  let header := taskHeader t.recd.size first (ck.phases.take 3) (recordBytes t.recd)
  let m1 : Mach := { m with mem := memSetBytes m.mem (poolSlot x (first - 1)) header }
  let m2 := ((ck.cores.zip ck.spm).zipIdx).foldl (fun (m : Mach) y =>
    { m with mem := memSetBytes m.mem (poolSlot x (first + y.2)) (y.1.1.imageBytes y.1.2 (ck.phases.getD (3 + y.2) 0) y.2) }) m1
  let per := (67584 * t.recd.clmsave + slotBytes - 1) / slotBytes
  ((clustersOf t.cores).zipIdx).foldl (fun (m : Mach) y =>
    let (a, n) := clmSpan x t y.1
    let bs := (List.range n).flatMap fun g => granuleBytes m.mem (a + 65536 * g)
    { m with mem := memSetBytes m.mem (poolSlot x (first + t.recd.size + per * y.2)) bs }) m2

/-- What a checkpoint saves of a task (R420, R423). -/
def Mach.snapshot (m : Mach) (x : Context) (t : Task) (first slots : Nat) : Checkpoint :=
  let c0 := t.cores.headD 0
  { first := first, slots := slots, cores := t.cores.map fun c => m.cores[c].image, spm := t.cores.map m.saveSpm,
    clm := (clustersOf t.cores).map fun cl => let (a, n) := clmSpan x t cl; memSlice m.mem a (65536 * n) 0,
    phases := [m.phaseOf c0 1, m.phaseOf c0 2, m.phaseOf c0 3] ++ t.cores.map fun c => m.phaseOf c 0 }

/-- `CHECKPOINT_SAVE` (R328, R420, R421): once the strands have stopped, the context is saved and the task is ready again. -/
def execCheckpointSave (id : Nat) (s : State) : Host.Outcome State Fault Refusal :=
  let m := s.mach
  match m.ferry.tasks.find? fun t => t.id == id && t.state == .stopping with
  | none => .next s
  | some t =>
    match t.ckpt, (m.ctxs[t.ctx]?).getD none with
    | some k, some x =>
      if !t.cores.all m.coreStopped then .next s
      else
        let m1 := t.cores.foldl (fun m c => (m.flushAll c .control).flushAll c .vector) m
        let ck := m1.snapshot x t k.first k.slots
        let m2 := (m1.writePool x t k.first ck).freeDomain t.cores
        .next { s with mach := m2.onTask id fun t =>
          { t with state := .ready, tokens := t.recd.prio, agedAt := m.scyc, cores := [], ckpt := some ck } }
    | _, _ => .next s

/-! Restores (R28, R420 to R423). -/

/-- A core with an image restored: its identity, its error counts and its context's registers are its own. -/
def Core.restore (old image : Core) (t : Task) (cx : Option Context) : Core :=
  let ctl := image.ctl.loadContext t.ctx cx
  { image with
    ctl := { ctl with status := (match ctl.status with | .stopped => .running | x => x), errCorr := old.ctl.errCorr, errUnc := old.ctl.errUnc }
    vec := { image.vec with status := (match image.vec.status with | .stopped => .running | x => x) }
    dom := old.dom, task := old.task, lcidCore := old.lcidCore, physCluster := old.physCluster, physCore := old.physCore }

/-- The live spans of a saved SPM written back, with bits and marks. -/
def Mach.restoreSpm (m : Mach) (c : CoreId) (image : Core) (spm : Mem) : Mach :=
  { m with mem := image.liveSpans.foldl (fun mem x => memPaste mem (memSlice spm x.1 x.2 (spmKey c x.1)) (spmKey c x.1) x.2) m.mem }

/-- A saved task's context written onto its new domain. -/
def Mach.restore (m : Mach) (t : Task) (ck : Checkpoint) (cores : List CoreId) (tick : Nat) : Mach :=
  let cx := (m.ctxs[t.ctx]?).getD none
  let d0 (c : CoreId) : W32 := ck.phases.getD (3 + cores.idxOf c) 0
  let m1 := m.formDomain t cores (Config.idStart tick) fun k c => if k = 0 then d0 c else ck.phases.getD (k.val - 1) 0
  let m2 := (cores.zip (ck.cores.zip ck.spm)).foldl (fun m x =>
    (m.restoreSpm x.1 x.2.1 x.2.2).onCore x.1 fun k => k.restore x.2.1 t cx) m1
  let m3 := ((clustersOf cores).zip ck.clm).foldl (fun (m : Mach) x =>
    match cx with
    | some y => let (a, n) := clmSpan y t x.1; { m with mem := memPaste m.mem (memSlice x.2 0 (65536 * n) a) a (65536 * n) }
    | none => m) m2
  let m4 : Mach := { m3 with ferry := { m3.ferry with nextDisp := m3.ferry.nextDisp + 1 } }
  m4.onTask t.id fun t => { t with state := .running, cores := cores, disp := m3.ferry.nextDisp, ckpt := none }

/-- `RESTORE` (R422): the highest-ranked ready task, when it has a checkpoint and a place. -/
def execRestore (s : State) : Host.Outcome State Fault Refusal :=
  match s.mach.placeTop s.tick with
  | some (t, cores) => match t.ckpt with | some ck => .next { s with mach := s.mach.restore t ck cores s.tick } | none => .next s
  | none => .next s

/-! Re-admission (R424). -/

/-- The header, record and images at a device address, where they are valid: the record, the slot of rank 0, and what a restore needs. -/
def Mach.readPool (m : Mach) (ctx p : Nat) : Option (TaskRec × Checkpoint) :=
  let bs := memBytes m.mem p 512
  let f := byteField bs
  let rec_ := bs.drop 256
  let t := parseTask rec_
  let n := f 6 2
  let first := f 8 4
  if hbmEnd < p + slotBytes ∨ f 0 4 ≠ 0x4B5A4348 ∨ f 4 2 ≠ 1 ∨ f 24 4 ≠ (crc32c (bs.take 24 ++ bs.drop 28)).toNat ∨
      (bs.drop 28 |>.take 228).any (· != 0) ∨ first = 0 ∨ n ≠ t.size ∨ badFields rec_ ∨ badGrant t.grant then none
  else
    match (List.range n).mapM fun i => imageOfBytes i (memBytes m.mem (p + slotBytes * (1 + i)) slotBytes) with
    | none => none
    | some l =>
      let per := (67584 * t.clmsave + slotBytes - 1) / slotBytes
      let clusters := (n + 7) / 8
      let window := match (m.ctxs[ctx]?).getD none with | some x => x.clmSize | none => 0
      let granule (a g : Nat) : Mem :=
        let b := a + 67584 * g
        let bitAt (at_ i : Nat) : Bool := (memByte m.mem (at_ + i / 8)).getLsbD (i % 8)
        { cells := (memSlice m.mem b 65536 (65536 * g)).cells
          empt := ((List.range 8192).filter fun i => !bitAt (b + 65536) i).map fun i => 65536 * g + 8 * i
          pois := ((List.range 8192).filter fun i => bitAt (b + 66560) i).map fun i => 65536 * g + 8 * i }
      let save (a : Nat) : Mem := (List.range (min t.clmsave window)).foldl (fun (x : Mem) g =>
        let y := granule a g
        { cells := x.cells ++ y.cells, empt := x.empt ++ y.empt, pois := x.pois ++ y.pois }) { cells := [], empt := [], pois := [] }
      some (t, { first := first, slots := 1 + n + clusters * per, cores := l.map (·.1), spm := l.map (·.2.1),
                 clm := (List.range clusters).map fun j => save (p + slotBytes * (1 + n + per * j)),
                 phases := [BitVec.ofNat 32 (f 12 4), BitVec.ofNat 32 (f 16 4), BitVec.ofNat 32 (f 20 4)] ++ l.map (·.2.2) })

/-- The clusters of the package that serve tasks (01 R29). -/
def Mach.enabledClusters (m : Mach) : Nat := ((List.range 16).filter fun i => !m.withdrawn.getLsbD i).length

/-- `CKRQCTL_GO` (R424): every check is made before anything changes; the first that fails is reported. -/
def execCkrqctlGo (v : W64) (s : State) : Host.Outcome State Fault Refusal :=
  let m := s.mach
  let q : Fin 64 := Fin.ofNat 64 (v.toNat % 64)
  let ctx := m.ferry.queues[q].ctx
  let answer (st : BitVec 8) (m : Mach) : Host.Outcome State Fault Refusal :=
    .next { s with mach := m, fw := { s.fw with ckrqQueue := q, ckrqStatus := st } }
  if !v.getLsbD 63 then .next { s with fw := { s.fw with ckrqQueue := q } }
  else
    match m.readPool ctx s.fw.ckrqptr.toNat with
    | none => answer 1 m
    | some (t, ck) =>
      if m.enabledClusters < (t.size + 7) / 8 then answer 2 m
      else if ((m.ctxs[ctx]?).getD none).isNone then answer 3 m
      else if 1024 ≤ m.ferry.tasks.length then answer 4 m
      else if 1 < t.npkg then answer 5 m
      else answer 0 (m.admitTask q.val ctx (m.freshTask (Config.idStart s.tick)) { t with pkg0 := m.pkg.toNat } none none (some ck))

end Sys2Proof.Machine
end

