-- ==== Sys2Proof/Machine/Sha.lean ====
section
/-! DEFINITION. SHA-256 of a list of bytes, which the boot ROM and the attestation use (13 R398, R400, R401). Its constants are computed from what
they stand for: the leading fraction bits of roots of the first primes. -/

namespace Sys2Proof.Machine

/-- The largest x below 2 ^ n with x ^ k at most v: one bit after another, the highest first. -/
def rootFloor (k v n : Nat) : Nat :=
  (List.range n).foldl (fun x i => let y := x + 2 ^ (n - 1 - i); if y ^ k ≤ v then y else x) 0

/-- The first 32 bits of the fraction of the k-th root of p. -/
def rootFraction (k p : Nat) : W32 := BitVec.ofNat 32 (rootFloor k (p * 2 ^ (32 * k)) 40)

/-- The primes below 312: there are 64. -/
def shaPrimes : List Nat :=
  (List.range 312).filter fun p => decide (2 ≤ p) && (List.range 18).all fun d => decide (d < 2) || decide (p ≤ d) || p % d != 0

/-- The exclusive or of a word's rotations. -/
def mixed (w : W32) (turns : List Nat) : W32 := turns.foldl (fun v r => v ^^^ w.rotateRight r) 0

/-- The schedule of a block: its words newest first, lengthened by n. -/
def shaExpand (n : Nat) (newest : List W32) : List W32 :=
  (List.range n).foldl (fun l _ =>
    let back (i : Nat) : W32 := l.getD (i - 1) 0
    let near := mixed (back 2) [17, 19] ^^^ back 2 >>> 10
    let far := mixed (back 15) [7, 18] ^^^ back 15 >>> 3
    (near + back 7 + far + back 16) :: l) newest

/-- The compression as two sequences, each newest first: every round lengthens both by one word, and the working words are the four newest of each. -/
structure ShaLanes where
  upper : List W32
  lower : List W32

/-- One round, with the sum of its constant and its schedule word. -/
def ShaLanes.round (x : ShaLanes) (kw : W32) : ShaLanes :=
  let u (i : Nat) : W32 := x.upper.getD i 0
  let v (i : Nat) : W32 := x.lower.getD i 0
  let chosen := v 2 ^^^ (v 0 &&& (v 1 ^^^ v 2))
  let most := (u 0 &&& (u 1 ||| u 2)) ||| (u 1 &&& u 2)
  let t := v 3 + kw + chosen + mixed (v 0) [6, 11, 25]
  { upper := (t + most + mixed (u 0) [2, 13, 22]) :: x.upper, lower := (u 3 + t) :: x.lower }

def beBytes (v n : Nat) : List Byte := (leBytes v n).reverse

/-- The big-endian words of a byte list, the last one first. -/
def beWordsBack (bs : List Byte) (n : Nat) : List W32 :=
  (List.range n).map fun i => BitVec.ofNat 32 (leNat ((bs.drop (4 * (n - 1 - i))).take 4).reverse)

/-- A block of 64 bytes absorbed into the eight chaining words. -/
def shaAbsorb (consts h : List W32) (block : List Byte) : List W32 :=
  let sums := consts.zipWith (· + ·) (shaExpand 48 (beWordsBack block 16)).reverse
  let x := sums.foldl ShaLanes.round { upper := h.take 4, lower := h.drop 4 }
  h.zipWith (· + ·) (x.upper.take 4 ++ x.lower.take 4)

/-- The 32 bytes of SHA-256. -/
def sha256 (bs : List Byte) : List Byte :=
  let gap := (119 - bs.length % 64) % 64
  let msg := bs ++ (0x80 :: List.replicate gap 0) ++ beBytes (8 * bs.length) 8
  let consts := shaPrimes.map (rootFraction 3)
  let out := (List.range (msg.length / 64)).foldl (fun h i => shaAbsorb consts h ((msg.drop (64 * i)).take 64)) ((shaPrimes.take 8).map (rootFraction 2))
  out.flatMap fun w => beBytes w.toNat 4

/-- 32 bytes as one value, the first byte lowest; a digest is held so. -/
def digest (bs : List Byte) : BitVec 256 := BitVec.ofNat 256 (leNat (bs.take 32))
def digestBytes (d : BitVec 256) : List Byte := leBytes d.toNat 32

end Sys2Proof.Machine
end

