-- ==== Sys2Proof/Machine/Snapshot.lean ====
section
/-! DEFINITION. What a snapshot latches, when, and where the window holds it (14 R428, R429). -/

namespace Sys2Proof.Machine

/-- The state byte of a strand that waits, or does not. -/
def waitByte (w : Option Wait) : Nat :=
  match w with
  | none => 0
  | some w => if !w.fe then 1 else if w.moored then 3 else 2

/-- The strand state bytes (R429). -/
def Core.stateBytes (k : Core) : List Nat :=
  let ctl := match k.ctl.status with
    | .ended _ => 5
    | .stopped => 4
    | .running => if k.ctl.sup then 6 else waitByte k.ctl.wait
  let vec := match k.vec.status with | .ended => 5 | .running => waitByte k.vec.wait | _ => 4
  let eng (t : Strand) : Nat := if !k.rings[ringOf t].run || k.stop then 4 else b2n (k.eng t).fetched.isSome
  [ctl, vec, eng .matrixA, eng .matrixB, eng .copy]

/-- The lease byte's fields (R429). -/
def Core.leaseByte (k : Core) : Nat × Nat :=
  match k.lease with
  | .free => (0, 0)
  | .arb _ _ => (1, 0)
  | .held b c => (if b then 3 else 2, c)

/-- What a snapshot latches of a core. -/
def Mach.snapCore (m : Mach) (c : CoreId) : SnapCore :=
  let k := m.cores[c]
  let cl := clusterFin c
  let x := m.samp.units[cl]
  { pcs := (k.ctl.pc, k.vec.pc), rings := k.rings.toList.map fun r => (r.rp, r.wp), strands := k.stateBytes, lease := k.leaseByte,
    sm := k.sm.toList, qstat := (m.sysRead c .qstat).setWidth 32, bytes := (List.finRange 4).map fun i => (m.barrier c i).bytes,
    flights := ((m.attn.toList.flatMap (·.ops)).countP (fun o => o.core == c),
                x.queue.countP (fun j => j.core == c) + b2n (x.run.any fun r => r.job.core == c), k.copy.flights.length) }

/-- The values that latch: those of the machine as it stands; a port's counts come from the link, which is outside the model. -/
def Mach.latch (m : Mach) (tick : Nat) (ring : Nat × Nat × W32 × BitVec 4 × Nat) : Snapshot :=
  let (at_, source, tag, cls, core) := ring
  { scyc := at_, source := source, tag := tag, cls := cls, core := core, cores := (List.finRange 128).map m.snapCore,
    occupancy := m.ferry.tasks.length,
    queues := (m.ferry.queues.toList.zipIdx.filter fun q => q.1.en).map fun q => (q.2, q.1.head, q.1.tail),
    running := (m.ferry.tasks.filter fun t => !t.cores.isEmpty).map (·.id),
    samplers := m.samp.units.toList.map fun x => (x.run.map (·.job.idx), (x.run.map (·.charge)).getD 0, x.queue.length),
    dies := m.attn.toList.map fun x => (x.ops.length, x.recs.flatMap fun r => r.draining.map (·.1))
    ports := (List.range 16).map (Config.portCounts tick) }

/-- The rings due before an s-cycle latch, one after another (R428). -/
def Mach.latchBefore (m : Mach) (tick t : Nat) : Mach :=
  { m with bell := { m.bell with
      rings := m.bell.rings.filter fun r => decide (t ≤ r.1)
      window := (m.bell.rings.filter fun r => decide (r.1 < t)).foldl (fun _ r => some (m.latch tick r)) m.bell.window } }

/-- The s-cycle counter goes on by n. A ring whose latch is due as the clock leaves the present s-cycle takes the state of that s-cycle, so that
every latch is exactly 32 s-cycles after its ring (R428). -/
def Mach.passClock (m : Mach) (tick n : Nat) : Mach := { m.latchBefore tick (m.scyc + n) with scyc := m.scyc + n }

/-- `SNAPSHOT_LATCH` (R428, R429): exactly 32 s-cycles after a ring. -/
def execSnapshotLatch (s : State) : Host.Outcome State Fault Refusal :=
  match s.mach.bell.rings with
  | r :: rest =>
    if r.1 = s.mach.scyc then .next (s.onMach fun m => { m with bell := { m.bell with rings := rest, window := some (m.latch s.tick r) } }) else .next s
  | [] => .next s

/-! The snapshot window (R429): the parts stand at their offsets, and the layout inside one is the implementation's. -/

/-- What a part of the window holds, by its offset from the first byte; the second half of a core's part is reserved. -/
def windowByte (w : Option Snapshot) (off : Nat) : Byte :=
  if off < 0x40 then Config.snapHead (w.map fun x => (x.scyc, x.source, x.tag, x.cls, x.core)) off
  else if off < 0x8040 then
    let j := (off - 0x40) % 256
    if 128 ≤ j then 0 else Config.snapCore (w.bind fun x => x.cores[(off - 0x40) / 256]?) j
  else if off < 0x8140 then Config.snapFerry (w.map fun x => (x.occupancy, x.queues, x.running)) (off - 0x8040)
  else if off < 0x8540 then Config.snapSampler (w.bind fun x => x.samplers[(off - 0x8140) / 64]?) ((off - 0x8140) % 64)
  else if off < 0x8740 then Config.snapDie (w.bind fun x => x.dies[(off - 0x8540) / 256]?) ((off - 0x8540) % 256)
  else if off < 0x8B40 then Config.snapPort (w.bind fun x => x.ports[(off - 0x8740) / 64]?) ((off - 0x8740) % 64)
  else 0

end Sys2Proof.Machine
end

