-- ==== Sys2Proof/Machine/HostPort.lean ====
section
/-! DEFINITION. The host port: BAR 4, the registers of BAR 0, boot, attestation, the bell and the snapshots (11 R315, 12 R344, R346, R347,
13 R396 to R402, 14 R424, R428, R429). -/

namespace Sys2Proof.Machine

/-- After a rejected image the device presents only the boot mailbox and BOOTCTL (R398). -/
def Fw.open_ (f : Fw) : Bool := f.boot != .rejected

/-! BAR 4 (R346, R347). The data rows stand at the storage's own addresses. -/

/-- A byte of a data row of the window, which is storage's own address; the CLM of a withdrawn cluster is none. -/
def Mach.bar4Data (m : Mach) (off : Nat) : Bool :=
  decide (off < clmKey 0 0) || (decide (off < clmKey 16 0) && !m.withdrawn.getLsbD ((off - clmKey 0 0) / 0x800000))

/-- The location whose full/empty byte stands at an offset. -/
def Mach.bar4Bit (m : Mach) (off : Nat) : Option Nat :=
  if 0x4000000000 ≤ off ∧ m.bar4Data (8 * (off - 0x4000000000)) then some (8 * (off - 0x4000000000)) else none

/-- Bytes written within one location: an aligned 8-byte write clears a poison mark, and a narrower one to a poisoned location is dropped. -/
def Mach.rawWrite (m : Mach) (a : Nat) (bs : List Byte) : Mach :=
  if memPoisoned m.mem (locOf a) ∧ bs.length < 8 then m
  else let m1 := m.unlogAt a; { m1 with mem := storeMem m1.mem a bs }

/-- A run of bytes by its locations: each with its first address and its bytes. -/
def byLocation (a : Nat) (bs : List Byte) : List (Nat × List Byte) :=
  (List.range (if bs.isEmpty then 0 else (a % 8 + bs.length + 7) / 8)).map fun i =>
    if i = 0 then (a, bs.take (8 - a % 8)) else (locOf a + 8 * i, (bs.drop (8 * i - a % 8)).take 8)

/-- A full/empty byte written (R347): the bit alone, in one write that wakes. -/
def Mach.bitByteWrite (m : Mach) (off : Nat) (v : Byte) : Mach :=
  match m.bar4Bit off with
  | some loc => if v = 1 then (m.unlogAt loc).setBit loc true else if v = 0 then (m.unlogAt loc).setBit loc false else m
  | none => m

/-- `HOST_BAR4_WRITE` (R347): location by location; writes outside the rows are dropped. -/
def execHostBar4Write (off : Nat) (data : List (BitVec 8)) (s : State) : Host.Outcome State Fault Refusal :=
  if !s.fw.open_ then .next s
  else
    .next (s.onMach fun m => (byLocation off data).foldl (fun m x =>
      if m.bar4Data x.1 then m.rawWrite x.1 x.2
      else x.2.zipIdx.foldl (fun m b => m.bitByteWrite (x.1 + b.2) b.1) m) m)

/-- A byte that a read of the window returns. -/
def Mach.bar4Byte (m : Mach) (off : Nat) : Byte :=
  if m.bar4Data off then memByte m.mem off
  else match m.bar4Bit off with | some loc => if memFull m.mem loc then 1 else 0 | none => 0

/-- `HOST_BAR4_READ` (R347): what the host reads, with its poison. -/
def execHostBar4Read (off n : Nat) (s : State) : Host.Outcome State Fault Refusal :=
  let m := s.mach
  let at_ := (List.range n).map fun i => off + i
  let r : ReadBack :=
    if s.fw.open_ then { bytes := at_.map m.bar4Byte, poisoned := at_.any fun a => m.bar4Data a && memPoisoned m.mem (locOf a) }
    else { bytes := List.replicate n 0, poisoned := false }
  .next { s with fw := { s.fw with hostRead := r } }

/-- `HOST_FE_BYTE_WRITE` (R347). -/
def execHostFeByteWrite (off : Nat) (v : BitVec 8) (s : State) : Host.Outcome State Fault Refusal :=
  if s.fw.open_ then .next (s.onMach fun m => m.bitByteWrite off v) else .next s

/-! Registers of BAR 0. -/

/-- The boot mailbox (R399): open while the state is 0 or 3. -/
def Fw.mailOpen (f : Fw) : Bool := f.boot == .waiting || f.boot == .rejected

/-- Bytes of the mailbox written from an offset. -/
def mailWrite : List Host.Cell → Nat → List Byte → List Host.Cell
  | l, _, [] => l
  | l, a, b :: r => mailWrite (cellsWrite l a b) (a + 1) r

def mailBytes (l : List Host.Cell) (a n : Nat) : List Byte := (List.range n).map fun i => cellsRead l (a + i)

/-- A word of NONCE replaced. -/
def setNonce (old : BitVec 256) (i : Nat) (v : W64) : BitVec 256 :=
  BitVec.ofNat 256 ((List.range 4).foldl (fun n j => n + (if j = i then v.toNat else old.toNat / 2 ^ (64 * j) % 2 ^ 64) * 2 ^ (64 * j)) 0)

/-- A 16-bit count with the bits cleared that a word holds ones in. -/
def clear16 (c : BitVec 16) (v : W64) (lo : Nat) : BitVec 16 := c &&& ~~~(BitVec.ofNat 16 (v.toNat / 2 ^ lo))

/-- `REGISTER_WRITE` (R7, R8): a write of 8 bytes to a register of BAR 0 without a row of its own, by the host or by firmware; FWGRANT, NONCE
and the boot mailbox are the host's. Read-only registers and every other offset ignore it. -/
def execRegisterWrite (off : Nat) (v : W64) (fw : Bool) (s : State) : Host.Outcome State Fault Refusal :=
  let onFw (f : Fw → Fw) : Host.Outcome State Fault Refusal := .next { s with fw := f s.fw }
  if 0x400000 ≤ off ∧ off < 0x800000 then
    if !fw ∧ s.fw.mailOpen ∧ off % 8 = 0 then onFw fun f => { f with mailbox := mailWrite f.mailbox (off - 0x400000) (leBytes v.toNat 8) } else .next s
  else if !s.fw.open_ then .next s
  else if 0x10000 ≤ off ∧ off < 0x10800 then
    if off % 32 = 0 then .next (s.onMach fun m => m.onQueue (Fin.ofNat 64 ((off - 0x10000) / 32)) fun x => if x.en then x else { x with base := v })
    else .next s
  else if 0x20000 ≤ off ∧ off < 0x20020 ∧ off % 8 = 0 then
    if fw then .next s else onFw fun f => { f with nonce := setNonce f.nonce ((off - 0x20000) / 8) v }
  else
    match off with
    | 0x10800 => .next (s.onMach fun m => { m with ferry := { m.ferry with fmdrain := v.setWidth 32 } })
    | 0x10810 => .next (s.onMach fun m => { m with fab := { m.fab with fbtmo := v.setWidth 32 } })
    | 0x10900 => if fw then .next s else onFw fun f => { f with fwgrant := v }
    | 0x10908 => onFw fun f =>
        { f with bvDma := clear16 f.bvDma v 0, bvPower := clear16 f.bvPower v 16, bvRoute := clear16 f.bvRoute v 32, bvData := clear16 f.bvData v 48 }
    | 0x10C00 => onFw fun f => { f with ckrqptr := v }
    | 0x10C08 => if v.getLsbD 63 then .next s else onFw fun f => { f with ckrqQueue := Fin.ofNat 64 (v.toNat % 64) }
    | 0x10C20 => onFw fun f =>
        { f with sepkgCorr := f.sepkgCorr &&& ~~~BitVec.ofNat 32 (v.toNat / 2 ^ 32), sepkgUnc := f.sepkgUnc &&& ~~~(v.setWidth 32) }
    | 0x10C30 => .next (s.onMach fun m => { m with bell := m.bell.write v })
    | _ => .next s

/-! Boot (R396, R398 to R400). -/

/-- The 288 bytes of the bound set as the host reads it (R396). -/
def BoundSet.bytes (b : BoundSet) : List Byte :=
  (b.hdma.toList.flatMap fun w => leBytes w.1.toNat 8 ++ leBytes w.2.toNat 8) ++ leBytes b.fwreg.toNat 8 ++ leBytes b.pcapmax.toNat 8 ++
  leBytes b.fspan.toNat 8 ++ leBytes (b2n b.lock) 8

/-- A measurement register extended, with its log entry (R400). -/
def Fw.extend (f : Fw) (i : Fin 8) (d : BitVec 256) (label : BitVec 128) : Fw :=
  { f with meas := f.meas.set i (digest (sha256 (digestBytes f.meas[i] ++ digestBytes d))), log := f.log ++ [{ reg := i, digest := d, label := label }] }

/-- `BOOTCTL_GO` (R399). -/
def execBootctlGo (v : W64) (s : State) : Host.Outcome State Fault Refusal :=
  if v.getLsbD 0 && s.fw.mailOpen then .next { s with fw := { s.fw with boot := .verifying, reason := 0 } } else .next s

/-- What is wrong with the image in the mailbox: REASON, or none (R398, R399). -/
def imageReason (mail : List Host.Cell) : Option (BitVec 8) :=
  let f (a : Nat) : Nat := leNat (mailBytes mail a 4)
  let len := f 8
  if f 0 ≠ 0x4B5A4657 ∨ len % 4 ≠ 0 ∨ len < 4 ∨ 4178016 < len ∨ f 12 ≠ 0 then some 1
  else
    let key := mailBytes mail 16 48
    if digest (sha256 key) ≠ Config.keyDigest then some 2
    else if !Config.slhVerify key (mailBytes mail 0 64 ++ mailBytes mail 16288 len) (mailBytes mail 64 16224) then some 3
    else if f 4 < Config.minVersion.toNat then some 4
    else none

/-- `FIRMWARE_VERIFY_DONE` (R398 to R400): the image is rejected, or measured with the bound set and run. -/
def execFirmwareVerifyDone (s : State) : Host.Outcome State Fault Refusal :=
  let f := s.fw
  if f.boot != .verifying then .next s
  else
    match imageReason f.mailbox with
    | some r => .next { s with fw := { f with boot := .rejected, reason := r } }
    | none =>
      let len := leNat (mailBytes f.mailbox 8 4)
      let f1 := f.extend 0 (digest (sha256 (mailBytes f.mailbox 0 (16288 + len)))) (Config.bootLabel false)
      .next { s with fw := { (f1.extend 1 (digest (sha256 f1.bounds.bytes)) (Config.bootLabel true)) with boot := .running } }

/-! Attestation (R401, R402). -/

/-- A log entry as it is laid out (R402). -/
def MeasEntry.bytes (e : MeasEntry) : List Byte :=
  leBytes e.reg.val 1 ++ List.replicate 15 0 ++ digestBytes e.digest ++ leBytes e.label.toNat 16

/-- The response to a nonce (R401, R402). -/
def Fw.response (f : Fw) (nonce : BitVec 256) : List Byte :=
  let meas := f.meas.toList.flatMap digestBytes
  let log := f.log.flatMap MeasEntry.bytes
  let cert := Config.certificate.take 65536
  let sig := Config.slhSign (sha256 (digestBytes nonce ++ meas ++ sha256 log))
  meas ++ digestBytes nonce ++ leBytes f.log.length 4 ++ leBytes cert.length 4 ++ (sig.take 16224 ++ List.replicate (16224 - sig.length) 0) ++ log ++ cert

/-- `ATTCTL_GO` (R402): ignored while BUSY. -/
def execAttctlGo (v : W64) (s : State) : Host.Outcome State Fault Refusal :=
  if v.getLsbD 0 && !s.fw.attBusy && s.fw.open_ then .next { s with fw := { s.fw with attBusy := true, nonceHeld := s.fw.nonce } } else .next s

/-- `ATTESTATION_RESPONSE` (R401, R402). -/
def execAttestationResponse (s : State) : Host.Outcome State Fault Refusal :=
  if s.fw.attBusy then
    let r := s.fw.response s.fw.nonceHeld
    .next { s with fw := { s.fw with attBusy := false, attResp := r, attLen := BitVec.ofNat 32 r.length } }
  else .next s

/-! The bell and the snapshots (R428, R429). -/

/-- `BELL_PIN` (R428). -/
def execBellPin (s : State) : Host.Outcome State Fault Refusal := .next (s.onMach fun m => m.ring 2 0 0 0)

/-- `BELL_MESSAGE` (R428): a message is never forwarded. -/
def execBellMessage (src : BitVec 12) (s : State) : Host.Outcome State Fault Refusal :=
  if src ≠ s.mach.pkg ∧ src.toNat < s.mach.group then .next (s.onMach fun m => m.ring 3 0 0 0) else .next s

/-! What the host reads in BAR 0 (R7, R8). -/

def bootCode (b : BootState) : Nat := match b with | .waiting => 0 | .verifying => 1 | .running => 2 | .rejected => 3

/-- The 8-byte word of a list of bytes at an offset; past its end it reads 0. -/
def wordAt (bs : List Byte) (off : Nat) : W64 := BitVec.ofNat 64 (byteField bs off 8)

/-- The word that the host reads at an offset of BAR 0, a multiple of 8. -/
def State.bar0Read (s : State) (off : Nat) : W64 :=
  let f := s.fw
  if off = 0x10E00 then word [(bootCode f.boot, 24), (f.reason.toNat, 16)]
  else if 0x400000 ≤ off ∧ off < 0x800000 then if f.mailOpen then wordAt (mailBytes f.mailbox (off - 0x400000) 8) 0 else 0
  else if !f.open_ then 0
  else if 0x10000 ≤ off ∧ off < 0x10800 then
    let q := s.mach.ferry.queues[Fin.ofNat 64 ((off - 0x10000) / 32)]
    match off % 32 with
    | 0 => q.base
    | 8 => word [(b2n q.en, 31), (b2n q.src, 30), (q.ctx, 16), (q.lsize, 8), (q.fault.toNat, 0)]
    | 16 => q.tail.setWidth 64
    | _ => q.head.setWidth 64
  else if 0x10A00 ≤ off ∧ off < 0x10B20 then wordAt f.bounds.bytes (off - 0x10A00)
  else if 0x20000 ≤ off ∧ off < 0x20020 then wordAt (digestBytes f.nonce) (off - 0x20000)
  else if 0x80000 ≤ off ∧ off < 0x100000 then wordAt f.attResp (off - 0x80000)
  else if 0x100000 ≤ off ∧ off < 0x108B40 then
    wordAt ((List.range 8).map fun i => windowByte s.mach.bell.window (off - 0x100000 + i)) 0
  else
    match off with
    | 0x10800 => s.mach.ferry.fmdrain.setWidth 64
    | 0x10810 => s.mach.fab.fbtmo.setWidth 64
    | 0x10900 => f.fwgrant
    | 0x10908 => word [(f.bvData.toNat, 48), (f.bvRoute.toNat, 32), (f.bvPower.toNat, 16), (f.bvDma.toNat, 0)]
    | 0x10C00 => f.ckrqptr
    | 0x10C08 => word [(f.ckrqStatus.toNat, 48), (f.ckrqQueue.val, 0)]
    | 0x10C20 => word [(f.sepkgCorr.toNat, 32), (f.sepkgUnc.toNat, 0)]
    | 0x10C30 => s.mach.bell.config
    | 0x20020 => word [(f.attLen.toNat, 32), (b2n f.attBusy, 1)]
    | _ => 0

/-- A byte that the host reads in BAR 2, the capability list (01 R37, R345); past the list it reads 0. -/
def State.bar2Byte (s : State) (off : Nat) : Byte := if s.fw.open_ && decide (off < 4096) then capByte s.mach off else 0

/-- The word that the host reads at an offset of BAR 2. -/
def State.bar2Read (s : State) (off : Nat) : W64 := wordAt ((List.range 8).map fun i => s.bar2Byte (off + i)) 0

end Sys2Proof.Machine
end

