-- ==== Sys2Proof/Machine/Firmware.lean ====
section
/-! DEFINITION. Firmware within its bound set, contexts, clocks, the thermal trip, cold reset and fabric bring-up (01 R16 to R18, R29, R30,
13 R376, R381, R396 to R400). -/

namespace Sys2Proof.Machine

/-- Firmware runs on the management core (R398). -/
def Fw.runs (f : Fw) : Bool := f.boot == .running

def count16 (c : BitVec 16) : BitVec 16 := if c = 0xFFFF then c else c + 1

/-- `MEASUREMENT_EXTEND` (R400, R402): firmware extends MEAS2 to MEAS7 only, and the log holds at most 1,024 entries. -/
def execMeasurementExtend (i : Fin 8) (d : BitVec 256) (label : BitVec 128) (s : State) : Host.Outcome State Fault Refusal :=
  if s.fw.runs && decide (2 ≤ i.val) && decide (s.fw.log.length < 1024) then .next { s with fw := s.fw.extend i d label } else .next s

/-- The lowest power cap that firmware sets, in watts (01 R16). -/
def leastCap : Nat := 1200

/-- `POWER_CAP_WRITE` (R397, 01 R16): a cap above PCAPMAX becomes PCAPMAX and is counted; a cap below 1,200 W is not set. -/
def execPowerCapWrite (w : BitVec 16) (s : State) : Host.Outcome State Fault Refusal :=
  let f := s.fw
  let top := f.bounds.pcapmax.toNat % 65536
  if !f.runs ∨ w.toNat < leastCap then .next s
  else if top < w.toNat then .next { s with fw := { f with pcap := top, bvPower := count16 f.bvPower } }
  else .next { s with fw := { f with pcap := w.toNat } }

/-- `ROUTE_WRITE` (R397): a route outside FSPAN is ignored and counted. -/
def execRouteWrite (dst : BitVec 12) (port : Fin 16) (s : State) : Host.Outcome State Fault Refusal :=
  let f := s.fw
  let span := f.bounds.fspan.toNat
  if !f.runs then .next s
  else if dst.toNat < bits span 11 0 ∨ bits span 23 12 < dst.toNat ∨ !bit span (24 + port.val) then
    .next { s with fw := { f with bvRoute := count16 f.bvRoute } }
  else .next { s with fw := { f with routes := (f.routes.filter fun r => r.1 != dst) ++ [(dst, port)] } }

/-- A host address run lies in one HDMA window. -/
def BoundSet.dmaOk (b : BoundSet) (addr n : Nat) : Bool := b.hdma.toList.any fun w => decide (w.1.toNat ≤ addr) && decide (addr + n ≤ w.2.toNat)

/-- `FIRMWARE_DMA` (R397): a read outside the windows returns zeros, a write is dropped, and each is counted. -/
def execFirmwareDma (write : Bool) (addr n : Nat) (data : List (BitVec 8)) (s : State) : Host.Outcome State Fault Refusal :=
  let f := s.fw
  let len := if write then data.length else n
  if !f.runs then .next s
  else if !f.bounds.dmaOk addr len then
    .next { s with fw := { f with bvDma := count16 f.bvDma, fwRead := if write then f.fwRead else { bytes := List.replicate n 0, poisoned := false } } }
  else if write then .next (s.onMach fun m => { m with mem := memSetBytes m.mem (hostKey addr) data })
  else .next { s with fw := { f with fwRead := { bytes := memBytes s.mach.mem (hostKey addr) n, poisoned := false } } }

/-- Where a management-core access to CD HBM goes (R397): in FWREG, or through the object table of a context that grants it. -/
inductive FwPlace where
  | at_ (key : Nat)
  | refused
  | wait (m : Mach)

def State.fwPlace (s : State) (acc : HbmAccess) (len : Nat) (write : Bool) : FwPlace :=
  match acc with
  | .direct a =>
    let r := s.fw.bounds.fwreg.toNat
    if bits r 39 16 * 65536 ≤ a ∧ a + len ≤ (bits r 39 16 + bits r 63 40) * 65536 ∧ a + len ≤ hbmEnd then .at_ a else .refused
  | .object ctx p =>
    if !s.fw.fwgrant.getLsbD ctx.val ∨ ptrHandle p = 0 ∨ ptrHandle p = physHandle ∨ !(len = 1 ∨ len = 2 ∨ len = 4 ∨ len = 8) then .refused
    else if ptrOff p % len ≠ 0 then .refused
    else
      match place s.mach (agent ctx.val) p len (if write then .write else .read) with
      | .ok (.store key _ _) => .at_ key
      | .error (.miss c h k) => .wait (s.mach.agentMiss c h k)
      | .error .held => .wait s.mach
      | _ => .refused

/-- `FIRMWARE_HBM_ACCESS` (R397): a refused read returns zeros, a refused write is dropped, and each is counted. -/
def execFirmwareHbmAccess (write : Bool) (acc : HbmAccess) (n : Nat) (data : List (BitVec 8)) (s : State) : Host.Outcome State Fault Refusal :=
  let f := s.fw
  let len := if write then data.length else n
  if !f.runs then .next s
  else
    match s.fwPlace acc len write with
    | .wait m => .next { s with mach := m }
    | .refused =>
      .next { s with fw := { f with bvData := count16 f.bvData, fwRead := if write then f.fwRead else { bytes := List.replicate n 0, poisoned := false } } }
    | .at_ key =>
      if write then .next (s.onMach fun m => (byLocation key data).foldl (fun m x => m.rawWrite x.1 x.2) m)
      else .next { s with fw := { f with fwRead := { bytes := memBytes s.mach.mem key n, poisoned := (List.range n).any fun i => memPoisoned s.mach.mem (locOf (key + i)) } } }

/-! Contexts (R376, R381). -/

/-- Two windows share a granule. -/
def overlaps (b1 n1 b2 n2 : Nat) : Bool := decide (max b1 b2 < min (b1 + n1) (b2 + n2))

/-- A context that firmware may create: its table, windows and list are where they may be, and its windows overlap no live context's. -/
def Mach.contextOk (m : Mach) (x : ContextCfg) : Bool :=
  x.otbase % 4096 == 0 && decide (2 ≤ x.otlen) && decide (x.otlen ≤ 2 ^ 24) && decide (x.otbase + 128 * x.otlen ≤ hbmEnd) &&
  decide (x.dsmBase + x.dsmSize ≤ 1024) && decide (x.clmBase + x.clmSize ≤ 128) && x.mlbase % 65536 == 0 && decide (640 ≤ x.pool) &&
  decide (x.pool ≤ 63488) && decide (x.mlbase + 32768 + 16 * x.pool ≤ hbmEnd) &&
  m.ctxs.toList.all fun c =>
    match c with
    | none => true
    | some y => !overlaps x.dsmBase x.dsmSize y.dsmBase y.dsmSize && !overlaps x.clmBase x.clmSize y.clmBase y.clmSize

/-- `CONTEXT_CREATE` (R376, R381): firmware refuses overlapping windows. The low half-word of CKPOOL is reserved and reads 0 (14 R420). -/
def execContextCreate (ctx : Fin 64) (cfg : ContextCfg) (s : State) : Host.Outcome State Fault Refusal :=
  let m := s.mach
  if s.fw.runs && m.ctxs[ctx].isNone && m.contextOk cfg then
    let x : Context := { otbase := cfg.otbase, otlen := cfg.otlen, dsmBase := cfg.dsmBase, dsmSize := cfg.dsmSize, clmBase := cfg.clmBase,
                         clmSize := cfg.clmSize, mlbase := cfg.mlbase, pool := cfg.pool, stvec := cfg.stvec, trefl := cfg.trefl, ckpool := (cfg.ckpool >>> 16) <<< 16 }
    .next { s with mach := { m with ctxs := m.ctxs.set ctx (some x), mem := x.emptyList m.mem } }
  else .next s

/-- A destroyed context's windows read 0 and full (R381). -/
def Mach.clearWindows (m : Mach) (x : Context) : Mach :=
  let dsm := memZero m.mem (dsmKey (65536 * x.dsmBase)) (65536 * x.dsmSize)
  let mem := (List.range 16).foldl (fun mem cl => memZero mem (clmKey cl (65536 * x.clmBase)) (65536 * x.clmSize)) dsm
  { m with mem := mem }

/-- `CONTEXT_DESTROY` (R376, R381, R353): no task of the context is left; what the package keeps for the context ends. -/
def execContextDestroy (ctx : Fin 64) (s : State) : Host.Outcome State Fault Refusal :=
  let m := s.mach
  match m.ctxs[ctx] with
  | none => .next s
  | some x =>
    if !s.fw.runs || m.ferry.tasks.any (fun t => t.ctx == ctx.val) then .next s
    else
      let m1 := m.clearWindows x
      let keep (y : Cached) : Bool := y.ctx != ctx.val
      let fab := { m1.fab with bufs := m1.fab.bufs.filter (fun b => b.ctx != ctx.val), ports := m1.fab.ports.filter (fun p => p.ctx != ctx.val),
                                adds := m1.fab.adds.filter (fun a => a.use.ctx != ctx.val) }
      .next { s with mach := { m1 with ctxs := m1.ctxs.set ctx none, mcache := m1.mcache.filter keep, misses := m1.misses.filter (fun y => y.ctx != ctx.val),
                                       moorings := m1.moorings.filter (fun y => y.ctx != ctx.val), replays := m1.replays.set ctx .off, fab := fab } }

/-! Clocks, trip and reset (01 R16 to R18, R29, R30). -/

/-- `THROTTLE_DOWN` (R17): one step of 50 MHz, to no less than 350 MHz; the sequencer clock is always twice the arithmetic clock. -/
def execThrottleDown (s : State) : Host.Outcome State Fault Refusal :=
  .next { s with fw := { s.fw with aclk := if 400 ≤ s.fw.aclk then s.fw.aclk - 50 else s.fw.aclk } }

/-- `THROTTLE_UP` (R17): one step back, to the nominal 700 MHz. -/
def execThrottleUp (s : State) : Host.Outcome State Fault Refusal :=
  .next { s with fw := { s.fw with aclk := if s.fw.aclk ≤ 650 then s.fw.aclk + 50 else s.fw.aclk } }

/-- `THERMAL_TRIP` (R18): all clocks stop; the host port reports the device as down. -/
def execThermalTrip (s : State) : Host.Outcome State Fault Refusal := .next { s with fw := { s.fw with down := true } }

/-- `COLD_RESET` (R29, R396, R398): every state takes its reset value, the clusters that have fewer than 8 working cores are withdrawn, and the
boot ROM waits for an image. -/
def execColdReset (faulty : BitVec 16) (s : State) : Host.Outcome State Fault Refusal :=
  .next { s with mach := { Mach.reset with withdrawn := faulty }, fw := Fw.reset s.tick }

/-- `FABRIC_BRING_UP` (R30): firmware numbers the package in its fabric group and enables its ports. -/
def execFabricBringUp (pkg : BitVec 12) (group : Nat) (ports : BitVec 16) (s : State) : Host.Outcome State Fault Refusal :=
  if s.fw.runs && decide (pkg.toNat < group) && decide (group ≤ 4096) then
    .next (s.onMach fun m => { m with pkg := pkg, group := group, ports := ports })
  else .next s

end Sys2Proof.Machine
end

