-- ==== Sys2Proof/Machine/Query.lean ====
section
/-! DEFINITION. The query and the probe (13 R393 to R395). -/

namespace Sys2Proof.Machine

/-- The record a query reads, when the handle names a valid one (R394). -/
def Mach.queryRec (m : Mach) (site : CacheSite) (ctx h : Nat) : Option ObjRec :=
  (objRec? m site ctx h).bind fun r => if r.invalid m.group then none else some r

/-- A field of a record by selector (R394). -/
def ObjRec.queryField (r : ObjRec) (sel : Nat) : W64 :=
  if sel = 0 then BitVec.ofNat 64 r.attr
  else if sel ≤ 4 then BitVec.ofNat 64 (r.ext.getD (sel - 1) 0)
  else if sel ≤ 8 then BitVec.ofInt 64 (r.strideAt (sel - 5))
  else if sel = 9 then BitVec.ofNat 64 (r.ste.getD 0 0 + r.ste.getD 1 0 * 2 ^ 8 + r.ste.getD 2 0 * 2 ^ 16 + r.ste.getD 3 0 * 2 ^ 24)
  else if sel = 10 then r.ver.setWidth 64
  else if sel = 11 then BitVec.ofNat 64 r.home
  else BitVec.ofNat 64 r.rmap

/-- `obqry` (R394). -/
def execObqry (d : Dst) (a b : Src) (s : State) : Host.Outcome State Fault Refusal :=
  let c := s.cur.core
  let words := 1 + litWords [a, b]
  s.control words fun m =>
    orTrap (s.ctl.clean? [a, b]) fun _ =>
      let h := (s.ctl.src a).val.toNat
      let sel := (s.ctl.src b).val.toNat
      if 13 ≤ sel % 16 then .trap illegalTrap
      else if sel % 16 = 12 ∧ !s.ctl.sup then .trap privTrap
      else if 2 ^ 24 ≤ h ∨ 16 ≤ sel then .trap { cls := .shape, addr := 0 }
      else
        match m.queryRec (some (clusterFin c)) s.ctl.ctxid h with
        | none => (m.onCtl c fun k => (k.write d (clean 0)).setK 0 false).advance c words
        | some r => (m.onCtl c fun k => (k.write d (clean (r.queryField sel))).setK 0 true).advance c words

/-- The sub-tile and the remoteness a probe reports (R395). -/
def Mach.probeWhere (m : Mach) (site : CacheSite) (ctx : Nat) (p : W64) : Nat × Bool :=
  if ptrHandle p = 0 ∨ ptrHandle p = physHandle then (0, false)
  else
    match m.queryRec site ctx (ptrHandle p) with
    | none => (0, false)
    | some r =>
      if r.home ≠ m.pkg.toNat then (0, true)
      else if r.esize * r.elems ≤ ptrOff p then (0, false)
      else ((r.locate (ptrOff p)).1, false)

/-- The kinds of access a probe asks about (R395). -/
def probeKind (v : Nat) : Option Kind :=
  match v with
  | 0 => some .read
  | 1 => some .write
  | 2 => some .atomic
  | 3 => some .consume
  | 4 => some .fill
  | 5 => some .exec
  | _ => none

/-- `obprobe` (R395): it raises no miss and sends no message; a held translation proceeds later. -/
def execObprobe (d : Dst) (a b : Src) (s : State) : Host.Outcome State Fault Refusal :=
  let c := s.cur.core
  let words := 1 + litWords [a, b]
  s.control words fun m =>
    orTrap (s.ctl.clean? [a, b]) fun _ =>
      let p := (s.ctl.src a).val
      let sel := (s.ctl.src b).val.toNat
      match probeKind (sel / 16), sel % 16 / 4 with
      | some kind, 0 =>
        let (k, remote) := m.probeWhere (some (clusterFin c)) s.ctl.ctxid p
        let (cls, full) : Nat × Bool :=
          match checked { m.seen c .control with holds := [] } (m.asker c) p (2 ^ (sel % 4)) kind with
          | .ok (.store key _ _) => (0, memFull m.mem (locOf key))
          | .ok (.cap _) => (0, true)
          | .ok (.remote _ _) => (0, false)
          | .error (.fault t) => (t.cls.code.toNat, false)
          | .error (.miss _ _ _) => (4, false)
          | .error .held => (0, false)
        let v := BitVec.ofNat 64 (k * 2 ^ 32 + b2n remote * 2 ^ 9 + b2n full * 2 ^ 8 + cls)
        (m.onCtl c fun t => (t.write d (clean v)).setK 0 (cls == 0)).advance c words
      | _, _ => .trap { cls := .shape, addr := 0 }

end Sys2Proof.Machine
end

