-- ==== Sys2Proof/Machine/Recovery.lean ====
section
/-! DEFINITION. `trap`, `rets`, `snap` and `rpctl` (14 R412, R413, R425, R428). -/

namespace Sys2Proof.Machine

/-- `trap`: BREAK precisely at itself, with fault address A (R413). -/
def execTrap (a : Src) (s : State) : Host.Outcome State Fault Refusal :=
  s.control (1 + litWords [a]) fun _ =>
    orTrap (s.ctl.clean? [a]) fun _ => .trap { cls := .brk, addr := (s.ctl.src a).val }

/-- `rets` in all its modes (R413): PRIV at U; a bad mode traps SHAPE at S, which ends the task. -/
def State.rets (s : State) (a : Src) : Host.Outcome State Fault Refusal :=
  let c := s.cur.core
  s.control (1 + litWords [a]) fun m =>
    if !s.ctl.sup then .trap privTrap
    else
      orTrap (s.ctl.clean? [a]) fun _ =>
        match (s.ctl.src a).val.toNat with
        | 0 => .done (m.onCtl c fun k => { k.returnS false with wait := none })
        | 1 => .done (m.onCtl c fun k => { k.returnS true with wait := none })
        | 2 => .done (m.endByTrap c s.ctl.causeClass)
        | _ => .trap shapeTrap

/-- `rets` as a return (R413). -/
def execRetsReturn (a : Src) (s : State) : Host.Outcome State Fault Refusal := s.rets a
/-- `rets` as the end of the task (R413). -/
def execRetsEnd (a : Src) (s : State) : Host.Outcome State Fault Refusal := s.rets a

/-- `snap` (R413). -/
def execSnap (a : Src) (s : State) : Host.Outcome State Fault Refusal :=
  let c := s.cur.core
  let words := 1 + litWords [a]
  s.control words fun m =>
    orTrap (s.ctl.clean? [a]) fun _ =>
      let v := (s.ctl.src a).val
      if 2 ^ 32 ≤ v.toNat then .trap shapeTrap
      else
        let rings := m.bell.arm && m.bell.srcSnap
        let m1 := m.ring 0 (v.setWidth 32) 0 0
        let m2 := if rings then { m1 with bell := { m1.bell with tag := v.setWidth 32 } } else m1
        (m2.onCtl c fun k => k.setK 0 rings).advance c words

/-! `rpctl` (R425). -/

/-- The mode a configuration block names, checked: LOG and the watched objects have their home on this package (R425). -/
def Mach.replayConfig (m : Mach) (ctx : Nat) (img : Nat) : Except Trap Replay :=
  let shape : Except Trap Replay := .error { cls := .shape, addr := 0 }
  let log : W64 := BitVec.ofNat 64 (img % 2 ^ 64)
  let f (k : Nat) : Nat := img / 256 ^ k % 2 ^ 32
  let mode := f 12
  let nw := f 16
  let ws := [f 20, f 24, f 28, f 32]
  let local_ (h : Nat) : Option ObjRec :=
    match objRec? m none ctx h with
    | some r => if r.invalid m.group ∨ r.home ≠ m.pkg.toNat then none else some r
    | none => none
  if mode ≠ 1 ∧ mode ≠ 2 then shape
  else if nw = 0 ∨ 4 < nw ∨ (ws.take nw).any (fun w => decide (2 ^ 24 ≤ w)) ∨ (ws.drop nw).any (fun w => w != 0) ∨ img / 256 ^ 36 ≠ 0 then shape
  else if log.toNat % 4 ≠ 0 then .error { cls := .align, addr := log }
  else
    match local_ (ptrHandle log) with
    | none => .error { cls := .perm, addr := log }
    | some r =>
      if !permOk r.attr (if mode = 1 then .write else .read) then .error { cls := .perm, addr := log }
      else if (ws.take nw).any (fun w => (local_ w).isNone) then .error { cls := .perm, addr := 0 }
      else .ok { Replay.off with log := log, loglen := f 8, mode := mode, watched := ws.take nw }

/-- The mode starts: the hashes of the control and vector strands of every core of the context take their first value, and a
replay finds its first chunk. -/
def Mach.startMode (m : Mach) (ctx : Nat) (r : Replay) : Mach :=
  let r1 := if r.mode = 2 then m.replayNext ctx r (r.loglen + 1) else r
  { m with replays := m.replays.setIfInBounds ctx r1,
           cores := m.cores.map fun k => if k.ctl.ctxid = ctx then { k with rhCtl := hashStart, rhVec := hashStart } else k }

/-- `rpctl` in all its operations (R425). -/
def State.rpctl (s : State) (d : Dst) (a b : Src) : Host.Outcome State Fault Refusal :=
  let c := s.cur.core
  let words := 1 + litWords [a, b]
  let ctx := s.ctl.ctxid
  s.control words fun m =>
    let sel := (s.ctl.src b).val.toNat
    let op := sel % 16
    let strand := sel / 16 % 8
    let p := (s.ctl.src a).val
    let r := m.replays.toList.getD ctx .off
    let rh := if strand = 0 then m.cores[c].rhCtl else m.cores[c].rhVec
    let finish (m : Mach) (v : W64) : Run := (m.onCtl c fun k => k.write d (clean v)).advance c words
    if (s.ctl.src b).tag = 0 ∧ (op = 3 ∨ op = 4) ∧ !s.ctl.sup then .trap privTrap
    else
      orTrap (s.ctl.clean? [a, b]) fun _ =>
        if 2 ^ 7 ≤ sel ∨ 1 < strand ∨ 5 ≤ op then .trap shapeTrap
        else
          match op with
          | 0 => finish m r.status
          | 1 =>
            if r.mode = 0 then .trap shapeTrap
            else if r.mode = 1 then
              match checked (m.seen c .control) (m.asker c) p 8 .write with
              | .ok (.store key mt use) => finish (m.issueStore c .control key (leBytes rh.toNat 8) 0 .none mt use) rh
              | .ok (.remote home mt) =>
                (match m.askRemote c .control 0 home mt p 0 .store false (.store (wholeBytes (leBytes rh.toNat 8))) with
                 | (m1, none) => .stay m1
                 | (m1, some x) => (remoteGot m1 p x).run p fun m2 _ => finish m2 rh)
              | .ok (.cap _) => .trap { cls := .perm, addr := p }
              | .error e => (e.got m).run p fun m1 _ => finish m1 rh
            else
              (m.ctlLoad c p 8 0).run p fun m1 v => if BitVec.ofNat 64 v = rh then finish m1 rh else .trap { cls := .replayDiv, addr := p }
          | 2 => finish m rh
          | 3 =>
            if r.mode ≠ 0 then .trap shapeTrap
            else if p.toNat % 64 ≠ 0 then .trap { cls := .align, addr := p }
            else if 0x100000 < p.toNat + 64 then .trap { cls := .perm, addr := p }
            else
              (m.ctlImage c p 64).run p fun m1 img => orTrap (m1.replayConfig ctx img) fun r1 => (m1.startMode ctx r1).advance c words
          | _ => finish { m with replays := m.replays.setIfInBounds ctx { r with mode := 0 } } r.status

/-- `rpctl` RDST (R425). -/
def execRpctlRdst (d : Dst) (a b : Src) (s : State) : Host.Outcome State Fault Refusal := s.rpctl d a b
/-- `rpctl` CK (R425). -/
def execRpctlCk (d : Dst) (a b : Src) (s : State) : Host.Outcome State Fault Refusal := s.rpctl d a b
/-- `rpctl` RDHASH (R425). -/
def execRpctlRdhash (d : Dst) (a b : Src) (s : State) : Host.Outcome State Fault Refusal := s.rpctl d a b
/-- `rpctl` CONFIG (R425). -/
def execRpctlConfig (d : Dst) (a b : Src) (s : State) : Host.Outcome State Fault Refusal := s.rpctl d a b
/-- `rpctl` STOP (R425). -/
def execRpctlStop (d : Dst) (a b : Src) (s : State) : Host.Outcome State Fault Refusal := s.rpctl d a b

end Sys2Proof.Machine
end

