-- ==== Sys2Proof/Machine/Dispatch.lean ====
section
/-! DEFINITION. What each instruction and each named step does: one arm per constructor of `Instr`, one call of its meaning. -/

namespace Sys2Proof.Machine

def exec (i : Instr) (s : State) : Host.Outcome State Fault Refusal :=
  match i with
  | .add d a b => Sys2Proof.Machine.execAdd d a b s
  | .sub d a b => Sys2Proof.Machine.execSub d a b s
  | .mul d a b => Sys2Proof.Machine.execMul d a b s
  | .mulh d a b => Sys2Proof.Machine.execMulh d a b s
  | .mulhn d a b => Sys2Proof.Machine.execMulhn d a b s
  | .div d a b => Sys2Proof.Machine.execDiv d a b s
  | .divn d a b => Sys2Proof.Machine.execDivn d a b s
  | .rem d a b => Sys2Proof.Machine.execRem d a b s
  | .remn d a b => Sys2Proof.Machine.execRemn d a b s
  | .and d a b => Sys2Proof.Machine.execAnd d a b s
  | .or d a b => Sys2Proof.Machine.execOr d a b s
  | .xor d a b => Sys2Proof.Machine.execXor d a b s
  | .andn d a b => Sys2Proof.Machine.execAndn d a b s
  | .shl d a b => Sys2Proof.Machine.execShl d a b s
  | .shr d a b => Sys2Proof.Machine.execShr d a b s
  | .sar d a b => Sys2Proof.Machine.execSar d a b s
  | .rol d a b => Sys2Proof.Machine.execRol d a b s
  | .min d a b => Sys2Proof.Machine.execMin d a b s
  | .max d a b => Sys2Proof.Machine.execMax d a b s
  | .minn d a b => Sys2Proof.Machine.execMinn d a b s
  | .maxn d a b => Sys2Proof.Machine.execMaxn d a b s
  | .adds d a b => Sys2Proof.Machine.execAdds d a b s
  | .subs d a b => Sys2Proof.Machine.execSubs d a b s
  | .addsn d a b => Sys2Proof.Machine.execAddsn d a b s
  | .subsn d a b => Sys2Proof.Machine.execSubsn d a b s
  | .muls d a b => Sys2Proof.Machine.execMuls d a b s
  | .abs d a => Sys2Proof.Machine.execAbs d a s
  | .neg d a => Sys2Proof.Machine.execNeg d a s
  | .clz d a => Sys2Proof.Machine.execClz d a s
  | .ctz d a => Sys2Proof.Machine.execCtz d a s
  | .popc d a => Sys2Proof.Machine.execPopc d a s
  | .sext8 d a => Sys2Proof.Machine.execSext8 d a s
  | .sext16 d a => Sys2Proof.Machine.execSext16 d a s
  | .sext32 d a => Sys2Proof.Machine.execSext32 d a s
  | .mov d a => Sys2Proof.Machine.execMov d a s
  | .addi d a imm => Sys2Proof.Machine.execAddi d a imm s
  | .andi d a imm => Sys2Proof.Machine.execAndi d a imm s
  | .ori d a imm => Sys2Proof.Machine.execOri d a imm s
  | .xori d a imm => Sys2Proof.Machine.execXori d a imm s
  | .shli d a amount => Sys2Proof.Machine.execShli d a amount s
  | .shri d a amount => Sys2Proof.Machine.execShri d a amount s
  | .sari d a amount => Sys2Proof.Machine.execSari d a amount s
  | .roli d a amount => Sys2Proof.Machine.execRoli d a amount s
  | .movi d imm => Sys2Proof.Machine.execMovi d imm s
  | .cmp k a b c => Sys2Proof.Machine.execCmp k a b c s
  | .cmpi k a c imm => Sys2Proof.Machine.execCmpi k a c imm s
  | .sel d a b k => Sys2Proof.Machine.execSel d a b k s
  | .kand d a b => Sys2Proof.Machine.execKand d a b s
  | .kor d a b => Sys2Proof.Machine.execKor d a b s
  | .kxor d a b => Sys2Proof.Machine.execKxor d a b s
  | .knot d a => Sys2Proof.Machine.execKnot d a s
  | .kmov d a => Sys2Proof.Machine.execKmov d a s
  | .padd d a b => Sys2Proof.Machine.execPadd d a b s
  | .psub d a b => Sys2Proof.Machine.execPsub d a b s
  | .phdl d a => Sys2Proof.Machine.execPhdl d a s
  | .poff d a => Sys2Proof.Machine.execPoff d a s
  | .pmake d a b => Sys2Proof.Machine.execPmake d a b s
  | .paddi d a imm => Sys2Proof.Machine.execPaddi d a imm s
  | .ld d base q => Sys2Proof.Machine.execLd d base q s
  | .ld32 d base q => Sys2Proof.Machine.execLd32 d base q s
  | .ld32s d base q => Sys2Proof.Machine.execLd32s d base q s
  | .ld16 d base q => Sys2Proof.Machine.execLd16 d base q s
  | .ld16s d base q => Sys2Proof.Machine.execLd16s d base q s
  | .ld8 d base q => Sys2Proof.Machine.execLd8 d base q s
  | .ld8s d base q => Sys2Proof.Machine.execLd8s d base q s
  | .ldwait d base q => Sys2Proof.Machine.execLdwait d base q s
  | .ldcons d base q => Sys2Proof.Machine.execLdcons d base q s
  | .st v base q => Sys2Proof.Machine.execSt v base q s
  | .st32 v base q => Sys2Proof.Machine.execSt32 v base q s
  | .st16 v base q => Sys2Proof.Machine.execSt16 v base q s
  | .st8 v base q => Sys2Proof.Machine.execSt8 v base q s
  | .stfill v base q => Sys2Proof.Machine.execStfill v base q s
  | .fence mask => Sys2Proof.Machine.execFence mask s
  | .cireq a b => Sys2Proof.Machine.execCireq a b s
  | .aadd d base b q => Sys2Proof.Machine.execAadd d base b q s
  | .afadd d base b q => Sys2Proof.Machine.execAfadd d base b q s
  | .axchg d base b q => Sys2Proof.Machine.execAxchg d base b q s
  | .acas e base b q => Sys2Proof.Machine.execAcas e base b q s
  | .amin d base b q => Sys2Proof.Machine.execAmin d base b q s
  | .amax d base b q => Sys2Proof.Machine.execAmax d base b q s
  | .aminn d base b q => Sys2Proof.Machine.execAminn d base b q s
  | .amaxn d base b q => Sys2Proof.Machine.execAmaxn d base b q s
  | .aand d base b q => Sys2Proof.Machine.execAand d base b q s
  | .aor d base b q => Sys2Proof.Machine.execAor d base b q s
  | .axor d base b q => Sys2Proof.Machine.execAxor d base b q s
  | .b disp => Sys2Proof.Machine.execB disp s
  | .call disp => Sys2Proof.Machine.execCall disp s
  | .bc k disp => Sys2Proof.Machine.execBc k disp s
  | .bcn k disp => Sys2Proof.Machine.execBcn k disp s
  | .jr a => Sys2Proof.Machine.execJr a s
  | .callr a => Sys2Proof.Machine.execCallr a s
  | .ret => Sys2Proof.Machine.execRet s
  | .jtab a b len => Sys2Proof.Machine.execJtab a b len s
  | .qrd d q => Sys2Proof.Machine.execQrd d q s
  | .qwr q a => Sys2Proof.Machine.execQwr q a s
  | .qtryrd d q => Sys2Proof.Machine.execQtryrd d q s
  | .qtrywr q a => Sys2Proof.Machine.execQtrywr q a s
  | .shwr r a e => Sys2Proof.Machine.execShwr r a e s
  | .lywr r a e => Sys2Proof.Machine.execLywr r a e s
  | .shswap e => Sys2Proof.Machine.execShswap e s
  | .csel d a k => Sys2Proof.Machine.execCsel d a k s
  | .pchk k a => Sys2Proof.Machine.execPchk k a s
  | .pclr d a => Sys2Proof.Machine.execPclr d a s
  | .srr d n => Sys2Proof.Machine.execSrr d n s
  | .srw n a => Sys2Proof.Machine.execSrw n a s
  | .crcfgWrite ring a => Sys2Proof.Machine.execCrcfgWrite ring a s
  | .crrpWrite ring a => Sys2Proof.Machine.execCrrpWrite ring a s
  | .crwpWrite ring a => Sys2Proof.Machine.execCrwpWrite ring a s
  | .mcinvWrite a => Sys2Proof.Machine.execMcinvWrite a s
  | .vstatWrite a => Sys2Proof.Machine.execVstatWrite a s
  | .mlcfgWrite a => Sys2Proof.Machine.execMlcfgWrite a s
  | .uiret => Sys2Proof.Machine.execUiret s
  | .smwait d a n => Sys2Proof.Machine.execSmwait d a n s
  | .smadd d a n => Sys2Proof.Machine.execSmadd d a n s
  | .mxlock n => Sys2Proof.Machine.execMxlock n s
  | .mxfree n => Sys2Proof.Machine.execMxfree n s
  | .dbar d a => Sys2Proof.Machine.execDbar d a s
  | .moor d a b => Sys2Proof.Machine.execMoor d a b s
  | .yieldPoint a => Sys2Proof.Machine.execYieldPoint a s
  | .yieldEnd a => Sys2Proof.Machine.execYieldEnd a s
  | .launch d a b => Sys2Proof.Machine.execLaunch d a b s
  | .allocRing d a b => Sys2Proof.Machine.execAllocRing d a b s
  | .allocBump d a b => Sys2Proof.Machine.execAllocBump d a b s
  | .allocStatus d a b => Sys2Proof.Machine.execAllocStatus d a b s
  | .freeRing a b => Sys2Proof.Machine.execFreeRing a b s
  | .freeBump a b => Sys2Proof.Machine.execFreeBump a b s
  | .attn a b => Sys2Proof.Machine.execAttn a b s
  | .atcommit a b => Sys2Proof.Machine.execAtcommit a b s
  | .atdrop a b => Sys2Proof.Machine.execAtdrop a b s
  | .exalloc d a b => Sys2Proof.Machine.execExalloc d a b s
  | .exfree a b => Sys2Proof.Machine.execExfree a b s
  | .exinv d a b => Sys2Proof.Machine.execExinv d a b s
  | .sample a b => Sys2Proof.Machine.execSample a b s
  | .sbind a b => Sys2Proof.Machine.execSbind a b s
  | .hins d a b => Sys2Proof.Machine.execHins d a b s
  | .htop d a b => Sys2Proof.Machine.execHtop d a b s
  | .hclr a b => Sys2Proof.Machine.execHclr a b s
  | .obqry d a b => Sys2Proof.Machine.execObqry d a b s
  | .obprobe d a b => Sys2Proof.Machine.execObprobe d a b s
  | .trap a => Sys2Proof.Machine.execTrap a s
  | .retsReturn a => Sys2Proof.Machine.execRetsReturn a s
  | .retsEnd a => Sys2Proof.Machine.execRetsEnd a s
  | .snap a => Sys2Proof.Machine.execSnap a s
  | .rpctlRdst d a b => Sys2Proof.Machine.execRpctlRdst d a b s
  | .rpctlCk d a b => Sys2Proof.Machine.execRpctlCk d a b s
  | .rpctlRdhash d a b => Sys2Proof.Machine.execRpctlRdhash d a b s
  | .rpctlConfig d a b => Sys2Proof.Machine.execRpctlConfig d a b s
  | .rpctlStop d a b => Sys2Proof.Machine.execRpctlStop d a b s
  | .vld q d ly off g => Sys2Proof.Machine.execVld q d ly off g s
  | .vst q v ly off g => Sys2Proof.Machine.execVst q v ly off g s
  | .vldwait q d ly off g => Sys2Proof.Machine.execVldwait q d ly off g s
  | .vldcons q d ly off g => Sys2Proof.Machine.execVldcons q d ly off g s
  | .vstfill q v ly off g => Sys2Proof.Machine.execVstfill q v ly off g s
  | .vgath q d ly off g => Sys2Proof.Machine.execVgath q d ly off g s
  | .vscat q v ly off g => Sys2Proof.Machine.execVscat q v ly off g s
  | .mma w m => Sys2Proof.Machine.execMma w m s
  | .mmaz w m => Sys2Proof.Machine.execMmaz w m s
  | .mmasg w m => Sys2Proof.Machine.execMmasg w m s
  | .fset w n v => Sys2Proof.Machine.execFset w n v s
  | .fqrd w n => Sys2Proof.Machine.execFqrd w n s
  | .mthr w v => Sys2Proof.Machine.execMthr w v s
  | .scld w fmt count1 src cls didx => Sys2Proof.Machine.execScld w fmt count1 src cls didx s
  | .acczero w tile count1 => Sys2Proof.Machine.execAcczero w tile count1 s
  | .epil w e dst => Sys2Proof.Machine.execEpil w e dst s
  | .epobj w e ly row0 => Sys2Proof.Machine.execEpobj w e ly row0 s
  | .eprow w e taddr => Sys2Proof.Machine.execEprow w e taddr s
  | .epadd w e taddr => Sys2Proof.Machine.execEpadd w e taddr s
  | .accst w tile addr cls scope => Sys2Proof.Machine.execAccst w tile addr cls scope s
  | .accld w tile addr cls scope => Sys2Proof.Machine.execAccld w tile addr cls scope s
  | .mqwr w tag => Sys2Proof.Machine.execMqwr w tag s
  | .mqwrSt w => Sys2Proof.Machine.execMqwrSt w s
  | .mrel w => Sys2Proof.Machine.execMrel w s
  | .msync w => Sys2Proof.Machine.execMsync w s
  | .mjmp w count disp => Sys2Proof.Machine.execMjmp w count disp s
  | .tmov w m lys lyd soff doff count1 => Sys2Proof.Machine.execTmov w m lys lyd soff doff count1 s
  | .tmov2d w m lys lyd rec => Sys2Proof.Machine.execTmov2d w m lys lyd rec s
  | .rrot w m dist saddr daddr count1 => Sys2Proof.Machine.execRrot w m dist saddr daddr count1 s
  | .gath w m lys lyd iaddr rowb rows1 => Sys2Proof.Machine.execGath w m lys lyd iaddr rowb rows1 s
  | .scat w m lys lyd iaddr rowb rows1 => Sys2Proof.Machine.execScat w m lys lyd iaddr rowb rows1 s
  | .rpush w m lys rg soff => Sys2Proof.Machine.execRpush w m lys rg soff s
  | .cfill w m lyd doff count1 pat => Sys2Proof.Machine.execCfill w m lyd doff count1 pat s
  | .crstr w m lys ring soff words1 => Sys2Proof.Machine.execCrstr w m lys ring soff words1 s
  | .csync w pop => Sys2Proof.Machine.execCsync w pop s
  | .cqwr w tag => Sys2Proof.Machine.execCqwr w tag s
  | .fwr w m lys lyd soff doff pkg count1 => Sys2Proof.Machine.execFwr w m lys lyd soff doff pkg count1 s
  | .frd w m lys lyd soff doff pkg count1 => Sys2Proof.Machine.execFrd w m lys lyd soff doff pkg count1 s
  | .fatom w aop lyd doff oaddr pkg => Sys2Proof.Machine.execFatom w aop lyd doff oaddr pkg s
  | .lbregBuffer w rec => Sys2Proof.Machine.execLbregBuffer w rec s
  | .lbregPort w rec => Sys2Proof.Machine.execLbregPort w rec s
  | .lbregClose w rec => Sys2Proof.Machine.execLbregClose w rec s
  | .lbregOpen w rec => Sys2Proof.Machine.execLbregOpen w rec s
  | .lbregRedirect w rec => Sys2Proof.Machine.execLbregRedirect w rec s
  | .lbrelBuffer w key => Sys2Proof.Machine.execLbrelBuffer w key s
  | .lbrelPort w h => Sys2Proof.Machine.execLbrelPort w h s
  | .a2av w m desc => Sys2Proof.Machine.execA2av w m desc s
  | .rscat w m desc => Sys2Proof.Machine.execRscat w m desc s
  | .agath w m desc => Sys2Proof.Machine.execAgath w m desc s
  | .bcast w m desc => Sys2Proof.Machine.execBcast w m desc s
  | .pgmovUp w h k staddr => Sys2Proof.Machine.execPgmovUp w h k staddr s
  | .pgmovDown w h k staddr => Sys2Proof.Machine.execPgmovDown w h k staddr s
  | .feset w m lyd doff count1 => Sys2Proof.Machine.execFeset w m lyd doff count1 s
  | .obcopy w h k nslot => Sys2Proof.Machine.execObcopy w h k nslot s
  | .vadd q d a b g => Sys2Proof.Machine.execVadd q d a b g s
  | .vsub q d a b g => Sys2Proof.Machine.execVsub q d a b g s
  | .vmul q d a b g => Sys2Proof.Machine.execVmul q d a b g s
  | .vfma q d a b g => Sys2Proof.Machine.execVfma q d a b g s
  | .vfnma q d a b g => Sys2Proof.Machine.execVfnma q d a b g s
  | .vmin q d a b g => Sys2Proof.Machine.execVmin q d a b g s
  | .vmax q d a b g => Sys2Proof.Machine.execVmax q d a b g s
  | .vabs q d a g => Sys2Proof.Machine.execVabs q d a g s
  | .vneg q d a g => Sys2Proof.Machine.execVneg q d a g s
  | .vadds q d a b g => Sys2Proof.Machine.execVadds q d a b g s
  | .vsubs q d a b g => Sys2Proof.Machine.execVsubs q d a b g s
  | .vmulh q d a b g => Sys2Proof.Machine.execVmulh q d a b g s
  | .vceq q pd a b g => Sys2Proof.Machine.execVceq q pd a b g s
  | .vcne q pd a b g => Sys2Proof.Machine.execVcne q pd a b g s
  | .vclt q pd a b g => Sys2Proof.Machine.execVclt q pd a b g s
  | .vcle q pd a b g => Sys2Proof.Machine.execVcle q pd a b g s
  | .vcgt q pd a b g => Sys2Proof.Machine.execVcgt q pd a b g s
  | .vcge q pd a b g => Sys2Proof.Machine.execVcge q pd a b g s
  | .vsel q d a b g => Sys2Proof.Machine.execVsel q d a b g s
  | .vcsel q d a b g => Sys2Proof.Machine.execVcsel q d a b g s
  | .vcvt q d a dir g => Sys2Proof.Machine.execVcvt q d a dir g s
  | .vmov q d a g => Sys2Proof.Machine.execVmov q d a g s
  | .vand q d a b g => Sys2Proof.Machine.execVand q d a b g s
  | .vor q d a b g => Sys2Proof.Machine.execVor q d a b g s
  | .vxor q d a b g => Sys2Proof.Machine.execVxor q d a b g s
  | .vnot q d a g => Sys2Proof.Machine.execVnot q d a g s
  | .vshl q d a b g => Sys2Proof.Machine.execVshl q d a b g s
  | .vshr q d a b g => Sys2Proof.Machine.execVshr q d a b g s
  | .vsar q d a b g => Sys2Proof.Machine.execVsar q d a b g s
  | .vxrot q d a b g => Sys2Proof.Machine.execVxrot q d a b g s
  | .vxbc q d a b g => Sys2Proof.Machine.execVxbc q d a b g s
  | .vxred q d a op g => Sys2Proof.Machine.execVxred q d a op g s
  | .vyrot q d a b g => Sys2Proof.Machine.execVyrot q d a b g s
  | .vybc q d a b g => Sys2Proof.Machine.execVybc q d a b g s
  | .vyred q d a op g => Sys2Proof.Machine.execVyred q d a op g s
  | .vwalk sg ly start => Sys2Proof.Machine.execVwalk sg ly start s
  | .vsgred q d a op g => Sys2Proof.Machine.execVsgred q d a op g s
  | .vsgscan q d a op g => Sys2Proof.Machine.execVsgscan q d a op g s
  | .vpack q d a kind g => Sys2Proof.Machine.execVpack q d a kind g s
  | .vperm q d a b g => Sys2Proof.Machine.execVperm q d a b g s
  | .vtrans q d a g => Sys2Proof.Machine.execVtrans q d a g s
  | .vshuf q d a b g => Sys2Proof.Machine.execVshuf q d a b g s
  | .vrcp q d a g => Sys2Proof.Machine.execVrcp q d a g s
  | .vrsqrt q d a g => Sys2Proof.Machine.execVrsqrt q d a g s
  | .vsqrt q d a g => Sys2Proof.Machine.execVsqrt q d a g s
  | .vexp2 q d a g => Sys2Proof.Machine.execVexp2 q d a g s
  | .vlog2 q d a g => Sys2Proof.Machine.execVlog2 q d a g s
  | .vtanh q d a g => Sys2Proof.Machine.execVtanh q d a g s
  | .vsigm q d a g => Sys2Proof.Machine.execVsigm q d a g s
  | .vqrd q oq ly off g => Sys2Proof.Machine.execVqrd q oq ly off g s
  | .vpand d a b => Sys2Proof.Machine.execVpand d a b s
  | .vpor d a b => Sys2Proof.Machine.execVpor d a b s
  | .vpxor d a b => Sys2Proof.Machine.execVpxor d a b s
  | .vpnot d a => Sys2Proof.Machine.execVpnot d a s
  | .vloop stages mask n => Sys2Proof.Machine.execVloop stages mask n s
  | .vlend => Sys2Proof.Machine.execVlend s
  | .vbset c v => Sys2Proof.Machine.execVbset c v s
  | .vbadd c v => Sys2Proof.Machine.execVbadd c v s
  | .vsmwait n v => Sys2Proof.Machine.execVsmwait n v s
  | .vsmadd n v => Sys2Proof.Machine.execVsmadd n v s
  | .vqget d mode g => Sys2Proof.Machine.execVqget d mode g s
  | .vqput v mode => Sys2Proof.Machine.execVqput v mode s
  | .sld d a idx => Sys2Proof.Machine.execSld d a idx s
  | .scst a b => Sys2Proof.Machine.execScst a b s
  | .sadd d a b => Sys2Proof.Machine.execSadd d a b s
  | .ssub d a b => Sys2Proof.Machine.execSsub d a b s
  | .smul d a b => Sys2Proof.Machine.execSmul d a b s
  | .sfma d a b => Sys2Proof.Machine.execSfma d a b s
  | .smax d a b => Sys2Proof.Machine.execSmax d a b s
  | .smin d a b => Sys2Proof.Machine.execSmin d a b s
  | .sexp2 d a => Sys2Proof.Machine.execSexp2 d a s
  | .slog2 d a => Sys2Proof.Machine.execSlog2 d a s
  | .srcp d a => Sys2Proof.Machine.execSrcp d a s
  | .sbc d a => Sys2Proof.Machine.execSbc d a s
  | .sxred d a op => Sys2Proof.Machine.execSxred d a op s
  | .smov d a => Sys2Proof.Machine.execSmov d a s
  | .shmov d v => Sys2Proof.Machine.execShmov d v s
  | .shadd d a v => Sys2Proof.Machine.execShadd d a v s
  | .shmul d a b => Sys2Proof.Machine.execShmul d a b s
  | .scmp d a b c => Sys2Proof.Machine.execScmp d a b c s
  | .ssel d a b => Sys2Proof.Machine.execSsel d a b s
  | .stbl d a table => Sys2Proof.Machine.execStbl d a table s
  | .stbw a b table => Sys2Proof.Machine.execStbw a b table s
  | .smask d a => Sys2Proof.Machine.execSmask d a s
  | .spsort a => Sys2Proof.Machine.execSpsort a s
  | .scsum d => Sys2Proof.Machine.execScsum d s
  | .sdrawDraw d a b => Sys2Proof.Machine.execSdrawDraw d a b s
  | .sdrawCut d a b => Sys2Proof.Machine.execSdrawCut d a b s
  | .sgen d g mode => Sys2Proof.Machine.execSgen d g mode s
  | .saccept d a b n g => Sys2Proof.Machine.execSaccept d a b n g s
  | .sbnz a disp => Sys2Proof.Machine.execSbnz a disp s
  | .sjmp disp => Sys2Proof.Machine.execSjmp disp s
  | .sendToken a => Sys2Proof.Machine.execSendToken a s
  | .sendCount a => Sys2Proof.Machine.execSendCount a s
  | .sendBlock a => Sys2Proof.Machine.execSendBlock a s
  | .sendNone a => Sys2Proof.Machine.execSendNone a s
  | .ssoft d => Sys2Proof.Machine.execSsoft d s
  | .attnAccept ad id => Sys2Proof.Machine.execAttnAccept ad id s
  | .attnComplete ad id => Sys2Proof.Machine.execAttnComplete ad id s
  | .exclusiveAccept ad id => Sys2Proof.Machine.execExclusiveAccept ad id s
  | .exinvSwitch ad seq => Sys2Proof.Machine.execExinvSwitch ad seq s
  | .exinvDrain ad seq => Sys2Proof.Machine.execExinvDrain ad seq s
  | .gateRelease c t => Sys2Proof.Machine.execGateRelease c t s
  | .vqrdImageArrival c oq k => Sys2Proof.Machine.execVqrdImageArrival c oq k s
  | .leaseGrant c => Sys2Proof.Machine.execLeaseGrant c s
  | .matrixStepComplete c b id => Sys2Proof.Machine.execMatrixStepComplete c b id s
  | .copyStepComplete c id => Sys2Proof.Machine.execCopyStepComplete c id s
  | .collectiveMessageArrival msg => Sys2Proof.Machine.execCollectiveMessageArrival msg s
  | .bounceResend id => Sys2Proof.Machine.execBounceResend id s
  | .collectiveComplete c id => Sys2Proof.Machine.execCollectiveComplete c id s
  | .collectiveTimeout c id => Sys2Proof.Machine.execCollectiveTimeout c id s
  | .obcopySwitch c id => Sys2Proof.Machine.execObcopySwitch c id s
  | .sampleAccept cl => Sys2Proof.Machine.execSampleAccept cl s
  | .samplerBlock cl => Sys2Proof.Machine.execSamplerBlock cl s
  | .samplerFinalPhase cl => Sys2Proof.Machine.execSamplerFinalPhase cl s
  | .watchdogExhausted cl => Sys2Proof.Machine.execWatchdogExhausted cl s
  | .sampleComplete cl => Sys2Proof.Machine.execSampleComplete cl s
  | .shardContribution msg => Sys2Proof.Machine.execShardContribution msg s
  | .shardTokenArrival cl r => Sys2Proof.Machine.execShardTokenArrival cl r s
  | .rootTimeout cl => Sys2Proof.Machine.execRootTimeout cl s
  | .shardReplyTimeout cl => Sys2Proof.Machine.execShardReplyTimeout cl s
  | .contributionHoldTimeout cl k => Sys2Proof.Machine.execContributionHoldTimeout cl k s
  | .rowArrival msg => Sys2Proof.Machine.execRowArrival msg s
  | .rowAck id reply => Sys2Proof.Machine.execRowAck id reply s
  | .fabricMessageArrival msg => Sys2Proof.Machine.execFabricMessageArrival msg s
  | .fabricAtomicHome msg => Sys2Proof.Machine.execFabricAtomicHome msg s
  | .fabricReply id reply => Sys2Proof.Machine.execFabricReply id reply s
  | .fabricReplyTimeout id => Sys2Proof.Machine.execFabricReplyTimeout id s
  | .waitRetry c t => Sys2Proof.Machine.execWaitRetry c t s
  | .moorWakeAttempt c t => Sys2Proof.Machine.execMoorWakeAttempt c t s
  | .moorPoolRetry c t => Sys2Proof.Machine.execMoorPoolRetry c t s
  | .feExpire c t => Sys2Proof.Machine.execFeExpire c t s
  | .moorExpire c => Sys2Proof.Machine.execMoorExpire c s
  | .stepWaitExpire c t => Sys2Proof.Machine.execStepWaitExpire c t s
  | .replayHoldExpire c t => Sys2Proof.Machine.execReplayHoldExpire c t s
  | .swapPoint c e => Sys2Proof.Machine.execSwapPoint c e s
  | .userEventDelivery c => Sys2Proof.Machine.execUserEventDelivery c s
  | .asyncTrapDelivery c e => Sys2Proof.Machine.execAsyncTrapDelivery c e s
  | .pagerPromotion ctx h k => Sys2Proof.Machine.execPagerPromotion ctx h k s
  | .tqtailWrite q v => Sys2Proof.Machine.execTqtailWrite q v s
  | .tqctlWrite q v => Sys2Proof.Machine.execTqctlWrite q v s
  | .registerWrite off v fw => Sys2Proof.Machine.execRegisterWrite off v fw s
  | .hostBar4Write off data => Sys2Proof.Machine.execHostBar4Write off data s
  | .hostBar4Read off n => Sys2Proof.Machine.execHostBar4Read off n s
  | .hostFeByteWrite off v => Sys2Proof.Machine.execHostFeByteWrite off v s
  | .taskAdmission far => Sys2Proof.Machine.execTaskAdmission far s
  | .taskDispatch => Sys2Proof.Machine.execTaskDispatch s
  | .tokenAging id => Sys2Proof.Machine.execTokenAging id s
  | .preemptionDecision far => Sys2Proof.Machine.execPreemptionDecision far s
  | .drainTimeout id => Sys2Proof.Machine.execDrainTimeout id s
  | .checkpointSave id => Sys2Proof.Machine.execCheckpointSave id s
  | .taskKill id => Sys2Proof.Machine.execTaskKill id s
  | .restore => Sys2Proof.Machine.execRestore s
  | .coreShareEnd c => Sys2Proof.Machine.execCoreShareEnd c s
  | .taskRetire id far => Sys2Proof.Machine.execTaskRetire id far s
  | .taskComplete id => Sys2Proof.Machine.execTaskComplete id s
  | .ckrqctlGo v => Sys2Proof.Machine.execCkrqctlGo v s
  | .bootctlGo v => Sys2Proof.Machine.execBootctlGo v s
  | .firmwareVerifyDone => Sys2Proof.Machine.execFirmwareVerifyDone s
  | .attctlGo v => Sys2Proof.Machine.execAttctlGo v s
  | .attestationResponse => Sys2Proof.Machine.execAttestationResponse s
  | .measurementExtend ins d label => Sys2Proof.Machine.execMeasurementExtend ins d label s
  | .powerCapWrite w => Sys2Proof.Machine.execPowerCapWrite w s
  | .routeWrite dst port => Sys2Proof.Machine.execRouteWrite dst port s
  | .firmwareDma write addr n data => Sys2Proof.Machine.execFirmwareDma write addr n data s
  | .firmwareHbmAccess write acc n data => Sys2Proof.Machine.execFirmwareHbmAccess write acc n data s
  | .contextCreate ctx cfg => Sys2Proof.Machine.execContextCreate ctx cfg s
  | .contextDestroy ctx => Sys2Proof.Machine.execContextDestroy ctx s
  | .coldReset faulty => Sys2Proof.Machine.execColdReset faulty s
  | .throttleDown => Sys2Proof.Machine.execThrottleDown s
  | .throttleUp => Sys2Proof.Machine.execThrottleUp s
  | .thermalTrip => Sys2Proof.Machine.execThermalTrip s
  | .bellPin => Sys2Proof.Machine.execBellPin s
  | .bellMessage src => Sys2Proof.Machine.execBellMessage src s
  | .snapshotLatch => Sys2Proof.Machine.execSnapshotLatch s
  | .fabricBringUp pkg group ports => Sys2Proof.Machine.execFabricBringUp pkg group ports s

end Sys2Proof.Machine
end

