-- ==== Sys2Proof/Machine/Turns.lean ====
section
/-! DEFINITION. What the agent whose turn it is does: it fetches an instruction to run, or moves by itself (02 R42 to R44, 05 R168, R171,
08 R230, 09 R262, 10 R296, R300, 13 R379). -/

namespace Sys2Proof.Machine

/-- The work of a turn: a state already reached, or an instruction to run from a state. -/
inductive Work where
  | idle (s : State)
  | run (i : Instr) (s : State)

def State.asAgent (s : State) (c : CoreId) (t : Strand) : State := { s with cur := { core := c, strand := t } }

/-! Loads of the control strand that are performed before loads that stand earlier (09 R261, R262). -/

/-- A plain load's destination, base, fields and size (10 R283). -/
def plainLoad? (i : Instr) : Option (Dst × Src × MemQ × Nat) :=
  match i with
  | .ld d b q => some (d, b, q, 8)
  | .ld32 d b q => some (d, b, q, 4)
  | .ld32s d b q => some (d, b, q, 4)
  | .ld16 d b q => some (d, b, q, 2)
  | .ld16s d b q => some (d, b, q, 2)
  | .ld8 d b q => some (d, b, q, 1)
  | .ld8s d b q => some (d, b, q, 1)
  | _ => none

/-- A memory type whose accesses R269 orders no further than their classes. -/
def MType.loose (t : MType) : Bool := t == .normal || t == .writeCombining

/-- An instruction that a later load may be performed before: one that accesses no memory and writes no general register, or a plain load of another
class and another location that leaves the base register as it is (R261, R262, and R263 for the address). -/
def Mach.passes (m : Mach) (c : CoreId) (e : Early) (i : Instr) : Bool :=
  match i with
  | .cmp .. | .cmpi .. | .kand .. | .kor .. | .kxor .. | .knot .. | .kmov .. | .b _ | .bc .. | .bcn .. => true
  | i =>
    match plainLoad? i with
    | none => false
    | some (d, base, q, n) =>
      q.ord == .none && q.cls != e.cls && d != .x e.base &&
      match memAddr (m.cores[c].ctl.src base).val q.off n with
      | .error _ => false
      | .ok ea =>
        match place m (m.asker c) ea n .read, place m (m.asker c) e.ea e.size .read with
        | .ok (.store k1 mt _), .ok (.store k2 _ _) => mt.loose && locOf k1 != locOf k2
        | _, _ => false

/-- The instructions from a program counter on, with their places. -/
def Mach.ahead (m : Mach) (c : CoreId) : Nat → BitVec 18 → List (BitVec 18 × Instr)
  | 0, _ => []
  | n + 1, pc =>
    match m.fetch c pc decodeControl with
    | .ok i w => (pc, i) :: m.ahead c n (pc + BitVec.ofNat 18 w)
    | .trap .. => []

/-- A plain load that stands after instructions it may be performed before, performed now. -/
def Mach.earlyAt (m : Mach) (c : CoreId) (before : List Instr) (pc : BitVec 18) (i : Instr) : Option Mach :=
  match plainLoad? i with
  | some (_, .x b, q, n) =>
    let x := m.cores[c].ctl.x[b]
    match (if x.tag = 0 ∧ q.ord = .none then (memAddr x.val q.off n).toOption else none) with
    | none => none
    | some ea =>
      match checked (m.seen c .control) (m.asker c) ea n .read with
      | .ok (.store key mt use) =>
        let e : Early := { core := c, pc := pc, base := b, ea := ea, size := n, cls := q.cls, value := 0 }
        if mt.loose && before.all (m.passes c e) then
          let (m1, v) := m.loadAt c .control (.store key mt use) n q.cls
          some { m1 with early := m1.early ++ [{ e with value := v }] }
        else none
      | _ => none
  | _ => none

/-- The first load, among the three instructions that follow the next one, that may be performed before what stands before it. -/
def Mach.earlyLoad (m : Mach) (c : CoreId) : Mach :=
  let k := m.cores[c].ctl
  if k.status ≠ .running ∨ m.early.any (fun e => e.core == c) then m
  else
    let l := m.ahead c 4 k.pc
    (([1, 2, 3].filterMap fun j => (l[j]?).bind fun x => m.earlyAt c ((l.take j).map (·.2)) x.1 x.2).head?).getD m

/-- A load performed early is forgotten when an instruction issues that it may not come before, or when another instruction stands in its place. -/
def Mach.keepEarly (m : Mach) (c : CoreId) (i : Instr) : Mach :=
  let keep (e : Early) : Bool :=
    if e.pc = m.cores[c].ctl.pc then
      (match plainLoad? i with | some (_, base, q, _) => base == .x e.base && q.ord == .none && q.cls == e.cls | none => false)
    else m.passes c e i
  { m with early := m.early.filter fun e => e.core != c || keep e }

/-- The control strand: what a boundary brings, a wait that is not due, or the next instruction. The SNPC of a fetch that traps comes after the words its
instruction is known to have (14 R407). -/
def State.controlTurn (s : State) (c : CoreId) : Work :=
  let m := s.mach
  let k := m.cores[c].ctl
  if k.status ≠ .running then .idle s
  else
    match m.boundary c with
    | some m1 => .idle { s with mach := m1 }
    | none =>
      if k.wait.any fun w => !w.attemptDue m.scyc then .idle s
      else
        let m1 := m.beforeFetch c .control k.pc
        match m1.fetch c k.pc decodeControl with
        | .ok i _ => .run i { s.asAgent c .control with mach := m1.keepEarly c i }
        | .trap n t => .idle { s with mach := m1.takeTrap c (k.pc + BitVec.ofNat 18 n) t }

/-- An instruction passed over by a `vloop` without iterations, up to its `vlend` (R169). -/
def Mach.skipOver (m : Mach) (c : CoreId) (words : Nat) : Mach :=
  let v := m.cores[c].vec
  if 2 ^ 18 ≤ v.pc.toNat + words then m.vecTrap c pastSpm else m.onVec c fun v => { v with pc := v.pc + BitVec.ofNat 18 words }

/-- The vector strand stops at a boundary outside a loop (R171). -/
def Mach.stopVector (m : Mach) (c : CoreId) : Mach := (m.withdraw c .vector).onVec c fun v => { v with status := .stopped }

/-- The vector strand: outside a loop a stop, or a pending exchange of its registers (R100); a wait that is not due; the next
instruction; or, after a `vloop` without iterations, the way to its `vlend`. -/
noncomputable def State.vectorTurn (s : State) (c : CoreId) : Work :=
  let m := s.mach
  let k := m.cores[c]
  let v := k.vec
  let free := !v.loop.act && !v.skip
  if v.status ≠ .running then .idle s
  else if free && k.stop then .idle { s with mach := m.stopVector c }
  else if v.wait.any fun w => !w.attemptDue m.scyc then .idle s
  else if free && !v.issued && k.swapPending .vector then .idle { s with mach := m.onCore c fun k => k.swapPoint .vector }
  else if m.heldVec c (fetchLoads c v.pc) then .idle s
  else
    let m1 := m.beforeFetch c .vector v.pc
    match m1.fetch c v.pc decodeVector with
    | .trap _ t => .idle { s with mach := m1.vecTrap c t }
    | .ok i n =>
      if v.skip && i != .vlend then .idle { s with mach := m1.skipOver c n }
      else .run i { s.asAgent c .vector with mach := m1 }

/-- A matrix or copy strand: a stop abandons a step word that waits, a pending exchange of its registers is made, a fetched step word
tries to start, and a strand without one fetches the next (R83, R100, R296, R297). -/
def State.engineTurn (s : State) (c : CoreId) (t : Strand) : Work :=
  let m := s.mach
  let k := m.cores[c]
  if k.swapPending (engineOf t) then .idle { s with mach := m.onCore c fun k => k.swapPoint (engineOf t) }
  else if !k.fetches t then .idle { s with mach := if k.stop then (m.giveUpAsks c t).onCore c fun k => k.abandonStep t else m }
  else
    match (k.eng t).fetched with
    | some f => .run f.op (s.asAgent c t)
    | none =>
      match m.stepFetch c t with
      | none => .idle s
      | some (.fault source n tr) => .idle { s with mach := m.engFault c t 15 source n tr }
      | some (.ok i n) =>
        let f : Fetched := { at_ := m.scyc, budget := (k.ctl.mbud[strandNo t]?.getD 0).toNat, op := i, words := n }
        .run i { s.asAgent c t with mach := (m.giveUpAsks c t).onEng c t fun e => { e with fetched := some f } }

/-- The strand of a core. -/
noncomputable def State.strandTurn (s : State) (c : CoreId) (t : Strand) : Work :=
  match t with
  | .control => s.controlTurn c
  | .vector => s.vectorTurn c
  | t => s.engineTurn c t

/-- The core a sampler's instructions name: the first of its cluster. -/
def firstCore (cl : Fin 16) : CoreId := ⟨8 * cl.val, by omega⟩

/-- A sampler: the next instruction of its program, while one runs (R230, R231). -/
noncomputable def State.samplerTurn (s : State) (cl : Fin 16) : Work :=
  let m := s.mach
  match m.samp.units[cl].run with
  | none => .idle s
  | some r =>
    if r.phase ≠ .block ∧ r.phase ≠ .final then .idle s
    else
      match m.progFetch cl r with
      | .ok i => .run i (s.asAgent (firstCore cl) s.cur.strand)
      | .error cls => .idle { s with mach := m.sampFault cl r cls }

/-- The k-th issued store performed, if no earlier access must be first (R261, R262). -/
def Mach.performOne (m : Mach) (k : Nat) : Mach :=
  match m.pend[k]? with
  | some (.store p) => if performable m.pend k then m.performAll [p] (afterPerform m.pend k p) else m
  | _ => m

/-- The stores that are performed at core scope only are performed before the agents that could find them move: all but another core's strands (R257,
R264). -/
def Mach.settleFor (m : Mach) (turn : Turn) : Mach :=
  match turn with
  | .strand c _ => m.settle c
  | .perform _ => m
  | _ => (List.finRange 128).foldl Mach.settle m

/-- Before a step of a matrix strand, and before any event, the last multiply steps have read their operands (06 R184). -/
def Mach.rereadFor (m : Mach) (turn : Turn) : Mach :=
  match turn with
  | .strand c .matrixA => m.rereadDone c
  | .strand c .matrixB => m.rereadDone c
  | .event _ => (List.finRange 128).foldl Mach.rereadDone m
  | _ => m

/-- The k-th write that a started step still has to make (R199, R300). -/
def Mach.moveOne (m : Mach) (c : CoreId) (t : Strand) (flight k : Nat) : Mach :=
  match m.cores[c].flight? t flight with
  | none => m
  | some f =>
    match f.moves[k]? with
    | none => m
    | some p => if moveFree f.moves k then (m.makeMove p).onFlight c t flight fun f => { f with moves := f.moves.eraseIdx k } else m

/-- The entries a manifest cache holds at most (R34, R379). -/
def cacheSize (site : CacheSite) : Nat := match site with | some _ => 256 | none => 8192

/-- A copy of a record, or of an entry of its residency map, made in a manifest cache that has room: the die's from memory, a cluster's from the die's
or memory (R34, R379). -/
def Mach.cacheFill (m : Mach) (site : CacheSite) (ctx h : Nat) (k : Option Nat) : Mach :=
  match m.ctxs[ctx]? with
  | some (some cx) =>
    if cx.otlen ≤ h ∨ cacheSize site ≤ (m.mcache.filter (·.site == site)).length then m
    else
      match k with
      | none =>
        if (m.mcache.findSome? (Cached.record? site ctx h)).isSome then m
        else { m with mcache := m.mcache ++ [Cached.record site ctx h (recBytes m none ctx cx h)] }
      | some k =>
        let r := parseRec (recBytes m site ctx cx h)
        if r.tiles ≤ k ∨ (m.mcache.findSome? (Cached.entry? site ctx h k)).isSome then m
        else
          let w := mapEntry m none ctx h k r
          { m with mcache := m.mcache ++ [Cached.entry site ctx h k w.1 w.2] }
  | _ => m

/-- A cached copy dropped (R379). -/
def Mach.cacheDrop (m : Mach) (n : Nat) : Mach := { m with mcache := m.mcache.eraseIdx n }

/-- A step that no instruction word names comes about by itself; an instruction only runs fetched. -/
def wordless (i : Instr) : Bool := (encode i).isEmpty

/-- The work of a turn. While the clocks stand only a cold reset comes about (01 R18). -/
noncomputable def State.work (s : State) : Work :=
  if s.fw.down then
    match s.turn with
    | .event (.coldReset img) => .run (.coldReset img) s
    | _ => .idle s
  else
    let s := s.onMach fun m => (m.settleFor s.turn).rereadFor s.turn
    match s.turn with
    | .strand c t => s.strandTurn c t
    | .early c => .idle (s.onMach fun m => m.earlyLoad c)
    | .sampler cl => s.samplerTurn cl
    | .perform k => .idle (s.onMach fun m => m.performOne k)
    | .move c t flight k => .idle (s.onMach fun m => m.moveOne c t flight k)
    | .cacheFill site ctx h k => .idle (s.onMach fun m => m.cacheFill site ctx h k)
    | .cacheDrop n => .idle (s.onMach fun m => m.cacheDrop n)
    | .event i => if wordless i then .run i s else .idle s

/-- After a turn the next one is drawn, the steps are counted, and the s-cycle counter goes on while the clocks run; a due snapshot latches. -/
def State.afterTurn (s : State) : State :=
  { s with turn := Config.schedule s.tick, tick := s.tick + 1, mach := if s.fw.down then s.mach else s.mach.passClock s.tick (Config.elapsed s.tick) }

/-! An instruction placed where the next step fetches it. -/

/-- Words stored from an address. -/
def placeWords (m : Mem) (a : Nat) (ws : List W32) : Mem := memSetBytes m a (ws.flatMap fun w => leBytes w.toNat 4)

/-- The strands by which the sections of the opcode table run. -/
inductive Section where
  | strand (t : Strand)
  | sampler
  deriving DecidableEq, Repr

/-- The section a table word is read in: the first, in the order control, vector, matrix, copy, sampler, that has an instruction for it. -/
noncomputable def tableSection (ws : List W32) : Section :=
  if (decodeControl ws).instr?.isSome then .strand .control
  else if (decodeVector ws).instr?.isSome then .strand .vector
  else if (decodeMatrix ws).instr?.isSome then .strand .matrixA
  else if (decodeCopy ws).instr?.isSome then .strand .copy
  else .sampler

/-- The state a sampler's program starts a block from, its four words at the first byte of CLM. -/
def placedRun : SampRun :=
  let sc : SampCtx := { parseCtx 0 0 with pbase := 0x10000000, plen := 4, final := 0, budget := 0xFFFFFFFF }
  let d : SampDesc := { resaddr := 0, auxaddr := 0, ltype := 0, raise := 15, shard := false, cmask := 0, segs := [], coll := 0, nsh := 0,
                        shidx := 0, kc := 0, rootpkg := 0, rootcl := 0, timeout := 0 }
  { SampJob.start { id := 0, core := 0, ctx := 0, idx := 0, desc := d, second := false } sc 0 with phase := .block }

/-- The state with an instruction's words placed where its strand of core 0, or the sampler of cluster 0, fetches them, and that strand
running, not waiting, and next to move. -/
noncomputable def Mach.placed (m : Mach) (ws : List W32) : Mach :=
  match tableSection ws with
  | .strand .control =>
    let m1 := { m with mem := placeWords m.mem (spmKey 0 0) ws }
    m1.onCore 0 fun k => { k with stop := false, ctl := { k.ctl with pc := 0, status := .running, wait := none, pending := [], events := [] } }
  | .strand .vector =>
    let m1 := { m with mem := placeWords m.mem (spmKey 0 0) ws }
    m1.onCore 0 fun k => { k with stop := false, sets := k.sets.set 0 { k.sets[0] with swap := false }
                                  vec := { k.vec with pc := 0, status := .running, skip := false, wait := none } }
  | .strand t =>
    let m1 := { m with mem := placeWords m.mem (spmKey 0 0) ws }
    m1.onCore 0 fun k =>
      let r : CmdRing := { run := true, halt := false, lsize := 6, base := 0, rp := 0, wp := 4, sLevel := [] }
      let k1 := { k with stop := false, lease := .held false 0, sets := k.sets.set (engineNo (engineOf t)) { k.sets[engineNo (engineOf t)] with swap := false }
                         rings := k.rings.set (ringOf t) r, reread := none }
      k1.onEng t fun e => { e with fetched := none, flights := [] }
  | .sampler => { m with mem := placeWords m.mem (clmKey 0 0) ws }.onRun 0 placedRun

/-- Whose turn it is once an instruction stands there. -/
noncomputable def placedTurn (ws : List W32) : Turn :=
  match tableSection ws with
  | .strand t => .strand 0 t
  | .sampler => .sampler 0

end Sys2Proof.Machine
end

