-- ==== Sys2Proof/Machine/Step.lean ====
section
/-! DEFINITION. One step of the machine, and the state in which the next step runs a given instruction word. -/

namespace Sys2Proof.Machine

/-- What follows an instruction or a turn: `State.afterTurn` on a next state. -/
def finishStep (o : Host.Outcome State Fault Refusal) : Host.Outcome State Fault Refusal :=
  match o with
  | .next s => .next s.afterTurn
  | .fault f => .fault f
  | .refused r => .refused r

/-- One step: the work of the turn, an instruction run if it brings one, and the next turn. -/
noncomputable def step (s : State) : Host.Outcome State Fault Refusal :=
  match s.work with
  | .idle s1 => .next s1.afterTurn
  | .run i s1 => finishStep (exec i s1)

/-- The table word stored where the next step fetches it (`Mach.placed`): its strand of core 0, or the sampler of cluster 0, runs and moves
next, and the clocks run. -/
noncomputable def State.withFetchWord (s : State) (nbits w : Nat) : State :=
  let ws := tableWords (w % 2 ^ nbits)
  { s with mach := s.mach.placed ws, turn := placedTurn ws, fw := { s.fw with down := false } }

end Sys2Proof.Machine
end

