-- ==== Sys2Proof/Safety.lean ====
section
/-! DEFINITION. What a safe run of this machine is, and the terms in which claims are stated: an instruction of a strand that goes on to
the next one, with what it sets and nothing else. -/

namespace Sys2Proof.Machine

/-- The program counter stays in SPM past n words (02 R42). -/
def State.fits (s : State) (n : Nat) : Prop := s.ctl.pc.toNat + n < 2 ^ 18

/-- No source is poisoned (03 R72 to R74). -/
def State.cleanSrcs (s : State) (l : List Src) : Prop := ∀ v ∈ l, (s.ctl.src v).tag = 0

/-- A source's value (02 R45). -/
def State.val (s : State) (v : Src) : W64 := (s.ctl.src v).val

/-- A machine in which the control strand of the running core has gone n words further and `f` has been done to its registers. -/
def State.onward (s : State) (m : Mach) (n : Nat) (f : Ctl → Ctl) : State :=
  { s with mach := m.onCtl s.cur.core fun k => { f k with pc := k.pc + BitVec.ofNat 18 n, wait := none } }

/-- The control strand gone n words further, with `f` done to its registers, and everything else as it was. -/
def State.ctlNext (s : State) (n : Nat) (f : Ctl → Ctl) : State := s.onward s.mach n f

/-- The control strand gone n words further, with a clean value in a destination (31 discards it). -/
def State.wrote (s : State) (n : Nat) (d : Dst) (v : W64) : State := s.ctlNext n fun k => k.write d (clean v)

/-- How an access of the running core's control strand is checked: its own earlier stores count as performed (09 R259, 10 R279). -/
def State.sees (s : State) (ea : W64) (n : Nat) (kind : Kind) : Except NoPlace Place :=
  checked (s.mach.seen s.cur.core .control) (s.mach.asker s.cur.core) ea n kind

/-- Storage is as it was, but for the device memory in which the device keeps the mooring lists of the contexts (13 R387). -/
def Mach.keepsStorage (m m1 : Mach) : Prop :=
  (∀ a, m.inList a = false → memByte m1.mem a = memByte m.mem a) ∧ m1.mem.empt = m.mem.empt ∧ m1.mem.pois = m.mem.pois

/-- A raise of a semaphore (15 is none) that no strand waits on: it goes up by 1, saturating, and every other is as it was (11 R330). -/
def Core.raised (k k' : Core) (raise : BitVec 4) : Prop :=
  (raise.toNat = 15 → k'.sm = k.sm) ∧
  ∀ h : raise.toNat < 15, k.smw[raise.toNat] = [] → ∀ n : Fin 15,
    k'.sm[n].toNat = if n.val = raise.toNat then min (2 ^ 32 - 1) (k.sm[n].toNat + 1) else k.sm[n].toNat

/-- A step goes on: it neither faults nor is refused. -/
def goesOn (o : Host.Outcome State Fault Refusal) : Prop := ∃ t, o = .next t

/-- A safe run: every step goes on, and memory keeps its canonical form. -/
def State.safe (s : State) : Prop := memWf s.mach.mem = true ∧ ∃ t, step s = .next t ∧ memWf t.mach.mem = true

/-! The vector strand. -/

/-- The vector strand's program counter stays in SPM past n words (02 R42). -/
def State.vfits (s : State) (n : Nat) : Prop := s.vec.pc.toNat + n < 2 ^ 18

/-- Nothing changed but the running core's vector strand: memory, its bits and marks, the stores not yet performed, the other cores, and
the core's other strands, engines, queues and semaphores are as they were. -/
def State.onlyVector (s t : State) : Prop :=
  t.mach.mem = s.mach.mem ∧ t.mach.pend = s.mach.pend ∧ (∀ e, e ≠ s.cur.core → t.mach.cores[e] = s.mach.cores[e]) ∧
  { t.core s.cur.core with vec := s.vec, smw := (s.core s.cur.core).smw } = s.core s.cur.core ∧ t.fw = s.fw ∧ t.cur = s.cur

/-- The vector strand has gone n words further from `v1`, with clean lanes written to `d` where `f` gives them, their flags raised, and its
other lanes, registers and flags as they were (05 R134, R138, R141, R145). -/
def State.wroteLanes (s t : State) (v1 : Vec) (n : Nat) (d : VDst) (f : Nat → Option (W32 × FpFlags)) : Prop :=
  let v := t.core s.cur.core |>.vec
  let raised (old : Bool) (g : FpFlags → Bool) : Bool := old || (List.range 1024).any fun i => ((f i).map fun o => g o.2).getD false
  s.onlyVector t ∧
  v = { v1.retire with
        v := v.v, pc := s.vec.pc + BitVec.ofNat 18 n, wait := none, issued := false,
        flagSat := raised v1.flagSat (·.sat), flagNx := raised v1.flagNx (·.nx), flagUf := raised v1.flagUf (·.uf),
        flagOf := raised v1.flagOf (·.of), flagDz := raised v1.flagDz (·.dz), flagNv := raised v1.flagNv (·.nv) } ∧
  ∀ r : Fin 32,
    if (match d with | .reg x => v1.regNo x == r | .none => false) then
      (∀ i : Fin 1024, v.v[r].lanes[i] = match f i.val with | some o => { bits := o.1, tag := 0 } | none => v1.v[r].lanes[i]) ∧
      v.v[r].faddr = if v.v[r].lanes.all (fun l => l.tag == 0) then 0 else v1.v[r].faddr
    else v.v[r] = v1.v[r]

/-- The lanes an instruction reads at its active lanes are clean (05 R146); sources are numbered 0 a, 1 b, 2 d. -/
def VIn.cleanAt (x : VIn) (reads : Nat → List (Nat × Nat)) : Prop := ∀ i, i < 1024 → x.active i = true → ∀ r ∈ reads i, ((x.src r.1).at r.2).tag = 0

/-! The matrix and copy strands. -/

/-- The fetched step of an engine strand may go on: its await is satisfied (02 R56). -/
def State.steps (s : State) (t : Strand) (w : Sems) : Prop := (s.core s.cur.core).awaitOk t w.aw = true

/-- The await and raise fields of a matrix strand's step (06 R179). -/
def matrixStep? (i : Instr) : Option Sems :=
  match i with
  | .mma w _ | .mmaz w _ | .mmasg w _ | .fset w _ _ | .fqrd w _ | .mthr w _ | .scld w _ _ _ _ _ | .acczero w _ _ | .epil w _ _ | .epobj w _ _ _
  | .eprow w _ _ | .epadd w _ _ | .accst w _ _ _ _ | .accld w _ _ _ _ | .mqwr w _ | .mqwrSt w | .mrel w | .msync w | .mjmp w _ _ => some w
  | _ => none

/-- The same for a copy strand's step (10 R296). -/
def copyStep? (i : Instr) : Option Sems :=
  match i with
  | .tmov w _ _ _ _ _ _ | .tmov2d w _ _ _ _ | .rrot w _ _ _ _ _ | .gath w _ _ _ _ _ _ | .scat w _ _ _ _ _ _ | .rpush w _ _ _ _ | .cfill w _ _ _ _ _
  | .crstr w _ _ _ _ _ | .csync w _ | .cqwr w _ | .fwr w _ _ _ _ _ _ _ | .frd w _ _ _ _ _ _ _ | .fatom w _ _ _ _ _ | .lbregBuffer w _ | .lbregPort w _
  | .lbregClose w _ | .lbregOpen w _ | .lbregRedirect w _ | .lbrelBuffer w _ | .lbrelPort w _ | .a2av w _ _ | .rscat w _ _ | .agath w _ _ | .bcast w _ _
  | .pgmovUp w _ _ _ | .pgmovDown w _ _ _ | .feset w _ _ _ _ | .obcopy w _ _ _ => some w
  | _ => none

/-- The machine as a step is examined: its strand's report entries have entered its queue as far as there is room (06 R190). -/
def State.drainedFor (s : State) (t : Strand) : Mach := s.mach.onCore s.cur.core fun k => k.drainReport t

/-- A step faults with no effect but its strand's halt and report (06 R190, 10 R297). -/
def State.stepTraps (s : State) (t : Strand) (w : Sems) (op : Instr) (words : Nat) (f : Trap) : Prop :=
  exec op s = .next { s with mach := (s.drainedFor t).engFault s.cur.core t w.aw (stepSource t op) words f }

/-- What a step leaves alone as it starts or completes without writing: memory, the stores not yet performed, the other cores, and the
core's vector strand and mutexes. Its read pointer is past the step's words, and its await is taken (02 R56, 03 R83). -/
def State.passedWord (s t' : State) (t : Strand) (words : Nat) : Prop :=
  let k := s.core s.cur.core
  let k' := t'.core s.cur.core
  t'.mach.mem = s.mach.mem ∧ t'.mach.pend = s.mach.pend ∧ (∀ e, e ≠ s.cur.core → t'.mach.cores[e] = s.mach.cores[e]) ∧
  k'.vec = k.vec ∧ k'.mx = k.mx ∧ k'.sets = k.sets ∧
  k'.rings[ringOf t].rp = k.rings[ringOf t].rp + BitVec.ofNat 32 words ∧ (k'.eng t).fetched = none ∧ t'.fw = s.fw ∧ t'.cur = s.cur

/-- A step has started: its flight, with its messages sent, is the last of its strand's, and completes later. -/
def State.startedStep (s t' : State) (t : Strand) (w : Sems) (op : Instr) (words : Nat) (sent : List (BitVec 12 × FabBody)) (p : Flight → Prop) : Prop :=
  let k := s.core s.cur.core
  let k' := t'.core s.cur.core
  s.passedWord t' t words ∧ k'.ctl = k.ctl ∧ ((∀ w q l g o, op ≠ .rpush w q l g o) → k'.rg = k.rg) ∧
  (w.aw.toNat = 15 → k'.sm = k.sm) ∧
  (∀ h : w.aw.toNat < 15, k.smw[w.aw.toNat] = [] → k'.sm[w.aw.toNat].toNat = k.sm[w.aw.toNat].toNat - 1) ∧
  ∃ (f : Flight) (es : List FabEntry), (k'.eng t).flights.getLast? = some f ∧ (k'.eng t).flights.length = (k.eng t).flights.length + 1 ∧
    (sent = [] → (k'.eng t).flights = (k.eng t).flights ++ [f]) ∧
    f.op = op ∧ f.words = words ∧ f.rp = k.rings[ringOf t].rp ∧ f.startAt = s.mach.scyc ∧ f.raise = w.rs ∧ f.failed = none ∧ p f ∧
    t'.mach.fab.net = s.mach.fab.net ++ es ∧ es.map (fun e => (e.msg.dst, e.msg.body)) = sent ∧ f.msgs = es.map (·.msg.id)

/-- A step has completed as it started: its semaphore is raised and its requested events are delivered. -/
def State.finishedStep (s t' : State) (t : Strand) (w : Sems) (op : Instr) (words : Nat) : Prop :=
  let k := s.core s.cur.core
  let k' := t'.core s.cur.core
  s.passedWord t' t words ∧ k'.rg = k.rg ∧ (k'.eng t).flights = (k.eng t).flights ∧
  k'.ctl = k.ctl.fireStep (ringOf t) k.rings[ringOf t].rp words (stepSource t op) 0 ∧
  (w.aw.toNat = 15 → w.rs.toNat = 15 → k'.sm = k.sm) ∧
  (∀ h : w.rs.toNat < 15, w.aw.toNat = 15 → k.smw[w.rs.toNat] = [] → k'.sm[w.rs.toNat].toNat = min (2 ^ 32 - 1) (k.sm[w.rs.toNat].toNat + 1))

/-- An array step starts: its slots are filled and its strand holds the lease, with fewer than 32 steps counted (06 R178). -/
def State.arrayStarts (s : State) (t : Strand) (w : Sems) (op : Instr) (n : Nat) : Prop :=
  s.steps t w ∧ (s.core s.cur.core).slotsFilled op = true ∧ (s.core s.cur.core).lease = .held (isB t) n ∧ n < 32

/-- The copy strand's asker and machine as a copy step is examined, its report entries drained as far as there is room. -/
def State.copyMach (s : State) : Mach := s.mach.onCore s.cur.core fun k => k.drainReport .copy

/-- A copy step that may start: its await is satisfied, fewer than 8 movers are in flight, and its bytes fit its level's counter (10 R296, R301). -/
def State.copyStarts (s : State) (w : Sems) (pb : Bool) (dl : Fin 4) (bytes : Nat) : Prop :=
  s.steps .copy w ∧ (s.core s.cur.core).moversInFlight < 8 ∧
  (pb = true → 0 < (s.mach.barrier s.cur.core dl).bytes + bytes ∧ (s.mach.barrier s.cur.core dl).bytes + bytes < 2 ^ 28)

/-- The messages of a step, by destination package. -/
def sentOf (l : List Sending) : List (BitVec 12 × FabBody) := l.map fun b => (BitVec.ofNat 12 b.1, b.2.1)

/-- A copy step starts: it counts its bytes, and its flight has these writes and messages. -/
def State.copyStarted (s t' : State) (w : Sems) (op : Instr) (words : Nat) (pb : Bool) (dl : Fin 4) (bytes : Nat) (sends : List Sending) (p : Flight → Prop) : Prop :=
  s.startedStep t' .copy w op words (sentOf sends) (fun f => f.pb = (if pb then some (dl, bytes) else none) ∧ p f) ∧
  (pb = true → (t'.mach.barrier s.cur.core dl).bytes = (s.mach.barrier s.cur.core dl).bytes + bytes)

/-! The samplers. -/

/-- The sampler of the running agent's cluster. -/
def State.sampUnit (s : State) : Sampler := s.mach.samp.units[clusterFin s.cur.core]

/-- The running operation may issue an instruction of a cost (08 R232): it runs its program, and the cost fits its budget unless it has been charged. -/
def State.issues (s : State) (r : SampRun) (cost : Nat) : Prop :=
  s.sampUnit.run = some r ∧ (r.phase = .block ∨ r.phase = .final) ∧
  (r.held = true ∨ r.charge + cost ≤ (if r.sc.budget = 0 then 16384 else r.sc.budget))

/-- The operation with an instruction's cost charged once. -/
def SampRun.charged (r : SampRun) (cost : Nat) : SampRun := if r.held then r else { r with charge := r.charge + cost }

/-- The operation replaced, gone n words on, and everything else as it was. -/
def State.sampNext (s : State) (m : Mach) (r : SampRun) (n : Nat) : State :=
  { s with mach := m.onRun (clusterFin s.cur.core) { r with pc := r.pc + n, held := false } }

end Sys2Proof.Machine
end

