-- ==== Sys2Proof/Certificates/Slice0/Obligations.lean ====
section
/-! DEFINITION. The statements about the model, for the provers. Rules R<n> are those of spec/; a file's number stands before them. -/

open Sys2Proof Sys2Proof.Machine

/-! The control strand's register instructions (03 R73 to R101). -/

/-- R87: the two-source functions without flags. Each writes its result, clean, to its destination, and nothing else of the machine
changes but the program counter.

R87, R88, R92: the single-source and immediate functions. -/
def Obligations.RegisterFunctionsComputeTheirResults : Prop :=
   (∀ (s : State) (d : Dst) (a b : Src), s.fits (1 + litWords [a, b]) → s.cleanSrcs [a, b] →
      let x := s.val a
      let y := s.val b
      let ok (v : W64) : Host.Outcome State Fault Refusal := .next (s.wrote (1 + litWords [a, b]) d v)
      exec (.add d a b) s = ok (BitVec.ofNat 64 (x.toNat + y.toNat)) ∧
      exec (.sub d a b) s = ok (BitVec.ofInt 64 (x.toInt - y.toInt)) ∧
      exec (.mul d a b) s = ok (BitVec.ofInt 64 (x.toInt * y.toInt)) ∧
      exec (.mulh d a b) s = ok (BitVec.ofInt 64 ((x.toInt * y.toInt).fdiv (2 ^ 64))) ∧
      exec (.mulhn d a b) s = ok (BitVec.ofNat 64 (x.toNat * y.toNat / 2 ^ 64)) ∧
      exec (.and d a b) s = ok (x &&& y) ∧
      exec (.or d a b) s = ok (x ||| y) ∧
      exec (.xor d a b) s = ok (x ^^^ y) ∧
      exec (.andn d a b) s = ok (x &&& ~~~y) ∧
      exec (.shl d a b) s = ok (BitVec.ofNat 64 (x.toNat * 2 ^ (y.toNat % 64))) ∧
      exec (.shr d a b) s = ok (BitVec.ofNat 64 (x.toNat / 2 ^ (y.toNat % 64))) ∧
      exec (.sar d a b) s = ok (BitVec.ofInt 64 (x.toInt.fdiv (2 ^ (y.toNat % 64)))) ∧
      exec (.rol d a b) s = ok (x.rotateLeft (y.toNat % 64)) ∧
      exec (.min d a b) s = ok (BitVec.ofInt 64 (min x.toInt y.toInt)) ∧
      exec (.max d a b) s = ok (BitVec.ofInt 64 (max x.toInt y.toInt)) ∧
      exec (.minn d a b) s = ok (BitVec.ofNat 64 (min x.toNat y.toNat)) ∧
      exec (.maxn d a b) s = ok (BitVec.ofNat 64 (max x.toNat y.toNat)) ∧
      exec (.pmake d a b) s = ok (x.extractLsb' 0 24 ++ y.extractLsb' 0 40)) ∧
   (∀ (s : State) (d : Dst) (a : Src) (imm : BitVec 15) (amount : BitVec 6), s.fits (1 + litWords [a]) → s.cleanSrcs [a] →
      let x := s.val a
      let i : Int := imm.toInt
      let ok (v : W64) : Host.Outcome State Fault Refusal := .next (s.wrote (1 + litWords [a]) d v)
      exec (.abs d a) s = ok (BitVec.ofInt 64 x.toInt.natAbs) ∧
      exec (.neg d a) s = ok (BitVec.ofInt 64 (-x.toInt)) ∧
      (∃ n, n ≤ 64 ∧ (∀ k, k < 64 → 64 - n ≤ k → x.getLsbD k = false) ∧ (n < 64 → x.getLsbD (63 - n) = true) ∧ exec (.clz d a) s = ok (BitVec.ofNat 64 n)) ∧
      (∃ n, n ≤ 64 ∧ (∀ k, k < n → x.getLsbD k = false) ∧ (n < 64 → x.getLsbD n = true) ∧ exec (.ctz d a) s = ok (BitVec.ofNat 64 n)) ∧
      exec (.popc d a) s = ok (BitVec.ofNat 64 ((List.range 64).countP fun k => x.getLsbD k)) ∧
      exec (.sext8 d a) s = ok (BitVec.ofInt 64 (x.setWidth 8).toInt) ∧
      exec (.sext16 d a) s = ok (BitVec.ofInt 64 (x.setWidth 16).toInt) ∧
      exec (.sext32 d a) s = ok (BitVec.ofInt 64 (x.setWidth 32).toInt) ∧
      exec (.mov d a) s = ok x ∧
      exec (.phdl d a) s = ok ((x.extractLsb' 40 24).setWidth 64) ∧
      exec (.poff d a) s = ok ((x.extractLsb' 0 40).setWidth 64) ∧
      exec (.addi d a imm) s = ok (BitVec.ofInt 64 (x.toInt + i)) ∧
      exec (.andi d a imm) s = ok (x &&& BitVec.ofInt 64 i) ∧
      exec (.ori d a imm) s = ok (x ||| BitVec.ofInt 64 i) ∧
      exec (.xori d a imm) s = ok (x ^^^ BitVec.ofInt 64 i) ∧
      exec (.shli d a amount) s = ok (BitVec.ofNat 64 (x.toNat * 2 ^ amount.toNat)) ∧
      exec (.shri d a amount) s = ok (BitVec.ofNat 64 (x.toNat / 2 ^ amount.toNat)) ∧
      exec (.sari d a amount) s = ok (BitVec.ofInt 64 (x.toInt.fdiv (2 ^ amount.toNat))) ∧
      exec (.roli d a amount) s = ok (x.rotateLeft amount.toNat))

/-- R87, R78: division, remainder and the saturating functions, with the sticky flags they set: DZ for a zero divisor, SAT for a clipped
result or the overflow of `div`. A flag that is set stays set; the others are unchanged.

R92: pointer offsets add and subtract within 40 bits; a wrap sets PW, and different handles set HD. -/
def Obligations.DivisionSaturationAndPointersSetTheirFlags : Prop :=
   (∀ (s : State) (d : Dst) (a b : Src), s.fits (1 + litWords [a, b]) → s.cleanSrcs [a, b] →
      let n := 1 + litWords [a, b]
      let x := s.val a
      let y := s.val b
      let ok (dz sat : Prop) [Decidable dz] [Decidable sat] (v : W64) : Host.Outcome State Fault Refusal :=
        .next (s.ctlNext n fun k => { k.write d (clean v) with dz := k.dz || decide dz, sat := k.sat || decide sat })
      let low : Int := -(2 ^ 63)
      let top : Int := 2 ^ 63 - 1
      let clamp (lo hi v : Int) : Host.Outcome State Fault Refusal := ok False (v < lo ∨ hi < v) (BitVec.ofInt 64 (max lo (min hi v)))
      exec (.div d a b) s = ok (y = 0) (y ≠ 0 ∧ x.toInt = low ∧ y.toInt = -1)
        (if y = 0 then BitVec.allOnes 64 else BitVec.ofInt 64 (x.toInt.tdiv y.toInt)) ∧
      exec (.divn d a b) s = ok (y = 0) False (if y = 0 then BitVec.allOnes 64 else BitVec.ofNat 64 (x.toNat / y.toNat)) ∧
      exec (.rem d a b) s = ok (y = 0) False
        (if y = 0 then x else BitVec.ofInt 64 (x.toInt - y.toInt * x.toInt.tdiv y.toInt)) ∧
      exec (.remn d a b) s = ok (y = 0) False (if y = 0 then x else BitVec.ofNat 64 (x.toNat % y.toNat)) ∧
      exec (.adds d a b) s = clamp low top (x.toInt + y.toInt) ∧
      exec (.subs d a b) s = clamp low top (x.toInt - y.toInt) ∧
      exec (.muls d a b) s = clamp low top (x.toInt * y.toInt) ∧
      exec (.addsn d a b) s = clamp 0 (2 ^ 64 - 1) (x.toNat + y.toNat) ∧
      exec (.subsn d a b) s = clamp 0 (2 ^ 64 - 1) (x.toNat - y.toNat)) ∧
   (∀ (s : State) (d : Dst) (a b : Src) (imm : BitVec 15), s.cleanSrcs [a, b] →
      let x := s.val a
      let y := s.val b
      let off (v : W64) : Int := (v.extractLsb' 0 40).toNat
      let add (n : Nat) (e : Int) : Host.Outcome State Fault Refusal :=
        .next (s.ctlNext n fun k => { k.write d (clean (x.extractLsb' 40 24 ++ BitVec.ofInt 40 e)) with pw := k.pw || decide (e < 0 ∨ 2 ^ 40 ≤ e) })
      (s.fits (1 + litWords [a, b]) → exec (.padd d a b) s = add (1 + litWords [a, b]) (off x + y.toInt)) ∧
      (s.fits (1 + litWords [a]) → exec (.paddi d a imm) s = add (1 + litWords [a]) (off x + imm.toInt)) ∧
      (s.fits (1 + litWords [a, b]) → exec (.psub d a b) s = .next (s.ctlNext (1 + litWords [a, b]) fun k =>
        { k.write d (clean (BitVec.ofInt 64 (off x - off y))) with hd := k.hd || decide (x.extractLsb' 40 24 ≠ y.extractLsb' 40 24) })))

/-- R73: a propagating instruction writes its first poisoned source, value and tag, to its destination, and sets no flag.

R88 to R91, R101: `movi`, the compares with their ten conditions (R50), the K operations, `sel`, and the three instructions on poison tags. -/
def Obligations.PoisonPropagatesAndKRegistersSelect : Prop :=
   (∀ (s : State) (d : Dst) (a b : Src) (imm : BitVec 15) (amount : BitVec 6) (k : Fin 8),
      let va := s.ctl.src a
      let vb := s.ctl.src b
      let first : XVal := if va.tag ≠ 0 then va else vb
      (s.fits (1 + litWords [a, b]) → (va.tag ≠ 0 ∨ vb.tag ≠ 0) →
        ∀ i ∈ [Instr.add d a b, .sub d a b, .mul d a b, .mulh d a b, .mulhn d a b, .div d a b, .divn d a b, .rem d a b, .remn d a b, .and d a b,
               .or d a b, .xor d a b, .andn d a b, .shl d a b, .shr d a b, .sar d a b, .rol d a b, .min d a b, .max d a b, .minn d a b, .maxn d a b,
               .adds d a b, .subs d a b, .addsn d a b, .subsn d a b, .muls d a b, .padd d a b, .psub d a b, .pmake d a b, .sel d a b k],
          exec i s = .next (s.ctlNext (1 + litWords [a, b]) fun k => k.write d first)) ∧
      (s.fits (1 + litWords [a]) → va.tag ≠ 0 →
        ∀ i ∈ [Instr.abs d a, .neg d a, .clz d a, .ctz d a, .popc d a, .sext8 d a, .sext16 d a, .sext32 d a, .mov d a, .phdl d a, .poff d a,
               .addi d a imm, .andi d a imm, .ori d a imm, .xori d a imm, .paddi d a imm, .shli d a amount, .shri d a amount, .sari d a amount,
               .roli d a amount],
          exec i s = .next (s.ctlNext (1 + litWords [a]) fun k => k.write d va))) ∧
   (∀ (s : State) (d : Dst) (a b : Src) (k p q : Fin 8) (c : Cond) (imm : BitVec 15) (imm11 : BitVec 11),
      let x := s.val a
      let y := s.val b
      let holds (u v : W64) : Bool :=
        match c with
        | .eq => decide (u = v)
        | .ne => decide (u ≠ v)
        | .lt => decide (u.toInt < v.toInt)
        | .le => decide (u.toInt ≤ v.toInt)
        | .gt => decide (u.toInt > v.toInt)
        | .ge => decide (u.toInt ≥ v.toInt)
        | .ltn => decide (u.toNat < v.toNat)
        | .len => decide (u.toNat ≤ v.toNat)
        | .gtn => decide (u.toNat > v.toNat)
        | .gen => decide (u.toNat ≥ v.toNat)
      let setK (n : Nat) (v : Bool) : Host.Outcome State Fault Refusal := .next (s.ctlNext n fun t => { t with k := t.k.set k v })
      (s.fits 1 → exec (.movi d imm) s = .next (s.wrote 1 d (BitVec.ofInt 64 imm.toInt)) ∧
        exec (.kand k p q) s = setK 1 (s.ctl.k[p] && s.ctl.k[q]) ∧
        exec (.kor k p q) s = setK 1 (s.ctl.k[p] || s.ctl.k[q]) ∧
        exec (.kxor k p q) s = setK 1 (xor s.ctl.k[p] s.ctl.k[q]) ∧
        exec (.knot k p) s = setK 1 (!s.ctl.k[p]) ∧
        exec (.kmov k p) s = setK 1 s.ctl.k[p]) ∧
      (s.fits (1 + litWords [a, b]) → s.cleanSrcs [a, b] →
        exec (.cmp k a b c) s = setK (1 + litWords [a, b]) (holds x y) ∧
        exec (.sel d a b p) s = .next (s.wrote (1 + litWords [a, b]) d (if s.ctl.k[p] then x else y))) ∧
      (s.fits (1 + litWords [a]) →
        (s.cleanSrcs [a] → exec (.cmpi k a c imm11) s = setK (1 + litWords [a]) (holds x (BitVec.ofInt 64 imm11.toInt))) ∧
        exec (.csel d a p) s = .next (s.ctlNext (1 + litWords [a]) fun t => if s.ctl.k[p] then t.write d (s.ctl.src a) else t) ∧
        exec (.pchk k a) s = setK (1 + litWords [a]) (decide ((s.ctl.src a).tag = 0)) ∧
        exec (.pclr d a) s = .next (s.wrote (1 + litWords [a]) d x)))

/-! Branches (02 R48, 03 R93 to R95). -/

/-- R93 to R95: branches, calls and jumps to a target inside SPM go there; a call leaves the address after its words in X30; a condition that does
not hold goes on; `jtab` with an index that is not below its length sets K0 and goes on, and with one below loads its entry, clears K0 and jumps.

R48, R93, R94, R42: a target outside SPM traps PERM with the target as fault address, a register target that is not a multiple of 4
traps ALIGN, and an instruction after whose words SPM ends traps PERM at its end. The trapping instruction has no effect of its own. -/
def Obligations.BranchesReachTheirTargetsOrTrap : Prop :=
   (∀ (s : State) (a b : Src) (k : Fin 8) (disp : BitVec 22) (disp26 : BitVec 26) (len : BitVec 15),
      let c := s.cur.core
      let here : Int := 4 * s.ctl.pc.toNat
      let inside (t : Int) : Prop := 0 ≤ t ∧ t ≤ 0xFFFFC
      let goTo (m : Mach) (t : Int) (f : Ctl → Ctl) : Host.Outcome State Fault Refusal :=
        .next { s with mach := m.onCtl c fun q => { f q with pc := BitVec.ofNat 18 (t / 4).toNat, wait := none } }
      let link (n : Nat) (q : Ctl) : Ctl := { q with x := q.x.set 30 { val := BitVec.ofInt 64 (here + 4 * n), tag := 0 } }
      (inside (here + 4 * disp26.toInt) →
        exec (.b disp26) s = goTo s.mach (here + 4 * disp26.toInt) id ∧ exec (.call disp26) s = goTo s.mach (here + 4 * disp26.toInt) (link 1)) ∧
      (inside (here + 4 * disp.toInt) →
        (s.ctl.k[k] = true → exec (.bc k disp) s = goTo s.mach (here + 4 * disp.toInt) id) ∧
        (s.ctl.k[k] = false → exec (.bcn k disp) s = goTo s.mach (here + 4 * disp.toInt) id)) ∧
      (s.fits 1 →
        (s.ctl.k[k] = false → exec (.bc k disp) s = .next (s.ctlNext 1 id)) ∧
        (s.ctl.k[k] = true → exec (.bcn k disp) s = .next (s.ctlNext 1 id))) ∧
      (s.cleanSrcs [a] → (s.val a).toNat ≤ 0xFFFFF → (s.val a).toNat % 4 = 0 →
        exec (.jr a) s = goTo s.mach (s.val a).toNat id ∧ exec (.callr a) s = goTo s.mach (s.val a).toNat (link (1 + litWords [a]))) ∧
      (s.ctl.x[30].tag = 0 → s.ctl.x[30].val.toNat ≤ 0xFFFFF → s.ctl.x[30].val.toNat % 4 = 0 → exec .ret s = goTo s.mach s.ctl.x[30].val.toNat id) ∧
      (s.cleanSrcs [a, b] → len.toNat ≤ (s.val a).toNat → s.fits (1 + litWords [a, b]) →
        exec (.jtab a b len) s = .next (s.ctlNext (1 + litWords [a, b]) fun q => { q with k := q.k.set 0 true })) ∧
      (∀ (e : W64) (m1 : Mach) (w : Nat), s.cleanSrcs [a, b] → (s.val a).toNat < len.toNat → ptrAdd (s.val b) (4 * (s.val a).toNat) = .ok e →
        s.mach.ctlLoad c e 4 0 = .val m1 w → inside (here + 4 * (BitVec.ofNat 32 w).toInt) → w < 2 ^ 32 →
        exec (.jtab a b len) s = goTo m1 (here + 4 * (BitVec.ofNat 32 w).toInt) fun q => { q with k := q.k.set 0 false })) ∧
   (∀ (s : State) (a b : Src) (k : Fin 8) (disp : BitVec 22) (disp26 : BitVec 26) (len imm : BitVec 15) (d : Dst),
      let c := s.cur.core
      let here : Int := 4 * s.ctl.pc.toNat
      let outside (t : Int) : Prop := t < 0 ∨ 0xFFFFC < t
      let trap (n : Nat) (cls : TrapClass) (v : W64) : Host.Outcome State Fault Refusal :=
        .next { s with mach := s.mach.takeTrap c (s.ctl.pc + BitVec.ofNat 18 n) { cls := cls, addr := v } }
      let reg (i : Instr) (n : Nat) (t : XVal) : Prop :=
        (t.tag = 0 → 0xFFFFF < t.val.toNat → exec i s = trap n .perm t.val) ∧
        (t.tag = 0 → t.val.toNat ≤ 0xFFFFF → t.val.toNat % 4 ≠ 0 → exec i s = trap n .align t.val) ∧
        (t.tag ≠ 0 → exec i s = trap n (tagClass t.tag) t.val)
      let n := 1 + litWords [a, b]
      let x := (s.val a).toNat
      let far (disp : Int) (i : Instr) : Prop := outside (here + 4 * disp) → exec i s = trap 1 .perm (BitVec.ofInt 64 (here + 4 * disp))
      far disp26.toInt (.b disp26) ∧ far disp26.toInt (.call disp26) ∧
      (s.ctl.k[k] = true → far disp.toInt (.bc k disp)) ∧ (s.ctl.k[k] = false → far disp.toInt (.bcn k disp)) ∧
      reg (.jr a) (1 + litWords [a]) (s.ctl.src a) ∧ reg (.callr a) (1 + litWords [a]) (s.ctl.src a) ∧ reg .ret 1 s.ctl.x[30] ∧
      ((s.ctl.src a).tag ≠ 0 → exec (.jtab a b len) s = trap n (tagClass (s.ctl.src a).tag) (s.val a)) ∧
      (s.cleanSrcs [a] → (s.ctl.src b).tag ≠ 0 → exec (.jtab a b len) s = trap n (tagClass (s.ctl.src b).tag) (s.val b)) ∧
      (s.cleanSrcs [a, b] → x < len.toNat →
        (2 ^ 40 ≤ (s.val b).toNat % 2 ^ 40 + 4 * x → exec (.jtab a b len) s = trap n .perm (s.val b)) ∧
        (∀ e, ptrAdd (s.val b) (4 * x) = .ok e →
          (e.toNat % 4 ≠ 0 → exec (.jtab a b len) s = trap n .align e) ∧
          (∀ m1 t, s.mach.ctlLoad c e 4 0 = .fault m1 t → exec (.jtab a b len) s = .next { s with mach := m1.takeTrap c (s.ctl.pc + BitVec.ofNat 18 n) t }) ∧
          (∀ m1 w, s.mach.ctlLoad c e 4 0 = .val m1 w → w < 2 ^ 32 → outside (here + 4 * (BitVec.ofNat 32 w).toInt) →
            exec (.jtab a b len) s = trap n .perm (BitVec.ofInt 64 (here + 4 * (BitVec.ofNat 32 w).toInt))))) ∧
      (s.ctl.pc.toNat = 2 ^ 18 - 1 → exec (.movi d imm) s = trap 1 .perm 0x100000))

/-! Queues, shape registers and system registers (03 R76 to R86, R96 to R105). -/

/-- R84 to R86, R96: a read takes the head of an odd queue that holds an entry; a write appends to an even queue with room, after the
strand's earlier stores; the `try` forms say in K0 whether they did.

R86: `qrd` of an empty queue and `qwr` of a full one block: nothing is read or written, and the strand waits from the first attempt on;
at the end of its MBUD0 budget the wait traps FE_EXPIRE with fault address 0.

Of the model, not of the spec alone: log entries 6 and 7. -/
def Obligations.QueueInstructionsTransferOrWait : Prop :=
   (∀ (s : State) (d : Dst) (a : Src) (q : Fin 8),
      let c := s.cur.core
      let n := 1 + litWords [a]
      let queue := s.mach.cores[c].q[q]
      let setQ (m : Mach) (l : List W64) : Mach := m.onCore c fun k => { k with q := k.q.set q l }
      let stored := setQ (s.mach.flushAll c .control) (queue ++ [s.val a])
      (q.val % 2 = 1 → s.fits 1 →
        (∀ v rest, queue = v :: rest →
          exec (.qrd d q) s = .next (s.onward (setQ s.mach rest) 1 fun k => k.write d (clean v)) ∧
          exec (.qtryrd d q) s = .next (s.onward (setQ s.mach rest) 1 fun k => (k.write d (clean v)).setK 0 true)) ∧
        (queue = [] → exec (.qtryrd d q) s = .next (s.ctlNext 1 fun k => k.setK 0 false))) ∧
      (q.val % 2 = 0 → s.fits n → s.cleanSrcs [a] →
        (queue.length < 8 →
          exec (.qwr q a) s = .next (s.onward stored n id) ∧ exec (.qtrywr q a) s = .next (s.onward stored n fun k => k.setK 0 true)) ∧
        (8 ≤ queue.length → exec (.qtrywr q a) s = .next (s.ctlNext n fun k => k.setK 0 false)))) ∧
   (∀ (s : State) (d : Dst) (a : Src) (q : Fin 8),
      let c := s.cur.core
      let m := s.mach
      let queue := m.cores[c].q[q]
      let blocks (n : Nat) (o : Host.Outcome State Fault Refusal) : Prop :=
        (s.ctl.wait = none → o = .next { s with mach := m.onCtl c fun k => { k with wait := some (m.newWait c .control 0 n .trap false) } }) ∧
        (∀ w, s.ctl.wait = some w → m.scyc < w.start + w.budget → o = .next s) ∧
        (∀ w, s.ctl.wait = some w → w.start + w.budget ≤ m.scyc → w.expiry = .trap →
          o = .next { s with mach := m.takeTrap c (s.ctl.pc + BitVec.ofNat 18 n) { cls := .feExpire, addr := w.ea } })
      (m.newWait c .control 0 1 .trap false).budget = s.ctl.mbud[0].toNat ∧ (m.newWait c .control 0 1 .trap false).start = m.scyc ∧
      (q.val % 2 = 1 → queue = [] → blocks 1 (exec (.qrd d q) s)) ∧
      (q.val % 2 = 0 → 8 ≤ queue.length → s.cleanSrcs [a] → blocks (1 + litWords [a]) (exec (.qwr q a) s)))

/-- R99, R100: a valid image in memory becomes the shadow shape or layout register it names, and an image that is not valid traps SHAPE at its
address and changes no register; `shswap` leaves an exchange of the engine's sets pending.

R97, R98: which images are valid, and what they set: a rank of 1 to 4 with zero extents at and above it, a type and a kind in range, zero
reserved bytes, and a row table exactly for the kinds that use one.

Of the model, not of the spec alone: log entry 7. -/
def Obligations.ShapeImagesAreCheckedAndReachTheShadowSets : Prop :=
   (∀ (s : State) (a : Src) (e : Engine) (r : Fin 8),
      let c := s.cur.core
      let n := 1 + litWords [a]
      let i := engineNo e
      let shadow (m : Mach) (f : RegSet → RegSet) : State :=
        s.onward (m.onCore c fun k => { k with sets := k.sets.set i { k.sets[i] with shadow := f k.sets[i].shadow } }) n id
      s.mach.cores[c].sets[i].swap = false →
      (s.cleanSrcs [a] → s.fits n →
        (∀ m1 img sh, s.mach.ctlImage c (s.val a) 32 = .val m1 img → m1.cores[c].ctl.pc = s.ctl.pc → parseShape img = some sh →
          exec (.shwr r a e) s = .next (shadow m1 fun t => { t with sh := t.sh.set r sh })) ∧
        (∀ m1 img ly, s.mach.ctlImage c (s.val a) 64 = .val m1 img → m1.cores[c].ctl.pc = s.ctl.pc → parseLayout img = some ly →
          exec (.lywr r a e) s = .next (shadow m1 fun t => { t with ly := t.ly.set r ly }))) ∧
      (s.cleanSrcs [a] →
        let trap : Host.Outcome State Fault Refusal :=
          .next { s with mach := s.mach.takeTrap c (s.ctl.pc + BitVec.ofNat 18 n) { cls := .shape, addr := s.val a } }
        (∀ m1 img, s.mach.ctlImage c (s.val a) 32 = .val m1 img → parseShape img = none → exec (.shwr r a e) s = trap) ∧
        (∀ m1 img, s.mach.ctlImage c (s.val a) 64 = .val m1 img → parseLayout img = none → exec (.lywr r a e) s = trap)) ∧
      (s.fits 1 → exec (.shswap e) s =
        .next (s.onward (s.mach.onCore c fun k => { k with sets := k.sets.set i { k.sets[i] with swap := true } }) 1 id))) ∧
   (∀ img : Nat,
      let byte (k n : Nat) : Nat := img / 256 ^ k % 256 ^ n
      (∀ sh, parseShape img = some sh ↔
        (1 ≤ byte 16 1 ∧ byte 16 1 ≤ 4 ∧ (∀ i : Fin 4, byte 16 1 ≤ i.val → byte (4 * i.val) 4 = 0) ∧ byte 17 15 = 0) ∧
        sh.rank = BitVec.ofNat 8 (byte 16 1) ∧ ∀ i : Fin 4, sh.ext[i] = BitVec.ofNat 32 (byte (4 * i.val) 4)) ∧
      (∀ ly, parseLayout img = some ly ↔
        (byte 40 1 ≤ 13 ∧ byte 41 1 ≤ 3 ∧ byte 42 6 = 0 ∧ byte 56 8 = 0 ∧ (2 ≤ byte 41 1 ↔ byte 48 8 ≠ 0)) ∧
        ly.ptr = BitVec.ofNat 64 (byte 0 8) ∧ (∀ i : Fin 4, ly.stride[i] = BitVec.ofNat 64 (byte (8 + 8 * i.val) 8)) ∧
        ly.type = BitVec.ofNat 4 (byte 40 1) ∧ ly.kind = BitVec.ofNat 2 (byte 41 1) ∧ ly.rowtab = BitVec.ofNat 64 (byte 48 8)))

/-- R76, R77, R102: `srr` writes the register's value, clean; `srw` of a register that may be written and whose own checks pass makes the write,
in each of the rows it has in the table.

R76, R77, R40: an unassigned number traps ILLEGAL; at U a supervisor register traps PRIV, for reads and writes; a register without a
writable field traps PRIV on a write at every level.

What some register writes leave (R78, R83, R103, R410, R411, R415): CFLAGS bits clear by writing 1 and are never set; CRCFG of a stopped ring sets
its fields; CRWP only moves forward by at most the ring's size; TREFL.MASK never holds the bits of OBJ_MISS, REPLAY_DIV and the codes 0 and 15;
VSTAT.RUN resumes a stopped vector strand at the address written.

R24, R30, R78 to R81, R83, R104: what `srr` answers of the registers that U may read: the flags, the numbers of queue entries, the s-cycle count, the
budgets, a domain's identifier, size and index, the package and the logical core, the event registers, and a ring's RUN, HALT, size and base. -/
def Obligations.SystemRegistersAreReadWrittenAndChecked : Prop :=
   (∀ (s : State) (d : Dst) (a : Src) (num : BitVec 15) (r : SysReg) (ring : RingNo) (m1 : Mach),
      let c := s.cur.core
      let n := 1 + litWords [a]
      let may (x : SysReg) : Prop := (x.supOnly = true → s.ctl.sup = true) ∧ x.readOnly = false
      let writes (x : SysReg) : Prop := may x ∧ s.cleanSrcs [a] ∧ s.mach.sysWrite c x (s.val a) = .ok m1 ∧ m1.cores[c].ctl.pc.toNat + n < 2 ^ 18
      let done : Host.Outcome State Fault Refusal := .next (s.onward m1 n id)
      let i : Fin 3 := match ring with | .matrixA => 0 | .matrixB => 1 | .copy => 2
      (sysReg? num = some r → (r.supOnly = true → s.ctl.sup = true) → s.fits 1 →
        exec (.srr d num) s = .next (s.wrote 1 d (s.mach.sysRead c r))) ∧
      (sysReg? num = some r → writes r → exec (.srw num a) s = done) ∧
      (writes (.crcfg i) → exec (.crcfgWrite ring a) s = done) ∧
      (writes (.crrp i) → exec (.crrpWrite ring a) s = done) ∧
      (writes (.crwp i) → exec (.crwpWrite ring a) s = done) ∧
      (writes .mcinv → exec (.mcinvWrite a) s = done) ∧
      (writes .mlcfg → exec (.mlcfgWrite a) s = done) ∧
      (writes .vstat → exec (.vstatWrite a) s = done)) ∧
   (∀ (s : State) (d : Dst) (a : Src) (num : BitVec 15),
      let c := s.cur.core
      let trap (n : Nat) (cls : TrapClass) : Host.Outcome State Fault Refusal :=
        .next { s with mach := s.mach.takeTrap c (s.ctl.pc + BitVec.ofNat 18 n) { cls := cls, addr := 0 } }
      (sysReg? num = none → exec (.srr d num) s = trap 1 .illegal ∧ exec (.srw num a) s = trap (1 + litWords [a]) .illegal) ∧
      (∀ r, sysReg? num = some r →
        (s.ctl.sup = false → r.supOnly = true → exec (.srr d num) s = trap 1 .priv ∧ exec (.srw num a) s = trap (1 + litWords [a]) .priv) ∧
        (r.readOnly = true → exec (.srw num a) s = trap (1 + litWords [a]) .priv)) ∧
      (∀ r, sysReg? num = some r → 0x100 ≤ num.toNat → r.supOnly = true)) ∧
   (∀ (s : State) (d : Dst) (n : Fin 5) (i : Fin 4) (r : Fin 3), s.fits 1 →
      let k := s.ctl
      let core := s.core s.cur.core
      let flag (b : Bool) : Nat := if b then 1 else 0
      let reads (num : Nat) (v : Nat) : Prop := exec (.srr d (BitVec.ofNat 15 num)) s = .next (s.wrote 1 d (BitVec.ofNat 64 v))
      reads 0x00 (8 * flag k.hd + 4 * flag k.pw + 2 * flag k.sat + flag k.dz) ∧
      reads 0x01 (flag k.specEn) ∧
      reads 0x02 ((List.finRange 8).map fun j => core.q[j].length * 16 ^ j.val).sum ∧
      reads 0x03 s.mach.scyc ∧
      reads (0x10 + n.val) k.rbud[n].toNat ∧
      reads (0x18 + n.val) k.mbud[n].toNat ∧
      reads (0x20 + i.val) (core.dom[i].1.toNat * 2 ^ 40 + core.dom[i].2.1 * 2 ^ 20 + core.dom[i].2.2) ∧
      reads 0x24 (s.mach.pkg.toNat * 2 ^ 7 + core.lcidCore.toNat) ∧
      reads 0x30 (flag k.uiOvf * 2 ^ 16 + k.events.length * 2 ^ 8 + 2 * flag k.uiActive + flag k.uiEn) ∧
      reads 0x31 (4 * k.uiVec.toNat) ∧
      reads 0x32 (4 * k.uiEpc.toNat) ∧
      reads 0x33 (k.uiCause.source.toNat * 2 ^ 40 + k.uiCause.status.toNat * 2 ^ 32 + k.uiCause.tag.toNat) ∧
      reads (0x40 + 4 * r.val) (flag core.rings[r].run * 2 ^ 63 + flag core.rings[r].halt * 2 ^ 62 + core.rings[r].lsize.toNat * 2 ^ 32 + core.rings[r].base.toNat) ∧
      reads (0x41 + 4 * r.val) core.rings[r].rp.toNat ∧
      reads (0x42 + 4 * r.val) core.rings[r].wp.toNat ∧
      (k.sup = true → reads 0x25 (core.physCluster.toNat * 2 ^ 4 + core.physCore.toNat))) ∧
   (∀ (m m1 : Mach) (c : CoreId) (v : W64) (n : Fin 3),
      (m.sysWrite c .cflags v = .ok m1 →
        m1 = m.onCtl c fun k => { k with hd := k.hd && !v.getLsbD 3, pw := k.pw && !v.getLsbD 2, sat := k.sat && !v.getLsbD 1, dz := k.dz && !v.getLsbD 0 }) ∧
      (m.sysWrite c (.crcfg n) v = .ok m1 →
        let r := m.cores[c].rings[n]
        let t := m1.cores[c].rings[n]
        t.run = v.getLsbD 63 ∧ t.lsize.toNat = v.toNat / 2 ^ 32 % 32 ∧ t.base.toNat = v.toNat % 2 ^ 20 ∧ t.rp = r.rp ∧ t.wp = r.wp ∧
        6 ≤ t.lsize.toNat ∧ t.lsize.toNat ≤ 16 ∧ t.base.toNat % 64 = 0 ∧ t.base.toNat + 4 * 2 ^ t.lsize.toNat ≤ 2 ^ 20 ∧
        (v.getLsbD 63 = true → t.halt = false) ∧ (r.run = true → t.lsize = r.lsize ∧ t.base = r.base) ∧
        (v.getLsbD 63 = false → (m1.cores[c].eng (strandOfRing n)).fetched = none)) ∧
      (m.sysWrite c (.crwp n) v = .ok m1 →
        let r := (m.flushAll c .control).cores[c].rings[n]
        m1.cores[c].rings[n].wp = v.setWidth 32 ∧ (v.setWidth 32 - r.rp).toNat ≤ 2 ^ r.lsize.toNat ∧
        (r.wp - r.rp).toNat ≤ (v.setWidth 32 - r.rp).toNat) ∧
      (m.sysWrite c .trefl v = .ok m1 →
        ∀ i : Nat, i < 16 → m1.cores[c].ctl.treflMask.getLsbD i = (v.getLsbD (32 + i) && !(i = 0 || i = 4 || i = 13 || i = 15))) ∧
      (m.sysWrite c .vstat v = .ok m1 → m.cores[c].ctl.vstatStopped = true → v.getLsbD 62 = true →
        m1.cores[c].vec.status = .running ∧ m1.cores[c].vec.pc = BitVec.ofNat 18 (v.toNat / 4) ∧ m1.cores[c].ctl.vstatStopped = false))

/-! Traps and the supervisor (14 R403 to R413). -/

/-- R407: a synchronous trap at U that is not reflected, with a supervisor installed, saves the trapped instruction's address, the address after it,
the cause and the fault address, and enters S at STVEC. The general registers and the stores not yet performed stay, and storage but for the
mooring lists. R174: a vector strand of the same context that waits is to execute its instruction again; nothing else of another core changes.

R409: the traps that were pending for a boundary are held from then on, in their order, but for an OBJ_MISS, which the firmware pager serves: the vector
strand that it stopped runs on.

R408: a synchronous trap at S, or a trap due for S while STVEC.EN is 0, ends the task with KIND 01 and the trap's class: every strand of its
cores is asked to stop, and storage stays, but for the mooring lists.

R410: a synchronous trap at U outside a handler whose class's bit is set in TREFL.MASK goes to task code: X24 to X30 change places with their
shadows, X29 and X30 take the class and the fault address, clean, and the handler runs at TREFL.ADDR, still at U.

Of the model, not of the spec alone: log entry 21. -/
def Obligations.TrapsEnterReflectOrEndTheTask : Prop :=
   (∀ (m : Mach) (c : CoreId) (npc : BitVec 18) (t : Trap),
      let k := m.cores[c].ctl
      let m1 := m.takeTrap c npc t
      let held := k.held ++ k.pending.filter fun a => a.trap.cls != .objMiss
      let missed := k.vstatStopped && k.vstatClass == TrapClass.objMiss.code && k.pending.any fun a => a.src == 1 && a.trap.cls == .objMiss
      k.sup = false → k.stvecEn = true → ¬ (k.uiActive = false ∧ k.treflMask.getLsbD t.cls.code.toNat = true) → held.length ≤ 16 →
        m1.cores[c].ctl = { k with sepc := k.pc, snpc := npc, causeSrc := 0, causeAsync := false, causeClass := t.cls.code, sfaddr := t.addr,
                                   sup := true, pc := k.stvec, wait := none, pending := [], held := held, vstatStopped := k.vstatStopped && !missed } ∧
        m1.cores[c].vec.status = (if missed then .running else m.cores[c].vec.status) ∧
        (∀ d, d ≠ c → ∃ (w : Option Wait) (b : Bool) (l : Vector (List SemWaiter) 15),
          m1.cores[d] = { m.cores[d] with smw := l, vec := { m.cores[d].vec with wait := w, issued := b } } ∧
          (m.cores[d].ctl.ctxid ≠ k.ctxid → m1.cores[d] = m.cores[d])) ∧
        m.keepsStorage m1 ∧ m1.pend = m.pend) ∧
   (∀ (m : Mach) (c : CoreId) (npc : BitVec 18) (t : Trap) (id : Nat) (x : Task),
      let k := m.cores[c].ctl
      let m1 := m.takeTrap c npc t
      (k.sup = true ∨ (k.stvecEn = false ∧ ¬ (k.uiActive = false ∧ k.treflMask.getLsbD t.cls.code.toNat = true))) →
      m.cores[c].task = some id → x ∈ m.ferry.tasks → x.id = id → c ∈ taskCores m c →
        { x with state := .killing, kind := 1, cls := t.cls.code } ∈ m1.ferry.tasks ∧
        (∀ d ∈ taskCores m c, m1.cores[d].stop = true ∧ m1.cores[d].ctl.held = [] ∧ m1.cores[d].ctl.wait = none) ∧ m.keepsStorage m1) ∧
   (∀ (m : Mach) (c : CoreId) (npc : BitVec 18) (t : Trap),
      let k := m.cores[c].ctl
      let k1 := (m.takeTrap c npc t).cores[c].ctl
      k.sup = false → k.uiActive = false → k.treflMask.getLsbD t.cls.code.toNat = true →
        (∀ i : Fin 31, i.val < 24 → k1.x[i] = k.x[i]) ∧
        (∀ (i : Fin 31) (j : Fin 7), i.val = 24 + j.val → i.val < 29 → k1.x[i] = k.sx[j]) ∧
        (∀ (i : Fin 31) (j : Fin 7), i.val = 24 + j.val → k1.sx[j] = k.x[i]) ∧
        k1.x[29] = { val := t.cls.code.setWidth 64, tag := 0 } ∧ k1.x[30] = { val := t.addr, tag := 0 } ∧
        k1.uiEpc = k.pc ∧ k1.uiActive = true ∧ k1.pc = k.treflAddr ∧ k1.sup = false ∧ k1.wait = none ∧ k1.k = k.k ∧
        m.keepsStorage (m.takeTrap c npc t) ∧ (m.takeTrap c npc t).pend = m.pend)

/-- R413, R105: `trap` raises BREAK at itself with its operand as fault address; `rets` returns to SEPC or to SNPC at U and makes the held traps
pending, or ends the task with the saved class; `uiret` exchanges the registers back and resumes at UIEPC.

R413, R105: `rets` at U traps PRIV; `uiret` outside a handler traps ILLEGAL; `rets` at S with another mode traps SHAPE, which ends the task. -/
def Obligations.ReturnsFromTrapsAndEventsResume : Prop :=
   (∀ (s : State) (a : Src),
      let c := s.cur.core
      let k := s.ctl
      (s.cleanSrcs [a] → exec (.trap a) s =
        .next { s with mach := s.mach.takeTrap c (k.pc + BitVec.ofNat 18 (1 + litWords [a])) { cls := .brk, addr := s.val a } }) ∧
      (k.sup = true → s.cleanSrcs [a] →
        (s.val a = 0 → exec (.retsReturn a) s = .next (s.onCtl c fun q =>
          { q with sup := false, pc := q.sepc, pending := q.pending ++ q.held, held := [], wait := none })) ∧
        (s.val a = 1 → exec (.retsReturn a) s = .next (s.onCtl c fun q =>
          { q with sup := false, pc := q.snpc, pending := q.pending ++ q.held, held := [], wait := none })) ∧
        (s.val a = 2 → exec (.retsEnd a) s = .next { s with mach := s.mach.endByTrap c k.causeClass })) ∧
      (k.uiActive = true → ∃ (x : Vector XVal 31) (sx : Vector XVal 7),
        exec .uiret s = .next (s.onCtl c fun q => { q with x := x, sx := sx, uiActive := false, pc := q.uiEpc, wait := none }) ∧
        (∀ i : Fin 31, i.val < 24 → x[i] = k.x[i]) ∧
        ∀ (i : Fin 31) (j : Fin 7), i.val = 24 + j.val → x[i] = k.sx[j] ∧ sx[j] = k.x[i])) ∧
   (∀ (s : State) (a : Src),
      let c := s.cur.core
      let trap (n : Nat) (cls : TrapClass) : Host.Outcome State Fault Refusal :=
        .next { s with mach := s.mach.takeTrap c (s.ctl.pc + BitVec.ofNat 18 n) { cls := cls, addr := 0 } }
      (s.ctl.sup = false → exec (.retsReturn a) s = trap (1 + litWords [a]) .priv ∧ exec (.retsEnd a) s = trap (1 + litWords [a]) .priv) ∧
      (s.ctl.uiActive = false → exec .uiret s = trap 1 .illegal) ∧
      (s.ctl.sup = true → s.cleanSrcs [a] → 3 ≤ (s.val a).toNat → exec (.retsReturn a) s = trap (1 + litWords [a]) .shape))

/-- R413, R425, R428: `snap` rings an armed bell and tags it; the operations of `rpctl` answer the status or the strand's store hash, record the hash
by a store, check it against a word that holds it, start a mode and end it.

Of the model, not of the spec alone: log entries 21 and 53. -/
def Obligations.SnapshotAndReplayControlsComplete : Prop :=
  ∀ (s : State) (d : Dst) (a b : Src),
    let c := s.cur.core
    let m := s.mach
    let n := 1 + litWords [a, b]
    let sel := (s.val b).toNat
    let ctx := s.ctl.ctxid
    let rh (strand : Nat) : W64 := if strand = 0 then m.cores[c].rhCtl else m.cores[c].rhVec
    (s.cleanSrcs [a] → s.fits (1 + litWords [a]) → (s.val a).toNat < 2 ^ 32 →
      (m.bell.arm = true → m.bell.srcSnap = true → ∃ t, exec (.snap a) s = .next t ∧
        t.mach.cores = (m.onCtl c fun k => { k with k := k.k.set 0 true, pc := k.pc + BitVec.ofNat 18 (1 + litWords [a]), wait := none }).cores ∧
        t.mach.bell.tag = (s.val a).setWidth 32 ∧ t.mach.bell.arm = false ∧ t.mach.bell.rung = true ∧
        t.mach.bell.rings = m.bell.rings ++ [(m.scyc + 32, 0, (s.val a).setWidth 32, 0, 0)] ∧ t.mach.mem = m.mem ∧ t.mach.pend = m.pend) ∧
      (¬ (m.bell.arm = true ∧ m.bell.srcSnap = true) → exec (.snap a) s = .next (s.ctlNext (1 + litWords [a]) fun k => k.setK 0 false))) ∧
    (s.cleanSrcs [a, b] → s.fits n → ∀ h : ctx < 64,
      let r := m.replays[ctx]
      (∀ strand, strand ≤ 1 → sel = 16 * strand → exec (.rpctlRdst d a b) s = .next (s.wrote n d r.status)) ∧
      (∀ strand, strand ≤ 1 → sel = 2 + 16 * strand → exec (.rpctlRdhash d a b) s = .next (s.wrote n d (rh strand))) ∧
      (∀ strand key mt use, strand ≤ 1 → sel = 1 + 16 * strand → r.mode = 1 → s.sees (s.val a) 8 .write = .ok (.store key mt use) →
        exec (.rpctlCk d a b) s =
          .next (s.onward (m.issueStore c .control key (leBytes (rh strand).toNat 8) 0 .none mt use) n fun k => k.write d (clean (rh strand)))) ∧
      (∀ strand m1 v, strand ≤ 1 → sel = 1 + 16 * strand → r.mode = 2 → m.ctlLoad c (s.val a) 8 0 = .val m1 v → BitVec.ofNat 64 v = rh strand →
        m1.cores[c].ctl.pc = s.ctl.pc → exec (.rpctlCk d a b) s = .next (s.onward m1 n fun k => k.write d (clean (rh strand)))) ∧
      (s.ctl.sup = true →
        (∀ m1 img r1, sel = 3 → r.mode = 0 → (s.val a).toNat % 64 = 0 → (s.val a).toNat + 64 ≤ 2 ^ 20 → m.ctlImage c (s.val a) 64 = .val m1 img →
          m1.replayConfig ctx img = .ok r1 → (m1.startMode ctx r1).cores[c].ctl.pc = s.ctl.pc →
          exec (.rpctlConfig d a b) s = .next (s.onward (m1.startMode ctx r1) n id)) ∧
        (sel = 4 → exec (.rpctlStop d a b) s =
          .next (s.onward { m with replays := m.replays.set ctx { r with mode := 0 } } n fun k => k.write d (clean r.status)))))

/-! Memory (10 R279 to R294). -/

/-- R281 to R283, R259, R262: a plain load at a place whose checks pass, the strand's own earlier stores counted in, performs the strand's earlier stores
that must come first, and writes the value read there, extended as the mnemonic says; nothing else changes. A load from a remote record or from the
capability list, once its value is there, goes on alike.

R261, R262: a load that was performed before loads that stand earlier takes the value read then (the model's own record of it, log entry 7).

R72, R75: under CSPEC.EN a load without acquire that faults PERM, SHAPE, ALIGN or POISON retires: its destination takes the class as tag and the fault
address as value; so does one whose offset leaves the 40-bit range, PERM at its base. Without CSPEC.EN, or with acquire, it traps precisely.

Of the model, not of the spec alone: log entry 7. -/
def Obligations.LoadsReadTheAddressedBytesAndDeferSpeculativeFaults : Prop :=
   (∀ (s : State) (d : Dst) (base : Src) (q : MemQ), s.cleanSrcs [base] → s.fits (1 + litWords [base]) →
      let c := s.cur.core
      let m := s.mach
      let done (m1 : Mach) (v : W64) : Host.Outcome State Fault Refusal := .next (s.onward m1 (1 + litWords [base]) fun k => k.write d { val := v, tag := 0 })
      let loads (i : Instr) (n : Nat) (ext : Nat → W64) : Prop :=
        ∀ ea, memAddr (s.val base) q.off n = .ok ea →
          (∀ key mt use, s.sees ea n .read = .ok (.store key mt use) →
            let m1 := m.flushFor c .control { loc := locOf key, cls := q.cls, rel := false, mtype := mt, kind := .load, masks := [] }
            ((∀ e ∈ m.early, e.core ≠ c) → exec i s = done m1 (ext (memNat m1.mem key n))) ∧
            (∀ e, m.early = [e] → e.core = c → e.pc = s.ctl.pc → e.ea = ea → e.size = n → exec i s = done { m1 with early := [] } (ext e.value))) ∧
          (∀ m1 v, m.ctlLoad c ea n q.cls = .val m1 v → (∀ e ∈ m.early, e.core ≠ c) → exec i s = done m1 (ext v))
      loads (.ld d base q) 8 (BitVec.ofNat 64) ∧
      loads (.ld32 d base q) 4 (BitVec.ofNat 64) ∧
      loads (.ld32s d base q) 4 (fun v => (BitVec.ofNat 32 v).signExtend 64) ∧
      loads (.ld16 d base q) 2 (BitVec.ofNat 64) ∧
      loads (.ld16s d base q) 2 (fun v => (BitVec.ofNat 16 v).signExtend 64) ∧
      loads (.ld8 d base q) 1 (BitVec.ofNat 64) ∧
      loads (.ld8s d base q) 1 (fun v => (BitVec.ofNat 8 v).signExtend 64)) ∧
   (∀ (s : State) (d : Dst) (base : Src) (q : MemQ), s.cleanSrcs [base] → s.fits (1 + litWords [base]) →
      let c := s.cur.core
      let m := s.mach
      let n := 1 + litWords [base]
      let ends (i : Instr) (m1 : Mach) (t : Trap) : Prop :=
        (s.ctl.specEn = true → q.ord = .none → t.cls ∈ [TrapClass.perm, .shape, .align, .poison] →
          exec i s = .next (s.onward { m1 with early := m1.early.filter fun e => e.core != c } n fun k => k.write d { val := t.addr, tag := t.cls.code })) ∧
        ((s.ctl.specEn = false ∨ q.ord ≠ .none ∨ t.cls ∉ [TrapClass.perm, .shape, .align, .poison]) →
          exec i s = .next { s with mach := m1.takeTrap c (s.ctl.pc + BitVec.ofNat 18 n) t })
      let faults (i : Instr) (size : Nat) : Prop :=
        let o : Int := ((s.val base).toNat % 2 ^ 40 : Nat) + q.off.toInt * size
        ((o < 0 ∨ 2 ^ 40 ≤ o) → ends i m { cls := .perm, addr := s.val base }) ∧
        ∀ ea, memAddr (s.val base) q.off size = .ok ea →
          (∀ t, s.sees ea size .read = .error (.fault t) → ends i m t) ∧ (∀ m1 t, m.ctlLoad c ea size q.cls = .fault m1 t → ends i m1 t)
      faults (.ld d base q) 8 ∧ faults (.ld32 d base q) 4 ∧ faults (.ld32s d base q) 4 ∧ faults (.ld16 d base q) 2 ∧ faults (.ld16s d base q) 2 ∧
      faults (.ld8 d base q) 1 ∧ faults (.ld8s d base q) 1)

/-- R283, R257, R264: a plain store at a place whose checks pass, the strand's own earlier stores counted in, is issued: its low bytes, little-endian, join
the stores not yet performed, with its class and whether it is a release, at core scope or wider. No byte of memory, bit or mark changes yet, and no
other store is performed. A store to a remote record, once its home has answered, goes on; one whose checks fault traps precisely.

R281, R282, R283: a store that is performed writes its bytes at its address and no other byte; no full/empty bit changes; a store of a whole
location by one 8-byte access clears that location's poison mark, and no other mark changes.

R261, R262: performing what a release requires performs every store of the strand, in order, and leaves the other strands' stores.

Of the model, not of the spec alone: log entry 7. -/
def Obligations.StoresJoinPerformAndRelease : Prop :=
   (∀ (s : State) (v base : Src) (q : MemQ), s.cleanSrcs [v, base] → s.fits (1 + litWords [v, base]) →
      let c := s.cur.core
      let m := s.mach
      let w := 1 + litWords [v, base]
      let rel := q.ord == .rel || q.ord == .acqRel
      let stores (i : Instr) (n : Nat) : Prop :=
        ∀ ea, memAddr (s.val base) q.off n = .ok ea →
          (∀ key mt use, s.sees ea n .write = .ok (.store key mt use) →
            ∃ t, exec i s = .next t ∧ t.mach.mem = m.mem ∧
              t.mach.pend = m.pend ++ [.store { core := c, strand := .control, addr := key, data := wholeBytes (leBytes (s.val v).toNat n), clears := n == 8,
                                                cls := q.cls, rel := rel && q.scope != .core, near := rel && q.scope == .core, mtype := mt, use := use,
                                                shown := false }] ∧
              t.mach.cores[c].ctl = { s.ctl with pc := s.ctl.pc + BitVec.ofNat 18 w, wait := none } ∧
              (∀ e, e ≠ c → t.mach.cores[e] = m.cores[e])) ∧
          (∀ m1 x, m.ctlStore c ea n (s.val v) q.cls (if !rel then .none else if q.scope = .core then .near else .far) = .val m1 x →
            exec i s = .next (s.onward m1 w id)) ∧
          (∀ t, s.sees ea n .write = .error (.fault t) → exec i s = .next { s with mach := m.takeTrap c (s.ctl.pc + BitVec.ofNat 18 w) t })
      stores (.st v base q) 8 ∧ stores (.st32 v base q) 4 ∧ stores (.st16 v base q) 2 ∧ stores (.st8 v base q) 1) ∧
   (∀ (mem : Mem) (p : PendStore) (data : List Byte), memWf mem = true → p.data = wholeBytes data →
      let after := p.perform mem
      memBytes after p.addr data.length = data ∧
      (∀ a, (a < p.addr ∨ p.addr + data.length ≤ a) → memByte after a = memByte mem a) ∧
      (∀ l, memFull after l = memFull mem l) ∧
      (∀ l, memPoisoned after l = (memPoisoned mem l && !(p.clears && l == locOf p.addr)))) ∧
   (∀ (m : Mach) (c : CoreId) (t : Strand),
      let own (p : Pend) : Option PendStore := match p with | .store q => if q.core = c ∧ q.strand = t then some q else none | _ => none
      let fence (p : Pend) : Bool := match p with | .fence d u _ => d == c && u == t | _ => false
      (m.flushAll c t).pend = m.pend.filter (fun p => (own p).isNone && !fence p) ∧
      (m.flushAll c t).mem = (m.pend.filterMap own).foldl (fun mem p => p.perform mem) m.mem ∧
      (memWf m.mem = true → memWf (m.flushAll c t).mem = true))

/-- R285, R286: on a full location `ldwait` reads and leaves it full, `ldcons` reads and leaves it empty, as one access; on an empty one `stfill` writes
its 8 bytes, after every earlier store of the strand, clears the mark and leaves the location full. The other bytes stay, but for the mooring lists, which
a change of the bit empties of the entries it wakes (R337).

Of the model, not of the spec alone: log entries 7 and 12. -/
def Obligations.FullEmptyAccessesTakeDataAndBitTogether : Prop :=
  ∀ (s : State) (d : Dst) (v base : Src) (q : MemQ) (ea : W64) (key : Nat) (mt : MType) (use : Option ObjUse),
    memAddr (s.val base) q.off 8 = .ok ea → s.cleanSrcs [v, base] → memWf s.mach.mem = true →
    let c := s.cur.core
    let m := s.mach
    let before (rel : Bool) : Mach := m.beforeFe c .control key mt q.cls rel
    let rel := q.ord == .rel || q.ord == .acqRel
    (s.fits (1 + litWords [base]) → s.sees ea 8 .read = .ok (.store key mt use) → memFull (before rel).mem (locOf key) = true →
      exec (.ldwait d base q) s =
        .next (s.onward (before rel) (1 + litWords [base]) fun k => k.write d { val := BitVec.ofNat 64 (memNat (before rel).mem key 8), tag := 0 })) ∧
    (s.fits (1 + litWords [base]) → s.sees ea 8 .consume = .ok (.store key mt use) → memFull (before rel).mem (locOf key) = true →
      ∃ t, exec (.ldcons d base q) s = .next t ∧
        (∀ r, d = .x r → t.ctl.x[r] = { val := BitVec.ofNat 64 (memNat (before rel).mem key 8), tag := 0 }) ∧
        (∀ a, m.inList a = false → memByte t.mach.mem a = memByte (before rel).mem a) ∧
        (∀ l, memFull t.mach.mem l = (memFull (before rel).mem l && l != locOf key)) ∧ t.mach.mem.pois = (before rel).mem.pois ∧
        t.ctl.pc = s.ctl.pc + BitVec.ofNat 18 (1 + litWords [base])) ∧
    (s.fits (1 + litWords [v, base]) → s.sees ea 8 .fill = .ok (.store key mt use) → memFull (before true).mem (locOf key) = false →
      ∃ t, exec (.stfill v base q) s = .next t ∧ ((∀ i, i < 8 → m.inList (key + i) = false) → memNat t.mach.mem key 8 = (s.val v).toNat) ∧
        (∀ a, m.inList a = false → (a < key ∨ key + 8 ≤ a) → memByte t.mach.mem a = memByte (before true).mem a) ∧
        (∀ l, memFull t.mach.mem l = (memFull (before true).mem l || l == locOf key)) ∧
        (∀ l, memPoisoned t.mach.mem l = (memPoisoned (before true).mem l && l != locOf key)) ∧
        t.ctl.pc = s.ctl.pc + BitVec.ofNat 18 (1 + litWords [v, base]))

/-- R290, R291: an atomic on an unwatched location of this package reads its word, writes the new value of its operation and answers the old one,
after the stores it is ordered after; the location's bit stays.

Of the model, not of the spec alone: log entries 7 and 58. -/
def Obligations.AtomicsAnswerTheOldValueAndWriteTheNew : Prop :=
  ∀ (s : State) (d : Dst) (e base b : Src) (q : AtomQ) (key : Nat) (mt : MType) (use : Option ObjUse), memWf s.mach.mem = true →
    let c := s.cur.core
    let m := s.mach
    let v := s.val b
    let m1 := (m.unlogAt (locOf key)).beforeFe c .control key mt q.cls (q.ord == .rel || q.ord == .acqRel)
    let old := BitVec.ofNat 64 (memNat m1.mem key 8)
    let acts (i : Instr) (srcs : List Src) (dst : Dst) (n : Nat) (got new : W64) : Prop :=
      s.cleanSrcs srcs → s.fits (1 + litWords srcs) → memAddr (s.val base) 0 n = .ok (s.val base) →
      s.sees (s.val base) n .atomic = .ok (.store key mt use) → m.watched s.ctl.ctxid (locOf key) = false →
        ∃ t, exec i s = .next t ∧ (∀ r, dst = .x r → t.ctl.x[r] = { val := got, tag := 0 }) ∧
          memNat t.mach.mem key n = new.toNat % 256 ^ n ∧
          (∀ a, (a < key ∨ key + n ≤ a) → memByte t.mach.mem a = memByte m1.mem a) ∧
          (∀ l, memFull t.mach.mem l = memFull m1.mem l ∧ memPoisoned t.mach.mem l = memPoisoned m1.mem l) ∧
          t.ctl.pc = s.ctl.pc + BitVec.ofNat 18 (1 + litWords srcs)
    let two (i : Instr) (new : W64) : Prop := acts i [base, b] d 8 old new
    two (.aadd d base b q) (old + v) ∧
    two (.axchg d base b q) v ∧
    two (.amin d base b q) (if old.toInt ≤ v.toInt then old else v) ∧
    two (.amax d base b q) (if old.toInt ≤ v.toInt then v else old) ∧
    two (.aminn d base b q) (if old.toNat ≤ v.toNat then old else v) ∧
    two (.amaxn d base b q) (if old.toNat ≤ v.toNat then v else old) ∧
    two (.aand d base b q) (old &&& v) ∧
    two (.aor d base b q) (old ||| v) ∧
    two (.axor d base b q) (old ^^^ v) ∧
    acts (.acas e base b q) [base, b, e] (match e with | .x r => .x r | _ => .none) 8 old (if old = s.val e then v else old) ∧
    (let old4 := BitVec.ofNat 64 (memNat m1.mem key 4)
     acts (.afadd d base b q) [base, b] d 4 old4 (fp32Add old4 ((v.setWidth 32).setWidth 64)))

/-- R293, R294: a fence adds itself to the strand's unperformed stores where some stand before it, and makes no access; `cireq` arms a request.

R293, R261: what a fence orders. A store that stands after it is not performed while a store of its strand before it is not, and an access after it
first performs such a store, when the mask names the classes of both; a mask without the later store's class orders nothing.

R257, R259, R261, R262, R269: a store is performed only once no earlier store of its strand that is ordered before it (by location, release, class, device or strongly-ordered memory, or a fence), and no load of
the strand that is kept back, is unperformed; an access first performs exactly stores of its own strand, among them every one ordered before it, in program order, and no other strand's; a load reads its own
strand's latest earlier store to its bytes, performed or not. R264: a release at core scope leaves the stores before it seen by their core, which performs them before it goes on.

Of the model, not of the spec alone: log entry 7. -/
def Obligations.FencesOrderAndRequestsAreArmed : Prop :=
  ∀ (s : State) (mask : BitVec 16) (a b : Src),
    let c := s.cur.core
    let m := s.mach
    let sel := (s.val b).toNat
    (s.fits 1 → exec (.fence mask) s = .next (s.onward { m with pend := dropFences [] (m.pend ++ [.fence c .control mask]) } 1 id)) ∧
    (s.cleanSrcs [a, b] → s.fits (1 + litWords [a, b]) → (s.val a).toNat < 2 ^ 32 → s.ctl.armed.length < 16 → sel ∈ [1, 5, 6, 8] →
      exec (.cireq a b) s = .next (s.ctlNext (1 + litWords [a, b]) fun k =>
        { k with armed := k.armed ++ [{ kind := sel, ptr := 0, tag := (s.val a).setWidth 32, target := none }] })) ∧
    (∀ (i : Fin 3) (p : W32), s.cleanSrcs [a, b] → s.fits (1 + litWords [a, b]) → (s.val a).toNat < 2 ^ 32 → s.ctl.armed.length < 16 →
      sel = p.toNat * 2 ^ 32 + (2 + i.val) → (p - m.cores[c].rings[i].wp).toNat < 2 ^ 31 →
      exec (.cireq a b) s = .next (s.ctlNext (1 + litWords [a, b]) fun k =>
        { k with armed := k.armed ++ [{ kind := 2 + i.val, ptr := p, tag := (s.val a).setWidth 32, target := none }] })) ∧
    (∀ (l1 l2 l3 : List Pend) (p r : PendStore), p.core = r.core → p.strand = r.strand →
      let fenced (f : List Pend) : List Pend := l1 ++ [.store p] ++ l2 ++ f ++ l3 ++ [.store r]
      let at_ (f : List Pend) : Bool := performable (fenced f) ((fenced f).length - 1)
      (mask.getLsbD p.cls.toNat = true → mask.getLsbD r.cls.toNat = true → at_ [.fence r.core r.strand mask] = false) ∧
      (mask.getLsbD r.cls.toNat = false → at_ [.fence r.core r.strand mask] = at_ [])) ∧
    (∀ (l1 l2 l3 : List Pend) (p : PendStore) (x : Access), p.core = c → p.strand = .control →
      m.pend = l1 ++ [.store p] ++ l2 ++ [.fence c .control mask] ++ l3 → mask.getLsbD p.cls.toNat = true → mask.getLsbD x.cls.toNat = true →
      ∃ now : List PendStore, p ∈ now ∧ (m.flushFor c .control x).mem = now.foldl (fun mem p => p.perform mem) m.mem) ∧
    (∀ (m : Mach) (c : CoreId) (t : Strand) (l : List Pend) (k : Nat) (x : Access) (r : PendStore),
      let device (y z : MType) : Prop := (y = .device ∧ z = .device) ∨ y = .stronglyOrdered ∨ z = .stronglyOrdered
      let fenced (after : List Pend) (y z : BitVec 4) : Prop := ∃ w, Pend.fence c t w ∈ after ∧ w.getLsbD y.toNat = true ∧ w.getLsbD z.toNat = true
      let ordered (p : PendStore) (x : Access) (after : List Pend) : Prop :=
        p.addr / 8 * 8 = x.loc ∨ x.rel = true ∨ (p.cls = x.cls ∧ ¬ (x.kind = .store ∧ p.mtype = .writeCombining ∧ x.mtype = .writeCombining)) ∨ device p.mtype x.mtype ∨
        fenced after p.cls x.cls
      let plain (l : List Pend) : List PendStore := l.filterMap fun y => match y with | .store p => some { p with shown := false } | _ => none
      (l[k]? = some (.store r) → r.core = c → r.strand = t →
        (performable l k = true ↔ (∀ j p, j < k → l[j]? = some (.store p) → p.core = c → p.strand = t → ¬ ordered p r.access ((l.take k).drop (j + 1))) ∧
          ∀ j id cls ptrs, j < k → l[j]? = some (.load c id cls ptrs) → t ≠ .vector)) ∧
      (x.masks = [] → (∀ l1 l2 p, m.pend = l1 ++ [.store p] ++ l2 → p.core = c → p.strand = t → ¬ ordered p x l2) → (m.flushFor c t x).mem = m.mem ∧ plain (m.flushFor c t x).pend = plain m.pend) ∧
      (∃ now : List PendStore, (m.flushFor c t x).mem = now.foldl (fun mem p => p.perform mem) m.mem ∧ List.Sublist (now.map Pend.store) m.pend ∧ (∀ p ∈ now, p.core = c ∧ p.strand = t) ∧
        (∀ l1 l2 p, x.masks = [] → m.pend = l1 ++ [.store p] ++ l2 → p.core = c → p.strand = t → ordered p x l2 → p ∈ now) ∧
        (∀ p, (p.core ≠ c ∨ p.strand ≠ t) → (Pend.store p ∈ (m.flushFor c t x).pend ↔ Pend.store p ∈ m.pend)) ∧ (m.flushFor c t x).cores = m.cores) ∧
      (∀ l1 l2 p data mt use cls, m.pend = l1 ++ [.store p] ++ l2 → p.core = c → p.strand = t → memWf m.mem = true → p.data = wholeBytes data → p.addr % 8 + data.length ≤ 8 →
        (∀ q, Pend.store q ∈ l2 → q.core = c → q.strand = t → q.addr / 8 ≠ p.addr / 8 ∧ q.addr % 8 + q.data.length ≤ 8) →
        (m.loadAt c t (.store p.addr mt use) data.length cls).2 = leNat data)) ∧
    (∀ k, s.turn = .perform k → s.fw.down = false →
      let plain (l : List Pend) : List PendStore := l.filterMap fun y => match y with | .store p => some { p with shown := false } | _ => none
      (performable m.pend k = false → ∃ u, step s = .next u ∧ u.mach.mem = m.mem ∧ u.mach.pend = m.pend) ∧
      (∀ p, m.pend[k]? = some (.store p) → performable m.pend k = true →
        ∃ u, step s = .next u ∧ u.mach.mem = p.perform m.mem ∧ plain u.mach.pend = plain (m.pend.eraseIdx k) ∧ u.mach.cores = m.cores ∧
          (p.near = true → ∀ j q, j < k → m.pend[j]? = some (.store q) → q.core = p.core → q.strand = p.strand → Pend.store { q with shown := true } ∈ u.mach.pend))) ∧
    (∀ e, s.turn = .early e → s.fw.down = false → ∃ u, step s = .next u ∧ u.mach.cores = m.cores ∧
      (u.mach.early = m.early ∨ ∃ x key, u.mach.early = m.early ++ [x] ∧ x.core = e ∧ x.value = memNat u.mach.mem key x.size ∧ ∀ y ∈ m.early, y.core ≠ e)) ∧
    (∀ (m : Mach) (c : CoreId) (q : PendStore), (∀ p, Pend.store p ∈ m.pend → p.near = false) → Pend.store q ∈ (m.settle c).pend → q.core = c → (q.strand = .control ∨ q.strand = .vector) → q.shown = false)

/-! Semaphores, mutexes, barriers, the allocator, heaps and queries (11 R323 to R339, 12 R359 to R362, 13 R394, R395). -/

/-- R330 to R333: a satisfied `smwait` answers the value found; `smadd` adds with clamping, after the strand's earlier stores, answers the old value,
and sets SAT exactly when it clamps; a free mutex is taken and a held one freed; `dbar` leaves a closed barrier with its phase number.

R333: a barrier that is examined with every member arrived, its counter at 0 and the other packages' members arrived closes its phase: the phase
number rises by 1, the arrival set empties and every member may leave; otherwise it stays as it is.

R339, R323, R317: `moor` on a location already in the awaited state answers 1 at once; `yield` goes on as a pre-emption point and stops there at
a stop request, or ends a quiet strand with its user code; a `launch`, at S or with a grant that its task may give (R128), that finds its queue full
answers 2^63 + 1, and one that finds room puts its record in the tail slot, every 8 bytes of it at the place of their location and nothing elsewhere,
advances the tail, and answers the child's identifier.

Of the model, not of the spec alone: log entries 6, 7, 12, 52, 59 and 76. -/
def Obligations.SynchronisationInstructionsComplete : Prop :=
   (∀ (s : State) (d : Dst) (a : Src) (n : Fin 15) (x : Fin 8),
      let c := s.cur.core
      let m := s.mach
      let w := 1 + litWords [a]
      let core := m.cores[c]
      (s.cleanSrcs [a] → s.fits w → (s.val a).toNat < 2 ^ 32 → core.smw[n] = [] → (s.val a).toNat ≤ core.sm[n].toNat →
        ∃ t, exec (.smwait d a n) s = .next t ∧ t.ctl = { s.ctl.write d { val := core.sm[n].setWidth 64, tag := 0 } with pc := s.ctl.pc + BitVec.ofNat 18 w, wait := none } ∧
          t.mach.cores[c].sm = core.sm ∧ t.mach.mem = m.mem ∧ t.mach.pend = m.pend) ∧
      (s.cleanSrcs [a] → s.fits w → ((s.val a).setWidth 32).signExtend 64 = s.val a → core.smw[n] = [] →
        let sum : Int := core.sm[n].toNat + ((s.val a).setWidth 32).toInt
        ∃ t, exec (.smadd d a n) s = .next t ∧
          (t.mach.cores[c].sm[n].toNat : Int) = max 0 (min (2 ^ 32 - 1) sum) ∧
          (∀ k, k ≠ n → t.mach.cores[c].sm[k] = core.sm[k]) ∧
          t.ctl = { s.ctl.write d { val := core.sm[n].setWidth 64, tag := 0 } with
                    pc := s.ctl.pc + BitVec.ofNat 18 w, wait := none, sat := s.ctl.sat || decide (sum < 0 ∨ 2 ^ 32 ≤ sum) } ∧
          t.mach.mem = (m.flushAll c .control).mem ∧ t.mach.pend = (m.flushAll c .control).pend) ∧
      (s.fits 1 → core.mx[x] = false → exec (.mxlock x) s = .next (s.onward (m.onCore c fun k => { k with mx := k.mx.set x true }) 1 id)) ∧
      (s.fits 1 → core.mx[x] = true →
        exec (.mxfree x) s = .next (s.onward ((m.flushAll c .control).onCore c fun k => { k with mx := k.mx.set x false }) 1 id)) ∧
      (core.mx[x] = false → exec (.mxfree x) s =
        .next { s with mach := m.takeTrap c (s.ctl.pc + 1) { cls := .shape, addr := 0 } }) ∧
      (∀ level : Fin 4, s.cleanSrcs [a] → s.fits w → (s.val a).toNat = level.val → c ∈ (m.barrier c level).passed →
        ∃ t, exec (.dbar d a) s = .next t ∧
          t.ctl = { s.ctl.write d { val := (m.barrier c level).phase.setWidth 64, tag := 0 } with pc := s.ctl.pc + BitVec.ofNat 18 w, wait := none } ∧
          c ∉ (t.mach.barrier c level).passed ∧ t.mach.mem = m.mem)) ∧
   (∀ (m : Mach) (c : CoreId) (b : Barrier) (others : Bool), c ∈ b.members →
      let all := b.members.all fun d => b.arrived.contains d
      let b1 := (m.examine c b others).barrier c b.level
      (m.ferry.tasks.find? (fun t => t.state == .draining && t.cores.any fun d => b.members.contains d)) = none →
      (all = true → b.bytes = 0 → (b.remote = false ∨ others = true) →
        b1.phase = b.phase + 1 ∧ b1.arrived = [] ∧ b1.passed = b.members ∧ b1.members = b.members) ∧
      ((all = false ∨ b.bytes ≠ 0 ∨ (b.remote = true ∧ others = false)) → b1 = b)) ∧
   (∀ (s : State) (d : Dst) (a b : Src),
      let c := s.cur.core
      let m := s.mach
      let n := 1 + litWords [a, b]
      let w := 1 + litWords [a]
      (∀ key mt use, s.cleanSrcs [a, b] → s.fits n → (s.val b = 0 ∨ s.val b = 1) → s.sees (s.val a) 8 .read = .ok (.store key mt use) →
        memFull m.mem (locOf key) = (s.val b == 0) → exec (.moor d a b) s = .next (s.wrote n d 1)) ∧
      (s.cleanSrcs [a] → s.fits w → s.val a = 0 →
        exec (.yieldPoint a) s = .next (s.ctlNext w fun k => if m.cores[c].stop then { k with status := .stopped } else k)) ∧
      (∀ mode user : Nat, s.cleanSrcs [a] → (mode = 1 ∨ mode = 2) → user < 256 → (s.val a).toNat = mode + 256 * user →
        m.cores[c].vec.status = .ended → m.cores[c].mata.flights = [] → m.cores[c].matb.flights = [] → m.cores[c].copy.flights = [] →
        m.cores[c].forked = [] →
        exec (.yieldEnd a) s = .next (s.onCtl c fun k => { k with status := .ended (if mode = 1 then 0 else BitVec.ofNat 8 user), wait := none })) ∧
      (∀ m1 v (q : Fin 64), s.cleanSrcs [a, b] → s.fits n → ptrOff (s.val a) % 256 = 0 → (s.val b).toNat = q.val →
        (m.flushAll c .control).ctlRecord c (s.val a) = .val m1 v → m1.cores[c].ctl.pc = s.ctl.pc →
        let queue := m1.ferry.queues[q]
        queue.src = true → queue.ctx = s.ctl.ctxid → 4 ≤ queue.lsize → queue.lsize ≤ 12 →
        (let grant := (parseTask (leBytes v 256)).grant
         let own : BitVec 8 := match m1.cores[c].task.bind fun id => m1.ferry.tasks.find? (·.id == id) with | some x => x.recd.grant | none => 0
         s.ctl.sup = true ∨ (grant.getLsbD 2 = false ∧ grant.toNat % 4 ≤ own.toNat % 4)) →
        m1.refusal s.ctl.ctxid (leBytes v 256) = none →
        (2 ^ queue.lsize ≤ (queue.tail - queue.head).toNat →
          exec (.launch d a b) s = .next (s.onward m1 n fun k => k.write d { val := BitVec.ofNat 64 (2 ^ 63 + 1), tag := 0 })) ∧
        (∀ p keys, (queue.tail - queue.head).toNat < 2 ^ queue.lsize →
          ptrAdd queue.base (256 * (queue.tail.toNat % 2 ^ queue.lsize)) = .ok p → m1.agentPlaces s.ctl.ctxid p 32 .write = .ok keys →
          ∃ t', exec (.launch d a b) s = .next t' ∧ t'.mach.ferry.queues[q].tail = queue.tail + 1 ∧
            t'.mach.mem = (keys.zip (List.range 32)).foldl
              (fun mem x => match x.1 with | some key => storeMem mem key (((leBytes v 256).drop (8 * x.2)).take 8) | none => mem) m1.mem ∧
            (∃ child, child.queue = q.val ∧ child.slot = queue.tail ∧ child.parent = m1.cores[c].task ∧ child.core = c ∧
              t'.mach.ferry.launched = m1.ferry.launched ++ [child] ∧
              ∀ r, d = .x r → t'.ctl.x[r] = { val := BitVec.ofNat 64 child.id, tag := 0 }))))

/-- R334 to R336: `alloc` gives a free ring register a ring at the next 64-byte boundary, or moves the bump pointer past rounded space, and answers
the base; exhausted space traps ALLOC_EXH; kind 16 to 23 answers a ring's status; `free` gives an idle ring back and lowers the bump pointer.

R359 to R362: a heap in own SPM whose header is valid and whose locations are clean, as it stands once the strand's earlier stores of class 0 and to the
heap are performed. `hclr` makes it empty with the capacity given; `hins` of a NaN answers the entry and changes nothing; with room it counts one more
entry, keeps every other, and answers all ones; full, it keeps the better of the entry and the first one, with every other entry, and answers the one it
leaves; `htop` writes exactly the heap's entries, in descending order, and answers their number: 0 for an empty heap, wherever its output lies. K0 says
whether `hins` kept the entry.

R393 to R395: `obqry` answers the selected field of a valid record and sets K0, or answers 0 and clears it; `obprobe` answers the class an access would
trap with, or 0, without raising a miss, a message or a trap. Neither changes anything but its destination, K0 and the program counter.

Of the model, not of the spec alone: log entries 22, 58 and 75. -/
def Obligations.AllocatorHeapAndQueriesComplete : Prop :=
   (∀ (s : State) (d : Dst) (a b : Src),
      let c := s.cur.core
      let m := s.mach
      let core := m.cores[c]
      let n := 1 + litWords [a, b]
      let v := (s.val a).toNat
      let kind := (s.val b).toNat
      let base := 64 * ((core.bp + 63) / 64)
      let size := 64 * ((v + 63) / 64)
      s.cleanSrcs [a, b] → s.fits n →
      (∀ h : kind < 8, core.rg[kind] = none →
        let ss := v % 2 ^ 32
        let ns := v / 2 ^ 32
        ss % 64 = 0 → 64 ≤ ss → ss ≤ 65536 → 2 ≤ ns → ns ≤ 64 →
        (base + ss * ns ≤ 2 ^ 20 → exec (.allocRing d a b) s =
          .next (s.onward (m.onCore c fun k => { k with bp := base + ss * ns, rg := k.rg.set kind (some { base := base, ss := ss, ns := ns, hd := 0, filled := 0, resv := [] }) })
            n fun k => k.write d { val := BitVec.ofNat 64 base, tag := 0 })) ∧
        (2 ^ 20 < base + ss * ns → exec (.allocRing d a b) s =
          .next { s with mach := m.takeTrap c (s.ctl.pc + BitVec.ofNat 18 n) { cls := .allocExh, addr := 0 } })) ∧
      (kind = 8 → v ≤ 1048576 →
        (base + size ≤ 2 ^ 20 → exec (.allocBump d a b) s =
          .next (s.onward (m.onCore c fun k => { k with bp := base + size }) n fun k => k.write d { val := BitVec.ofNat 64 base, tag := 0 })) ∧
        (2 ^ 20 < base + size → exec (.allocBump d a b) s =
          .next { s with mach := m.takeTrap c (s.ctl.pc + BitVec.ofNat 18 n) { cls := .allocExh, addr := 0 } })) ∧
      (∀ (h : kind - 16 < 8) r, 16 ≤ kind → core.rg[kind - 16] = some r → exec (.allocStatus d a b) s =
        .next (s.wrote n d (BitVec.ofNat 64 (r.hd + r.filled * 2 ^ 8 + r.resv.length * 2 ^ 16 + r.ns * 2 ^ 24)))) ∧
      (∀ h : kind < 8, core.rg[kind].isSome = true → core.ringBusy ⟨kind, h⟩ = false →
        exec (.freeRing a b) s = .next (s.onward (m.onCore c fun k => { k with rg := k.rg.set kind none }) n id)) ∧
      (kind = 8 → v % 64 = 0 → core.imglen ≤ v → v ≤ core.bp → exec (.freeBump a b) s = .next (s.onward (m.onCore c fun k => { k with bp := v }) n id))) ∧
   (∀ (s : State) (d : Dst) (a b : Src) (cap count : Nat),
      let c := s.cur.core
      let m := s.mach
      let n := 1 + litWords [a, b]
      let p := (s.val a).toNat
      let key := spmKey c p
      let e := s.val b
      let entries (mem : Mem) (count : Nat) : List W64 := (List.range count).map fun i => mem64 mem (key + 16 + 8 * i)
      let outside (m1 m2 : Mem) (lo hi : Nat) : Prop := ∀ x, (x < lo ∨ hi ≤ x) → memByte m2 x = memByte m1 x
      s.cleanSrcs [a, b] → s.fits n → memWf m.mem = true → p % 16 = 0 →
      (1 ≤ e.toNat → e.toNat ≤ 4096 → p + 16 + 8 * e.toNat ≤ 2 ^ 20 →
        let mb := m.beforeHeap c key 2
        ∃ t, exec (.hclr a b) s = .next t ∧ memNat t.mach.mem key 8 = e.toNat ∧ memNat t.mach.mem (key + 8) 8 = 0 ∧
          outside mb.mem t.mach.mem key (key + 16) ∧ t.mach.pend = mb.pend ∧
          t.mach.cores[c].ctl = { s.ctl with pc := s.ctl.pc + BitVec.ofNat 18 n, wait := none }) ∧
      (let mb := m.beforeHeap c key 4097
       let clean (mem : Mem) (dst : Dst) (v : W64) (t : State) : Prop :=
        (∀ r, dst = .x r → t.ctl.x[r] = { val := v, tag := 0 }) ∧ t.ctl.pc = s.ctl.pc + BitVec.ofNat 18 n ∧ t.mach.mem.empt = mem.empt
       let same (v : W64) : Host.Outcome State Fault Refusal := .next (s.onward mb n fun k => (k.write d { val := v, tag := 0 }).setK 0 false)
       1 ≤ cap → cap ≤ 4096 → count ≤ cap → p + 16 + 8 * cap ≤ 2 ^ 20 → memNat mb.mem key 8 = cap + 65536 * count → memNat mb.mem (key + 8) 8 = 0 →
        (∀ i, i < cap + 2 → memPoisoned mb.mem (key + 8 * i) = false) →
        (isNan32 (e.toNat / 2 ^ 32) = true → exec (.hins d a b) s = same e) ∧
        (isNan32 (e.toNat / 2 ^ 32) = false → count < cap → ∃ t, exec (.hins d a b) s = .next t ∧
          memNat t.mach.mem key 8 = cap + 65536 * (count + 1) ∧ t.ctl.k[0] = true ∧ clean mb.mem d (BitVec.allOnes 64) t ∧
          (entries t.mach.mem (count + 1)).Perm (e :: entries mb.mem count) ∧
          memNat t.mach.mem (key + 8) 8 = 0 ∧ outside mb.mem t.mach.mem key (key + 16 + 8 * (count + 1))) ∧
        (isNan32 (e.toNat / 2 ^ 32) = false → count = cap →
          let first := mem64 mb.mem (key + 16)
          (heapBetter e first = true → ∃ t, exec (.hins d a b) s = .next t ∧ t.ctl.k[0] = true ∧ clean mb.mem d first t ∧
            (first :: entries t.mach.mem count).Perm (e :: entries mb.mem count) ∧
            outside mb.mem t.mach.mem (key + 16) (key + 16 + 8 * count)) ∧
          (heapBetter e first = false → exec (.hins d a b) s = same e)) ∧
        (e.toNat % 8 = 0 → (count = 0 ∨ (e.toNat + 8 * count ≤ 2 ^ 20 ∧ (e.toNat + 8 * count ≤ p ∨ p + 16 + 8 * cap ≤ e.toNat))) →
          let mo := mb.beforeHeap c (spmKey c e.toNat) count
          let out (mem : Mem) : List W64 := (List.range count).map fun i => mem64 mem (spmKey c e.toNat + 8 * i)
          ∃ t, exec (.htop d a b) s = .next t ∧ clean mo.mem d (BitVec.ofNat 64 count) t ∧ t.ctl.k = s.ctl.k ∧
            outside mo.mem t.mach.mem (spmKey c e.toNat) (spmKey c e.toNat + 8 * count) ∧
            (out t.mach.mem).Perm (entries mb.mem count) ∧ (out t.mach.mem).Pairwise fun x y => heapBetter y x = false))) ∧
   (∀ (s : State) (d : Dst) (a b : Src),
      let c := s.cur.core
      let m := s.mach
      let n := 1 + litWords [a, b]
      let sel := (s.val b).toNat
      s.cleanSrcs [a, b] → s.fits n →
      ((s.val a).toNat < 2 ^ 24 → (sel ≤ 11 ∨ (sel = 12 ∧ s.ctl.sup = true)) →
        (m.queryRec (some (clusterFin c)) s.ctl.ctxid (s.val a).toNat = none → exec (.obqry d a b) s = .next (s.ctlNext n fun k => (k.write d { val := 0, tag := 0 }).setK 0 false)) ∧
        (∀ r, m.queryRec (some (clusterFin c)) s.ctl.ctxid (s.val a).toNat = some r →
          exec (.obqry d a b) s = .next (s.ctlNext n fun k => (k.write d { val := r.queryField sel, tag := 0 }).setK 0 true))) ∧
      (sel / 16 ≤ 5 → sel % 16 < 4 → ∃ v : W64, exec (.obprobe d a b) s = .next (s.ctlNext n fun k => (k.write d { val := v, tag := 0 }).setK 0 (v.toNat % 16 == 0)) ∧
        ∀ kind, probeKind (sel / 16) = some kind →
          (∀ t, checked { m.seen c .control with holds := [] } (m.asker c) (s.val a) (2 ^ (sel % 4)) kind = .error (.fault t) → v.toNat % 16 = t.cls.code.toNat) ∧
          (∀ key mt use, checked { m.seen c .control with holds := [] } (m.asker c) (s.val a) (2 ^ (sel % 4)) kind = .ok (.store key mt use) →
            v.toNat % 16 = 0 ∧ v.getLsbD 8 = memFull m.mem (locOf key))))

/-! The vector engine (05 R132 to R174). -/

/-- R148, R133: integer lane arithmetic. At each active lane the result is the operation on the lanes' integers, brought back to the type by
wrapping, or for the saturating forms by clipping with SAT; the other lanes, registers and flags stay.

R146: a poisoned lane that an instruction reads. Without `spec` it traps with the tag's class and the register's fault address, writing nothing; with
`spec` each active lane takes its first poisoned source lane, value and tag, or else its result, clean, and only the lanes with results raise SAT; a
register without a poisoned lane before takes the fault address of the lowest.

Of the model, not of the spec alone: log entry 18. -/
def Obligations.VectorIntegerArithmeticAndPoisonActLaneByLane : Prop :=
   (∀ (s : State) (q : Option Qual) (d : VDst) (a b : VSrc) (g : Guard) (x : VIn) (v1 : Vec),
      let t := typeOf q
      let n := vwords q [a, b]
      let width : Nat := if t = 8 ∨ t = 11 then 8 else if t = 9 ∨ t = 12 then 16 else 32
      let int (w : W32) : Int := if t ≤ 10 then (w.setWidth width).toInt else (w.setWidth width).toNat
      let lane (v : Int) : W32 := if t ≤ 10 then (BitVec.ofInt width v).signExtend 32 else (BitVec.ofInt width v).setWidth 32
      let low : Int := if t ≤ 10 then -(2 ^ (width - 1)) else 0
      let top : Int := if t ≤ 10 then 2 ^ (width - 1) - 1 else 2 ^ width - 1
      8 ≤ t → t ≤ 13 → s.mach.vin s.cur.core q d a b g = some (x, v1) → s.vfits n →
      let speculates (i : Instr) (r : Nat → W32 × Bool) : Prop :=
        isSpec q = true → ∃ t', exec i s = .next t' ∧ s.onlyVector t' ∧ t'.vec.pc = s.vec.pc + BitVec.ofNat 18 n ∧
          (t'.vec.flagSat = true ↔ v1.flagSat = true ∨
            ∃ k, k < 1024 ∧ x.active k = true ∧ (x.a.at k).tag = 0 ∧ (x.b.at k).tag = 0 ∧ (r k).2 = true) ∧
          ∀ y : Fin 32, if (match d with | .reg z => v1.regNo z == y | .none => false) then
              ∀ k : Fin 1024, t'.vec.v[y].lanes[k] =
                if !x.active k.val then v1.v[y].lanes[k]
                else if (x.a.at k.val).tag ≠ 0 then x.a.at k.val
                else if (x.b.at k.val).tag ≠ 0 then x.b.at k.val
                else { bits := (r k.val).1, tag := 0 }
            else t'.vec.v[y] = v1.v[y]
      let two (i : Instr) (f : Int → Int → Int) (sat : Bool) : Prop :=
        let r (k : Nat) : Int := f (int (x.a.at k).bits) (int (x.b.at k).bits)
        let o (k : Nat) : W32 × Bool := (lane (if sat then max low (min top (r k)) else r k), sat && decide (r k < low ∨ top < r k))
        (x.cleanAt (fun k => [(0, k), (1, k)]) → ∃ t', exec i s = .next t' ∧ s.wroteLanes t' v1 n d fun k =>
          if x.active k then some ((o k).1, { sat := (o k).2 }) else none) ∧
        speculates i o
      let one (i : Instr) (f : Int → Int) : Prop :=
        b = .zero → (x.cleanAt (fun k => [(0, k)]) → ∃ t', exec i s = .next t' ∧ s.wroteLanes t' v1 n d fun k =>
          if x.active k then some (lane (f (int (x.a.at k).bits)), {}) else none) ∧
        speculates i fun k => (lane (f (int (x.a.at k).bits)), false)
      two (.vadd q d a b g) (· + ·) false ∧
      two (.vsub q d a b g) (· - ·) false ∧
      two (.vmul q d a b g) (· * ·) false ∧
      two (.vmin q d a b g) min false ∧
      two (.vmax q d a b g) max false ∧
      two (.vadds q d a b g) (· + ·) true ∧
      two (.vsubs q d a b g) (· - ·) true ∧
      two (.vmulh q d a b g) (fun u v => (u * v).fdiv (2 ^ width)) false ∧
      one (.vabs q d a g) (fun u => u.natAbs) ∧
      one (.vneg q d a g) (fun u => -u)) ∧
   (∀ (s : State) (q : Option Qual) (d : VDst) (a b : VSrc) (g : Guard) (x : VIn) (v1 : Vec) (i : Fin 1024),
      s.mach.vin s.cur.core q d a b g = some (x, v1) → x.active i.val = true →
      (∀ j, j < i.val → x.active j = true → (x.a.at j).tag = 0 ∧ (x.b.at j).tag = 0) → (x.a.at i.val).tag ≠ 0 ∨ (x.b.at i.val).tag ≠ 0 →
      let bad := if (x.a.at i.val).tag ≠ 0 then x.a else x.b
      ∀ op ∈ [Instr.vadd q d a b g, .vsub q d a b g, .vmul q d a b g, .vmin q d a b g, .vmax q d a b g, .vadds q d a b g, .vsubs q d a b g, .vmulh q d a b g,
              .vand q d a b g, .vor q d a b g, .vxor q d a b g, .vshl q d a b g, .vshr q d a b g, .vsar q d a b g],
        (isSpec q = false → exec op s =
          .next { s with mach := s.mach.vecTrap s.cur.core { cls := tagClass (bad.at i.val).tag, addr := bad.faddr } }) ∧
        (isSpec q = true → s.vfits (vwords q [a, b]) → ∀ r, d = .reg r → ∃ t', exec op s = .next t' ∧ s.onlyVector t' ∧
          t'.vec.v[v1.regNo r].faddr = (if v1.v[v1.regNo r].lanes.all (fun l => l.tag == 0) then bad.faddr else v1.v[v1.regNo r].faddr) ∧
          ∀ k : Fin 1024, t'.vec.v[v1.regNo r].lanes[k] =
            if !x.active k.val then v1.v[v1.regNo r].lanes[k]
            else if (x.a.at k.val).tag ≠ 0 then x.a.at k.val
            else if (x.b.at k.val).tag ≠ 0 then x.b.at k.val
            else { bits := t'.vec.v[v1.regNo r].lanes[k].bits, tag := 0 }))

/-- R148, R151, R152, R153: floating lane arithmetic, conversions, block scales and special functions. At each active lane the result is the exact
value, from the sources' exact values, rounded once to the type under the qualifier, with the flags of that rounding.

Of the model, not of the spec alone: log entries 15 and 16. -/
def Obligations.VectorFloatingResultsAreRoundedOnce : Prop :=
  ∀ (s : State) (q : Option Qual) (d : VDst) (a b : VSrc) (g : Guard) (x : VIn) (v1 : Vec),
    let t := typeOf q
    let n := vwords q [a, b]
    let ex (w : W32) : Ex := floatIn t (ftzOf q) w
    let A (k : Nat) : W32 := (x.a.at k).bits
    let B (k : Nat) : W32 := (x.b.at k).bits
    let D (k : Nat) : W32 := (x.d.at k).bits
    s.mach.vin s.cur.core q d a b g = some (x, v1) → s.vfits n →
    let gives (i : Instr) (reads : Nat → List (Nat × Nat)) (f : Nat → W32 × FpFlags) : Prop :=
      x.cleanAt reads → ∃ t', exec i s = .next t' ∧ s.wroteLanes t' v1 n d fun k => if x.active k then some (f k) else none
    let out (o : FpOut) : W32 × FpFlags := (laneBits t o.bits, o.fl)
    let two (i : Instr) (f : Ex → Ex → Ex × Bool) : Prop :=
      t < 8 → gives i (fun k => [(0, k), (1, k)]) fun k => out (floatOut t q (f (ex (A k)) (ex (B k))))
    let fused (i : Instr) (f : Ex → Ex) : Prop :=
      t < 8 → gives i (fun k => [(0, k), (1, k), (2, k)]) fun k => out (floatOut t q ((f (ex (A k))).fma (ex (B k)) (ex (D k)) (modeOf q)))
    let one (i : Instr) (f : Nat → W32 × FpFlags) : Prop := b = .zero → gives i (fun k => [(0, k)]) f
    let special (i : Instr) (f : Ex → Ex × FpFlags) : Prop :=
      one i fun k =>
        let r := f ((fmt! t).decode (elemOf t (A k)))
        let o := (fmt! t).round r.1 (modeOf q) (satOf q)
        (laneBits t o.bits, o.fl.or r.2)
    two (.vadd q d a b g) (fun u v => u.add v (modeOf q)) ∧
    two (.vsub q d a b g) (fun u v => u.add v.negate (modeOf q)) ∧
    two (.vmul q d a b g) Ex.mul ∧
    two (.vmin q d a b g) (fun u v => (u.minMax false v, anySig [u, v])) ∧
    two (.vmax q d a b g) (fun u v => (u.minMax true v, anySig [u, v])) ∧
    fused (.vfma q d a b g) id ∧
    fused (.vfnma q d a b g) Ex.negate ∧
    (∀ dir : Fin 4, one (.vcvt q d a dir g) fun k =>
      let src := if dir = 0 then 0 else if dir = 1 then t else if dir = 2 then 10 else t
      let dst := if dir = 0 then t else if dir = 1 then 0 else if dir = 2 then t else 10
      (laneBits dst (convert q src dst (A k)).bits, (convert q src dst (A k)).fl)) ∧
    (∀ kind : Fin 2, b = .zero → gives (.vpack q d a kind g) (fun k => (((List.range 32).map fun j => k / 32 * 32 + j).filter x.active).map fun j => (0, j)) fun k =>
      (packLane kind (packExp t ((((List.range 32).map fun j => k / 32 * 32 + j).filter x.active).map fun j => (A j).toNat)), {})) ∧
    special (.vrcp q d a g) exRcp ∧
    special (.vrsqrt q d a g) exRsqrt ∧
    special (.vsqrt q d a g) exSqrt ∧
    special (.vexp2 q d a g) exExp2 ∧
    special (.vlog2 q d a g) exLog2 ∧
    special (.vtanh q d a g) exTanh ∧
    special (.vsigm q d a g) exSigm

/-- R147, R149, R150: compares write all 1,024 bits of their predicate, zero where the lane is not active; selects write the lanes in shape by the
predicate, `vcsel` with their tags; the lane-bit functions act on whole lanes at the active ones, shift amounts taken modulo the type's width.

Of the model, not of the spec alone: log entry 18. -/
def Obligations.VectorComparesSelectsAndBitsActOnLanes : Prop :=
  ∀ (s : State) (q : Option Qual) (d : VDst) (pd : Fin 8) (a b : VSrc) (g : Guard) (x : VIn) (v1 : Vec),
    let t := typeOf q
    let n := vwords q [a, b]
    let A (k : Nat) : W32 := (x.a.at k).bits
    let B (k : Nat) : W32 := (x.b.at k).bits
    s.vfits n →
    let compares (i : Instr) (f : Bool → Bool → Bool) (nan : Bool) : Prop :=
      s.mach.vin s.cur.core q .none a b g = some (x, v1) → x.cleanAt (fun k => [(0, k), (1, k)]) →
      ∃ t', exec i s = .next t' ∧ s.onlyVector t' ∧ t'.vec.v = v1.v ∧ (∀ p, p ≠ pd → t'.vec.p[p] = v1.p[p]) ∧ t'.vec.pc = s.vec.pc + BitVec.ofNat 18 n ∧
        ∀ k, k < 1024 → t'.vec.p[pd].getLsbD k = (x.active k &&
          if t < 8 then
            let u := floatIn t (ftzOf q) (A k)
            let v := floatIn t (ftzOf q) (B k)
            if u.isNan || v.isNan then nan else f (u.lt v) (u.eq v)
          else f (decide (intIn t (A k) < intIn t (B k))) (intIn t (A k) == intIn t (B k)))
    let bits (i : Instr) (f : W32 → W32 → W32) : Prop :=
      s.mach.vin s.cur.core q d a b g = some (x, v1) → x.cleanAt (fun k => [(0, k), (1, k)]) →
      ∃ t', exec i s = .next t' ∧ s.wroteLanes t' v1 n d fun k => if x.active k then some (f (A k) (B k), {}) else none
    let bits1 (i : Instr) (f : W32 → W32) : Prop :=
      b = .zero → s.mach.vin s.cur.core q d a b g = some (x, v1) → x.cleanAt (fun k => [(0, k)]) →
      ∃ t', exec i s = .next t' ∧ s.wroteLanes t' v1 n d fun k => if x.active k then some (f (A k), {}) else none
    let amount (w : W32) : Nat := w.toNat % 2 ^ elemBits t % intBits t
    compares (.vceq q pd a b g) (fun _ e => e) false ∧
    compares (.vcne q pd a b g) (fun _ e => !e) true ∧
    compares (.vclt q pd a b g) (fun l _ => l) false ∧
    compares (.vcle q pd a b g) (fun l e => l || e) false ∧
    compares (.vcgt q pd a b g) (fun l e => !(l || e)) false ∧
    compares (.vcge q pd a b g) (fun l _ => !l) false ∧
    (s.mach.vin s.cur.core q d a b g = some (x, v1) →
      ((∀ k, k < 1024 → x.shaped k = true → (x.a.at k).tag = 0 ∧ (x.b.at k).tag = 0) →
        ∃ t', exec (.vsel q d a b g) s = .next t' ∧ s.wroteLanes t' v1 n d fun k => if x.shaped k then some (if x.chosen k then A k else B k, {}) else none) ∧
      ∃ t', exec (.vcsel q d a b g) s = .next t' ∧ s.onlyVector t' ∧ t'.vec.pc = s.vec.pc + BitVec.ofNat 18 n ∧ t'.vec.p = v1.p ∧
        ∀ r : Fin 32, if (match d with | .reg y => v1.regNo y == r | .none => false) then
            ∀ k : Fin 1024, t'.vec.v[r].lanes[k] = if x.shaped k.val then (if x.chosen k.val then x.a.at k.val else x.b.at k.val) else v1.v[r].lanes[k]
          else t'.vec.v[r] = v1.v[r]) ∧
    bits (.vand q d a b g) (· &&& ·) ∧
    bits (.vor q d a b g) (· ||| ·) ∧
    bits (.vxor q d a b g) (· ^^^ ·) ∧
    bits1 (.vmov q d a g) id ∧
    bits1 (.vnot q d a g) (fun u => ~~~u) ∧
    (8 ≤ t → t ≤ 13 →
      bits (.vshl q d a b g) (fun u v => laneBits t (u.toNat % 2 ^ elemBits t * 2 ^ amount v)) ∧
      bits (.vshr q d a b g) (fun u v => laneBits t (u.toNat % 2 ^ elemBits t / 2 ^ amount v)) ∧
      bits (.vsar q d a b g) (fun u v => laneBits t (((BitVec.ofNat (elemBits t) u.toNat).toInt.fdiv (2 ^ amount v)) % 2 ^ elemBits t).toNat))

/-- R154, R155, R156, R160, R161: the moves, reductions and permutes. Without a segment qualifier a row is the shape's columns and a column its rows; with one,
a column operation takes together the valid rows of the same segment. A lane without a source lane gets zero.

R155: what the reduction tree gives for integers: the exact sum of the lanes present, wrapped or clipped once, and their maximum or minimum;
their bits and, or and exclusive or; for floating types the tree of twice as many leaves combines the trees of its two halves, an absent side giving the
other, each sum rounded to the type to nearest-even, and a tree of one leaf is its value.

R160: the rows that a column operation takes together under a segment qualifier are those that hold data of the row's own segment, in rising order.

Of the model, not of the spec alone: log entry 18. -/
def Obligations.VectorMovesAndReductionsActOnGroups : Prop :=
   (∀ (s : State) (q : Option Qual) (d : VDst) (a b : VSrc) (g : Guard) (x : VIn) (v1 : Vec) (op : Fin 6),
      let t := typeOf q
      let n := vwords q [a, b]
      let A (k : Nat) : W32 := (x.a.at k).bits
      let scalar : Nat := (x.b.at 0).bits.toNat
      let group (r : Nat) : List Nat := x.yRows r
      s.mach.vin s.cur.core q d a b g = some (x, v1) → s.vfits n →
      let moves (i : Instr) (src : Nat → Option Nat) (also : Nat → List (Nat × Nat)) : Prop :=
        x.cleanAt (fun k => (match src k with | some j => [(0, j)] | none => []) ++ also k) →
        ∃ t', exec i s = .next t' ∧ s.wroteLanes t' v1 n d fun k => if x.active k then some ((src k).elim 0 A, {}) else none
      let reduces (i : Instr) (lanes : Nat → Bool) (o : Nat → Option LaneOut) : Prop :=
        b = .zero → (∀ k, k < 1024 → lanes k = true → ∀ r, (∃ y, o k = some y ∧ r ∈ y.reads) → ((x.src r.1).at r.2).tag = 0) →
        ∃ t', exec i s = .next t' ∧ s.wroteLanes t' v1 n d fun k => if lanes k then (o k).map fun y => (y.bits, y.fl) else none
      moves (.vxrot q d a b g) (fun k => some (k / 64 * 64 + (((k % 64 : Nat) - (scalar : Int)) % (x.shape.width : Int)).toNat)) (fun _ => [(1, 0)]) ∧
      moves (.vxbc q d a b g) (fun k => if scalar < x.shape.width then some (k / 64 * 64 + scalar) else none) (fun _ => [(1, 0)]) ∧
      moves (.vyrot q d a b g) (fun k => let rows := group (k / 64)
        rows[((((rows.idxOf (k / 64) : Nat) : Int) - scalar) % (rows.length : Int)).toNat]?.map fun r => 64 * r + k % 64) (fun _ => [(1, 0)]) ∧
      (x.sg = none → group = fun _ => List.range x.shape.height) ∧
      (∀ sg : SegReg, x.sg = some sg → ∀ r : Fin 16, sg.rows[r].valid = true →
        (group r.val).Pairwise (· < ·) ∧ (∀ k ∈ group r.val, k < 16) ∧ ∀ k : Fin 16, k.val ∈ group r.val ↔ sg.rows[k].valid = true ∧ sg.rows[k].seg = sg.rows[r].seg) ∧
      moves (.vybc q d a b g) (fun k => (group (k / 64))[scalar]?.map fun r => 64 * r + k % 64) (fun _ => [(1, 0)]) ∧
      moves (.vperm q d a b g) (fun k => if (x.b.at k).bits.toNat < 64 then some (k / 64 * 64 + (x.b.at k).bits.toNat) else none) (fun k => [(1, k)]) ∧
      (x.sg = none → moves (.vshuf q d a b g) (fun k => if (x.b.at k).bits.toNat < 16 then some (64 * (x.b.at k).bits.toNat + k % 64) else none) (fun k => [(1, k)])) ∧
      (x.sg ≠ none → moves (.vshuf q d a b g) (fun k => (group (k / 64))[(x.b.at k).bits.toNat]?.map fun r => 64 * r + k % 64) (fun k => [(1, k)])) ∧
      ((∀ y z, d = .reg y → a = .reg z → s.vec.regNo y ≠ s.vec.regNo z) → b = .zero →
        moves (.vtrans q d a g) (fun k => some (64 * (k % 16) + (k % 64 / 16 * 16 + k / 64))) (fun _ => [])) ∧
      reduces (.vxred q d a op g) x.active (fun k => x.reduce t (satOf q) op 6 ((List.range 64).map fun c =>
        let j := k / 64 * 64 + c; if x.active j && decide (c < x.shape.width) then some j else none)) ∧
      reduces (.vyred q d a op g) x.active (fun k => x.reduce t (satOf q) op 4 ((List.range 16).map fun r =>
        let j := 64 * r + k % 64; if x.active j && (group (k / 64)).contains r then some j else none)) ∧
      reduces (.vsgscan q d a op g) x.active (x.scan t (satOf q) op) ∧
      reduces (.vsgred q d a op g) x.shape.lane (x.segReduce (x.sg.getD .zero) t (satOf q) op)) ∧
   (∀ (t n : Nat) (sat : Bool) (leaves : List (Option W32)), leaves.length = 2 ^ n →
      let ws : List Int := (leaves.filterMap id).map (intIn t)
      let sum : Int := ws.foldl (· + ·) 0
      (ws = [] → ∀ op, reduceTree t sat op n leaves = none) ∧
      (8 ≤ t → t ≤ 13 → ws ≠ [] →
        reduceTree t false 0 n leaves = some (intLane t sum, {}) ∧
        reduceTree t true 0 n leaves = some (intLane t (max (intMin t) (min (intMax t) sum)), { sat := decide (sum < intMin t ∨ intMax t < sum) }) ∧
        (∃ m, m ∈ ws ∧ (∀ v ∈ ws, v ≤ m) ∧ (reduceTree t sat 1 n leaves).map (·.1) = some (intLane t m)) ∧
        (∃ m, m ∈ ws ∧ (∀ v ∈ ws, m ≤ v) ∧ (reduceTree t sat 2 n leaves).map (·.1) = some (intLane t m))) ∧
      (∀ (w : W32) (rest : List W32), 8 ≤ t → t ≤ 13 → leaves.filterMap id = w :: rest →
        let el (y : W32) : Nat := y.toNat % 2 ^ elemBits t
        let all (f : Nat → Nat → Nat) : Option W32 := some (laneBits t (rest.foldl (fun u y => f u (el y)) (el w)))
        (reduceTree t sat 3 n leaves).map (·.1) = all (· &&& ·) ∧
        (reduceTree t sat 4 n leaves).map (·.1) = all (· ||| ·) ∧
        (reduceTree t sat 5 n leaves).map (·.1) = all (· ^^^ ·)) ∧
      (∀ (op : Fin 6) (right : List (Option W32)), t < 8 → right.length = 2 ^ n →
        let tree (k : Nat) (l : List (Option W32)) : Option (Ex × FpFlags) := treeOf (floatNode t sat op) k (l.map fun w => w.map (floatLeaf t))
        reduceTree t sat op n leaves = (tree n leaves).map (floatResult t) ∧
        tree (n + 1) (leaves ++ right) = (match tree n leaves, tree n right with
          | none, y => y
          | y, none => y
          | some y, some z => some (floatNode t sat op y z)) ∧
        (∀ w, tree 0 [w] = w.map (floatLeaf t)) ∧
        (∀ y z, (floatNode t sat 0 y z).1 = (fmt! t).decode ((fmt! t).round (y.1.add z.1 .rne).1 .rne sat).bits ∧
          (floatNode t sat 1 y z).1 = y.1.minMax true z.1 ∧ (floatNode t sat 2 y z).1 = y.1.minMax false z.1)))

/-- R138, R139, R167: an index-base write is pending for two retirements; a predicate function acts on all 1,024 bits, with P0 read as all ones.

R159: `vwalk` of a ragged layout writes SG[d] from the walk of its row table, and nothing else of the machine but the stores its reads waited for: the other
cores, and the core's other strands, engines, queues and registers stay. Of another layout it traps SHAPE at the layout's row table.

Of the model, not of the spec alone: log entries 7 and 23. -/
def Obligations.IndexBasesPredicatesAndWalksAreWritten : Prop :=
   (∀ (s : State) (n : Fin 4) (y : VSrc) (r : VecReg) (v1 : Vec) (d e f : Fin 8),
      let v := s.vec
      let w := (r.at 0).bits
      let past (u : Vec) (k : Nat) : Vec := { u.retire with pc := v.pc + BitVec.ofNat 18 k, wait := none, issued := false }
      let later : BitVec 3 := ((v1.bw.filter fun p => p.base == n).getLast?.map (·.val)).getD v1.b[n]
      let p (k : Fin 8) (i : Nat) : Bool := k == 0 || v.p[k].getLsbD i
      (v.source y = some (r, v1) → (r.at 0).tag = 0 → s.vfits (vwords none [y]) →
        let u := past v1 (vwords none [y])
        (∃ t, exec (.vbset n y) s = .next t ∧ s.onlyVector t ∧ t.vec = { u with bw := u.bw ++ [{ base := n, val := w.setWidth 3, count := 2 }] }) ∧
        (∃ t, exec (.vbadd n y) s = .next t ∧ s.onlyVector t ∧ t.vec = { u with bw := u.bw ++ [{ base := n, val := later + w.setWidth 3, count := 2 }] })) ∧
      (s.vfits 1 →
        let sets (i : Instr) (h : Nat → Bool) : Prop :=
          ∃ t, exec i s = .next t ∧ s.onlyVector t ∧ t.vec = { past v 1 with p := t.vec.p } ∧ (∀ k, k ≠ d → t.vec.p[k] = v.p[k]) ∧
            ∀ i, i < 1024 → t.vec.p[d].getLsbD i = h i
        sets (.vpand d e f) (fun i => p e i && p f i) ∧
        sets (.vpor d e f) (fun i => p e i || p f i) ∧
        sets (.vpxor d e f) (fun i => xor (p e i) (p f i)) ∧
        sets (.vpnot d e) (fun i => !p e i)) ∧
      (∀ k : Fin 4, v.retire.b[k] = ((v.bw.filter fun p => p.base == k && decide (p.count ≤ 1)).getLast?.map (·.val)).getD v.b[k]) ∧
      v.retire.bw = (v.bw.filter fun p => decide (2 ≤ p.count)).map fun p => { p with count := p.count - 1 }) ∧
   (∀ (s : State) (sg : Fin 4) (lyn : Fin 8) (start : WalkStart) (g : SegReg) (m1 : Mach),
      let c := s.cur.core
      let ly := (s.core c).layout lyn
      let n := match start with | .lit _ => 2 | _ => 1
      let place : Nat × Nat := match start with | .zero => (0, 0) | .cursor k => (s.vec.sg[k].seq.toNat, s.vec.sg[k].pos.toNat) | .lit w => (w.toNat, 0)
      (ly.kind.toNat < 2 → exec (.vwalk sg lyn start) s = .next { s with mach := s.mach.vecTrap c { cls := .shape, addr := ly.rowtab } }) ∧
      (2 ≤ ly.kind.toNat → ({ core := c, tab := ly.rowtab, extents := ly.kind == 3 } : RowTab).walk place.1 place.2 s.mach = .ok (g, m1) →
        s.vfits n →
        ∃ t, exec (.vwalk sg lyn start) s = .next t ∧ t.mach.mem = m1.mem ∧ t.mach.pend = m1.pend ∧
          (∀ e, e ≠ c → t.mach.cores[e] = s.mach.cores[e]) ∧ { t.core c with vec := s.vec, smw := (s.core c).smw } = s.core c ∧ t.fw = s.fw ∧ t.cur = s.cur ∧
          t.vec = { s.vec.retire with sg := s.vec.sg.set sg g, pc := s.vec.pc + BitVec.ofNat 18 n, wait := none, issued := false }))

/-- R168 to R171: `vloop` starts at stage 0 with only P1 set among its stages, or is passed over with no iteration left; `vlend` begins the next iteration, with
the bases of the mask lower by one and P(k+1) set for the stages that have one, and after the last it restores those bases, clears the stage
predicates and goes on. A stop request ends it after the iterations already begun, saying where it stopped. -/
def Obligations.LoopsRunTheirStages : Prop :=
  ∀ (s : State) (stages : Fin 8) (mask : BitVec 4) (y : VSrc) (r : VecReg) (v1 : Vec),
    let v := s.vec
    let n := vwords none [y]
    let w := (r.at 0).bits.toNat
    let l := v.loop
    let first := l.lbase
    let runs (j k stage : Nat) : Bool := decide (stage ≤ j) && decide (j < k + stage)
    (v.source y = some (r, v1) → (r.at 0).tag = 0 → l.act = false → s.vfits n →
      (w ≤ first → ∃ t, exec (.vloop stages mask y) s = .next t ∧ s.onlyVector t ∧
        t.vec = { v1.retire with pc := v.pc + BitVec.ofNat 18 n, wait := none, issued := false, skip := true, loop := { l with lbase := 0 } }) ∧
      (first < w → ∃ t, exec (.vloop stages mask y) s = .next t ∧ s.onlyVector t ∧
        t.vec.loop.act = true ∧ t.vec.loop.ls = stages.val ∧ t.vec.loop.lmask = mask ∧ t.vec.loop.lfirst = first ∧ t.vec.loop.lk = w - first ∧
        t.vec.loop.lj = 0 ∧ t.vec.loop.lstart = v.pc + BitVec.ofNat 18 n ∧ t.vec.loop.lvpc = v.pc ∧ t.vec.pc = t.vec.loop.lstart ∧
        (∀ k : Fin 8, t.vec.p[k] = if k.val = 0 ∨ stages.val < k.val then v.p[k] else if k.val = 1 then BitVec.allOnes 1024 else 0) ∧
        t.vec.b = v1.retire.b ∧ t.vec.v = v1.v)) ∧
    (v.skip = true → s.vfits 1 → exec .vlend s = .next { s with mach := s.mach.onVec s.cur.core fun v => { v with skip := false, pc := v.pc + 1 } }) ∧
    (v.skip = false → l.act = true → s.vfits 1 →
      let stops := (s.core s.cur.core).stop && !l.lstop && decide (l.lj + 1 < l.lk)
      let k := if stops then l.lj + 1 else l.lk
      let stopped := l.lstop || stops
      ∃ t, exec .vlend s = .next t ∧ t.mach.mem = s.mach.mem ∧ t.mach.pend = s.mach.pend ∧ (∀ e, e ≠ s.cur.core → t.mach.cores[e] = s.mach.cores[e]) ∧
        t.ctl = s.ctl ∧ t.vec.v = v.v ∧
        (l.lj + 1 < k + l.ls - 1 →
          t.vec.pc = l.lstart ∧ t.vec.loop.lj = l.lj + 1 ∧ t.vec.loop.act = true ∧ t.vec.status = v.status ∧
          (∀ c : Fin 4, t.vec.b[c] = if l.lmask.getLsbD c.val then v.retire.b[c] - 1 else v.retire.b[c]) ∧
          (∀ i : Fin 8, t.vec.p[i] = if 1 ≤ i.val ∧ i.val ≤ l.ls then (if runs (l.lj + 1) k (i.val - 1) then BitVec.allOnes 1024 else 0) else v.p[i])) ∧
        (k + l.ls - 1 ≤ l.lj + 1 →
          t.vec.pc = (if stopped then l.lvpc else v.pc + 1) ∧ t.vec.loop.act = false ∧ t.vec.status = (if stopped then .stopped else v.status) ∧
          t.vec.loop.lbase = (if stops then l.lfirst + l.lj + 1 else l.lbase) ∧
          (∀ c : Fin 4, t.vec.b[c] = if l.lmask.getLsbD c.val then l.lentryb[c] else v.retire.b[c]) ∧
          (∀ i : Fin 8, t.vec.p[i] = if 1 ≤ i.val ∧ i.val ≤ l.ls then 0 else v.p[i])))

/-- R172, R173, R330: a satisfied `vsmwait` goes on; `vsmadd` adds, after the strand's earlier stores, and sets no flag; `vqget` takes the head of Q0 to its
active lanes; `vqput` appends its word, or VFLAGS which it clears, to Q1, and mode 2 ends the strand. The add and `vqput` wait for a load of the strand that is
kept back (R261).

Of the model, not of the spec alone: log entry 7. -/
def Obligations.VectorSemaphoresAndQueuesComplete : Prop :=
  ∀ (s : State) (d : VDst) (n : Fin 15) (y : VSrc) (g : Guard) (r : VecReg) (v1 : Vec),
    let c := s.cur.core
    let core := s.core c
    let v := s.vec
    let w := (r.at 0).bits
    let words := vwords none [y]
    let past (u : Vec) (k : Nat) : Vec := { u.retire with pc := v.pc + BitVec.ofNat 18 k, wait := none, issued := false }
    let flushed := s.mach.flushAll c .vector
    (v.source y = some (r, v1) → (r.at 0).tag = 0 → s.vfits words →
      (core.smw[n] = [] → w.toNat ≤ core.sm[n].toNat → ∃ t, exec (.vsmwait n y) s = .next t ∧ s.onlyVector t ∧ t.vec = past v1 words) ∧
      (core.smw[n] = [] → s.mach.keepsLoad c = false → ∃ t, exec (.vsmadd n y) s = .next t ∧ t.vec = past v1 words ∧ t.ctl = s.ctl ∧
        (t.core c).sm[n].toNat = min (2 ^ 32 - 1) (core.sm[n].toNat + w.toNat) ∧ (∀ k, k ≠ n → (t.core c).sm[k] = core.sm[k]) ∧
        t.mach.mem = flushed.mem ∧ t.mach.pend = flushed.pend) ∧
      (∀ mode : Fin 3, (mode = 2 → v.loop.act = false) → core.q[(1 : Fin 8)].length < 8 → s.mach.keepsLoad c = false →
        ∃ t, exec (.vqput y mode) s = .next t ∧
          (t.core c).q[(1 : Fin 8)] = core.q[(1 : Fin 8)] ++ [if mode = 1 then BitVec.ofNat 64 v1.flags else w.setWidth 64] ∧
          (∀ k : Fin 8, k ≠ 1 → (t.core c).q[k] = core.q[k]) ∧
          t.vec = { past v1 words with
                    flagSat := mode != 1 && v1.flagSat, flagNx := mode != 1 && v1.flagNx, flagUf := mode != 1 && v1.flagUf,
                    flagOf := mode != 1 && v1.flagOf, flagDz := mode != 1 && v1.flagDz, flagNv := mode != 1 && v1.flagNv,
                    status := if mode = 2 then .ended else v.status } ∧
          t.ctl = (if mode = 2 then s.ctl.fireVector else s.ctl) ∧ t.mach.mem = flushed.mem ∧ t.mach.pend = flushed.pend)) ∧
    (∀ (mode : Fin 2) (e : W64) (rest : List W64) (x : VIn), core.q[(0 : Fin 8)] = e :: rest → s.mach.vin c none d .zero .zero g = some (x, v1) → s.vfits 1 →
      ∃ t, exec (.vqget d mode g) s = .next t ∧ t.mach.mem = s.mach.mem ∧ t.mach.pend = s.mach.pend ∧
        (t.core c).q[(0 : Fin 8)] = rest ∧ (∀ k : Fin 8, k ≠ 0 → (t.core c).q[k] = core.q[k]) ∧ t.ctl = s.ctl ∧
        t.vec = { past v 1 with v := t.vec.v } ∧
        ∀ k : Fin 32, if (match d with | .reg y => v.regNo y == k | .none => false) then
            ∀ i : Fin 1024, t.vec.v[k].lanes[i] =
              if x.active i.val && (mode == 0 || i.val == 0) then { bits := e.setWidth 32, tag := 0 }
              else if x.active i.val && i.val == 1 then { bits := (e >>> 32).setWidth 32, tag := 0 } else v.v[k].lanes[i]
          else t.vec.v[k] = v.v[k])

/-- R162, R163, R165: vector loads, stores and operand-queue loads in this package's storage, with no earlier load of the strand kept back before them. An active
lane's element lies at the layout's pointer plus its row, column and iteration strides, packed by index for `vgath` and `vscat`; a load's lane is the
element extended. R260: a store joins the stores not yet performed as one for each location that its lanes touch, `vscat`'s in the order of the lanes;
performed together, they write each active lane's element, a later lane's over an earlier one's, and no other bit.

R164, R285, R286: the vector full/empty forms over at most 32 words of this package, all in the state the form requires. `vldwait` reads; `vldcons` reads
and leaves the words touched empty; `vstfill` writes its elements' bytes, leaves the words full, and changes no other byte, but for the mooring lists.

Of the model, not of the spec alone: log entries 7, 12, 18, 24 and 77. -/
def Obligations.VectorMemoryReachesItsElements : Prop :=
   (∀ (s : State) (q : Option Qual) (d : VDst) (v : VReg) (oq : Fin 4) (lyn : Fin 8) (b : VSrc) (g : Guard) (x : VIn) (v1 : Vec)
      (indexed : Bool) (ptrs : Nat → W64) (keys : Nat → Nat) (mts : Nat → MType) (uses : Nat → Option ObjUse),
      let c := s.cur.core
      let m := s.mach
      let ly := (s.core c).layout lyn
      let type := ly.type.toNat
      let n := vwords q [b]
      let size : Nat := if type = 0 ∨ type = 10 ∨ type = 13 then 4 else if type = 1 ∨ type = 2 ∨ type = 9 ∨ type = 12 then 2 else 1
      let packed (e : Nat) : Int := if type = 7 then (e / 2 : Nat) else (e * size : Nat)
      let base : Int := (x.b.at 0).bits.toInt
      let iter : Int := v1.iter g * ly.stride[2].toInt
      let row (k : Nat) : Nat := if ly.kind = 0 then k / 64 else ((x.sg.bind fun s => s.rows.toList[k / 64]?).map (·.srcrow.toNat)).getD 0
      let off (k : Nat) : Int :=
        if indexed then packed (x.b.at k).bits.toNat + iter
        else if ly.kind = 1 then base + packed k + iter
        else base + row k * ly.stride[1].toInt + (if type = 7 then packed (k % 64) else (k % 64 : Nat) * ly.stride[0].toInt) + iter
      let nib (k : Nat) : Nat := if type = 7 then (if indexed then (x.b.at k).bits.toNat else k) % 2 else 0
      let element (raw k : Nat) : Nat := if type = 7 then raw / 16 ^ nib k % 16 else raw % 2 ^ elemBits type
      let places (kind : Kind) : Prop := ∀ k, k < 1024 → x.active k = true →
        ptrAdd ly.ptr (off k) = .ok (ptrs k) ∧ checked (m.seen c .vector) (m.vasker c) (ptrs k) size kind = .ok (.store (keys k) (mts k) (uses k))
      let acts := (List.range 1024).filter x.active
      let reqs : List Access := acts.map fun k => { loc := locOf (keys k), cls := memCls q, rel := false, mtype := mts k, kind := .load, masks := [] }
      let m1 := m.flushReqs c .vector reqs
      let loads (i : Instr) : Prop :=
        ∃ t, exec i s = .next t ∧ t.mach.mem = m1.mem ∧ t.mach.pend = m1.pend ∧ t.vec.pc = s.vec.pc + BitVec.ofNat 18 n ∧ t.ctl = s.ctl ∧
          ∀ r : Fin 32, if (match d with | .reg y => v1.regNo y == r | .none => false) then
              ∀ k : Fin 1024, t.vec.v[r].lanes[k] =
                if x.active k.val then { bits := laneBits type (element (memNat m1.mem (keys k.val) size) k.val), tag := 0 } else v1.v[r].lanes[k]
            else t.vec.v[r] = v1.v[r]
      let bytes (k : Nat) : List (Byte × Byte) :=
        if type = 7 then [(if nib k = 0 then 0x0F else 0xF0, BitVec.ofNat 8 ((x.d.at k).bits.toNat % 16 * 16 ^ nib k))]
        else (leBytes ((x.d.at k).bits.toNat % 2 ^ elemBits type) size).map fun y => (0xFF, y)
      let stores (i : Instr) : Prop :=
        ∃ t, exec i s = .next t ∧ t.mach.mem = m.mem ∧ t.vec.v = v1.v ∧ t.vec.pc = s.vec.pc + BitVec.ofNat 18 n ∧ t.ctl = s.ctl ∧
          ∃ l : List PendStore, t.mach.pend = dropFences [] m.pend ++ l.map .store ∧
            (l.map (·.addr)).Perm (acts.map fun k => locOf (keys k)).eraseDups ∧
            (indexed = true → l.map (·.addr) = (acts.map fun k => locOf (keys k)).eraseDups) ∧
            (∀ p ∈ l, p.core = c ∧ p.strand = .vector ∧ p.clears = false ∧ p.cls = memCls q ∧ p.rel = (memRel q && memScope q != 0) ∧
              p.near = (memRel q && memScope q == 0) ∧ p.shown = false ∧ ∃ k ∈ acts, p.addr = locOf (keys k) ∧ p.mtype = mts k ∧ p.use = uses k) ∧
            ∀ mem, memWf mem = true → ∀ a,
              memByte (l.foldl (fun mem p => p.perform mem) mem) a = memByte (acts.foldl (fun mem k => memSetMasked mem (keys k) (bytes k)) mem) a
      s.vfits n → ((ly.kind.toNat < 2 ∨ x.sg ≠ none) ∧ (indexed = false → (x.b.at 0).tag = 0)) →
      (indexed = true → ∀ k, k < 1024 → x.active k = true → (x.b.at k).tag = 0) →
      (m.vin c q d .zero b g = some (x, v1) → places .read → m.heldVec c reqs = false →
        (indexed = false → loads (.vld q d lyn b g)) ∧ (indexed = true → loads (.vgath q d lyn b g))) ∧
      (m.vin c q (.reg v) .zero b g = some (x, v1) → places .write → (∀ k ∈ acts, keys k % size = 0 ∧ (x.d.at k).tag = 0) →
        (indexed = false → stores (.vst q v lyn b g)) ∧ (indexed = true → stores (.vscat q v lyn b g))) ∧
      (m.vin c q .none .zero b g = some (x, v1) → places .read → m.heldVec c reqs = false → indexed = false → v1.oq[oq].length < 4 →
        ∃ t image, exec (.vqrd q oq lyn b g) s = .next t ∧ t.mach.mem = m1.mem ∧ t.vec.v = v1.v ∧ t.vec.pc = s.vec.pc + BitVec.ofNat 18 n ∧
          t.vec.oq = v1.oq.set oq (v1.oq[oq] ++ [.loaded image]) ∧
          ∀ k : Fin 1024, image.lanes[k] =
            { bits := if x.active k.val then laneBits type (element (memNat m1.mem (keys k.val) size) k.val) else 0, tag := 0 }) ∧
      (∀ (e : CoreId) (k : Fin 4) (image : VecReg), m.cores[e].vec.oq[oq][k.val]? = some (.loaded image) →
        exec (.vqrdImageArrival e oq k) s = .next { s with mach := m.onVec e fun v => { v with oq := v.oq.set oq (v.oq[oq].set k.val (.arrived image)) } })) ∧
   (∀ (s : State) (q : Option Qual) (d : VDst) (v : VReg) (lyn : Fin 8) (b : VSrc) (g : Guard) (x : VIn) (v1 : Vec)
      (keys : Nat → Nat) (mts : Nat → MType) (uses : Nat → Option ObjUse),
      let c := s.cur.core
      let m := s.mach
      let ly := (s.core c).layout lyn
      let type := ly.type.toNat
      let size := esizeOf type
      let n := vwords q [b]
      let acts := (List.range 1024).filter x.active
      let el (k : Nat) : Elem := Mach.elem ly x (v1.iter g) false (x.b.at 0).bits.toInt k
      let words := acts.map fun k => locOf (keys k)
      let ready (kind : Kind) (full : Bool) : Prop := ∀ k ∈ acts,
        m.elemPlace c size kind (el k) = .ok (.store (keys k) (mts k) (uses k)) ∧ memFull m.mem (locOf (keys k)) = full
      let reqs (rel : Bool) : List Access := acts.map fun k => { loc := locOf (keys k), cls := memCls q, rel := rel, mtype := mts k, kind := .rmw, masks := [] }
      let flushed (all : Bool) : Mach := if all then m.flushAll c .vector else m.flushReqs c .vector (reqs false)
      let reads (t : State) (m1 : Mach) : Prop :=
        (∀ a, m.inList a = false → memByte t.mach.mem a = memByte m1.mem a) ∧ t.vec.pc = s.vec.pc + BitVec.ofNat 18 n ∧ t.ctl.x = s.ctl.x ∧
          ∀ r, d = .reg r → ∀ k : Fin 1024, t.vec.v[v1.regNo r].lanes[k] =
            if x.active k.val then { bits := laneBits type (elemBitsOf type (el k.val).nib (memNat m1.mem (keys k.val) size)), tag := 0 } else v1.v[v1.regNo r].lanes[k]
      memWf m.mem = true → s.vfits n → (ly.kind.toNat < 2 ∨ x.sg ≠ none) → (x.b.at 0).tag = 0 → acts ≠ [] → words.eraseDups.length ≤ 32 →
      (m.vin c q d .zero b g = some (x, v1) → m.heldVec c (reqs (memRel q)) = false →
        let m1 := flushed (memRel q)
        (ready .read true → ∃ t, exec (.vldwait q d lyn b g) s = .next t ∧ reads t m1 ∧ t.mach.mem = m1.mem) ∧
        (ready .consume true → ∃ t, exec (.vldcons q d lyn b g) s = .next t ∧ reads t m1 ∧ ∀ l, memFull t.mach.mem l = (memFull m1.mem l && !words.contains l))) ∧
      (m.vin c q (.reg v) .zero b g = some (x, v1) → m.heldVec c (reqs true) = false → ready .fill false → (∀ k ∈ acts, (x.d.at k).tag = 0) →
        let m1 := flushed true
        ∃ t, exec (.vstfill q v lyn b g) s = .next t ∧ t.vec.v = v1.v ∧ t.vec.pc = s.vec.pc + BitVec.ofNat 18 n ∧
          (∀ l, memFull t.mach.mem l = (memFull m1.mem l || words.contains l)) ∧
          (∀ a, m.inList a = false → (∀ k ∈ acts, a < keys k ∨ keys k + size ≤ a) → memByte t.mach.mem a = memByte m1.mem a) ∧
          (type ≠ 7 → type < 14 → ∀ k ∈ acts, (∀ i, i < size → m.inList (keys k + i) = false) →
            (∀ j ∈ acts, j ≠ k → keys j + size ≤ keys k ∨ keys k + size ≤ keys j) →
            memNat t.mach.mem (keys k) size = elemOf type (x.d.at k).bits)))

/-! The matrix array (06 R176 to R201). -/

/-- R56, R83, R190: a step whose await is not satisfied waits in its semaphore's list with no effect; a step that faults has no effect but that its strand halts
at it, with two report entries carrying the class, its ring pointer and address, and the fault address, and a requested event carries the class. A subtraction
made as its wait was released is undone.

R181 to R183, R187, R193 to R196, R201: where the steps of a matrix strand fault, in the order of their checks.

R178: the lease. A grant comes 2 s-cycles after the arbitration began. A free lease is arbitrated for the ready strand, or with both ready for the one that
did not hold the last; a held one passes when its 32 steps are counted or when only the other strand is ready.

Of the model, not of the spec alone: log entries 6, 19 and 71. -/
def Obligations.EngineStepsWaitHaltAndPassTheLease : Prop :=
   ((∀ (s : State) (i : Instr) (w : Sems) (n : Fin 15) (t : Strand),
      let c := s.cur.core
      (matrixStep? i = some w ∧ t = matStrand s.cur.strand) ∨ (copyStep? i = some w ∧ t = .copy) →
      w.aw.toNat = n.val → ¬ s.steps t w →
      ∃ t', exec i s = .next t' ∧ t'.mach.mem = s.mach.mem ∧ t'.mach.pend = s.mach.pend ∧ t'.ctl = s.ctl ∧ (t'.core c).vec = (s.core c).vec ∧
        (t'.core c).rings = (s.core c).rings ∧ (t'.core c).sm = (s.core c).sm ∧ (t'.core c).acc = (s.core c).acc ∧ (t'.core c).rg = (s.core c).rg ∧
        ((t'.core c).eng t).flights = ((s.core c).eng t).flights ∧ ((t'.core c).eng t).f = ((s.core c).eng t).f ∧
        (((s.core c).eng t).report = [] → (t'.core c).q = (s.core c).q) ∧ (∀ e, e ≠ c → t'.core e = s.core e) ∧
        ∃ x ∈ (t'.core c).smw[n], x.strand = t) ∧
    (∀ (m : Mach) (c : CoreId) (t : Strand) (aw : BitVec 4) (source : BitVec 8) (words : Nat) (f : Trap), t ∈ [Strand.matrixA, .matrixB, .copy] →
      let k := m.cores[c]
      let r := k.rings[ringOf t]
      let first : Nat := 2 ^ 63 + f.cls.code.toNat * 2 ^ 52 + r.rp.toNat * 2 ^ 20 + (r.base.toNat + 4 * (r.rp.toNat % 2 ^ r.lsize.toNat)) % 2 ^ 20
      let m1 := m.engFault c t aw source words f
      let k1 := m1.cores[c]
      m1.mem = m.mem ∧ m1.pend = m.pend ∧ (∀ e, e ≠ c → m1.cores[e] = m.cores[e]) ∧ k1.acc = k.acc ∧ k1.rg = k.rg ∧ k1.vec = k.vec ∧
      k1.ctl = k.ctl.fireStep (ringOf t) r.rp words source (f.cls.code.setWidth 8) ∧
      ((∀ h : aw.toNat < 15, k.semWaiter? ⟨aw.toNat, h⟩ t = none) → k1.sm = k.sm) ∧
      (∀ (h : aw.toNat < 15) x, k.smw[aw.toNat] = [x] → x.strand = t → x.released ≠ none → k1.smw[aw.toNat] = [] ∧
        k1.sm[aw.toNat].toNat = min (2 ^ 32 - 1) (k.sm[aw.toNat].toNat + 1)) ∧
    k1.rings[ringOf t] = { r with run := false, halt := true } ∧ (k1.eng t).fetched = none ∧ (k1.eng t).flights = (k.eng t).flights ∧
      ((k.eng t).report = [] → k.q[outQueue t].length ≤ 6 →
        k1.q[outQueue t] = k.q[outQueue t] ++ [BitVec.ofNat 64 first, f.addr] ∧ (k1.eng t).report = []))) ∧
   (∀ (s : State) (w : Sems) (n : Nat) (v addr : W32) (fmt : Fin 3) (count1 didx : BitVec 14) (tile : BitVec 6) (cls : BitVec 4) (scope : Scope)
      (count disp : BitVec 8) (a : MmaArgs) (kind : MmaKind),
      let c := s.cur.core
      let t := matStrand s.cur.strand
      let k := s.core c
      let m := s.drainedFor t
      let traps (i : Instr) (words : Nat) (cls : TrapClass) (addr : W64) : Prop := s.stepTraps t w i words { cls := cls, addr := addr }
      (s.steps t w → (m.grantOf c).getLsbD 2 = false → traps (.mthr w v) 2 .priv 0) ∧
      (let r := k.rings[ringOf t]
       s.steps t w → (((k.eng t).mlc).getD count).toNat ≠ 0 → 2 ^ r.lsize.toNat < (r.wp - r.rp + disp.setWidth 32).toNat → traps (.mjmp w count disp) 1 .perm 0) ∧
      (let i : Instr := .scld w fmt count1 addr cls didx
       let size := if fmt = 0 then 4 else 1
       let bytes := (count1.toNat + 1) * size
       s.arrayStarts t w i n →
       (16384 < didx.toNat + (count1.toNat + 1) → traps i 3 .shape 0) ∧
       (didx.toNat + (count1.toNat + 1) ≤ 16384 →
         (addr.toNat % size ≠ 0 → traps i 3 .align (addr.setWidth 64)) ∧
         (addr.toNat % size = 0 → m.nearRun c addr.toNat bytes = none → traps i 3 .perm (addr.setWidth 64)) ∧
         ∀ key j, addr.toNat % size = 0 → m.nearRun c addr.toNat bytes = some key → j < (key % 8 + bytes + 7) / 8 → memPoisoned m.mem (locOf key + 8 * j) = true →
           (∀ b, b < j → memPoisoned m.mem (locOf key + 8 * b) = false) → traps i 3 .poison (BitVec.ofNat 64 (addr.toNat / 8 * 8 + 8 * j)))) ∧
      (∀ i ∈ [Instr.accst w tile addr cls scope, .accld w tile addr cls scope], s.arrayStarts t w i n →
        (addr.toNat % 64 ≠ 0 → traps i 3 .align (addr.setWidth 64)) ∧
        (addr.toNat % 64 = 0 → m.nearRun c addr.toNat 16384 = none → traps i 3 .perm (addr.setWidth 64))) ∧
      (let i : Instr := match kind with | .add => .mma w a | .replace => .mmaz w a | .seg => .mmasg w a
       let bad (o : OpDesc) : Option (TrapClass × W64) :=
         if o.fixed then
           if o.addr.toNat % 512 ≠ 0 then some (.align, o.addr.setWidth 64) else if 2 ^ 20 < o.addr.toNat + 32768 then some (.perm, o.addr.setWidth 64) else none
         else match k.rg[o.ring] with | none => some (.allocExh, 0) | some r => if r.ss < 32768 then some (.shape, 0) else none
       let table := a.opA.addr.toNat / 64 * 64
       s.arrayStarts t w i n →
       (∀ f, bad a.opA = some f → traps i 4 f.1 f.2) ∧ (∀ f, bad a.opA = none → bad a.opB = some f → traps i 4 f.1 f.2) ∧
       (bad a.opA = none → bad a.opB = none →
         let sh := blockShape k.sets[engineNo (engineOf t)].cur.sh[a.sh] (some (kmaxOf a.opA.ty))
         (sh = none → traps i 4 .shape 0) ∧
         ∀ x, sh = some x →
           let past := (a.sau = false ∧ 16384 < a.saidx.toNat + x.k / 32 * x.m) ∨ (a.sbu = false ∧ 16384 < a.sbidx.toNat + x.k / 32 * x.n)
           (past → traps i 4 .shape 0) ∧ (¬ past → kind = .seg → 2 ^ 20 < table + 256 → traps i 4 .perm (BitVec.ofNat 64 table))))) ∧
   (∀ (s : State) (c : CoreId),
      let k := s.core c
      let m := s.mach
      let readyA := k.ready false
      let readyB := k.ready true
      let rdy (b : Bool) : Bool := if b then readyB else readyA
      let goesTo (l : Lease) (last : Bool) : Host.Outcome State Fault Refusal :=
        .next { s with mach := m.onCore c fun k => { k with lease := l, leaseLast := last } }
      let done := exec (.leaseGrant c) s
      (∀ b since, k.lease = .arb b since →
        (since + 2 ≤ m.scyc → done = goesTo (.held b 0) k.leaseLast) ∧ (m.scyc < since + 2 → done = .next s)) ∧
      (k.lease = .free →
        (readyA = true → readyB = true → done = goesTo (.arb (!k.leaseLast) m.scyc) k.leaseLast) ∧
        (readyA = true → readyB = false → done = goesTo (.arb false m.scyc) k.leaseLast) ∧
        (readyA = false → readyB = true → done = goesTo (.arb true m.scyc) k.leaseLast) ∧
        (readyA = false → readyB = false → done = goesTo .free k.leaseLast)) ∧
      (∀ x n, k.lease = .held x n →
        (32 ≤ n → done = goesTo (if rdy (!x) then .arb (!x) m.scyc else if rdy x then .arb x m.scyc else .free) x) ∧
        (n < 32 → rdy x = false → rdy (!x) = true → done = goesTo (.arb (!x) m.scyc) x) ∧
        (n < 32 → (rdy x = true ∨ rdy (!x) = false) → done = goesTo (.held x n) k.leaseLast)))

/-- R186, R187, R191, R192: the multiply steps, started under the lease with operands and scales in range. Each updated entry in shape takes the product of its row and column, added
or put in its place, with the low bits of the tolerance grade free; rows poisoned by an operand become NaN and marked; every other entry and tile stays. The
stores issued to the 64-byte sectors that the step reads are performed first, so that a sector is read wholly as it stood before a write or after it.

R184: a sector written between a step's start and its retirement may have been read after the write. When the array has read its operands, the sectors that
were written since and read late, a choice of the model for each, are taken as they then stand, and the tile is what the step gives from those; every other
sector keeps what it held at the start.

Of the model, not of the spec alone: log entries 15, 17 and 19. -/
def Obligations.MultiplyStepsUpdateTheirBlock : Prop :=
  (∀ (s : State) (w : Sems) (a : MmaArgs) (kind : MmaKind) (n ta tb : Nat) (x : MmaShape),
    let c := s.cur.core
    let t := matStrand s.cur.strand
    let m := (s.drainedFor t).wholeSectors (mmaSectors c a kind x ta tb)
    let s0 : State := { s with mach := m }
    let k := m.cores[c]
    let e := k.eng t
    let op : Instr := match kind with | .add => .mma w a | .replace => .mmaz w a | .seg => .mmasg w a
    let nb := x.k / 32
    let table := a.opA.addr.toNat / 64 * 64
    let entry (r col : Nat) : Ex :=
      entryProduct nb
        (fun j => (List.range 32).map fun i =>
          (zeroed (thetaOf (m.grantOf c) e.theta) (matDec a.opA.ty (m.tileElem c ta a.opA.ty r (32 * j + i))), matDec a.opB.ty (m.tileElem c tb a.opB.ty col (32 * j + i))))
        (k.blockScale a.sau a.saidx nb r) (k.blockScale a.sbu a.sbidx nb col) (fp32.decode e.f[a.fa].toNat) (fp32.decode e.f[a.fb].toNat)
    let upd (r col : Nat) : Bool := decide (r < x.m) && decide (col < x.n) && (kind != .seg || m.segSelects c table r col)
    let hit (r : Nat) : Bool := (List.range x.n).any (upd r)
    let own (r : Nat) : Bool := m.tilePoison c ta a.opA.ty r x.k || (List.range x.n).any fun col => m.tilePoison c tb a.opB.ty col x.k
    let old := k.acc[a.tile.toNat]
    let pops := (if a.opA.pop && !a.opA.fixed then [a.opA.ring] else []) ++ (if a.opB.pop && !a.opB.fixed then [a.opB.ring] else [])
    s.arrayStarts t w op n → k.tileAddr a.opA = .ok ta → k.tileAddr a.opB = .ok tb →
    blockShape k.sets[engineNo (engineOf t)].cur.sh[a.sh] (some (kmaxOf a.opA.ty)) = some x →
    (a.sau = true ∨ a.saidx.toNat + nb * x.m ≤ 16384) → (a.sbu = true ∨ a.sbidx.toNat + nb * x.n ≤ 16384) → (kind = .seg → table + 256 ≤ 2 ^ 20) →
    ∃ t', exec op s = .next t' ∧
      s0.startedStep t' t w op 4 [] (fun f => f.pops = pops ∧ f.moves = []) ∧
      (t'.core c).lease = .held (isB t) (n + 1) ∧ (t'.core c).scale = k.scale ∧
      (∃ r, (t'.core c).reread = some r ∧ r.strand = t ∧ r.args = a ∧ r.kind = kind ∧ r.shape = x ∧ r.ta = ta ∧ r.tb = tb ∧ r.tile = old) ∧
      (∀ i : Fin 64, i.val ≠ a.tile.toNat → (t'.core c).acc[i] = k.acc[i]) ∧
      (let new := (t'.core c).acc[a.tile.toNat]
       new.live = true ∧
       (∀ r, r < 64 → new.pois.getLsbD r = if hit r then own r || (kind != .replace && old.pois.getLsbD r) else old.pois.getLsbD r) ∧
       ∀ (r col : Fin 64) (i : Fin 4096), i.val = 64 * r.val + col.val →
        (upd r.val col.val = false → new.vals[i] = old.vals[i]) ∧
        (upd r.val col.val = true → new.pois.getLsbD r.val = true → new.vals[i] = 0x7FC00000) ∧
        (upd r.val col.val = true → new.pois.getLsbD r.val = false → ∃ free, new.vals[i] = tolerate (m.grantOf c) free
          (if kind = .replace then fp32Bits (entry r.val col.val) else fp32Bits ((fp32.decode old.vals[i].toNat).add (entry r.val col.val) .rne).1)))) ∧
  (∀ (m : Mach) (c : CoreId) (r : Reread),
    let sectors := mmaSectors c r.args r.kind r.shape r.ta r.tb
    let late := sectors.filter fun b => m.sectorMoved r b && Config.sectorLate r.tick b
    let start : Mem := { cells := r.old, empt := [], pois := r.oldPois }
    let m1 := m.rereadDone c
    m.cores[c].reread = some r →
    m1.mem = m.mem ∧ m1.pend = m.pend ∧ m1.cores[c].reread = none ∧ (∀ e, e ≠ c → m1.cores[e] = m.cores[e]) ∧
    (∀ i : Fin 64, (late = [] ∨ i.val ≠ r.args.tile.toNat) → m1.cores[c].acc[i] = m.cores[c].acc[i]) ∧
    (late ≠ [] → memWf m.mem = true → memWf start = true → (∀ b ∈ sectors, b % 64 = 0) → ∃ view : Mem,
      (∀ a, memByte view a = if inSectors late a then memByte m.mem a else memByte start a) ∧
      (∀ a, memPoisoned view a = if inSectors late a then memPoisoned m.mem a else memPoisoned start a) ∧
      m1.cores[c].acc[r.args.tile.toNat] = ({ m with mem := view } : Mach).mmaTile c r.strand r.args r.kind r.shape r.ta r.tb r.tick r.tile))

/-- R193 to R196, R201: the register, scale, tile and sequencing steps of a matrix strand that may go on, each with the effect its rule gives.

R180, R183, R56: a matrix step that may complete makes the writes still to be made, pops its slots, leaves its strand and raises its semaphore.

Of the model, not of the spec alone: log entry 19. -/
def Obligations.MatrixStrandStepsCompleteAndRetire : Prop :=
   (∀ (s : State) (w : Sems) (n : Nat) (num : Fin 8) (v addr : W32) (fmt : Fin 3) (count1 didx : BitVec 14) (tag : BitVec 14) (tile cnt : BitVec 6)
      (cls : BitVec 4) (scope : Scope) (count disp : BitVec 8),
      let c := s.cur.core
      let t := matStrand s.cur.strand
      let k := s.core c
      let m := s.mach
      let e := k.eng t
      let finishes (i : Instr) (words : Nat) (p : State → Prop) : Prop := s.steps t w → ∃ t', exec i s = .next t' ∧ s.finishedStep t' t w i words ∧ p t'
      let starts (i : Instr) (words : Nat) (g : Flight → Prop) (p : State → Prop) : Prop :=
        s.arrayStarts t w i n → ∃ t', exec i s = .next t' ∧ s.startedStep t' t w i words [] g ∧ (t'.core c).lease = .held (isB t) (n + 1) ∧ p t'
      let ready := e.flights = [] ∧ e.report = [] ∧ k.q[outQueue t].length < 8
      let ring := k.rings[ringOf t]
      let vals := k.acc[tile.toNat].vals
      let rowData (lo hi : Fin 4096) (j : Nat) : MoveSrc :=
        .bytes (wholeBytes (leBytes vals[lo].toNat 4 ++ leBytes vals[hi].toNat 4)) (some (k.acc[tile.toNat].pois.getLsbD (j / 32)))
      finishes (.fset w num v) 2 (fun t' => ((t'.core c).eng t).f = e.f.set num v) ∧
      (∀ entry rest, k.q[inQueue t] = entry :: rest → finishes (.fqrd w num) 1 (fun t' =>
        ((t'.core c).eng t).f = e.f.set num (entry.setWidth 32) ∧ (t'.core c).q[inQueue t] = rest)) ∧
      ((m.grantOf c).getLsbD 2 = true → finishes (.mthr w v) 2 (fun t' => ((t'.core c).eng t).theta = v)) ∧
      (∀ key, let size := if fmt = 0 then 4 else 1
        let cn := count1.toNat + 1
        didx.toNat + cn ≤ 16384 → addr.toNat % size = 0 → m.nearRun c addr.toNat (cn * size) = some key →
        (∀ j, j < (key % 8 + cn * size + 7) / 8 → memPoisoned m.mem (locOf key + 8 * j) = false) →
        starts (.scld w fmt count1 addr cls didx) 3 (fun f => f.moves = []) (fun t' => ∀ i : Fin 16384,
          (t'.core c).scale[i] = if didx.toNat ≤ i.val ∧ i.val < didx.toNat + cn then scaleWord fmt (memNat m.mem (key + size * (i.val - didx.toNat)) size) else k.scale[i])) ∧
      starts (.acczero w tile cnt) 1 (fun f => f.moves = []) (fun t' => ∀ i : Fin 64,
        (t'.core c).acc[i] = if tile.toNat ≤ i.val ∧ i.val ≤ tile.toNat + cnt.toNat then .zero else k.acc[i]) ∧
      (∀ key, addr.toNat % 64 = 0 → m.nearRun c addr.toNat 16384 = some key →
        starts (.accst w tile addr cls scope) 3
          (fun f => f.moves.length = 2048 ∧ ∀ (j : Nat) (lo hi : Fin 4096), lo.val = 2 * j → hi.val = 2 * j + 1 →
            f.moves[j]? = some { dst := key + 8 * j, src := rowData lo hi j, fe := .keep })
          (fun t' => (t'.core c).acc = k.acc) ∧
        starts (.accld w tile addr cls scope) 3 (fun f => f.moves = []) (fun t' =>
          (∀ i : Fin 64, i.val ≠ tile.toNat → (t'.core c).acc[i] = k.acc[i]) ∧ (t'.core c).acc[tile.toNat].live = true ∧
          (∀ i : Fin 4096, (t'.core c).acc[tile.toNat].vals[i] = BitVec.ofNat 32 (memNat m.mem (key + 4 * i.val) 4)) ∧
          ∀ r, r < 64 → ((t'.core c).acc[tile.toNat].pois.getLsbD r = true ↔ ∃ j, j < 32 ∧ memPoisoned m.mem (key + 256 * r + 8 * j) = true))) ∧
      (ready → finishes (.mqwr w tag) 1 (fun t' => (t'.core c).q[outQueue t] = k.q[outQueue t] ++ [tag.setWidth 64])) ∧
      (ready → finishes (.mqwrSt w) 1 (fun t' => (t'.core c).q[outQueue t] = k.q[outQueue t] ++ [BitVec.ofNat 64 (e.mst.word % 2 ^ 63)] ∧ ((t'.core c).eng t).mst = .zero)) ∧
      finishes (.mrel w) 1 (fun t' => (t'.core c).lease = match k.lease with | .held x j => .held x (if x = isB t then 32 else j) | l => l) ∧
      (s.steps t w → ∃ t', exec (.msync w) s = .next t' ∧ s.startedStep t' t w (.msync w) 1 [] (fun f => f.order = true ∧ f.moves = [])) ∧
      (let left := (e.mlc.getD count).toNat
       (left = 0 → finishes (.mjmp w count disp) 1 (fun t' => ((t'.core c).eng t).mlc = none)) ∧
       (left ≠ 0 → s.steps t w → (ring.wp - ring.rp + disp.setWidth 32).toNat ≤ 2 ^ ring.lsize.toNat →
         ∃ t', exec (.mjmp w count disp) s = .next t' ∧ t'.mach.mem = m.mem ∧ (t'.core c).rings[ringOf t].rp = ring.rp - disp.setWidth 32 ∧
           ((t'.core c).eng t).mlc = some (BitVec.ofNat 8 (left - 1)) ∧ ((t'.core c).eng t).fetched = none))) ∧
   (∀ (s : State) (c : CoreId) (b : Bool) (id : Nat) (f : Flight),
      let t := strandOfB b
      let k := s.core c
      k.flight? t id = some f → k.matCompletes t f = true → f.failed = none →
      ∃ t', exec (.matrixStepComplete c b id) s = .next t' ∧ t'.mach.mem = (s.mach.makeMoves f.moves).mem ∧
        ((t'.core c).eng t).flights = (k.eng t).flights.filter (fun g => g.id != id) ∧
        (∀ r : Fin 8, r ∉ f.pops → (t'.core c).rg[r] = k.rg[r]) ∧
        (∀ (r : Fin 8) g, f.pops = [r] → k.rg[r] = some g → (t'.core c).rg[r] = some { g with hd := (g.hd + 1) % g.ns, filled := g.filled - 1 }) ∧
        (f.raise.toNat = 15 → (t'.core c).sm = k.sm) ∧
        (∀ h : f.raise.toNat < 15, k.smw[f.raise.toNat] = [] → (t'.core c).sm[f.raise.toNat].toNat = min (2 ^ 32 - 1) (k.sm[f.raise.toNat].toNat + 1)))

/-- R197 to R200: an epilogue under the lease whose checks pass computes its block's elements and scale words as it starts, adds its counts to MST, and leaves its writes or row
messages to be made before it completes. Nothing is written yet. One whose checks fail faults as its rules say.

R190: an element of `epobj` in a location that a failed promotion left poisoned faults POISON.

Of the model, not of the spec alone: log entries 17, 41 and 70. -/
def Obligations.EpiloguesStartTheirRows : Prop :=
  ∀ (s : State) (w : Sems) (e : EpArgs) (dst : W32) (ly : Fin 8) (row0 : BitVec 29) (taddr : BitVec 20) (n : Nat) (x : MmaShape),
    let c := s.cur.core
    let t := matStrand s.cur.strand
    let k := s.core c
    let m := s.mach.onCore c fun k => k.drainReport t
    let g := k.eng t
    let ty := epType e.otype
    let es := esizeOf ty
    let a := k.acc[e.tile.toNat]
    let bias (col : Nat) : Option Ex := if e.bias then some (fp32.decode (m.spmNat c (256 * e.baddr.toNat + 4 * col) 4)) else none
    let out := epCompute e a x (fp32.decode g.f[e.f].toNat) bias
    let dest (q : Quant) (at_ r col : Nat) : List DestByte :=
      if ty = 7 then [{ addr := at_, mask := if col % 2 = 0 then 0x0F else 0xF0, val := BitVec.ofNat 8 (q.bits * 16 ^ (col % 2)), poison := a.pois.getLsbD r }]
      else (leBytes q.bits es).zipIdx.map fun b => { addr := at_ + b.2, mask := 0xFF, val := b.1, poison := a.pois.getLsbD r }
    let row (key : Nat → Nat → Nat) (r : Nat) : List DestByte := (List.range x.n).flatMap fun col => dest (out.elem r col) (key r col) r col
    let computes (i : Instr) (sent : List (BitVec 12 × FabBody)) (moves : List PendMove) (prows : Nat) : Prop :=
      s.arrayStarts t w i n → ∃ t', exec i s = .next t' ∧ s.startedStep t' t w i 4 sent (fun f => f.moves = moves) ∧
        (t'.core c).lease = .held (isB t) (n + 1) ∧
        ((t'.core c).eng t).mst = { g.mst with
          nanout := countUp g.mst.nanout out.nans, clamp := countUp g.mst.clamp out.clamps, prows := countUp g.mst.prows prows,
          sat := g.mst.sat || out.sat, of := g.mst.of || out.of, nv := g.mst.nv || out.nv } ∧
        (t'.core c).acc = (if e.kill then k.acc.set e.tile.toNat { a with live := false } else k.acc) ∧
        ∀ i : Fin 16384, (t'.core c).scale[i] = ((out.scales.find? fun p => p.1 == i.val).map (·.2)).getD k.scale[i]
    let bad (sends : Nat → Bool) : Nat := ((List.range x.m).filter fun r => a.pois.getLsbD r && sends r).length
    let shape := blockShape k.sets[engineNo (engineOf t)].cur.sh[e.sh] none
    (shape = none ∨ (shape = some x ∧ ty = 7 ∧ x.n % 2 = 1) → ∀ i ∈ [Instr.epil w e dst, .epobj w e ly row0, .eprow w e taddr, .epadd w e taddr],
      s.arrayStarts t w i n → s.stepTraps t w i 4 { cls := .shape, addr := 0 }) ∧
    (shape = some x → ¬ (ty = 7 ∧ x.n % 2 = 1) →
    (∀ base, let rowb := if ty = 7 then x.n / 2 else x.n * es
      dst.toNat % 16 = 0 → rowb ≤ e.hi.toNat → m.nearRun c dst.toNat ((x.m - 1) * e.hi.toNat + rowb) = some base →
      computes (.epil w e dst) [] (wordMoves ((List.range x.m).flatMap (row fun r col => base + r * e.hi.toNat + (if ty = 7 then col / 2 else col * es))) e.fe) (bad fun _ => true)) ∧
    (∀ pls (key : Nat → Nat → Nat), let l := k.sets[engineNo (engineOf t)].cur.ly[ly]
      l.kind = 0 → l.type.toNat = ty → m.epobjPlaces c e l row0.toNat (64 * e.hi.toNat) x = .ok pls →
      (∀ p ∈ pls, ∃ mt use, p.2.2 = .store (key p.1.1 p.1.2) mt use) →
      computes (.epobj w e ly row0) [] (wordMoves ((List.range x.m).flatMap (row key)) e.fe) (bad fun _ => true)) ∧
    (∀ entries mv (add : Bool), m.rowTable c taddr.toNat x = .ok (.table entries mv) →
      let handle (r : Nat) : Nat := (entries.getD r 0).toNat / 2 ^ 28 % 2 ^ 24
      let squash := e.gen.getLsbD 7
      let body (r : Nat) : RowMsg :=
        { h := BitVec.ofNat 24 (handle r), row := BitVec.ofNat 28 (entries.getD r 0).toNat, col0 := 64 * e.hi.toNat, otype := e.otype, n := x.n, gen := e.gen, mv := mv,
          add := add, fe := e.fe, data := if squash then [] else rowBytes ty x.n (out.elem r), poison := a.pois.getLsbD r && !squash }
      computes (if add then .epadd w e taddr else .eprow w e taddr)
        (((List.range x.m).filter fun r => handle r != 0).map fun r => (BitVec.ofNat 12 ((entries.getD r 0).toNat / 2 ^ 52), .row (body r))) []
        (bad fun r => handle r != 0 && !squash)) ∧
    (let l := k.sets[engineNo (engineOf t)].cur.ly[ly]
     let traps (i : Instr) (cls : TrapClass) (addr : W64) : Prop := s.arrayStarts t w i n → s.stepTraps t w i 4 { cls := cls, addr := addr }
     let rowb := if ty = 7 then x.n / 2 else x.n * es
     let dst64 : W64 := dst.setWidth 64
     let at_ (o : Nat) : W64 := BitVec.ofNat 64 (taddr.toNat + o)
     let marked (o : Nat) : Bool := memPoisoned m.mem (spmKey c (taddr.toNat + o))
     let rows : List Instr := [.eprow w e taddr, .epadd w e taddr]
     (dst.toNat % 16 ≠ 0 → traps (.epil w e dst) .align dst64) ∧
     (dst.toNat % 16 = 0 → e.hi.toNat < rowb → traps (.epil w e dst) .shape 0) ∧
     (dst.toNat % 16 = 0 → rowb ≤ e.hi.toNat → m.nearRun c dst.toNat ((x.m - 1) * e.hi.toNat + rowb) = none → traps (.epil w e dst) .perm dst64) ∧
     (l.kind ≠ 0 ∨ l.type.toNat ≠ ty → traps (.epobj w e ly row0) .shape l.ptr) ∧
     (l.kind = 0 → l.type.toNat = ty → ∀ p key mt u r, epobjPtr l row0.toNat (64 * e.hi.toNat) = .ok p → ptrOff p % es = 0 →
       place m (m.vasker c) p es (if e.fe then .bitWrite else .write) = .ok (.store key mt (some u)) → memPoisoned m.mem (locOf key) = true →
       objRec? m (some (clusterFin c)) u.ctx u.h = some r → (mapEntry m (some (clusterFin c)) u.ctx u.h u.k r).1.getLsbD 62 = true → traps (.epobj w e ly row0) .poison p) ∧
     (∀ i ∈ rows, (taddr.toNat % 64 ≠ 0 → traps i .align (at_ 0)) ∧ (taddr.toNat % 64 = 0 → 2 ^ 20 < taddr.toNat + 520 → traps i .perm (at_ 0)) ∧
       (taddr.toNat % 64 = 0 → taddr.toNat + 520 ≤ 2 ^ 20 →
         (∀ r, r < x.m → marked (8 * r) = true → (∀ j, j < r → marked (8 * j) = false) → traps i .poison (at_ (8 * r))) ∧
         ((∀ r, r < x.m → marked (8 * r) = false) →
           (marked 512 = true → traps i .poison (at_ 512)) ∧
           (marked 512 = false → ∀ r, r < x.m → let pkg (j : Nat) : Nat := memNat m.mem (spmKey c (taddr.toNat + 8 * j)) 8 / 2 ^ 52
             m.group ≤ pkg r → (∀ j, j < r → pkg j < m.group) → traps i .perm (at_ (8 * r))))))))

/-! The copy strand and the fabric (10 R296 to R310, 12 R342 to R370, 13 R382 to R388). -/

/-- R296 to R309, R388: the copy steps that move data or bits. A step whose checks pass, those at remote homes with the others, starts with its writes still to be made, one for each
location, and its messages; nothing is written yet. While an answer of a home is out it waits; a check that fails faults it with nothing counted. `rpush` reserves its
ring's tail slot, and `crstr` will write the ring's words, one write for each location, and move the ring's write pointer.

R300: what a move between locations of this package does when it is made. The destination takes the source's data and mark, and its bit as the mode says: carried, kept,
set full, set empty; under mode 100 every source must be full, and is read as the step starts.

Of the model, not of the spec alone: log entries 25 and 41. -/
def Obligations.CopyStepsStartTheirMovesAndCarryBits : Prop :=
   (∀ (s : State) (w : Sems) (q : MoveQ) (lys lyd rg dist : Fin 8) (soff doff rec pat : W32) (count1 : BitVec 24) (count20 : BitVec 20) (rowb : BitVec 17)
      (rows1 words1 : BitVec 16) (ring : RingNo) (ps : List (MoveEnd × MoveEnd)) (key : Nat),
      let c := s.cur.core
      let m := s.copyMach
      let k := s.core c
      let as := m.lighter c
      let src := (m.copyLy c lys).ptr
      let dst := (m.copyLy c lyd).ptr
      let v := moving m q.fe ps
      let starts (i : Instr) (words bytes : Nat) (asks : List Asking) (sends : List Sending) (p : State → Flight → Prop) : Prop :=
        s.copyStarts w q.pb q.dl bytes → ∀ m0,
          ((m.keepAsks c asks).askHomes c 0 asks = (m0, some none) → ∃ t', exec i s = .next t' ∧ s.copyStarted t' w i words q.pb q.dl bytes sends (p t')) ∧
          ((m.keepAsks c asks).askHomes c 0 asks = (m0, none) → exec i s = .next { s with mach := m0 }) ∧
          ∀ f, (m.keepAsks c asks).askHomes c 0 asks = (m0, some (some f)) →
            exec i s = .next { s with mach := m0.engFault c .copy w.aw (stepSource .copy i) words f }
      let traps (i : Instr) (words : Nat) (cls : TrapClass) (addr : W64) : Prop := s.steps .copy w → s.stepTraps .copy w i words { cls := cls, addr := addr }
      let moves (i : Instr) (words bytes : Nat) (l : List (W64 × Int × W64 × Int)) : Prop :=
        (m.movePairs as q.fe l = .ok ps → starts i words bytes v.asks v.sends fun _ f => f.moves = v.moves) ∧
        (∀ f ea, m.movePairs as q.fe l = .error (.fault f, ea) → traps i words f.cls f.addr) ∧
        ∀ ea, m.movePairs as q.fe l = .error (.held, ea) → s.steps .copy w → exec i s = .next { s with mach := m }
      let run (n : Nat) (a b : Int) : List (W64 × Int × W64 × Int) := (List.range n).map fun j => (src, a + (8 * j : Nat), dst, b + (8 * j : Nat))
      (let n := count1.toNat + 1
       moves (.tmov w q lys lyd soff doff count1) 4 n (run (n / 8) soff.toNat doff.toNat)) ∧
      (m.ownRun c rec 32 32 = .ok key →
        let f (o : Nat) : Nat := memNat m.mem (key + o) 4
        let sg (o : Nat) : Int := (BitVec.ofNat 32 (f o)).toInt
        let shaped := 8 ≤ f 16 ∧ f 16 ≤ 65536 ∧ 1 ≤ f 20 ∧ f 20 ≤ 65536 ∧ f 16 * f 20 ≤ 2 ^ 24 ∧ memNat m.mem (key + 24) 8 = 0 ∧ (q.fe = .requireFull → f 16 * f 20 ≤ 65536)
        (¬ shaped → traps (.tmov2d w q lys lyd rec) 2 .shape (rec.setWidth 64)) ∧
        (shaped → (∃ o ∈ [0, 4, 8, 12, 16], f o % 8 ≠ 0) → traps (.tmov2d w q lys lyd rec) 2 .align (rec.setWidth 64)) ∧
        (shaped → (∀ o ∈ [0, 4, 8, 12, 16], f o % 8 = 0) → moves (.tmov2d w q lys lyd rec) 2 (f 16 * f 20) ((List.range (f 20)).flatMap fun (i : Nat) => run (f 16 / 8) (f 0 + i * sg 8) (f 4 + i * sg 12)))) ∧
      (rec.toNat % 32 ≠ 0 → traps (.tmov2d w q lys lyd rec) 2 .align (rec.setWidth 64)) ∧
      (rec.toNat % 32 = 0 → 2 ^ 20 < rec.toNat + 32 → traps (.tmov2d w q lys lyd rec) 2 .perm (rec.setWidth 64)) ∧
      (let n := count20.toNat + 1
       (2 ^ 20 < soff.toNat + n → traps (.rrot w q dist soff doff count20) 4 .perm (soff.setWidth 64)) ∧
       (soff.toNat + n ≤ 2 ^ 20 → 2 ^ 20 < doff.toNat + n → traps (.rrot w q dist soff doff count20) 4 .perm (doff.setWidth 64)) ∧
       (soff.toNat + n ≤ 2 ^ 20 → doff.toNat + n ≤ 2 ^ 20 →
       needFull m q.fe ((List.range (n / 8)).map fun j => ((MoveEnd.loc (spmKey c (soff.toNat + 8 * j)) none, MoveEnd.loc (spmKey (m.peer c dist.val) (doff.toNat + 8 * j)) none),
         BitVec.ofNat 64 (soff.toNat + 8 * j))) = .ok ps →
       starts (.rrot w q dist soff doff count20) 4 n [] v.sends fun _ f => f.moves = v.moves)) ∧
      (let rows := rows1.toNat + 1
       m.ownRun c rec (4 * rows) 4 = .ok key →
       let idx (i : Nat) : Nat := memNat m.mem (key + 4 * i) 4
       let live := (List.range rows).filter fun i => idx i != 0xFFFFFFFF
       let bytes := rowb.toNat * live.length
       let far (l : Fin 8) (i : Nat) : Int := idx i * (m.copyLy c l).stride[1].toInt
       moves (.gath w q lys lyd rec rowb rows1) 4 bytes (live.flatMap fun i => run (rowb.toNat / 8) (far lys i) ((i * rowb.toNat : Nat) : Int)) ∧
       moves (.scat w q lys lyd rec rowb rows1) 4 bytes (live.flatMap fun i => run (rowb.toNat / 8) ((i * rowb.toNat : Nat) : Int) (far lyd i))) ∧
      (∀ r, k.rg[rg] = some r → r.filled + r.resv.length < r.ns → (q.fe = .requireFull → r.ss ≤ 65536) →
        m.movePairs as q.fe ((List.range (r.ss / 8)).map fun j => (src, (soff.toNat + 8 * j : Nat),
          BitVec.ofNat 64 (r.base + r.ss * ((r.hd + r.filled + r.resv.length) % r.ns)), (8 * j : Nat))) = .ok ps →
        starts (.rpush w q lys rg soff) 2 r.ss v.asks v.sends fun t' f => f.moves = v.moves ∧ f.push = some rg ∧
          (t'.core c).rg = k.rg.set rg (some { r with resv := r.resv ++ [(s.mach.nextOp, false)] })) ∧
      (k.rg[rg] = none → traps (.rpush w q lys rg soff) 2 .allocExh 0) ∧
      (∀ mv, m.runWrites as (dstKind q.fe) dst doff.toNat (count1.toNat + 1) (wholeBytes (leBytes (pat ++ pat).toNat 8)) (feActOf q.fe) = .ok mv →
        starts (.cfill w q lyd doff count1 pat) 4 (count1.toNat + 1) mv.asks mv.sends fun _ f => f.moves = mv.moves) ∧
      (∀ mv, m.runWrites as .bitWrite dst doff.toNat (count1.toNat + 1) [] (feActOf q.fe) = .ok mv →
        starts (.feset w q lyd doff count1) 3 (count1.toNat + 1) mv.asks mv.sends fun _ f => f.moves = mv.moves) ∧
      (let i : Fin 3 := match ring with | .matrixA => 0 | .matrixB => 1 | .copy => 2
       let r := k.rings[i]
       let n := words1.toNat + 1
       let i' : Instr := .crstr w q lys ring soff words1
       let word (j : Nat) : Nat := spmKey c (r.base.toNat + 4 * ((r.wp + BitVec.ofNat 32 j).toNat % 2 ^ r.lsize.toNat))
       (r.run = false → r.halt = false → r.lsize = 0 → traps i' 3 .perm 0) ∧
       ∀ (p : Nat → W64) (e : Nat → MoveEnd),
         (∀ j, j < n → ptrAdd src ((soff.toNat + 4 * j : Nat) : Int) = .ok (p j) ∧ m.moveEnd as (p j) 4 .exec = .ok (e j)) →
         (r.run = true ∨ r.halt = true ∨ r.lsize ≠ 0) → (r.wp + BitVec.ofNat 32 n - r.rp).toNat ≤ 2 ^ r.lsize.toNat →
         starts i' 3 (4 * n) (askings ((List.range n).map fun j => (e j, .exec))) (getSends (farWords ((List.range n).map fun j => (e j, word j))) .dataOnly) fun _ f =>
           f.wpTo = some (i, r.wp + BitVec.ofNat 32 n) ∧
           f.moves = wordMoves32 ((List.range n).filterMap fun j => match e j with
             | .loc at_ _ => some (word j, memBytes m.mem at_ 4, memPoisoned m.mem (locOf at_))
             | .cap off => some (word j, (List.range 4).map fun b => capByte m (off + b), false)
             | .far _ _ => none)) ∧
      (∀ pop entry rest, s.steps .copy w → k.copy.flights = [] → (pop = true → k.q[(6 : Fin 8)] = entry :: rest) →
        ∃ t', exec (.csync w pop) s = .next t' ∧ s.finishedStep t' .copy w (.csync w pop) 1 ∧ (t'.core c).q[(6 : Fin 8)] = (if pop then rest else k.q[(6 : Fin 8)])) ∧
      (∀ tag : BitVec 14, s.steps .copy w → k.copy.flights = [] → k.copy.report = [] → k.q[(7 : Fin 8)].length < 8 →
        ∃ t', exec (.cqwr w tag) s = .next t' ∧ s.finishedStep t' .copy w (.cqwr w tag) 1 ∧ (t'.core c).q[(7 : Fin 8)] = k.q[(7 : Fin 8)] ++ [tag.setWidth 64])) ∧
   (∀ (m : Mach) (fe : FeMode) (n : Nat) (a b : Nat → Nat),
      let ps : List (MoveEnd × MoveEnd) := (List.range n).map fun j => (.loc (a j) none, .loc (b j) none)
      let v := moving m fe ps
      (∀ j, j < n → a j % 8 = 0 ∧ b j % 8 = 0) → memWf m.mem = true →
      v.sends = [] ∧ v.moves.length = n ∧
      ∀ j p, j < n → v.moves[j]? = some p →
        let t := (m.makeMove p).mem
        mem64 t (b j) = mem64 m.mem (a j) ∧ memPoisoned t (b j) = memPoisoned m.mem (a j) ∧
        memFull t (b j) = (match fe with | .dataAndBits => memFull m.mem (a j) | .dataOnly => memFull m.mem (b j) | .setFull => true | .setEmpty => false | .requireFull => true) ∧
        (∀ x, (x < b j ∨ b j + 8 ≤ x) → memByte t x = memByte m.mem x) ∧
        (∀ l, l % 8 = 0 → l ≠ b j → memFull t l = memFull m.mem l ∧ memPoisoned t l = memPoisoned m.mem l)) ∧
   (∀ (m : Mach) (l : List (Nat × List Byte × Bool)),
      let ms := wordMoves32 l
      let t := (m.makeMoves ms).mem
      memWf m.mem = true → (∀ x ∈ l, x.1 % 4 = 0 ∧ x.2.1.length = 4) → (l.map (·.1)).Nodup →
      ms.map (·.dst) = (l.map fun x => locOf x.1).eraseDups ∧ t.empt = m.mem.empt ∧
      (∀ x ∈ l, memBytes t x.1 4 = x.2.1) ∧ (∀ a, (∀ x ∈ l, a < x.1 ∨ x.1 + 4 ≤ a) → memByte t a = memByte m.mem a) ∧
      ∀ loc, loc % 8 = 0 → let here := l.filter fun x => locOf x.1 == loc
        memPoisoned t loc = (here.any (·.2.2) || (decide (here.length < 2) && memPoisoned m.mem loc))) ∧
   (∀ (m : Mach) (c : CoreId) (i : Nat) (x : Asking) (rest : List Asking),
      let ptr := ((x.2.map (·.1)).head?).getD 0
      let sent := m.remotes.find? fun r => r.core == c && r.strand == .copy && r.lane == stepLane + i
      let m1 : Mach := match sent with
        | some _ => m
        | none =>
          { m with
            nextOp := m.nextOp + 1
            remotes := m.remotes ++ [{ id := m.nextOp, core := c, strand := .copy, lane := stepLane + i, home := x.1, ctx := m.cores[c].ctl.ctxid, ptr := ptr,
                                       op := .check x.2, start := m.scyc, reply := none }] }
      let after := m1.askHomes c (i + 1) rest
      m.askHomes c i [] = (m, some none) ∧
      m.askHomes c i (x :: rest) = (after.1,
        match sent.bind (·.reply), after.2 with
        | none, _ => none
        | _, none => none
        | some (.value _), some t => some t
        | some (.empty p), _ => some (some { cls := .feExpire, addr := p })
        | some _, _ => some (some { cls := .fabric, addr := ptr })))

/-- R348 to R350: the point-to-point steps. `fwr` reads its source as it starts and sends it, `frd` asks for its source, and `fatom` sends its operand; none writes memory as
it starts.

R352, R353, R367: registrations. A valid record registers a landing buffer or an expert port; a registered port is closed, giving its row count back and clearing it, opened,
or redirected; a release removes what it names. A record that is not valid, a second registration, and a port or a buffer that is not there fault SHAPE; with every
registration taken, ALLOC_EXH.

Of the model, not of the spec alone: log entries 37 and 40. -/
def Obligations.FabricAndRegistrationStepsComplete : Prop :=
   (∀ (s : State) (w : Sems) (q : FabQ) (lys lyd : Fin 8) (soff doff : W32) (pkg : BitVec 12) (count1 : BitVec 20) (aop : AtomOp) (far : W64) (near : Nat → MoveEnd)
      (p : Nat → W64) (key : Nat),
      let c := s.cur.core
      let m := s.copyMach
      let as := m.lighter c
      let n := count1.toNat + 1
      let ends (ly : Fin 8) (off : W32) (f : W64 → Except (NoPlace × W64) MoveEnd) : Prop :=
        ∀ j, j < n / 8 → ptrAdd (m.copyLy c ly).ptr ((off.toNat + 8 * j : Nat) : Int) = .ok (p j) ∧ f (p j) = .ok (near j)
      let starts (i : Instr) (bytes : Nat) (v : Moving) : Prop :=
        s.copyStarts w q.pb q.dl bytes → ∃ t', exec i s = .next t' ∧ s.copyStarted t' w i 4 q.pb q.dl bytes v.sends (fun f => f.moves = v.moves ∧ f.far = far)
      let line : MoveEnd → Nat → MoveEnd × MoveEnd := fun e j => (e, .far pkg.toNat (far + BitVec.ofNat 64 (8 * j)))
      (m.remoteEnd pkg (m.copyLy c lyd).ptr doff.toNat = .ok far → ends lys soff (m.moveSource as q.fe) →
        (q.fe = .requireFull → ∀ j, j < n / 8 → ((near j).data m).full = true) →
        starts (.fwr w q lys lyd soff doff pkg count1) n (moving m q.fe ((List.range (n / 8)).map fun j => line (near j) j))) ∧
      (m.remoteEnd pkg (m.copyLy c lys).ptr soff.toNat = .ok far → ends lyd doff (fun x => m.moveEnd as x 8 (dstKind q.fe)) →
        starts (.frd w q lys lyd soff doff pkg count1) n (moving m q.fe ((List.range (n / 8)).map fun j => (line (near j) j).swap))) ∧
      (m.remoteEnd pkg (m.copyLy c lyd).ptr doff.toNat = .ok far → m.ownRun c soff (if aop = .cas then 16 else 8) 16 = .ok key → soff.toNat + 16 ≤ 2 ^ 20 →
        ptrOff far % atomSize aop = 0 → s.copyStarts w false 0 0 →
        ∃ t', exec (.fatom w aop lyd doff soff pkg) s = .next t' ∧ s.copyStarted t' w (.fatom w aop lyd doff soff pkg) 4 false 0 0
          [(pkg.toNat, .atom far aop (mem64 m.mem key) (mem64 m.mem (key + 8)), [])] (fun f => f.moves = [] ∧ f.far = far)) ∧
      (pkg.toNat < m.group → ∀ x off y, ptrAdd x off = .ok y → off = doff.toNat → ptrHandle y ≠ 0 → m.remoteEnd pkg x doff.toNat = .ok y)) ∧
   (∀ (s : State) (w : Sems) (rec : W32) (h : BitVec 24) (r : RegRec),
      let c := s.cur.core
      let m := s.copyMach
      let ctx := s.ctl.ctxid
      let fab := s.mach.fab
      let coll : W32 := BitVec.ofNat 32 r.key
      let hr : BitVec 24 := BitVec.ofNat 24 r.key
      let starts (i : Instr) (f : Fabric) (mem : Mem) : Prop :=
        ∃ t', exec i s = .next t' ∧ t'.mach.fab = f ∧ t'.mach.mem = mem ∧ t'.ctl = s.ctl ∧
          (t'.core c).rings[(2 : Fin 3)].rp = (s.core c).rings[(2 : Fin 3)].rp + 2 ∧ (t'.core c).copy.flights.length = (s.core c).copy.flights.length + 1
      let onPort (g : Port → Port) : Fabric := { fab with ports := fab.ports.map fun p => if p.ctx = ctx ∧ p.h = hr then g p else p }
      let room := fab.bufs.length + fab.ports.length < 4096
      let noPort (x : BitVec 24) : Prop := ∀ p ∈ fab.ports, ¬ (p.ctx = ctx ∧ p.h = x)
      s.copyStarts w false 0 0 →
      let traps (i : Instr) (cls : TrapClass) (addr : W64) : Prop := s.stepTraps .copy w i 2 { cls := cls, addr := addr }
      let at_ : W64 := rec.setWidth 64
      let buffer := r.ver = 0 ∧ r.len % 16 = 0 ∧ r.spn = 0 ∧ r.spill = 0 ∧ r.flog = 0 ∧ r.fln = 0 ∧ r.rcnt = 0 ∧ r.rest = 0
      let port := r.key < 2 ^ 24 ∧ r.spn ≤ 65536 ∧ r.rcnt = 0 ∧ r.rest = 0
      let noBuf := ∀ b ∈ fab.bufs, ¬ (b.ctx = ctx ∧ b.coll = coll ∧ b.core = c)
      (m.regRec c rec = .ok r →
        (¬ (buffer ∧ noBuf) → traps (.lbregBuffer w rec) .shape at_) ∧ (buffer → noBuf → ¬ room → traps (.lbregBuffer w rec) .allocExh at_) ∧
        (¬ (port ∧ noPort hr) → traps (.lbregPort w rec) .shape at_) ∧ (port → noPort hr → ¬ room → traps (.lbregPort w rec) .allocExh at_) ∧
        (noPort hr → ∀ i ∈ [Instr.lbregClose w rec, .lbregOpen w rec, .lbregRedirect w rec], traps i .shape at_) ∧
        (r.ver = 0 → r.len % 16 = 0 → r.spn = 0 → r.spill = 0 → r.flog = 0 → r.fln = 0 → r.rcnt = 0 → r.rest = 0 → room →
          (∀ b ∈ fab.bufs, ¬ (b.ctx = ctx ∧ b.coll = coll ∧ b.core = c)) →
          starts (.lbregBuffer w rec) { fab with bufs := fab.bufs ++ [{ ctx := ctx, coll := coll, core := c, ptr := BitVec.ofNat 64 r.buf, len := r.len }] } s.mach.mem) ∧
        (r.key < 2 ^ 24 → r.spn ≤ 65536 → r.rcnt = 0 → r.rest = 0 → room → noPort hr →
          starts (.lbregPort w rec) { fab with ports := fab.ports ++ [{
            ctx := ctx, h := hr, core := c, ver := BitVec.ofNat 32 r.ver, tag := BitVec.ofNat 64 r.buf, rows := r.len, spn := r.spn, spill := BitVec.ofNat 64 r.spill,
            flog := BitVec.ofNat 64 r.flog, fln := r.fln, rcnt := 0, closed := false, redirect := none }] } s.mach.mem) ∧
        (r.key < 2 ^ 24 → r.spn = 0 → r.spill = 0 → r.flog = 0 → r.fln = 0 → r.rest = 0 → r.len = 0 →
          (∀ p, fab.ports.find? (fun p => p.ctx == ctx && p.h == hr) = some p →
            (r.ver = 0 → r.buf = 0 →
              starts (.lbregClose w rec) (onPort fun p => { p with rcnt := 0, closed := true }) (memSetBytes s.mach.mem (spmKey c (rec.toNat + 44)) (leBytes p.rcnt.toNat 4)) ∧
              starts (.lbregOpen w rec) (onPort fun p => { p with closed := false }) s.mach.mem) ∧
            (r.rcnt = 0 → r.buf < 2 ^ 36 →
              starts (.lbregRedirect w rec) (onPort fun p => { p with redirect := some (BitVec.ofNat 12 r.buf, BitVec.ofNat 24 (r.buf / 2 ^ 12), BitVec.ofNat 32 r.ver) }) s.mach.mem)))) ∧
      ((∀ b ∈ fab.bufs, ¬ (b.ctx = ctx ∧ b.coll = rec ∧ b.core = c)) → traps (.lbrelBuffer w rec) .shape 0) ∧ (noPort h → traps (.lbrelPort w h) .shape 0) ∧
      ((∃ b ∈ fab.bufs, b.ctx = ctx ∧ b.coll = rec ∧ b.core = c) → (∃ x ∈ fab.colls, x.core = c ∧ x.coll = rec) → exec (.lbrelBuffer w rec) s = .next { s with mach := m }) ∧
      ((∃ b ∈ fab.bufs, b.ctx = ctx ∧ b.coll = rec ∧ b.core = c) → (∀ x ∈ fab.colls, ¬ (x.core = c ∧ x.coll = rec)) →
        starts (.lbrelBuffer w rec) { fab with bufs := fab.bufs.filter fun b => !(b.ctx == ctx && b.coll == rec && b.core == c) } s.mach.mem) ∧
      ((∃ p ∈ fab.ports, p.ctx = ctx ∧ p.h = h) →
        starts (.lbrelPort w h) { fab with ports := fab.ports.filter fun p => !(p.ctx == ctx && p.h == h) } s.mach.mem))

/-- R355, R356: a collective step whose descriptor, lengths, landing buffer and regions pass their checks starts: its run stands in the fabric unit with the pieces, slots and source
data of its rank, and its bytes to the other ranks are counted.

R356: once its source region is read, the own piece is copied into its slot, and every other piece leaves for its rank in messages of at most 4 KiB; an own piece
longer than its slot is reason 2.

R354, R357: a piece that lands in its slot is written there, or combined into the receive region of an unordered `rscat`, counted for its rank and acknowledged; one for no
running step is bounced, and one past its slot refused. A collective is complete when its messages are acknowledged and every slot is full, the own one among them, before its
TIMEOUT has passed. It ends with its status word, 0 or FABRIC with its reason, and leaves the fabric unit; at its timeout with reason 1.

Of the model, not of the spec alone: log entries 37 and 40. -/
def Obligations.CollectivesStartLandAndEnd : Prop :=
   (∀ (s : State) (w : Sems) (q : FabQ) (desc : W32) (kind : Fin 4) (key lkey : Nat) (rs ss : Nat → MoveEnd) (pr ps : Nat → W64) (b : LandBuf),
      let c := s.cur.core
      let m := s.copyMach
      let as := m.lighter c
      let f (o n : Nat) : Nat := memNat m.mem (key + o) n
      let level : Fin 4 := Fin.ofNat 4 (f 4 1)
      let red := f 5 1
      let n := (s.core c).dom[level].2.1
      let rank := (s.core c).dom[level].2.2
      let coll : W32 := BitVec.ofNat 32 (f 0 4)
      let count := if kind = 0 then 2 * n else if kind = 3 then 1 else n
      let lens := (List.range count).map fun j => memNat m.mem (lkey + 4 * j) 4
      let p := collPlan kind.val (red / 4 % 2 == 1) lens n rank (f 6 2)
      let st := f 32 4
      let sbuf : W64 := BitVec.ofNat 64 (f 16 8)
      let rbuf : W64 := BitVec.ofNat 64 (f 24 8)
      let op : Instr := match kind with | 0 => .a2av w q desc | 1 => .rscat w q desc | 2 => .agath w q desc | 3 => .bcast w q desc
      m.ownRun c desc 64 64 = .ok key → f 4 1 < 4 → f 8 4 ≠ 0 → f 36 28 = 0 → (if kind = 1 then red < 8 ∧ red % 4 ≠ 3 else red = 0) →
      (if kind = 3 then f 6 2 < n else f 6 2 = 0) → n ≤ 65536 → m.ownRun c (BitVec.ofNat 32 (f 12 4)) (4 * count) 8 = .ok lkey → st % 8 = 0 → st + 8 ≤ 2 ^ 20 →
      (∀ l ∈ lens, l % 16 = 0) → m.fab.buf? s.ctl.ctxid coll c = some b → ptrHandle b.ptr = ptrHandle rbuf → ptrOff b.ptr ≤ ptrOff rbuf →
      ptrOff rbuf + p.region ≤ ptrOff b.ptr + b.len → (∀ r ∈ s.mach.fab.colls, ¬ (r.core = c ∧ r.coll = coll)) → (q.fe = .requireFull → p.sent + p.own.2 ≤ 65536) →
      (∀ j, j < p.region / 8 → ptrAdd rbuf ((8 * j : Nat) : Int) = .ok (pr j) ∧ m.moveEnd as (pr j) 8 (dstKind q.fe) = .ok (rs j)) →
      (∀ o ∈ p.sources, ptrAdd sbuf (o : Int) = .ok (ps o) ∧ m.moveSource as q.fe (ps o) = .ok (ss o) ∧ (q.fe = .requireFull → ((ss o).data m).full = true)) →
      s.copyStarts w q.pb q.dl p.sent →
      ∃ t' r, exec op s = .next t' ∧ r ∈ t'.mach.fab.colls ∧ r.core = c ∧ r.flight = s.mach.nextOp ∧ r.coll = coll ∧ r.kind = kind.val ∧ r.rank = rank ∧ r.own = p.own ∧
        r.slots = p.slots ∧ r.sends = p.sends.filter (fun x => x.2.2 != 0) ∧ r.timeout = f 8 4 ∧ r.staddr = BitVec.ofNat 32 st ∧ r.start = s.mach.scyc ∧
        r.level = level ∧ r.red = red % 4 ∧ r.ord = (red / 4 % 2 == 1) ∧ r.fe = q.fe ∧
        r.src = (p.sources.filterMap fun o => if (ss o).isFar then none else some (o, (ss o).data m)) ∧
        r.keys = ((List.range (p.region / 8)).map fun j => match rs j with | .loc key _ => some key | _ => none) ∧
        (q.pb = true → (t'.mach.barrier c q.dl).bytes = (s.mach.barrier c q.dl).bytes + p.sent) ∧
        t'.mach.fab.colls.length = s.mach.fab.colls.length + 1 ∧ (t'.core c).rings[(2 : Fin 3)].rp = (s.core c).rings[(2 : Fin 3)].rp + 2 ∧
        (t'.core c).copy.flights.length = (s.core c).copy.flights.length + 1 ∧ (t'.core c).ctl.x = s.ctl.x ∧ t'.mach.pend = s.mach.pend) ∧
   (∀ (s : State) (g : FabMsg) (x : CollMsg) (r : CollRun) (c : CoreId) (id : Nat) (f : Flight),
      let m := s.mach
      let slot := r.slots.getD x.rank (0, 0)
      let len := 8 * x.locs.length
      let found := m.fab.colls.find? fun r => r.core == x.core && r.coll == x.coll && r.ctx == g.ctx
      let arrive (m1 : Mach) (a : FabReply) : Prop := exec (.collectiveMessageArrival g) s = .next { s with mach := m1.answer g a }
      let onRun (m : Mach) (h : CollRun → CollRun) : Mach :=
        { m with fab := { m.fab with colls := m.fab.colls.map fun y => if y.core = r.core ∧ y.flight = r.flight then h y else y } }
      (m.arrives g = true → g.body = .coll x →
        (found = none → arrive m .bounced) ∧
        (found = some r → r.kind = 1 → r.ready = false → arrive m .bounced) ∧
        (found = some r → (r.kind ≠ 1 ∨ r.ready = true) →
          ((r.landed.length ≤ x.rank ∨ slot.2 < x.off + len) →
            arrive (onRun m fun y => { y with reason := if y.reason = 0 then 2 else y.reason }) .slotRefused) ∧
          (x.rank < r.landed.length → x.off + len ≤ slot.2 → r.lost (slot.1 + x.off) len = true → arrive m (.failed 3)) ∧
          (x.rank < r.landed.length → x.off + len ≤ slot.2 → r.lost (slot.1 + x.off) len = false →
            let landed (m1 : Mach) := onRun m1 fun y => { y with landed := y.landed.set x.rank (y.landed.getD x.rank 0 + len) }
            if r.kind = 1 ∧ r.ord = false then arrive (landed (m.combineAt r x.off x.locs)) .landed
            else arrive (landed (m.landAt r (slot.1 + x.off) x.locs false (decide (r.kind = 1)))) .landed))) ∧
      (m.cores[c].flight? .copy id = some f → m.fab.coll? c id = some r → f.pb = none → f.push = none → f.wpTo = none → f.moves = [] →
        let bytes := ((List.range r.landed.length).map fun k => r.landed.getD k 0).foldl (· + ·) 0
        let ends (i : Instr) (reason : Nat) : Prop :=
          let m1 := if reason = 0 ∧ r.kind = 1 ∧ r.ord = true then m.foldOrdered r else m
          ∃ t', exec i s = .next t' ∧
            mem64 t'.mach.mem (spmKey c r.staddr.toNat) = BitVec.ofNat 64 ((if reason = 0 then 0 else 12) * 2 ^ 56 + reason * 2 ^ 48 + min r.bounces 65535 * 2 ^ 32 + bytes % 2 ^ 32) ∧
            (∀ a, (a < spmKey c r.staddr.toNat ∨ spmKey c r.staddr.toNat + 8 ≤ a) → memByte t'.mach.mem a = memByte m1.mem a) ∧
            (∀ y ∈ t'.mach.fab.colls, ¬ (y.core = c ∧ y.flight = id)) ∧ (t'.core c).copy.flights = ((s.core c).copy.flights.filter fun y => y.id != id)
        memWf m.mem = true →
        let full := ∀ i, i < r.slots.length → (r.slots.getD i (0, 0)).2 = if i = r.rank then r.own.2 else r.landed.getD i 0
        let complete := r.reason ≠ 0 ∨ (r.ready = true ∧ f.msgs = [] ∧ full ∧ m.scyc ≤ r.start + r.timeout)
        (complete → ends (.collectiveComplete c id) r.reason) ∧ (¬ complete → exec (.collectiveComplete c id) s = .next s) ∧
        (r.start + r.timeout ≤ m.scyc → ends (.collectiveTimeout c id) (if r.reason = 0 then 1 else r.reason)) ∧
        (m.scyc < r.start + r.timeout → exec (.collectiveTimeout c id) s = .next s)) ∧
      (m.fab.coll? c id = some r → r.ready = false →
        let staged := r.kind = 1 ∧ r.ord = true
        let at_ := r.slots.getD r.rank (0, 0)
        let short := ¬ staged ∧ at_.2 < r.own.2
        let away := ¬ staged ∧ r.lost at_.1 r.own.2 = true
        let m1 := m.collLaunch c id
        (staged ∨ short ∨ away → m1.mem = m.mem) ∧
        (¬ staged → ¬ short → ¬ away → m1.mem = (m.landAt r at_.1 (r.piece r.own.1 r.own.2) (decide (r.kind = 1)) false).mem) ∧
        (∃ y, m1.fab.coll? c id = some y ∧
          y = { r with ready := true, reason := if r.reason ≠ 0 then r.reason else if short then 2 else if away then 3 else 0 }) ∧
        ∃ es, m1.fab.net = m.fab.net ++ es ∧ es.map (fun e => (e.msg.dst, e.msg.body)) = r.sends.flatMap fun x =>
          let dst := m.rankAt c r.level x.1
          let ds := r.piece x.2.1 x.2.2
          (List.range ((ds.length + 511) / 512)).map fun i =>
            (dst.1, FabBody.coll { coll := r.coll, core := dst.2, rank := r.rank, off := 4096 * i, locs := (ds.drop (512 * i)).take 512 })))

/-- R383 to R388, R296, R307, R309: paging. At level S, on a valid sub-tile of this package, `pgmov` and `obcopy` wait while BUSY is 1, then set it and start, holding
write-type translations unless they promote. A demotion and an `obcopy` switch once every write translated under VER has been performed, and complete once no
access of an older version is in flight, clearing BUSY. The switch copies the slot's data, bits and marks to the new slot, puts it into the entry, and counts VER up.

R382, R384: a promotion fills the slot with the host slot's data and bits, or with zeros and FEINIT, marks every location of one with a block whose tag is not that of its
data and bits, makes the sub-tile resident and releases its misses. A demotion writes the slot to its host slot with a tag for each block, inverted where it holds a poisoned location.

Of the model, not of the spec alone: log entries 8, 27, 28, 29, 61, 72 and 73. -/
def Obligations.PagingStepsStartSwitchAndComplete : Prop :=
  (∀ (s : State) (w : Sems) (h : BitVec 24) (k staddr : W32) (nslot : BitVec 24) (r : ObjRec) (e : CoreId) (id : Nat) (f : Flight) (x : Hold),
    let c := s.cur.core
    let m := s.copyMach
    let ctx := s.ctl.ctxid
    let w0 := m.entryWord r k.toNat
    let host := m.hostWord r k.toNat
    let hold : Hold := { ctx := ctx, h := h.toNat, k := k.toNat, core := c, step := s.mach.nextOp }
    let busy (m1 : Mach) : Prop := mem64 m1.mem (r.rmap + 16 * k.toNat) = w0 ||| BitVec.ofNat 64 (2 ^ 61)
    let starts (i : Instr) (held : Bool) : Prop :=
      (entryBusy w0 = true → exec i s = .next { s with mach := m }) ∧
      (entryBusy w0 = false → ∃ t', exec i s = .next t' ∧ busy t'.mach ∧ t'.mach.holds = s.mach.holds ++ (if held then [hold] else []) ∧
        (∀ a, (a < r.rmap + 16 * k.toNat ∨ r.rmap + 16 * k.toNat + 8 ≤ a) → memByte t'.mach.mem a = memByte s.mach.mem a) ∧
        (t'.core c).rings[(2 : Fin 3)].rp = (s.core c).rings[(2 : Fin 3)].rp + 4 ∧ (t'.core c).copy.flights.length = (s.core c).copy.flights.length + 1)
    let traps (i : Instr) (cls : TrapClass) : Prop := s.stepTraps .copy w i 4 { cls := cls, addr := 0 }
    let steps : List Instr := [.pgmovUp w h k staddr, .pgmovDown w h k staddr, .obcopy w h k nslot]
    memWf s.mach.mem = true →
    (s.copyStarts w false 0 0 → m.pageRec c h.toNat k.toNat = .ok r →
      (slotOk (entrySlot w0) r.stsize = true → (host = 0 ∨ hostOk host r.stsize = true) → staddr.toNat % 8 = 0 → staddr.toNat + 8 ≤ 2 ^ 20 →
        starts (.pgmovUp w h k staddr) false ∧ (host ≠ 0 → starts (.pgmovDown w h k staddr) true)) ∧
      (host = 0 → traps (.pgmovDown w h k staddr) .perm) ∧
      ((slotOk (entrySlot w0) r.stsize = false ∨ (host ≠ 0 ∧ hostOk host r.stsize = false)) → traps (.pgmovUp w h k staddr) .perm ∧ traps (.pgmovDown w h k staddr) .perm) ∧
      (entryRes w0 = false → traps (.obcopy w h k nslot) .shape) ∧
      (entryRes w0 = true → slotOk (65536 * nslot.toNat) r.stsize = false → traps (.obcopy w h k nslot) .perm) ∧
      (entryRes w0 = true → slotOk (65536 * nslot.toNat) r.stsize = true → starts (.obcopy w h k nslot) true)) ∧
    (s.copyStarts w false 0 0 → ∀ i ∈ steps,
      ((s.core c).rings[(2 : Fin 3)].level = false → traps i .priv) ∧
      ((s.core c).rings[(2 : Fin 3)].level = true →
        ((h = 0 ∨ h.toNat = physHandle ∨ m.memRec? ctx h.toNat = none) → traps i .shape) ∧
        (h ≠ 0 → h.toNat ≠ physHandle → m.memRec? ctx h.toNat = some r →
          ((r.invalid m.group = true ∨ r.home ≠ m.pkg.toNat) → traps i .perm) ∧
          (r.invalid m.group = false → r.home = m.pkg.toNat →
            (r.tiles ≤ k.toNat → traps i .shape) ∧ (k.toNat < r.tiles → m.pageRec c h.toNat k.toNat = .ok r))))) ∧
    (∀ ctx' h' k' r', s.mach.memRec? ctx' h' = some r' →
      let w1 := s.mach.entryWord r' k'
      let host := s.mach.hostWord r' k'
      (∃ y ∈ s.mach.misses, y.ctx = ctx' ∧ y.h = h' ∧ y.k = k' ∧ ∀ d, y.core = some d → (s.core d).ctl.status ≠ .running) →
      entryBusy w1 = false → slotOk (entrySlot w1) r'.stsize = true → (host = 0 ∨ hostOk host r'.stsize = true) →
      exec (.pagerPromotion ctx' h' k') s = .next { s with mach := (s.mach.promote ctx' h' k' r').1 }) ∧
    (s.mach.cores[e].flight? .copy id = some f → s.mach.holdOf e id = some x → (∃ w' h' k', f.op = .obcopy w' h' k' nslot) →
      s.mach.memRec? x.ctx x.h = some r →
      (s.mach.writesDone x.ctx x.h r.ver = false → exec (.obcopySwitch e id) s = .next s) ∧
      (s.mach.writesDone x.ctx x.h r.ver = true → ∀ cx, (s.mach.ctxs[x.ctx]?).getD none = some cx →
        let old := s.mach.entryWord r x.k
        let new := 65536 * nslot.toNat
        let copied := memPaste s.mach.mem (memSlice s.mach.mem (entrySlot old) r.stsize new) new r.stsize
        ∃ t', exec (.obcopySwitch e id) s = .next t' ∧ t'.mach.holds = s.mach.holds.filter (fun y => !(y.core == e && y.step == id)) ∧
          t'.mach.mem = memSetBytes (memSet64 copied (r.rmap + 16 * x.k) (BitVec.ofNat 64 (old.toNat / 2 ^ 40 * 2 ^ 40 + new))) (cx.otbase + 128 * x.h + 68)
            (leBytes (r.ver + 1).toNat 4) ∧
          t'.mach.cores = s.mach.cores ∧ t'.mach.mcache = s.mach.mcache.filter fun y => !(y.ctx == x.ctx && y.h == x.h))) ∧
    (s.mach.cores[e].flight? .copy id = some f → f.msgs = [] → f.got = [] → f.failed = none →
      let m := s.mach
      let ctx := m.cores[e].ctl.ctxid
      let others := Config.remoteArrived s.tick
      let done (m1 : Mach) : Host.Outcome State Fault Refusal := .next { s with mach := m1.finishStep e f others }
      let complete := exec (.copyStepComplete e id) s
      (match f.op with
       | .a2av .. | .rscat .. | .agath .. | .bcast .. => complete = .next s
       | .pgmovUp .. | .pgmovDown .. | .obcopy .. => True
       | .lbregClose .. => (m.closing ctx = true → complete = .next s) ∧ (m.closing ctx = false → complete = done m)
       | _ => complete = done m) ∧
      (∀ w' h' k' st r', f.op = .pgmovUp w' h' k' st → m.memRec? ctx h'.toNat = some r' →
        complete = done (((m.promote ctx h'.toNat k'.toNat r').1.setBusy r' k'.toNat false).pageStatus e st (m.promote ctx h'.toNat k'.toNat r').2)) ∧
      (∀ w' h' k' st r', f.op = .pgmovDown w' h' k' st → m.memRec? ctx h'.toNat = some r' →
        (m.holdOf e id = some x → m.writesDone x.ctx x.h r'.ver = true → complete = .next { s with mach := (m.demote x r').unhold e id }) ∧
        (m.holdOf e id = some x → m.writesDone x.ctx x.h r'.ver = false → complete = .next s) ∧
        (m.holdOf e id = none → m.drained ctx h'.toNat r'.ver = true → complete = done ((m.setBusy r' k'.toNat false).pageStatus e st 0)) ∧
        (m.holdOf e id = none → m.drained ctx h'.toNat r'.ver = false → complete = .next s)) ∧
      (∀ w' h' k' ns r', f.op = .obcopy w' h' k' ns → m.memRec? ctx h'.toNat = some r' →
        (m.holdOf e id = none → m.drained ctx h'.toNat r'.ver = true → complete = done (m.setBusy r' k'.toNat false)) ∧
        ((m.holdOf e id ≠ none ∨ m.drained ctx h'.toNat r'.ver = false) → complete = .next s)) ∧
      (let t := m.finishStep e f others
       t.mem = (m.makeMoves f.moves).mem ∧ t.cores[e].copy.flights = m.cores[e].copy.flights.filter (fun y => y.id != f.id) ∧
       (∀ g r, f.push = some g → m.cores[e].rg[g] = some r →
         let marks := r.resv.map fun x => if x.1 = f.id then (x.1, true) else x
         t.cores[e].rg[g] = some { r with filled := r.filled + (marks.takeWhile (·.2)).length, resv := marks.dropWhile (·.2) }) ∧
       (∀ i wp, f.wpTo = some (i, wp) → t.cores[e].rings[i].wp = wp)))) ∧
  (∀ (m : Mem) (old n new : Nat), memWf m = true →
    let t := memPaste m (memSlice m old n new) new n
    (∀ a, memByte t a = if new ≤ a ∧ a < new + n then memByte m (old + (a - new)) else memByte m a) ∧
    (∀ l, memFull t l = if new ≤ l ∧ l < new + n then memFull m (old + (l - new)) else memFull m l) ∧
    (∀ l, memPoisoned t l = if new ≤ l ∧ l < new + n then memPoisoned m (old + (l - new)) else memPoisoned m l)) ∧
  (∀ (m : Mach) (ctx h k : Nat) (r : ObjRec) (x : Hold),
    let st := r.stsize
    let entry (k : Nat) : Nat := r.rmap + 16 * k
    let slot (k : Nat) : Nat := entrySlot (m.entryWord r k)
    let host (k : Nat) : Nat := m.hostWord r k
    let outside (a lo n : Nat) : Prop := a < lo ∨ lo + n ≤ a
    let bits (n b : Nat) : List Byte := memBytes m.mem (hostKey (n + st + 64 * b)) 64
    let tag (n b : Nat) : W32 := mem32 m.mem (hostKey (n + st + st / 64 + 4 * b))
    memWf m.mem = true → st % 4096 = 0 →
    (let w0 := m.entryWord r k
     let p := m.promote ctx h k r
     let slot := slot k
     let host := host k
     (entryRes w0 = true → p = (m, 0)) ∧
     (entryRes w0 = false → slot % 8 = 0 → (entry k + 8 ≤ slot ∨ slot + st ≤ entry k) →
       p.2 = (if host = 0 then 0 else ((List.range (st / 4096)).filter fun b => crc32c (memBytes m.mem (hostKey (host + 4096 * b)) 4096 ++ bits host b) != tag host b).length) ∧
       (∀ i, i < 64 → (p.1.entryWord r k).getLsbD i = if i = 63 then true else if i = 62 then decide (0 < p.2) else w0.getLsbD i) ∧
       (∀ o, o < st → memByte p.1.mem (slot + o) = if host = 0 then 0 else memByte m.mem (hostKey (host + o))) ∧
       (∀ j, j < st / 8 →
         memFull p.1.mem (slot + 8 * j) = (if host = 0 then !r.feEmpty else (memByte m.mem (hostKey (host + st + j / 8))).getLsbD (j % 8)) ∧
         memPoisoned p.1.mem (slot + 8 * j) = decide (0 < p.2)) ∧
       (∀ a, outside a slot st → outside a (entry k) 8 → memByte p.1.mem a = memByte m.mem a) ∧
       (∀ l, outside l slot st → memFull p.1.mem l = memFull m.mem l ∧ memPoisoned p.1.mem l = memPoisoned m.mem l) ∧
       p.1.mcache = m.mcache.filter (fun y => !(y.ctx == ctx && y.h == h)) ∧
       p.1.misses = m.misses.filter (fun y => !(y.ctx == ctx && y.h == h && y.k == k)) ∧ p.1.cores = m.cores)) ∧
    (let w0 := m.entryWord r x.k
     let t := m.demote x r
     let slot := slot x.k
     let host := host x.k
     let size := st + st / 64 + 4 * (st / 4096)
     ∀ cx, (m.ctxs[x.ctx]?).getD none = some cx →
     let ver := cx.otbase + 128 * x.h + 68
     entry x.k + 8 ≤ hostKey 0 → ver + 4 ≤ hostKey 0 → (ver + 4 ≤ entry x.k ∨ entry x.k + 8 ≤ ver) →
       (∀ o, o < st → memByte t.mem (hostKey (host + o)) = memByte m.mem (slot + o)) ∧
       (∀ j, j < st / 8 → (memByte t.mem (hostKey (host + st + j / 8))).getLsbD (j % 8) = memFull m.mem (slot + 8 * j)) ∧
       (∀ b, b < st / 4096 → let sum := crc32c (memBytes m.mem (slot + 4096 * b) 4096 ++ memBytes t.mem (hostKey (host + st + 64 * b)) 64)
         mem32 t.mem (hostKey (host + st + st / 64 + 4 * b)) =
           if (List.range 512).any fun j => memPoisoned m.mem (slot + 4096 * b + 8 * j) then ~~~sum else sum) ∧
       (∀ i, i < 64 → (mem64 t.mem (entry x.k)).getLsbD i = if i = 63 then false else w0.getLsbD i) ∧ mem32 t.mem ver = r.ver + 1 ∧
       (∀ a, outside a (hostKey host) size → outside a (entry x.k) 8 → outside a ver 4 → memByte t.mem a = memByte m.mem a) ∧
       t.mcache = m.mcache.filter (fun y => !(y.ctx == x.ctx && y.h == x.h)) ∧ t.cores = m.cores))

/-! Attention (07 R202 to R224). -/

/-- R210 to R218: `attn` with a valid descriptor, of a core with fewer than 8 in flight, joins its die's operations and goes on; its die accepts it in order, with the rows it reads, its new tokens staged and the snapshot
it computes from, or with the class it fails with; it completes by writing its rows and their statistics, then its status word, its semaphore and its event, and its snapshot leaves the die. A row's words are marked
poisoned when it is spoilt, and only then.

R214, R215: a result row. Its blocks are taken in ascending order; a block's scores, its skip, its weights, its running maximum, sum and accumulators are as the spec's
algorithm says, each rounded once; a score that is NaN or +infinity ends the row as NaN; an uncorrectable error in a block or row that it reads spoils it.

Of the model, not of the spec alone: log entries 30 and 31. -/
def Obligations.AttentionOperationsAreAcceptedAndComplete : Prop :=
  (∀ (s : State) (a b : Src) (ad : Fin 2) (seq : Nat) (o : AttnOp) (r : SeqRec),
    let c := s.cur.core
    let m := s.mach
    let n := 1 + litWords [a, b]
    let at_ := spmKey c (s.val a).toNat
    let m1 := m.flushRun c .control at_ 64
    let img := memNat m1.mem at_ 64
    let d := parseDesc img
    let x := m.attn[ad]
    let snapped (snap : AttnSnap) (g : SeqRec → SeqRec) : Host.Outcome State Fault Refusal :=
      .next { s with mach := { m with attn := m.attn.set ad { x with
        recs := x.recs.map fun y => if y.seq = o.h.toNat % 2 ^ 20 then g y else y, ops := x.ops.map fun y => if y.id = o.id then { y with snap := some snap } else y } } }
    let q := o.desc
    (s.cleanSrcs [a, b] → s.fits n → (s.val a).toNat % 64 = 0 → (s.val a).toNat + 64 ≤ 2 ^ 20 → (∀ i, i < 8 → memPoisoned m1.mem (at_ + 8 * i) = false) →
      checkDesc img d = none → handleOf (s.val b) = some (ad, seq) → m.attnInFlight c < 8 →
      ∃ t, exec (.attn a b) s = .next t ∧ t.mach.mem = (m1.flushClasses c .control d.cmask).mem ∧
        t.mach.attn[ad].ops = x.ops ++ [{ id := m.nextOp, core := c, ctx := s.ctl.ctxid, h := s.val b, desc := d, snap := none }] ∧ t.mach.attn[ad].recs = x.recs ∧
        (t.core c).forked = (s.core c).forked ++ [m.nextOp] ∧ t.mach.nextOp = m.nextOp + 1 ∧
        t.ctl = { s.ctl with armed := attachArmed 5 m.nextOp s.ctl.armed, pc := s.ctl.pc + BitVec.ofNat 18 n, wait := none }) ∧
    (s.cleanSrcs [a, b] → s.fits n → (s.val a).toNat % 64 = 0 → (s.val a).toNat + 64 ≤ 2 ^ 20 → (∀ i, i < 8 → memPoisoned m1.mem (at_ + 8 * i) = false) →
      checkDesc img d = none → handleOf (s.val b) = some (ad, seq) → 8 ≤ m.attnInFlight c → exec (.attn a b) s = .next s) ∧
    (x.ops.find? (fun y => y.id == o.id && y.snap.isNone) = some o → x.arrived o.core (o.h.toNat % 2 ^ 20) o.id = false → exec (.attnAccept ad o.id) s = .next s) ∧
    (x.ops.find? (fun y => y.id == o.id && y.snap.isNone) = some o → x.arrived o.core (o.h.toNat % 2 ^ 20) o.id = true →
      let accept := exec (.attnAccept ad o.id) s
      (x.rec? (o.h.toNat % 2 ^ 20) = none → accept = snapped (.failed TrapClass.perm.code) id) ∧
      (x.rec? (o.h.toNat % 2 ^ 20) = some r →
        (r.ctx ≠ o.ctx → accept = snapped (.failed TrapClass.perm.code) id) ∧
        (r.ctx = o.ctx →
          ((r.d ≠ q.dim ∨ 16 < r.staged.length + q.new ∨ r.lc + r.staged.length + q.new < q.qpos + q.depth) → accept = snapped (.failed TrapClass.shape.code) id) ∧
          (r.d = q.dim → r.staged.length + q.new ≤ 16 → q.qpos + q.depth ≤ r.lc + r.staged.length + q.new →
            ∃ new : List Staged, new.length = q.new ∧
              (∀ i tok, new[i]? = some tok →
                tok.key = (List.range q.dim).map (fun j => BitVec.ofNat 16 (m.spmNat o.core (q.kvaddr + 2 * q.dim * i + 2 * j) 2)) ∧
                tok.val = (List.range q.dim).map (fun j => BitVec.ofNat 16 (m.spmNat o.core (q.kvaddr + 2 * q.dim * (q.new + i) + 2 * j) 2)) ∧
                tok.bad = (List.range (q.dim / 4)).any (fun j => memPoisoned m.mem (spmKey o.core (q.kvaddr + 2 * q.dim * i + 8 * j)) ||
                  memPoisoned m.mem (spmKey o.core (q.kvaddr + 2 * q.dim * (q.new + i) + 8 * j)))) ∧
              accept = snapped (.taken r.lc (r.staged ++ new) r.exts r.ver (m.bf16Rows o.core q.qaddr q.dim q.rows)) (fun y => { y with staged := r.staged ++ new }))))) ∧
    (x.ops.find? (·.id == o.id) = some o →
      let complete := exec (.attnComplete ad o.id) s
      let ends (t : State) (code status : Nat) : Prop :=
        memNat t.mach.mem (spmKey o.core q.staddr) 8 = code * 2 ^ 56 + status ∧
        t.mach.attn[ad].ops = x.ops.filter (fun y => y.id != o.id) ∧ (t.core o.core).forked = (s.core o.core).forked.filter (fun i => i != o.id) ∧
        t.mach.cores[o.core].ctl = (s.core o.core).ctl.fireOp 5 o.id (BitVec.ofNat 8 code) ∧
        (s.core o.core).raised (t.core o.core) q.raise ∧ memPoisoned t.mach.mem (spmKey o.core q.staddr) = false
      memWf m.mem = true → q.staddr + 8 ≤ 2 ^ 20 →
      (∀ cls, o.snap = some (.failed cls) → ∃ t, complete = .next t ∧ ends t cls.toNat 0 ∧
        ∀ p, (p < spmKey o.core q.staddr ∨ spmKey o.core q.staddr + 8 ≤ p) → memByte t.mach.mem p = memByte m.mem p) ∧
      (∀ lc staged exts ver rows, o.snap = some (.taken lc staged exts ver rows) → q.staddr % 8 = 0 → q.raddr % 8 = 0 → q.dim = 64 ∨ q.dim = 128 →
        let res := rows.zipIdx.map fun y => rowResult o (x.block? exts) lc staged y.1 y.2
        let size := 4 * q.dim * rows.length + (if q.stats then 8 * rows.length else 0)
        let stat (i j : Nat) : Nat := spmKey o.core (q.raddr + 4 * q.dim * rows.length + 8 * i + 4 * j)
        let out (i j : Nat) : Nat := spmKey o.core (q.raddr + 4 * q.dim * i + 4 * j)
        (res.filter (·.nan)).length * 2 ^ 40 + (res.filter (·.bad)).length * 2 ^ 32 + min ((res.map (·.skipped)).foldl (· + ·) 0) (2 ^ 32 - 1) < 2 ^ 56 →
        rows.length = q.rows → q.raddr + size ≤ 2 ^ 20 → (q.staddr + 8 ≤ q.raddr ∨ q.raddr + size ≤ q.staddr) →
        ∃ t, complete = .next t ∧
          ends t 0 ((res.filter (·.nan)).length * 2 ^ 40 + (res.filter (·.bad)).length * 2 ^ 32 + min ((res.map (·.skipped)).foldl (· + ·) 0) (2 ^ 32 - 1)) ∧
          (∀ i y, res[i]? = some y → y.words.length = q.dim ∧ (∀ j w, y.words[j]? = some w → memNat t.mach.mem (out i j) 4 = w.toNat) ∧
            (∀ j, j < q.dim / 2 → memPoisoned t.mach.mem (out i (2 * j)) = y.bad) ∧
            (q.stats = true → y.stats.length = 2 ∧ ∀ j w, y.stats[j]? = some w → memNat t.mach.mem (stat i j) 4 = w.toNat)) ∧
          (∀ p, (p < spmKey o.core q.staddr ∨ spmKey o.core q.staddr + 8 ≤ p) →
            (p < spmKey o.core q.raddr ∨ spmKey o.core (q.raddr + size) ≤ p) → memByte t.mach.mem p = memByte m.mem p)))) ∧
  (∀ (o : AttnOp) (block : Nat → Option CacheBlock) (lc : Nat) (staged : List Staged) (q : List (BitVec 16) × Bool) (i : Nat),
    let d := o.desc
    let p := d.qpos + i % d.depth
    let lt := lc + staged.length
    let key := keyVal block lc staged
    let val := valVal block lc staged
    let sees (b j : Nat) : Prop := 32 * b ≤ j ∧ j < 32 * b + 32 ∧ j ≤ p ∧ j < lt ∧ (d.window = 0xFFFFFFFF ∨ p - j ≤ d.window.toNat)
    let y := rowResult o block lc staged q i
    (∀ b, (∀ j, j ∈ rowKeys d lt p b ↔ sees b j) ∧ (rowKeys d lt p b).Pairwise (· < ·)) ∧
    ∃ st : Nat → RowAcc, (let a : RowAcc := st 0; a.mx = .inf true ∧ a.l = .zero false ∧ a.o = List.replicate d.dim (.zero false) ∧ a.skipped = 0 ∧ a.nan = false ∧ a.upto = 0) ∧
      (∀ b, st (b + 1) = if (st b).nan then st b else rowBlock d d.dim key val (q.1.map bf16Val) (rowKeys d lt p b) { st b with upto := b + 1 }) ∧
      (let a : RowAcc := st (p / 32 + 1)
       let spoilt (b : Nat) : Prop := (∃ j, sees b j) ∧ ((∃ x, block b = some x ∧ x.bad = true) ∨ ∃ j t, sees b j ∧ lc ≤ j ∧ staged[j - lc]? = some t ∧ t.bad = true)
       (y.bad = true ↔ q.2 = true ∨ ∃ b, b < a.upto ∧ spoilt b) ∧ y.skipped = a.skipped ∧
       (y.bad = true → y.words = List.replicate d.dim 0x7FC00000 ∧ y.nan = true) ∧
       (y.bad = false → y.words.length = d.dim ∧ y.stats = [fp32Bits a.mx, fp32Bits a.l] ∧ y.nan = y.words.any (fun w => isNan32 w.toNat) ∧
         (a.nan = true → y.words = List.replicate d.dim 0x7FC00000) ∧
         (a.nan = false → ∀ (c : Nat) w, y.words[c]? = some w →
           (a.l.isZero = true → w = 0) ∧
           (∀ no mo eo n m e dn dl, m ≠ 0 → a.o[c]? = some (.fin no mo eo dn) → a.l = .fin n m e dl →
             w = fp32Bits (.fin (no != n) (mo * 2 ^ 400 / m) (eo - 400 - e) (mo * 2 ^ 400 % m != 0))) ∧
           (∀ n m e dl no, m ≠ 0 → a.l = .fin n m e dl → a.o[c]? = some (.inf no) → w = fp32Bits (.inf (no != n))) ∧
           (∀ g, a.o[c]? = some (.nan g) → a.l.isZero = false → w = 0x7FC00000))))) ∧
  (∀ (d : AttnDesc) (dim : Nat) (key val : Nat → Nat → Ex) (q : List Ex) (js : List Nat) (a : RowAcc),
    let tau := fp32.decode d.tau.toNat
    let s := js.map fun j => round32 ((fp32.decode d.scale.toNat).mul (dotSum (q.zipIdx.map fun x => (x.1, key j x.2)))).1
    let u := s.foldl (Ex.minMax true) (.inf true)
    let mn := Ex.minMax true a.mx u
    let ends (x : Ex) : Prop := x.isNan = true ∨ x = .inf false
    let skips : Prop := (∃ n m e x, tau = .fin n m e x ∧ (n = true → m = 0)) ∧ (a.mx.add tau.negate .rne).1.lt u = false
    let b := rowBlock d dim key val q js a
    ((a.nan = true ∨ js = []) → b = a) ∧
    (a.nan = false → js ≠ [] →
      ((∃ x ∈ s, ends x) → b = { a with nan := true }) ∧
      ((∀ x ∈ s, ¬ ends x) →
        (skips → b = { a with skipped := a.skipped + 1 }) ∧
        (¬ skips → mn = .inf true → b = a) ∧
        (¬ skips → mn ≠ .inf true →
          let alpha := if a.mx = .inf true then .zero false else exp2Of (a.mx.add mn.negate .rne).1
          let pr := s.map fun x => exp2Of (x.add mn.negate .rne).1
          let k : Int := match pr.foldl (Ex.minMax true) (.zero false) with | .fin _ m e _ => if m = 0 then 0 else (Nat.log2 m : Int) + e - 2 | _ => 0
          let w := pr.map fun x => ((e2m3.decode (e2m3.round (x.mul (pow2 (-k))).1 .rne true).bits).mul (pow2 k)).1
          b.mx = mn ∧ b.skipped = a.skipped ∧ b.nan = false ∧ b.upto = a.upto ∧
          b.l = round32 (w.foldl (fun t x => (t.add x .rne).1) (a.l.mul alpha).1) ∧ b.o.length = dim ∧
          ∀ c, c < dim → b.o[c]? = some (round32 ((w.zip js).foldl (fun t x => (t.add (x.1.mul (val x.2 c)).1 .rne).1) ((a.o.getD c (.zero false)).mul alpha).1))))))

/-- R220 to R224: the instructions that wait for a die. Each sends its request once, waits, and goes on with the reply, or traps with it, once the sequence's earlier `attn`
operations have completed; the die accepts requests in order and makes their effects: a commit moves staged tokens into the cache, a drop leaves the first of them, an allocation
adds an extent or a record in the chunk taken, or is refused with its code, a release frees extents and the tokens past them, and a relocation copies to a chunk of the same size and
then switches to it with the next version.

R205, R207, R208: a committed token goes to the block of its position, which the extent walk finds. Its key row is quantised by groups of 32 under one exponent; a channel's
exponent never decreases, and a rise requantises the block's committed values.

Of the model, not of the spec alone: log entries 30 and 31. -/
def Obligations.DieRequestsAreAnsweredAndPerformed : Prop :=
  (∀ (s : State) (d : Dst) (a b : Src) (ad : Fin 2) (q : Ask) (r : SeqRec),
    let c := s.cur.core
    let m := s.mach
    let w := 1 + litWords [a, b]
    let va := s.val a
    let vb := s.val b
    let x := m.attn[ad]
    let asks (i : Instr) (dst : Dst) (op : AskOp) : Prop :=
      s.cleanSrcs [a, b] → s.fits w →
      (m.askOf c = none → op.die = ad → ∃ t, exec i s = .next t ∧ t.ctl.pc = s.ctl.pc ∧ t.ctl.x = s.ctl.x ∧
        t.mach.attn[ad].asks = x.asks ++ [{ id := m.nextOp, core := c, ctx := s.ctl.ctxid, op := op, reply := none, after := [] }]) ∧
      (∀ y, m.askOf c = some (ad, y) →
        let m1 : Mach := { m with attn := m.attn.set ad { x with asks := x.asks.filter fun z => z.core != c } }
        let early := ∃ o ∈ x.ops, o.id ∈ y.after
        (y.reply = none ∨ early → exec i s = .next s) ∧
        (¬ early →
          (∀ cls, y.reply = some (.trap cls) → exec i s = .next { s with mach := m1.takeTrap c (s.ctl.pc + BitVec.ofNat 18 w) { cls := tagClass cls, addr := 0 } }) ∧
          (y.reply = some .done → exec i s = .next (s.onward m1 w id)) ∧
          (∀ k0 v, y.reply = some (.result k0 v) → exec i s = .next (s.onward m1 w fun k => (k.write dst { val := v, tag := 0 }).setK 0 k0))))
    let before : List Nat := if q.op.creates then [] else (x.ops.filter fun o => o.h.toNat % 2 ^ 20 == q.op.handle.toNat % 2 ^ 20 && o.snap.isSome).map (·.id)
    let performs (p : AttnDie → AskReply → Prop) : Prop := ∃ t reply, exec (.exclusiveAccept ad q.id) s = .next t ∧ t.mach.mem = m.mem ∧ t.mach.cores = m.cores ∧
      (∃ z ∈ t.mach.attn[ad].asks, z = { q with reply := some reply, after := before }) ∧ t.mach.attn[ad].ops = x.ops ∧ p t.mach.attn[ad] reply
    let refuses (reply : AskReply) : Prop := performs fun y z => z = reply ∧ y.recs = x.recs ∧ y.free = x.free ∧ y.cells = x.cells
    let others (y : AttnDie) : Prop := ∀ z, z.seq ≠ r.seq → (z ∈ y.recs ↔ z ∈ x.recs)
    let accepts := x.asks.find? (fun y => y.id == q.id && y.reply.isNone) = some q ∧ x.mayAccept q = true
    let perm : AskReply := .trap TrapClass.perm.code
    let shape : AskReply := .trap TrapClass.shape.code
    asks (.atcommit a b) .none (.commit va vb) ∧
    asks (.atdrop a b) .none (.drop va vb) ∧
    asks (.exalloc d a b) d (.alloc va vb) ∧
    asks (.exfree a b) .none (.free va vb) ∧
    asks (.exinv d a b) d (.move va vb) ∧
    (x.asks.find? (fun y => y.id == q.id && y.reply.isNone) = some q → x.mayAccept q = false → exec (.exclusiveAccept ad q.id) s = .next s) ∧
    (accepts → x.owned q.ctx q.op.handle = none →
      (∀ h k, (q.op = .commit h k ∨ q.op = .drop h k ∨ q.op = .free h k ∨ q.op = .move h k) → refuses perm) ∧
      (∀ h k, q.op = .alloc h k → k.toNat < 2 ^ 31 → k.getLsbD 28 = false → refuses perm)) ∧
    (accepts → ∀ h k, q.op = .alloc h k →
      let create := k.getLsbD 28
      let len := k.toNat % 2 ^ 16
      let stride := k.toNat / 2 ^ 16 % 2 ^ 12 * 512
      let dim := if create then (if k.getLsbD 30 then 128 else 64) else r.d
      let sized := 1 ≤ len ∧ 72 * dim ≤ stride ∧ len * stride ≤ 2 ^ 30
      (2 ^ 31 ≤ k.toNat → refuses shape) ∧
      (k.toNat < 2 ^ 31 →
        (create = true → h ≠ 0 → refuses perm) ∧
        ((if create then h = 0 else x.owned q.ctx h = some r) →
          (¬ sized → refuses (.result false 4)) ∧
          (sized → create = false → 16 ≤ r.exts.length → refuses (.result false 2)) ∧
          (sized → create = true → 2 ^ 20 ≤ x.recs.length → refuses (.result false 3)) ∧
          (sized → (if create then x.recs.length < 2 ^ 20 else r.exts.length < 16) → ∀ size, chunkOf (len * stride) = some size →
            (x.take size = none → refuses (.result false 1)) ∧
            (∀ x1 base, x.take size = some (x1, base) →
              let e : Extent := { base := base, len := len, stride := stride }
              performs fun y reply => y.free = x1.free ∧ y.cells = x.cells ∧
                (create = false → reply = .result true (BitVec.ofNat 64 (r.exts.length * 2 ^ 32 + ad.val * 2 ^ 20 + r.seq)) ∧ others y ∧ ∃ r1 ∈ y.recs, r1 = { r with exts := r.exts ++ [e] }) ∧
                (create = true → ∃ n, n < 2 ^ 20 ∧ x.rec? n = none ∧ reply = .result true (BitVec.ofNat 64 (ad.val * 2 ^ 20 + n)) ∧
                  y.recs = x.recs ++ [{ seq := n, ctx := q.ctx, d := dim, lc := 0, staged := [], exts := [e], ver := 0, moving := none, draining := [] }])))))) ∧
    (accepts → x.owned q.ctx q.op.handle = some r →
      (∀ h k, q.op = .commit h k →
        (k.toNat ≤ r.staged.length → r.lc + k.toNat ≤ r.capacity → performs fun y reply => reply = .done ∧ others y ∧ y.cells = (x.commitN r.seq k.toNat).cells ∧ y.free = x.free ∧
          ∃ r1 ∈ y.recs, r1 = { r with lc := r.lc + k.toNat, staged := r.staged.drop k.toNat }) ∧
        ((r.staged.length < k.toNat ∨ r.capacity < r.lc + k.toNat) → refuses shape)) ∧
      (∀ h k, q.op = .drop h k → performs fun y reply => reply = .done ∧ others y ∧ y.cells = x.cells ∧ y.free = x.free ∧
        ∃ r1 ∈ y.recs, r1 = { r with staged := r.staged.take k.toNat }) ∧
      (∀ h k, q.op = .free h k →
        ((15 < k.toNat ∨ r.exts.length ≤ k.toNat) → refuses shape) ∧
        (k.toNat ≤ 15 → k.toNat < r.exts.length →
          let kept := 32 * ((r.exts.take k.toNat).map (·.len)).foldl (· + ·) 0
          let given := (r.exts.drop k.toNat).foldl AttnDie.giveExt x
          performs fun y reply => reply = .done ∧ others y ∧
            (k = 0 → (∀ r1 ∈ y.recs, r1.seq ≠ r.seq) ∧ y.free = (r.draining.foldl (fun (z : AttnDie) e => z.give e.2.1 e.2.2) given).free) ∧
            (k ≠ 0 → y.free = given.free ∧ ∃ r1 ∈ y.recs, r1 = { r with
              exts := r.exts.take k.toNat, lc := min r.lc kept, staged := if kept < r.lc then [] else r.staged }))) ∧
      (∀ h k, q.op = .move h k → (256 ≤ k.toNat ∨ r.exts.length ≤ k.toNat % 16) → refuses shape) ∧
      (∀ h k e, q.op = .move h k → k.toNat < 256 → r.exts[k.toNat % 16]? = some e →
        (x.take e.chunk = none → refuses (.result false 1)) ∧
        (∀ x1 base, x.take e.chunk = some (x1, base) → performs fun y reply => reply = .result true ((r.ver + 1).setWidth 64) ∧ others y ∧ y.free = x1.free ∧
          ∃ r1 ∈ y.recs, r1 = { r with moving := some { ext := k.toNat % 16, base := base, raise := BitVec.ofNat 4 (k.toNat / 16), core := q.core } }))) ∧
    (∀ v e, x.rec? r.seq = some r → r.moving = some v → r.exts[v.ext]? = some e → ∃ t, exec (.exinvSwitch ad r.seq) s = .next t ∧ t.mach.mem = m.mem ∧
      (∃ r1 ∈ t.mach.attn[ad].recs, r1 = { r with exts := r.exts.set v.ext { e with base := v.base }, ver := r.ver + 1, moving := none, draining := r.draining ++ [(r.ver, e.chunk, e.base)] }) ∧
      t.mach.attn[ad].free = x.free ∧ (0 < e.stride →
        (∀ i b, i < e.len → x.cell? (e.base + i * e.stride) = some b → t.mach.attn[ad].cell? (v.base + i * e.stride) = some b) ∧
        (∀ p, (∀ i, i < e.len → p ≠ v.base + i * e.stride) → t.mach.attn[ad].cell? p = x.cell? p)) ∧
      (s.core v.core).raised (t.core v.core) v.raise) ∧
    (∀ ver k base rest, x.rec? r.seq = some r → r.draining = (ver, k, base) :: rest →
      let held := ∃ o ∈ x.ops, o.h.toNat % 2 ^ 20 = r.seq ∧ ∃ lc st exts rows, o.snap = some (.taken lc st exts ver rows)
      (held → exec (.exinvDrain ad r.seq) s = .next s) ∧
      (¬ held → ∃ t, exec (.exinvDrain ad r.seq) s = .next t ∧ t.mach.mem = m.mem ∧
        t.mach.attn[ad].free = (x.give k base).free ∧ ∃ r1 ∈ t.mach.attn[ad].recs, r1 = { r with draining := rest }))) ∧
  (∀ (x : AttnDie) (seq n : Nat) (r : SeqRec) (t : Staged) (rest : List Staged) (a : Nat),
    x.commitN seq 0 = x ∧ x.commitN seq (n + 1) = (x.commit1 seq).commitN seq n ∧
    (x.rec? seq = some r → r.staged = t :: rest → locate r.exts (r.lc / 32) = some a →
      let y := x.commit1 seq
      let old := if r.lc % 32 = 0 then .fresh r.d else (x.cell? a).getD (.fresh r.d)
      y.rec? seq = some { r with lc := r.lc + 1, staged := rest } ∧ y.cell? a = some (old.commit t) ∧ (∀ p, p ≠ a → y.cell? p = x.cell? p) ∧ y.free = x.free)) ∧
  (∀ (l : List Extent) (e : Extent) (b : Nat),
    locate [] b = none ∧ locate (e :: l) b = if b < e.len then some (e.base + b * e.stride) else locate l (b - e.len)) ∧
  (∀ (b : CacheBlock) (t : Staged) (row : List (BitVec 16)) (c : ValChannel) (v : BitVec 16),
    (b.commit t).keys = b.keys ++ [quantKey t.key] ∧ (b.commit t).bad = (b.bad || t.bad) ∧
    (∀ (i : Nat) ch u, b.vals[i]? = some ch → t.val[i]? = some u → (b.commit t).vals[i]? = some (ch.commit u)) ∧
    (let k (g : Nat) : Option Int := packExp 3 (((row.drop (32 * g)).take 32).map fun x => x.toNat * 2 ^ 16)
     let stored (x : Ex) (k : Int) : Byte := BitVec.ofNat 8 (e4m3.round (x.mul (pow2 (-k))).1 .rne true).bits
     let y := quantKey row
     (∀ g, g < row.length / 32 → y.exps[g]? = some (k g)) ∧
     (row.length % 32 = 0 → ∀ (i : Nat) u, row[i]? = some u → y.elems[i]? = some (match k (i / 32) with | none => 0x7F | some e => stored (bf16.decode u.toNat) e)) ∧
     (let kt : ValScale := if v.toNat % 2 ^ 15 = 0 then .zero else match packExp 3 [v.toNat * 2 ^ 16] with | none => .nan | some e => .exp e
      let new := c.commit v
      new.elems.length = c.elems.length + 1 ∧
      ((c.scale = .nan ∨ kt = .nan) → new.scale = .nan) ∧
      (c.scale = .zero → kt = .zero → new.scale = .zero ∧ new.elems.take c.elems.length = c.elems) ∧
      (∀ e, (c.scale = .zero ∧ kt = .exp e) ∨ (c.scale = .exp e ∧ kt = .zero) →
        new = { scale := .exp e, elems := c.elems ++ [stored (bf16.decode v.toNat) e] }) ∧
      (∀ e e', c.scale = .exp e → kt = .exp e' → let m := max e e'
        new = { scale := .exp m, elems := (if m = e then c.elems else c.elems.map fun u => stored (e4m3.decode u.toNat) (m - e)) ++ [stored (bf16.decode v.toNat) m] }))))

/-! Sampling (08 R225 to R254). -/

/-- R232, R235 to R244: the instructions of a logit program that work on the operation's registers, candidates and recorded updates. Each is charged once, and goes on with its result
and flags; an operation whose budget an instruction exceeds stops before it. `saccept` accepts the leading positions whose draw passes, using a counter for each position examined.

R234, R239, R245: the table reads and the four ways to send. `stbl` and `smask` read the entries present of their context's tables, by their lanes' ids; `send` of a token in the final
phase of an operation alone on its sampler performs its recorded updates in order, each on what the one before it left, and the count last, advances CTR and ends the operation with
the token; of a block it goes on to the next; of none it ends without a token.

Of the model, not of the spec alone: log entries 32 and 33. -/
def Obligations.SamplerInstructionsComplete : Prop :=
   (∀ (s : State) (r : SampRun) (d a b : Fin 16) (c : Fin 11) (op : Fin 3) (g : Fin 4) (v : SImm) (idx disp : BitVec 13) (n : BitVec 5) (table mode : Fin 2),
      let overdrawn (i : Instr) (cost : Nat) : Prop :=
        s.sampUnit.run = some r → r.held = false → (if r.sc.budget = 0 then 16384 else r.sc.budget) < r.charge + cost →
          let stopped (fin : Bool) : Prop := exec i s = .next { s with mach := s.mach.onRun (clusterFin s.cur.core) { r with phase := .exhausted fin } }
          (r.phase = .block → stopped false) ∧ (r.phase = .final → stopped true)
      let done (i : Instr) (cost words : Nat) (f : SampRun → SampRun) : Prop :=
        overdrawn i cost ∧ (s.issues r cost → exec i s = .next (s.sampNext s.mach (f (r.charged cost)) words))
      let setW (x : SampRun) (k : Fin 16) (f : Fin 64 → W32) : SampRun := { x with w := x.w.set k (Vector.ofFn f) }
      let setH (x : SampRun) (k : Fin 16) (y : W32) : SampRun := { x with h := x.h.set k y }
      let flag (x : SampRun) (f : FpFlags) : SampRun := { x with flags := x.flags.raise f }
      let lanes (i : Instr) (cost : Nat) (f : Fin 64 → W32 × FpFlags) : Prop :=
        done i cost 1 fun x => flag (setW x d fun k => (f k).1) ((List.finRange 64).foldl (fun y k => y.or (f k).2) {})
      let A (k : Fin 64) : W32 := r.w[a][k]
      let B (k : Fin 64) : W32 := r.w[b][k]
      let imm : W32 := match v with | .imm i => BitVec.ofInt 32 i.toInt | .lit w => w
      let words : Nat := match v with | .imm _ => 1 | .lit _ => 2
      let rows := max 1 ((r.cand.length + 63) / 64)
      let jump (i : Instr) (t : Int) : Prop :=
        overdrawn i 1 ∧ (s.issues r 1 → 0 ≤ (r.pc : Int) + t → (r.pc : Int) + t < r.sc.plen →
        exec i s = .next { s with mach := s.mach.onRun (clusterFin s.cur.core) { r.charged 1 with pc := ((r.pc : Int) + t).toNat, held := false } })
      lanes (.sadd d a b) 1 (fun k => fAdd (A k) (B k)) ∧
      lanes (.ssub d a b) 1 (fun k => fSub (A k) (B k)) ∧
      lanes (.smul d a b) 1 (fun k => fMul (A k) (B k)) ∧
      lanes (.sfma d a b) 1 (fun k => fFma (A k) (B k) r.w[d][k]) ∧
      lanes (.smax d a b) 1 (fun k => fMinMax true (A k) (B k)) ∧
      lanes (.smin d a b) 1 (fun k => fMinMax false (A k) (B k)) ∧
      lanes (.sexp2 d a) 4 (fun k => fSpecial exExp2 (A k)) ∧
      lanes (.slog2 d a) 4 (fun k => fSpecial exLog2 (A k)) ∧
      lanes (.srcp d a) 4 (fun k => fSpecial exRcp (A k)) ∧
      lanes (.scmp d a b c) 1 (fun k => scmpOf c (A k) (B k)) ∧
      done (.sbc d a) 1 1 (fun x => setW x d fun _ => r.h[a]) ∧
      done (.smov d a) 1 1 (fun x => setW x d A) ∧
      done (.ssel d a b) 1 1 (fun x => setW x d fun k => if r.w[d][k] ≠ 0 then A k else B k) ∧
      (let t := sampTree (if op = 0 then fAdd else fMinMax (op == 1)) 6 r.w[a].toList {}
       done (.sxred d a op) 6 1 fun x => flag (setH x d t.1) t.2) ∧
      done (.shmov d v) 1 words (fun x => setH x d imm) ∧
      done (.shadd d a v) 1 words (fun x => setH x d (BitVec.ofNat 32 (r.h[a].toNat + imm.toNat))) ∧
      done (.shmul d a b) 1 1 (fun x => flag (setH x d (fMul r.h[a] r.h[b]).1) (fMul r.h[a] r.h[b]).2) ∧
      (let e (k : Fin 64) : W32 × W32 := r.cand.getD (r.h[a].toNat + idx.toNat + k.val) (0xFF800000, 0xFFFFFFFF)
       done (.sld d a idx) 2 1 fun x => setW (setW x d fun k => (e k).1) (d + 1) fun k => (e k).2) ∧
      (r.phase = .block → r.h[b].toNat ≤ 64 → done (.scst a b) 2 1 fun x =>
        ((r.w[a].toList.zip r.w[a + 1].toList).take r.h[b].toNat).foldl (fun y e => y.append1 e.1 e.2) x) ∧
      done (.spsort a) (16 * rows) 1 (fun x => { x with cand := bestOf r.cand r.h[a].toNat }) ∧
      (let ws := r.cand.map fun e => massOf e.1 r.mx
       done (.ssoft d) (4 * rows) 1 fun x => setH (flag { x with cand := (ws.map (·.1)).zip (r.cand.map (·.2)) } (ws.foldl (fun y e => y.or e.2) {})) d (if r.cand = [] then 0 else r.sm)) ∧
      (let cs := prefixSums 0 (r.cand.map (·.1))
       done (.scsum d) rows 1 fun x => setH (flag { x with cand := (cs.map (·.1)).zip (r.cand.map (·.2)) } (cs.foldl (fun y e => y.or e.2) {})) d ((cs.getLast?.map (·.1)).getD 0)) ∧
      (r.cand ≠ [] → ∀ cut : Bool, let i := drawIndex r.cand r.h[a] r.h[b] cut
        done (if cut then .sdrawCut d a b else .sdrawDraw d a b) (2 + rows) 1 fun x =>
          flag (setH { x with cand := if cut then r.cand.take (i.1 + 1) else r.cand } d (BitVec.ofNat 32 i.1)) { nv := i.2 }) ∧
      (r.usesLeft g ≠ 0 → let y := cross r.sc.key (r.g[g] + 1)
        done (.sgen d g mode) 2 1 fun x => setH { x with g := r.g.set g (r.g[g] + 1) } d (if mode = 0 then drawOf y else y)) ∧
      (n.toNat ≤ r.usesLeft g →
        let p (j : Nat) : Ex := fp32.decode (r.w[a].toList.getD j 0).toNat
        let q (j : Nat) : Ex := fp32.decode (r.w[b].toList.getD j 0).toNat
        let u (j : Nat) : Ex := fp32.decode (drawOf (cross r.sc.key (r.g[g] + BitVec.ofNat 64 (j + 1)))).toNat
        let bad (j : Nat) : Prop := (p j).isNan = true ∨ (q j).isNan = true ∨ (p j).lt (.zero false) = true ∨ (q j).lt (.zero false) = true ∨ (p j = .inf false ∧ q j = .inf false)
        let good (j : Nat) : Prop := ¬ bad j ∧ q j ≠ .inf false ∧ (p j = .inf false ∨ ((u j).mul (q j)).1.lt (p j) = true)
        overdrawn (.saccept d a b n g) (2 * n.toNat) ∧ ∀ (k : Nat) (nan : Bool), k ≤ n.toNat → (∀ j, j < k → good j) → (k < n.toNat → ¬ good k) → (nan = true ↔ k < n.toNat ∧ bad k) →
          done (.saccept d a b n g) (2 * n.toNat) 1 fun x =>
            { setH (flag { x with g := r.g.set g (r.g[g] + BitVec.ofNat 64 (min n.toNat (k + 1))) } { nv := nan }) d (BitVec.ofNat 32 k) with accepted := BitVec.ofNat 32 k }) ∧
      (r.upd.length < 8 → done (.stbw a b table) 1 1 fun x => { x with upd := r.upd ++ [{ bias := table == 1, id := r.h[a], val := r.h[b] }] }) ∧
      (r.h[a] = 0 → done (.sbnz a disp) 1 1 id) ∧
      (r.h[a] ≠ 0 → jump (.sbnz a disp) disp.toInt) ∧
      jump (.sjmp disp) disp.toInt ∧
      (∀ i ∈ [Instr.stbl d a table, .smask d a], overdrawn i 8) ∧ (∀ i ∈ [Instr.sendToken a, .sendCount a, .sendBlock a, .sendNone a], overdrawn i 1)) ∧
   (∀ (s : State) (r : SampRun) (d a : Fin 16) (table : Fin 2) (keys : Nat → Nat) (mts : Nat → MType) (uses : Nat → Option ObjUse),
      let m := s.mach
      let cl := clusterFin s.cur.core
      let x := s.sampUnit
      let id (k : Fin 64) : Nat := r.w[a][k].toNat
      let present (p : W64) (k : Fin 64) : Bool := p != 0 && decide (r.sc.tbase ≤ id k) && decide (id k < r.sc.tbase + r.sc.tlen)
      let reads (p : W64) (n : Nat) (off : Nat → Nat) : Prop := ∀ k : Fin 64, present p k = true → ∃ q,
        ptrAdd p ((off (id k - r.sc.tbase) : Nat) : Int) = .ok q ∧ ptrOff q % n = 0 ∧ place m r.asker q n .read = .ok (.store (keys k.val) (mts k.val) (uses k.val)) ∧
        memPoisoned m.mem (locOf (keys k.val)) = false
      let runs (i : Instr) (p : State → SampRun → Prop) : Prop := ∃ t z, exec i s = .next t ∧ t.mach.samp.units[cl].run = some z ∧ t.mach.cores = m.cores ∧ p t z
      s.issues r 8 →
      (let p := if table = 0 then r.sc.tcount else r.sc.tbias
       reads p 4 (fun k => 4 * k) → runs (.stbl d a table) fun t z => t.mach.mem = m.mem ∧ z.pc = r.pc + 1 ∧ z.cand = r.cand ∧ z.h = r.h ∧ (∀ e, e ≠ d → z.w[e] = r.w[e]) ∧
         ∀ k : Fin 64, z.w[d][k] = if present p k then (let y := memNat m.mem (keys k.val) 4
           if table = 0 then (round32Fl (.ofInt y) false).1 else BitVec.ofNat 32 y) else 0) ∧
      (reads r.sc.tmask 1 (fun k => k / 8) → runs (.smask d a) fun t z => t.mach.mem = m.mem ∧ z.pc = r.pc + 1 ∧ z.cand = r.cand ∧ z.h = r.h ∧ (∀ e, e ≠ d → z.w[e] = r.w[e]) ∧
         ∀ k : Fin 64, z.w[d][k] = if present r.sc.tmask k && !(memNat m.mem (keys k.val) 1).testBit ((id k - r.sc.tbase) % 8) then 0xFF800000 else r.w[d][k]) ∧
      (r.phase = .final → r.job.desc.shard = false → r.done = 0 → ∀ (count : Bool) e sc (us : List (TabUpdate × W64 × Nat)), r.cand[r.h[a].toNat]? = some e →
        (r.job.idx, sc) ∈ x.ctxs → r.updates e.2 count = us.map (fun u => (u.1, .ok u.2.1)) → memWf m.mem = true →
        (∀ u ∈ us, ptrOff u.2.1 % 4 = 0 ∧ memPoisoned m.mem (locOf u.2.2) = false ∧ ∃ mt use, ∀ mem : Mem, mem.empt = m.mem.empt → mem.pois = m.mem.pois →
          (∀ p, (∀ v ∈ us, p < v.2.2 ∨ v.2.2 + 4 ≤ p) → memByte mem p = memByte m.mem p) →
          place { m with mem := mem } r.asker u.2.1 4 .atomic = .ok (.store u.2.2 mt use)) →
        let absent (u : TabUpdate) : Bool := (r.sc.entry (if u.bias then .bias else .count) u.id).isNone
        let updated := us.foldl (fun (y : Mem × SampFlags) u =>
          let old := BitVec.ofNat 32 (memNat y.1 u.2.2 4)
          let new : W32 × FpFlags := if u.1.bias then fAdd old u.1.val
            else (BitVec.ofNat 32 (min (old.toNat + u.1.val.toNat) (2 ^ 32 - 1)), { sat := decide (2 ^ 32 ≤ old.toNat + u.1.val.toNat) })
          (memSetBytes y.1 u.2.2 (leBytes new.1.toNat 4), y.2.raise new.2)) (m.mem, r.flags)
        runs (if count then .sendCount a else .sendToken a) fun t z =>
          z.phase = .ended (if r.fell then 1 else 0) 0 e.2 ∧ (∀ p, memByte t.mach.mem p = memByte updated.1 p) ∧
          z.flags = updated.2.raise { nv := r.upd.any absent || (count && r.uncovered e.2 && (r.sc.entry .count e.2).isNone) } ∧
          (r.job.idx, { sc with ctr := sc.ctr + 1 }) ∈ t.mach.samp.units[cl].ctxs) ∧
      (r.phase = .block →
        (r.seg < r.job.desc.segs.length → runs (.sendBlock a) fun t z => z = { r.charged 1 with phase := .load, held := false } ∧ t.mach.mem = m.mem) ∧
        (r.job.desc.segs.length ≤ r.seg → r.job.desc.shard = false → runs (.sendBlock a) fun t z =>
          z = { r.charged 1 with phase := if r.fell then .exhausted true else .ready, held := false } ∧ t.mach.mem = m.mem)) ∧
      (r.phase = .final → r.job.desc.shard = false → runs (.sendNone a) fun t z => z.phase = .ended 2 0 0xFFFFFFFF ∧ z.upd = [] ∧ t.mach.mem = m.mem))

/-- R226, R246 to R251: `sample` with a valid descriptor joins its sampler's queue and goes on, and a descriptor that fails a check traps; `sbind` waits, in order of arrival, for
the earlier operations on its context, and then reads the context back, binds it or unbinds it, or traps with A as its fault address. A trap of `sbind` takes it out of the queue.

Of the model, not of the spec alone: log entries 34 and 36. -/
def Obligations.SamplesAreQueuedAndContextsBound : Prop :=
  ∀ (s : State) (a b : Src),
    let c := s.cur.core
    let cl := clusterFin c
    let m := s.mach
    let w := 1 + litWords [a, b]
    let npc := s.ctl.pc + BitVec.ofNat 18 w
    let p := (s.val a).toNat
    let v := (s.val b).toNat
    let idx := v % 1024
    let x := m.samp.units[cl]
    let at_ := spmKey c p
    let cleanIn (m1 : Mach) : Prop := ∀ i, i < 16 → memPoisoned m1.mem (at_ + 8 * i) = false
    let refuses (i : Instr) (m1 : Mach) (cls : TrapClass) (addr : W64) : Prop := exec i s = .next { s with mach := m1.takeTrap c npc { cls := cls, addr := addr } }
    let m0 := m.onSamp cl fun y => { y with binds := y.binds.filter fun z => z.core != c }
    let id := ((x.binds.find? fun y => y.core == c).map (·.id)).getD m.nextOp
    let turn := ∀ j ∈ x.jobs, j.idx = idx → id ≤ j.id
    let free := ∀ y ∈ x.ctxs, y.1 = idx → y.2.owner = s.ctl.ctxid
    let image := ctxImage ((x.ctxs.find? fun y => y.1 == idx).map (·.2))
    s.cleanSrcs [a, b] → s.fits w →
    (1024 ≤ v → refuses (.sample a b) m .shape 0) ∧
    (v < 1024 → (p % 64 ≠ 0 → refuses (.sample a b) m .align 0) ∧ (p % 64 = 0 → 2 ^ 20 < p + 128 → refuses (.sample a b) m .perm 0) ∧
      (p % 64 = 0 → p + 128 ≤ 2 ^ 20 → let m1 := m.flushRun c .control at_ 128
        let img := memNat m1.mem at_ 128
        let d := parseSample img
        (∀ i, i < 16 → memPoisoned m1.mem (at_ + 8 * i) = true → (∀ j, j < i → memPoisoned m1.mem (at_ + 8 * j) = false) →
          refuses (.sample a b) m .poison (s.val a + BitVec.ofNat 64 (8 * i))) ∧
        (cleanIn m1 → (∀ cls, m1.checkSample c s.ctl.ctxid img d = some cls → refuses (.sample a b) m cls 0) ∧
          (m1.checkSample c s.ctl.ctxid img d = none →
            (4 ≤ (x.jobs.filter fun j => j.core == c).length → exec (.sample a b) s = .next s) ∧
            ((x.jobs.filter fun j => j.core == c).length < 4 → ∃ t, exec (.sample a b) s = .next t ∧
              t.mach.mem = (m1.flushClasses c .control d.cmask).mem ∧
              t.mach.samp.units[cl].queue = x.queue ++ [{ id := m.nextOp, core := c, ctx := s.ctl.ctxid, idx := v, desc := d, second := d.shard && x.jobs.any fun j => j.desc.shard && j.desc.coll == d.coll }] ∧
              t.mach.samp.units[cl].run = x.run ∧ (t.core c).forked = (s.core c).forked ++ [m.nextOp] ∧
              t.ctl = { s.ctl with armed := attachArmed 6 m.nextOp s.ctl.armed, pc := npc, wait := none }))))) ∧
    (p % 64 ≠ 0 → refuses (.sbind a b) m .align (s.val a)) ∧
    (p % 64 = 0 → 2 ^ 20 < p + 128 → refuses (.sbind a b) m .perm (s.val a)) ∧
    (p % 64 = 0 → p + 128 ≤ 2 ^ 20 →
      ((2 ^ 32 ≤ v ∨ bits v 30 10 ≠ 0) → refuses (.sbind a b) m .shape (s.val a)) ∧
      (v < 2 ^ 32 → bits v 30 10 = 0 →
        (¬ turn → ∃ t, exec (.sbind a b) s = .next t ∧ t.ctl = s.ctl ∧ t.mach.mem = m.mem ∧
          t.mach.samp.units[cl].binds = (if x.binds.any fun y => y.core == c then x.binds else x.binds ++ [{ id := m.nextOp, core := c, idx := idx }])) ∧
        (turn → ¬ free → (∀ y ∈ x.ctxs, ∀ z ∈ x.ctxs, y.1 = z.1 → y = z) → refuses (.sbind a b) m0 .perm (s.val a)) ∧
        (turn → free →
          (v.testBit 31 = true → ∃ t, exec (.sbind a b) s = .next t ∧ t.mach.mem = m.mem ∧ t.mach.samp.units[cl].ctxs = x.ctxs ∧
            t.mach.samp.units[cl].binds = x.binds.filter (fun y => y.core != c) ∧
            t.mach.pend = m.pend ++ (List.range 16).map (fun i => .store { core := c, strand := .control, addr := spmKey c (p + 8 * i), data := wholeBytes ((image.drop (8 * i)).take 8), clears := true, cls := 0, rel := false, near := false, mtype := .normal, use := none, shown := false }) ∧
            t.ctl.pc = npc ∧ t.ctl.x = s.ctl.x) ∧
          (v.testBit 31 = false → let m1 := m0.flushRun c .control at_ 128
            (¬ cleanIn m1 → refuses (.sbind a b) m0 .poison (s.val a)) ∧
            (cleanIn m1 → let img := memNat m1.mem at_ 128
              let y := parseCtx s.ctl.ctxid img
              (y.plen ≠ 0 → badCtx img = true → refuses (.sbind a b) m1 .shape (s.val a)) ∧
              ((y.plen = 0 ∨ badCtx img = false) → ∃ t, exec (.sbind a b) s = .next t ∧ t.mach.mem = m1.mem ∧ t.ctl.pc = npc ∧ t.ctl.x = s.ctl.x ∧
                t.mach.samp.units[cl].ctxs = x.ctxs.filter (fun z => z.1 != idx) ++ (if y.plen = 0 then [] else [(idx, y)]) ∧
                t.mach.samp.units[cl].binds = x.binds.filter (fun y => y.core != c) ∧
                (∀ e, e ≠ cl → t.mach.samp.units[e] = m.samp.units[e])))))))

/-- R230 to R234, R248, R249: an operation is accepted with its context's registers, takes a block of logits at a time, reaches its final phase, may draw without its program when its
budget is out and its context allows it, and ends by writing its record, then its semaphore and its event.

The fallback emits its token: its count is incremented, where the context counts it, and CTR advances.

Of the model, not of the spec alone: log entries 32 and 34. -/
def Obligations.SamplingOperationsRunToTheirRecord : Prop :=
  ∀ (s : State) (cl : Fin 16) (r : SampRun) (j : SampJob) (rest : List SampJob) (sc : SampCtx),
    let m := s.mach
    let x := m.samp.units[cl]
    let runs (t : State) (z : SampRun) : Prop := t.mach.samp.units[cl].run = some z ∧ t.mach.mem = m.mem ∧ t.mach.cores = m.cores
    (x.run = none → x.queue = j :: rest → (∀ y ∈ x.binds, y.idx = j.idx → j.id ≤ y.id) →
      (x.ctxs.find? (fun y => y.1 == j.idx) = none → ∃ t z, exec (.sampleAccept cl) s = .next t ∧ runs t z ∧ t.mach.samp.units[cl].queue = rest ∧ z.phase = .ended 4 TrapClass.perm.code.toNat 0xFFFFFFFF) ∧
      (x.ctxs.find? (fun y => y.1 == j.idx) = some (j.idx, sc) →
        (sc.owner ≠ j.ctx → ∃ t z, exec (.sampleAccept cl) s = .next t ∧ runs t z ∧ t.mach.samp.units[cl].queue = rest ∧ z.phase = .ended 4 TrapClass.perm.code.toNat 0xFFFFFFFF) ∧
        (sc.owner = j.ctx → j.desc.shard = true → m.group ≤ j.desc.rootpkg.toNat →
          ∃ t z, exec (.sampleAccept cl) s = .next t ∧ runs t z ∧ t.mach.samp.units[cl].queue = rest ∧ z.phase = .ended 4 TrapClass.perm.code.toNat 0xFFFFFFFF) ∧
        (sc.owner = j.ctx → j.desc.shard = true → j.desc.rootpkg.toNat < m.group → (j.second = true ∨ ∃ f ∈ x.finished, f.1 = j.desc.coll) →
          ∃ t z, exec (.sampleAccept cl) s = .next t ∧ runs t z ∧ t.mach.samp.units[cl].queue = rest ∧ z.phase = .ended 4 TrapClass.shape.code.toNat 0xFFFFFFFF) ∧
        (sc.owner = j.ctx → (j.desc.shard = true → j.desc.rootpkg.toNat < m.group ∧ j.second = false ∧ (∀ f ∈ x.finished, f.1 ≠ j.desc.coll) ∧ m.isRoot cl j.desc = false) →
          (∀ key, j.desc.auxaddr ≠ 0 → m.ownRunKey j.core j.ctx j.desc.auxaddr 512 = some key → (∃ i, i < 64 ∧ memPoisoned m.mem (key + 8 * i) = true) →
            ∃ t z, exec (.sampleAccept cl) s = .next t ∧ runs t z ∧ t.mach.samp.units[cl].queue = rest ∧ z.phase = .ended 4 TrapClass.poison.code.toNat 0xFFFFFFFF) ∧
          ((j.desc.auxaddr ≠ 0 → ∃ key, m.ownRunKey j.core j.ctx j.desc.auxaddr 512 = some key ∧ ∀ i, i < 64 → memPoisoned m.mem (key + 8 * i) = false) →
            ∃ t z, exec (.sampleAccept cl) s = .next t ∧ runs t z ∧ t.mach.samp.units[cl].queue = rest ∧
            z.job = j ∧ z.sc = sc ∧ z.start = m.scyc ∧ z.cand = [] ∧ z.mx = 0xFF800000 ∧ z.sm = 0 ∧ z.charge = 0 ∧ z.phase = .load ∧ z.upd = [] ∧
            (∀ i : Fin 16, z.h[i] = if h : 8 ≤ i.val then sc.params[i.val - 8]'(by omega) else 0) ∧ (∀ i : Fin 4, z.g[i] = sc.ctr * 256 + BitVec.ofNat 64 (64 * i.val)) ∧
            (∀ i : Fin 14, ∀ k : Fin 64, z.w[i.val][k] = 0) ∧
            (j.desc.auxaddr = 0 → ∀ k : Fin 64, z.w[(14 : Fin 16)][k] = 0 ∧ z.w[(15 : Fin 16)][k] = 0) ∧
            (∀ key, j.desc.auxaddr ≠ 0 → m.ownRunKey j.core j.ctx j.desc.auxaddr 512 = some key → ∀ k : Fin 64,
              z.w[(14 : Fin 16)][k].toNat = memNat m.mem (key + 4 * k) 4 ∧ z.w[(15 : Fin 16)][k].toNat = memNat m.mem (key + 256 + 4 * k) 4))))) ∧
    (x.run = some r → r.phase = .load → ∀ g r1 l bad, r.job.desc.segs[r.seg]? = some g → m.nextBlock r = some (r1, l, bad) →
      (bad = false → ∃ t z, exec (.samplerBlock cl) s = .next t ∧ runs t z ∧ z.phase = .block ∧ z.pc = 0 ∧ z.h[(0 : Fin 16)] = BitVec.ofNat 32 (min 64 (g.count - r.off)) ∧
        z.h[(1 : Fin 16)] = BitVec.ofNat 32 r.blk ∧ z.cand = r.cand ∧ z.blk = r.blk + 1 ∧
        ∀ k : Fin 64, z.w[(0 : Fin 16)][k] = ((l[k.val]?).map (·.1)).getD 0xFF800000 ∧ z.w[(1 : Fin 16)][k] = if k.val < min 64 (g.count - r.off) then BitVec.ofNat 32 (g.id0 + r.off + k.val) else 0xFFFFFFFF) ∧
      (bad = true → ∃ t z, exec (.samplerBlock cl) s = .next t ∧ runs t z ∧ z.phase = .ended 4 TrapClass.poison.code.toNat 0xFFFFFFFF)) ∧
    (x.run = some r → r.phase = .ready → ∃ t z, exec (.samplerFinalPhase cl) s = .next t ∧ runs t z ∧
      z = { r with h := (r.h.set 0 (BitVec.ofNat 32 r.cand.length)).set 1 r.mx, phase := .final, pc := r.sc.final, held := false }) ∧
    (∀ fin, x.run = some r → r.phase = .exhausted fin →
      (r.sc.fb = false → r.fell = false → ∃ t z, exec (.watchdogExhausted cl) s = .next t ∧ runs t z ∧ z.phase = .ended 4 TrapClass.watchdog.code.toNat 0xFFFFFFFF ∧ z.upd = []) ∧
      (∀ r1 r2 tok, r.job.desc.shard = false → r.sc.fb = true → r.done = 0 → m.withoutProgram r = (r1, false) → r1.fallback = some (r2, tok) →
        let emitted (t : State) : Prop := t.mach.cores = m.cores ∧ (∃ z, t.mach.samp.units[cl].run = some z ∧ z.phase = .ended 1 0 tok) ∧
          ∀ i q, (i, q) ∈ x.ctxs → (i, if i = r.job.idx then { q with ctr := q.ctr + 1 } else q) ∈ t.mach.samp.units[cl].ctxs
        (r.sc.entry .count tok = none → ∃ t, exec (.watchdogExhausted cl) s = .next t ∧ emitted t ∧ t.mach.mem = m.mem) ∧
        (∀ p key mt use, r.sc.entry .count tok = some (.ok p) → ptrOff p % 4 = 0 → place m r.asker p 4 .atomic = .ok (.store key mt use) → memPoisoned m.mem (locOf key) = false →
          memWf m.mem = true →
          ∃ t, exec (.watchdogExhausted cl) s = .next t ∧ emitted t ∧ memNat t.mach.mem key 4 = min (2 ^ 32 - 1) (memNat m.mem key 4 + 1) ∧
            ∀ q, (q < key ∨ key + 4 ≤ q) → memByte t.mach.mem q = memByte m.mem q)) ∧
      (∀ r1, r.job.desc.shard = true → fin = false → r.sc.fb = true → m.isRoot cl r.job.desc = false → m.withoutProgram r = (r1, false) →
        ∃ t z, exec (.watchdogExhausted cl) s = .next t ∧ runs t z ∧ z.phase = .sent m.scyc ∧ z.fell = true ∧
          (t.mach.samp.contribs, t.mach.samp.outContribs) = if r.job.desc.rootpkg = m.pkg then (m.samp.contribs ++ [r1.contribution m.pkg cl false], m.samp.outContribs)
            else (m.samp.contribs, m.samp.outContribs ++ [(r.job.desc.rootpkg, r1.contribution m.pkg cl false)]))) ∧
    (∀ outcome code token key, x.run = some r → r.phase = .ended outcome code token → m.ownRunKey r.job.core r.job.ctx r.job.desc.resaddr 16 = some key → key % 8 = 0 → memWf m.mem = true →
      r.status outcome code < 2 ^ 64 →
      ∃ t, exec (.sampleComplete cl) s = .next t ∧ t.mach.samp.units[cl].run = none ∧
        memNat t.mach.mem key 4 = token.toNat ∧ memNat t.mach.mem (key + 4) 4 = r.accepted.toNat ∧ memNat t.mach.mem (key + 8) 8 = r.status outcome code ∧
        (∀ p, (p < key ∨ key + 16 ≤ p) → memByte t.mach.mem p = memByte m.mem p) ∧
        (outcome = 4 → code = TrapClass.illegal.code.toNat → t.mach.samp.units[cl].illegal = some (r.job.id, r.sc.pbase + 4 * r.pc)) ∧
        (t.core r.job.core).forked = (s.core r.job.core).forked.filter (fun i => i != r.job.id) ∧
        t.mach.cores[r.job.core].ctl = (s.core r.job.core).ctl.fireOp 6 r.job.id (BitVec.ofNat 8 outcome) ∧
        (s.core r.job.core).raised (t.core r.job.core) r.job.desc.raise)

/-- R252 to R254: a shard that ends its block phase contributes, with a failure mark where its program failed. A contribution that a root lacks is gathered, the last one brings the merge,
one that comes before its root's operation is held, and one no longer wanted is answered INCOMPLETE; so is every contributor of a root that fails. A token that a root emits goes to
every shard; a shard that waits commits its part of the token that comes, or ends INCOMPLETE; a root, a shard and a held contribution each have their timeout.

Of the model, not of the spec alone: log entries 35 and 37. -/
def Obligations.ShardsAndRootsExchangeAndTimeOut : Prop :=
  ∀ (s : State) (cl a : Fin 16) (g : ShardMsg) (y : ShardReply) (r : SampRun) (k : Nat),
    let m := s.mach
    let x := m.samp.units[cl]
    let took : Mach := if g.src = m.pkg then { m with samp := { m.samp with contribs := m.samp.contribs.erase g } } else m
    let replied (t : State) (l : List ShardMsg) (tok : Option (W32 × Bool)) : Prop :=
      t.mach.samp.replies = m.samp.replies ++ (l.filter fun g => g.src == m.pkg).map (fun g => (g.cl, { coll := g.coll, shard := g.shard, token := tok })) ∧
      t.mach.samp.outReplies = m.samp.outReplies ++ (l.filter fun g => g.src != m.pkg).map (fun g => (g.src, g.cl, { coll := g.coll, shard := g.shard, token := tok }))
    let comes := (g.src = m.pkg ∧ g ∈ m.samp.contribs) ∨ (g.src ≠ m.pkg ∧ g.src.toNat < m.group)
    let unit (f : Sampler → Sampler) : Mach := { took with samp := { took.samp with units := took.samp.units.set cl (f x) } }
    let root (z : SampRun) : Prop := m.isRoot cl z.job.desc = true
    let open_ (z : SampRun) : Prop := z.phase = .load ∨ z.phase = .block ∨ z.phase = .gather ∨ z.phase = .exhausted false
    let ends (t : State) (outcome code : Nat) (token : W32) : Prop :=
      (∃ z, t.mach.samp.units[cl].run = some z ∧ z.phase = .ended outcome code token) ∧ t.mach.mem = m.mem ∧ t.mach.cores = m.cores
    let fails (t : State) (z : SampRun) (outcome code : Nat) : Prop :=
      ends t outcome code 0xFFFFFFFF ∧ replied t z.others none ∧
      t.mach.samp.units[cl].finished = x.finished ++ (if z.missing = [] then [] else [(z.job.desc.coll, z.missing)])
    let gives (t : State) (d : SampDesc) (msg : ShardMsg) : Prop :=
      (t.mach.samp.contribs, t.mach.samp.outContribs) = if d.rootpkg = m.pkg then (m.samp.contribs ++ [msg], m.samp.outContribs)
        else (m.samp.contribs, m.samp.outContribs ++ [(d.rootpkg, msg)])
    let turned (t : State) : Prop := ∀ i q, (i, q) ∈ x.ctxs → (i, if i = r.job.idx then { q with ctr := q.ctr + 1 } else q) ∈ t.mach.samp.units[cl].ctxs
    (r.job.desc.shard = true → clusterFin s.cur.core = cl → s.issues r 1 →
      (r.phase = .block → r.job.desc.segs.length ≤ r.seg →
        let r1 := { r.charged 1 with held := false }
        (¬ root r → ∃ t, exec (.sendBlock a) s = .next t ∧ t.mach.samp.units[cl].run = some { r1 with phase := .sent m.scyc } ∧ gives t r.job.desc (r1.contribution m.pkg cl false)) ∧
        (root r → let r2 := { r1 with phase := .gather, gath := r.gath ++ [r1.contribution m.pkg cl false] }
          ∃ t, exec (.sendBlock a) s = .next t ∧
            t.mach.samp.units[cl].run = some (if r2.missing = [] then { r2.merge with phase := if r.fell then .exhausted true else .ready, held := false } else r2))) ∧
      (root r → r.phase = .final → r.done = 0 → r.upd = [] → ∀ (count : Bool) e, r.cand[r.h[a].toNat]? = some e → (count = true → r.sc.entry .count e.2 = none) →
        ∃ t, exec (if count then .sendCount a else .sendToken a) s = .next t ∧ ends t (if r.fell then 1 else 0) 0 e.2 ∧ replied t r.others (some (e.2, count)) ∧ turned t) ∧
      (root r → r.phase = .final → ∃ t, exec (.sendNone a) s = .next t ∧ fails t r 2 0)) ∧
    (x.run = some r → r.job.desc.shard = true → ¬ root r → ∀ fin, r.phase = .exhausted fin → r.sc.fb = false → r.fell = false →
      ∃ t, exec (.watchdogExhausted cl) s = .next t ∧ ends t 4 TrapClass.watchdog.code.toNat 0xFFFFFFFF ∧ gives t r.job.desc (r.contribution m.pkg cl true)) ∧
    (∀ sc j rest, x.run = none → x.queue = j :: rest → (∀ z ∈ x.binds, z.idx = j.idx → j.id ≤ z.id) → x.ctxs.find? (fun z => z.1 == j.idx) = some (j.idx, sc) → sc.owner = j.ctx →
      m.isRoot cl j.desc = true → m.pkg.toNat < m.group → j.second = false → (∀ f ∈ x.finished, f.1 ≠ j.desc.coll) →
      let got := (x.held.filter fun h => h.2.coll == j.desc.coll).map (·.2)
      let r0 := { j.start sc m.scyc with gath := got }
      let poisoned := j.desc.auxaddr ≠ 0 ∧ ∃ key, m.ownRunKey j.core j.ctx j.desc.auxaddr 512 = some key ∧ ∃ i, i < 64 ∧ memPoisoned m.mem (key + 8 * i) = true
      ∃ t, exec (.sampleAccept cl) s = .next t ∧ t.mach.samp.units[cl].queue = rest ∧ t.mach.samp.units[cl].held = x.held.filter (fun h => h.2.coll != j.desc.coll) ∧
        (poisoned → fails t r0 4 TrapClass.poison.code.toNat) ∧
        (¬ poisoned → (∃ h ∈ got, h.failed = true) → fails t r0 3 0) ∧
        (¬ poisoned → (∀ h ∈ got, h.failed = false) → ∃ z, t.mach.samp.units[cl].run = some z ∧ z.gath = got ∧ z.phase = .load)) ∧
    (comes → g.root = cl →
      (exec (.shardContribution g) s = .next { s with mach := took.rootTakes g }) ∧
      ((∀ z, x.run = some z → ¬ (root z ∧ z.job.desc.coll = g.coll) ∨ ∃ o c tok, z.phase = .ended o c tok) →
        ((∃ f ∈ x.finished, f.1 = g.coll ∧ g.shard ∈ f.2) → ∃ t, exec (.shardContribution g) s = .next t ∧ replied t [g] none ∧ t.mach.samp.units[cl].held = x.held ∧
          ∀ f, f ∈ t.mach.samp.units[cl].finished ↔ f.2 ≠ [] ∧ ∃ f0 ∈ x.finished, f = if f0.1 = g.coll then (f0.1, f0.2.filter (· != g.shard)) else f0) ∧
        ((∀ f ∈ x.finished, f.1 = g.coll → g.shard ∉ f.2) →
          let colls := (x.held.map fun h => h.2.coll).eraseDups
          ((g.coll ∈ colls ∨ colls.length < 16) → exec (.shardContribution g) s = .next { s with mach := unit fun x => { x with held := x.held ++ [(m.scyc, g)] } }) ∧
          (g.coll ∉ colls → 16 ≤ colls.length → ∃ t, exec (.shardContribution g) s = .next t ∧ replied t [g] none ∧ t.mach.samp.units[cl] = x))) ∧
      (x.run = some r → root r → r.job.desc.coll = g.coll →
        ((r.phase = .ready ∨ r.phase = .final ∨ r.phase = .exhausted true ∨ (open_ r ∧ g.shard ∉ r.missing)) →
          ∃ t, exec (.shardContribution g) s = .next t ∧ replied t [g] none ∧ t.mach.samp.units[cl].run = some r) ∧
        (open_ r → g.shard ∈ r.missing → let r1 := { r with gath := r.gath ++ [g] }
          (g.failed = true → ∃ t, exec (.shardContribution g) s = .next t ∧ fails t r1 3 0) ∧
          (g.failed = false → exec (.shardContribution g) s = .next { s with mach := unit fun x => { x with run := some (
            if r.phase = .gather ∧ r1.missing = [] ∧ (∃ h ∈ r.gath, h.shard = r.job.desc.shidx) then { r1.merge with phase := if r.fell then .exhausted true else .ready } else r1) } })))) ∧
    (let l := (List.range r.job.desc.nsh).filterMap (fun i => r.gath.find? fun h => h.shard == i)
     r.merge.cand = l.flatMap (·.cands) ∧
      r.merge.mx = l.foldl (fun b h => if (fp32.decode b.toNat).lt (fp32.decode h.mx.toNat) then h.mx else b) 0xFF800000 ∧
      r.merge.sm = l.foldl (fun b h => if h.mx = 0xFF800000 then b else (fFma h.sm (massOf h.mx r.merge.mx).1 b).1) 0) ∧
    (∀ since, (cl, y) ∈ m.samp.replies → x.run = some r → r.phase = .sent since → r.job.desc.coll = y.coll → r.job.desc.shidx = y.shard → ¬ root r →
      (y.token = none → ∃ t, exec (.shardTokenArrival cl y) s = .next t ∧ ends t 3 0 0xFFFFFFFF ∧ t.mach.samp.replies = m.samp.replies.erase (cl, y) ∧ t.mach.samp.units[cl].ctxs = x.ctxs) ∧
      (∀ tok count (us : List (TabUpdate × W64 × Nat)), y.token = some (tok, count) → r.done = 0 → memWf m.mem = true →
        let counts := count && (r.sc.entry .count tok).isSome
        let landed (t : State) (mem : Mem) : Prop := t.mach.samp.replies = m.samp.replies.erase (cl, y) ∧ turned t ∧ t.mach.cores = m.cores ∧ (∀ p, memByte t.mach.mem p = memByte mem p)
        let absent (u : TabUpdate) : Bool := (r.sc.entry (if u.bias then .bias else .count) u.id).isNone
        (r.updates tok counts = us.map (fun u => (u.1, .ok u.2.1)) →
          (∀ u ∈ us, ptrOff u.2.1 % 4 = 0 ∧ memPoisoned m.mem (locOf u.2.2) = false ∧ ∃ mt use, ∀ mem : Mem, mem.empt = m.mem.empt → mem.pois = m.mem.pois →
            (∀ p, (∀ v ∈ us, p < v.2.2 ∨ v.2.2 + 4 ≤ p) → memByte mem p = memByte m.mem p) →
            place { m with mem := mem } r.asker u.2.1 4 .atomic = .ok (.store u.2.2 mt use)) →
          let updated := us.foldl (fun (z : Mem × SampFlags) u =>
            let old := BitVec.ofNat 32 (memNat z.1 u.2.2 4)
            let new : W32 × FpFlags := if u.1.bias then fAdd old u.1.val
              else (BitVec.ofNat 32 (min (old.toNat + u.1.val.toNat) (2 ^ 32 - 1)), { sat := decide (2 ^ 32 ≤ old.toNat + u.1.val.toNat) })
            (memSetBytes z.1 u.2.2 (leBytes new.1.toNat 4), z.2.raise new.2)) (m.mem, r.flags)
          ∃ t z, exec (.shardTokenArrival cl y) s = .next t ∧ landed t updated.1 ∧ t.mach.samp.units[cl].run = some z ∧ z.phase = .ended (if r.fell then 1 else 0) 0 tok ∧
            z.flags = updated.2.raise { nv := r.upd.any absent }) ∧
        (∀ u f, r.updates tok counts = [(u, .error (.fault f))] → ∃ t z, exec (.shardTokenArrival cl y) s = .next t ∧ landed t m.mem ∧
          t.mach.samp.units[cl].run = some z ∧ z.phase = .ended (if r.fell then 1 else 0) 0 tok ∧ z.flags.nv = true))) ∧
    (x.run = some r → root r → open_ r →
      (r.start + r.job.desc.timeout ≤ m.scyc → ∃ t, exec (.rootTimeout cl) s = .next t ∧ fails t r 3 0) ∧
      (m.scyc < r.start + r.job.desc.timeout → exec (.rootTimeout cl) s = .next s)) ∧
    (∀ since, x.run = some r → ¬ root r → r.phase = .sent since →
      (since + 2 * r.job.desc.timeout ≤ m.scyc → ∃ t, exec (.shardReplyTimeout cl) s = .next t ∧ ends t 3 0 0xFFFFFFFF) ∧
      (m.scyc < since + 2 * r.job.desc.timeout → exec (.shardReplyTimeout cl) s = .next s)) ∧
    (∀ h, x.held[k]? = some h →
      (h.1 + h.2.timeout ≤ m.scyc → ∃ t, exec (.contributionHoldTimeout cl k) s = .next t ∧ t.mach.samp.units[cl].held = x.held.eraseIdx k ∧ t.mach.mem = m.mem ∧ t.mach.cores = m.cores) ∧
      (m.scyc < h.1 + h.2.timeout → exec (.contributionHoldTimeout cl k) s = .next s))

/-! Waits and boundaries (03 R86, R100, R104, 11 R338, R339, R387, 14 R405, R414, R426). -/

/-- R338, R339, R387, R190, R297, R426: a wait in place tries again 8 s-cycles after its last attempt, a woken strand once, and one that found the pool full after 256; an attempt is the
waiting instruction executed. At its budget a wait of the control strand traps FE_EXPIRE, one of a vector strand stops it, and `moor` answers 0; a waiting step halts its strand with
FE_EXPIRE; a held atomic ends with REPLAY_DIV, and the gate performs it when it comes to its strand.

Of the model, not of the spec alone: log entries 2, 6, 20 and 67. -/
def Obligations.WaitsRetryWakeAndExpire : Prop :=
  (∀ (s : State) (c : CoreId) (t : Strand) (i : Instr) (n : Nat) (w : Wait),
    let m := s.mach
    let k := m.cores[c]
    let s1 : State := { s with cur := { core := c, strand := t } }
    let tries (e : Instr) : Prop := ∃ u, exec e s = .next u ∧ exec i s1 = .next u
    m.openWait c t = some w →
      (((t = .control ∧ m.fetch c k.ctl.pc decodeControl = .ok i n ∧ ((∃ d b q, i = .ldwait d b q ∨ i = .ldcons d b q) ∨ (∃ v b q, i = .stfill v b q) ∨ ∃ d a b, i = .moor d a b)) ∨
        (t = .vector ∧ m.fetch c k.vec.pc (decodePrefixed decodeVectorMemory) = .ok i n ∧
          ((∃ q d ly o g, i = .vldwait q d ly o g ∨ i = .vldcons q d ly o g) ∨ ∃ q v ly o g, i = .vstfill q v ly o g))) →
        (w.fe = true → w.moored = false → w.woken = false → w.full = false → w.last + 8 ≤ m.scyc → tries (.waitRetry c t)) ∧
        (w.woken = true → tries (.moorWakeAttempt c t)) ∧
        (w.woken = false → w.moored = true → m.mooredHere c t = false → ∃ u, exec (.moorWakeAttempt c t) s = .next u ∧ exec i { s1 with mach := m.wakeStrand c t } = .next u) ∧
        (w.fe = true → w.moored = false → w.woken = false → w.full = true → w.last + 256 ≤ m.scyc → tries (.moorPoolRetry c t))) ∧
      (w.fe = true → w.woken = false → m.scyc < w.last + 8 → exec (.waitRetry c t) s = .next s ∧ exec (.moorPoolRetry c t) s = .next s) ∧
      (w.woken = false → w.moored = true → m.mooredHere c t = true → exec (.waitRetry c t) s = .next s ∧ exec (.moorWakeAttempt c t) s = .next s) ∧
      (w.expiry = .trap →
        (m.scyc < w.start + w.budget → exec (.feExpire c t) s = .next s) ∧
        (w.start + w.budget ≤ m.scyc → m.mayExpire c t = true →
          (t = .control → exec (.feExpire c t) s = .next { s with mach := m.takeTrap c (k.ctl.pc + BitVec.ofNat 18 w.words) { cls := .feExpire, addr := w.ea } }) ∧
          (t = .vector → exec (.feExpire c t) s = .next { s with mach := m.vecTrap c { cls := .feExpire, addr := w.ea } }))) ∧
      (∀ d, t = .control → w.expiry = .moor d → w.start + w.budget ≤ m.scyc → m.mayExpire c .control = true → k.ctl.pc.toNat + w.words < 2 ^ 18 →
        ∃ u, exec (.moorExpire c) s = .next u ∧ u.mach.cores[c].ctl = { k.ctl.write d (clean 0) with pc := k.ctl.pc + BitVec.ofNat 18 w.words, wait := none } ∧
          (∀ a, m.inList a = false → memByte u.mach.mem a = memByte m.mem a) ∧ u.mach.pend = m.pend ∧ u.cur = s.cur ∧ (∀ e, e ≠ c → u.mach.cores[e] = m.cores[e]) ∧
          ∀ x, x ∈ u.mach.moorings ↔ (x ∈ m.moorings ∧ ¬ (x.pkg = m.pkg ∧ x.core = c ∧ x.strand = .control))) ∧
      (t = .control → w.expiry = .replay →
        (w.start + w.budget ≤ m.scyc → exec (.replayHoldExpire c .control) s = .next { s with mach := m.takeTrap c (k.ctl.pc + BitVec.ofNat 18 w.words) { cls := .replayDiv, addr := w.ea } }) ∧
        (((∃ d b v q, i = .aadd d b v q ∨ i = .axchg d b v q ∨ i = .amin d b v q ∨ i = .amax d b v q ∨ i = .aand d b v q ∨ i = .aor d b v q ∨ i = .axor d b v q ∨
            i = .afadd d b v q ∨ i = .aminn d b v q ∨ i = .amaxn d b v q) ∨ (∃ e b v q, i = .acas e b v q)) →
          m.fetch c k.ctl.pc decodeControl = .ok i n → tries (.gateRelease c .control)))) ∧
  (∀ (s : State) (c : CoreId) (r : RingNo) (f : Fetched),
    let m := s.mach
    let t := strandOfRingNo r
    let k := m.cores[c]
    let ring := k.rings[ringOf t]
    let aw := if t = .copy then copyAwait f.op else matrixAwait f.op
    (k.eng t).fetched = some f →
      (m.scyc < f.at_ + f.budget → exec (.stepWaitExpire c r) s = .next s) ∧
      (t = .copy → m.asksOut c = true → exec (.stepWaitExpire c r) s = .next s) ∧
      (ring.run = true → k.stop = false → f.at_ + f.budget ≤ m.scyc → (t = .copy → m.asksOut c = false) →
        (k.awaitOk t aw = false ∨ (t ≠ .copy ∧ (k.slotsFilled f.op = false ∨ (∃ w n, f.op = .fqrd w n ∧ k.q[inQueue t] = []) ∨
            ((k.eng t).flights = [] ∧ 8 ≤ k.q[outQueue t].length ∧ ((∃ w tag, f.op = .mqwr w tag) ∨ ∃ w, f.op = .mqwrSt w)))) ∨
          (t = .copy ∧ copyStep? f.op ≠ none ∧ ∃ s2, exec f.op { s with cur := { core := c, strand := .copy }, mach := { m with misses := [] } } = .next s2 ∧
            (s2.core c).copy.fetched ≠ none ∧ s2.mach.misses = [])) →
        exec (.stepWaitExpire c r) s = .next { s with mach := m.engFault c t aw (stepSource t f.op) f.words { cls := .feExpire, addr := 0 } })) ∧
  (∀ (s : State) (c : CoreId) (e : FabEntry) (f : Flight),
    let m := s.mach
    m.heldAtom c = some e → (m.cores[c].flight? .copy e.flight) = some f →
      (m.arrives e.msg = true → m.gateHolds c e.msg = false → ∃ u, exec (.gateRelease c .copy) s = .next u ∧ exec (.fabricAtomicHome e.msg) s = .next u) ∧
      (m.scyc < e.start + e.budget → exec (.replayHoldExpire c .copy) s = .next s) ∧
      (e.start + e.budget ≤ m.scyc → m.gateHolds c e.msg = true → f.failed = none → f.got = [] → m.fab.coll? c e.flight = none → ∃ u g, exec (.replayHoldExpire c .copy) s = .next u ∧ u.mach.mem = m.mem ∧
        u.mach.cores[c].flight? .copy e.flight = some g ∧ g.failed = some { cls := .replayDiv, addr := f.far } ∧ g.msgs = f.msgs.filter (fun x => x != e.msg.id) ∧
        u.mach.fab.net = m.fab.net.filter fun x => x.msg.id != e.msg.id))

/-- R86, R104, R174, R405, R409, R414: at a boundary of a control strand at U the oldest asynchronous trap enters the supervisor with the address of the next instruction, the vector strands of
the context that wait start again, and what else is pending is held, an OBJ_MISS left to the pager and a seventeenth ending the task; with no trap due the oldest event goes to UIVEC with
X24 to X30 exchanged. A storage error marks the location, register, lane, row or block, or raises a POISON trap, or ends a sampling operation, and is counted; a swap point exchanges the
shape sets, but of the vector strand not inside a loop body or an instruction already issued.

Of the model, not of the spec alone: log entries 12, 56 and 57. -/
def Obligations.BoundariesDeliverEventsTrapsAndErrors : Prop :=
  (∀ (s : State) (c : CoreId) (e : UEvent) (a : AsyncTrap) (evs : List UEvent) (traps : List AsyncTrap),
    let m := s.mach
    let k := m.cores[c].ctl
    let still (u : State) : Prop := (∀ p, m.inList p = false → memByte u.mach.mem p = memByte m.mem p) ∧ u.mach.pend = m.pend ∧ u.fw = s.fw
    let restarts (d : CoreId) : Bool := decide (m.cores[d].ctl.ctxid = k.ctxid) && m.cores[d].vec.issued && !(m.remotes.any fun r => r.core == d && r.strand == .vector && decide (r.lane < imageLane))
    let ends (u : State) (cls : BitVec 4) : Prop := (∀ p, m.inList p = false → memByte u.mach.mem p = memByte m.mem p) ∧
      ∀ id x, m.cores[c].task = some id → x ∈ m.ferry.tasks → x.id = id → { x with state := .killing, kind := 1, cls := cls } ∈ u.mach.ferry.tasks
    let due := k.held ++ traps.filter fun b => b.trap.cls != .objMiss
    let served := traps.any fun b => b.src == 1 && b.trap.cls == .objMiss
    let runsOn := served && k.vstatStopped && k.vstatClass == TrapClass.objMiss.code
    k.status = .running → m.mayBound c = true → k.sup = false →
      (k.pending = [] → k.events = e :: evs → k.uiEn = true → k.uiActive = false → ∃ u, exec (.userEventDelivery c) s = .next u ∧ still u ∧
        (∀ d, d ≠ c → u.mach.cores[d] = m.cores[d]) ∧ u.mach.cores[c].vec = m.cores[c].vec ∧
        let q := u.mach.cores[c].ctl
        q = { k with x := q.x, sx := q.sx, events := evs, uiCause := e, uiEpc := k.pc, uiActive := true, pc := k.uiVec, wait := none } ∧
        (∀ i : Fin 31, i.val < 24 → q.x[i] = k.x[i]) ∧ (∀ (i : Fin 31) (j : Fin 7), i.val = 24 + j.val → q.x[i] = k.sx[j] ∧ q.sx[j] = k.x[i])) ∧
      ((k.uiEn = false ∨ k.uiActive = true ∨ k.events = [] ∨ k.pending ≠ []) → exec (.userEventDelivery c) s = .next s) ∧
      (k.pending = a :: traps → k.stvecEn = true → due.length ≤ 16 → ∃ u, exec (.asyncTrapDelivery c none) s = .next u ∧ still u ∧
        u.mach.cores[c].ctl =
          { k with pending := [], held := due, sepc := k.pc, snpc := k.pc, causeSrc := a.src, causeAsync := true, causeClass := a.trap.cls.code, sfaddr := a.trap.addr, sup := true,
                   pc := k.stvec, wait := none, vstatStopped := k.vstatStopped && !runsOn,
                   miss := (match a.miss with | some (h, i) => BitVec.ofNat 64 (h * 2 ^ 40 + i % 2 ^ 32) | none => k.miss) } ∧
        (∀ d, d ≠ c → u.mach.cores[d].ctl = m.cores[d].ctl ∧ u.mach.cores[d].vec = if restarts d then { m.cores[d].vec with wait := none, issued := false } else m.cores[d].vec) ∧
        (let v := if restarts c then { m.cores[c].vec with wait := none, issued := false } else m.cores[c].vec
         u.mach.cores[c].vec = if runsOn then { v with status := .running } else v) ∧
        ∀ x ∈ m.misses, (if x.core = some c ∧ (x.h, x.k) ∈ traps.filterMap (·.miss) then { x with core := none } else x) ∈ u.mach.misses) ∧
      (∀ b, k.pending = a :: traps → k.stvecEn = true → due[16]? = some b → ∃ u, exec (.asyncTrapDelivery c none) s = .next u ∧ ends u b.trap.cls.code) ∧
      (k.pending = a :: traps → k.stvecEn = false → ∃ u, exec (.asyncTrapDelivery c none) s = .next u ∧ ends u a.trap.cls.code)) ∧
  (∀ (s : State) (c0 c : CoreId) (loc : Nat) (r : Fin 31) (r7 : Fin 7) (v : Fin 32) (l : Fin 1024) (tile row : Fin 64) (t : Strand) (ad : Fin 2) (q : SeqRec) (b a n : Nat)
      (oq : Fin 4) (vr : VecReg) (cl : Fin 16) (run : SampRun),
    let m := s.mach
    let k := m.cores[c]
    let count (n : W32) : W32 := BitVec.ofNat 32 (min (n.toNat + 1) (2 ^ 32 - 1))
    let errs (e : Ecc) (k1 : Core) : Prop := exec (.asyncTrapDelivery c0 (some e)) s = .next { s with mach := { m with cores := m.cores.set c { k1 with ctl := { k1.ctl with errUnc := count k.ctl.errUnc } } } }
    let poison : AsyncTrap := { src := BitVec.ofNat 3 (strandNo t), trap := { cls := .poison, addr := 0 }, miss := none }
    errs (.register c r) { k with ctl := { k.ctl with x := k.ctl.x.set r { val := 0, tag := 7 } } } ∧
    errs (.shadow c r7) { k with ctl := { k.ctl with sx := k.ctl.sx.set r7 { val := 0, tag := 7 } } } ∧
    errs (.accRow c tile row) { k with acc := k.acc.set tile { k.acc[tile] with pois := k.acc[tile].pois ||| BitVec.ofNat 64 (2 ^ row.val) } } ∧
    (k.ctl.sup = false → errs (.untagged c t) { k with ctl := { k.ctl with pending := k.ctl.pending ++ [poison] } }) ∧
    (k.ctl.sup = true → k.ctl.held.length < 16 → errs (.untagged c t) { k with ctl := { k.ctl with held := k.ctl.held ++ [poison] } }) ∧
    exec (.asyncTrapDelivery c0 (some (.corrected (some c)))) s = .next { s with mach := { m with cores := m.cores.set c { k with ctl := { k.ctl with errCorr := count k.ctl.errCorr } } } } ∧
    exec (.asyncTrapDelivery c0 (some (.corrected none))) s = .next { s with fw := { s.fw with sepkgCorr := count s.fw.sepkgCorr } } ∧
    (∃ u, exec (.asyncTrapDelivery c0 (some (.lane c v l))) s = .next u ∧ (u.mach.cores[c].vec.v[v]).lanes[l].tag = 7 ∧
      (∀ i, i ≠ l → (u.mach.cores[c].vec.v[v]).lanes[i] = (k.vec.v[v]).lanes[i]) ∧ (∀ x, x ≠ v → u.mach.cores[c].vec.v[x] = k.vec.v[x])) ∧
    ((k.vec.oq[oq])[n]? = some (.loaded vr) → ∃ u vr2, exec (.asyncTrapDelivery c0 (some (.image c oq n l))) s = .next u ∧ u.mach.cores[c].vec.oq = k.vec.oq.set oq ((k.vec.oq[oq]).set n (.loaded vr2)) ∧
      vr2.lanes[l].tag = 7 ∧ (∀ i, i ≠ l → vr2.lanes[i] = vr.lanes[i]) ∧ u.mach.mem = m.mem) ∧
    (∃ u, exec (.asyncTrapDelivery c0 (some (.location loc))) s = .next u ∧ memPoisoned u.mach.mem (loc / 8 * 8) = true ∧
      (∀ x, x ≠ loc / 8 * 8 → memPoisoned u.mach.mem x = memPoisoned m.mem x) ∧ (∀ x, memFull u.mach.mem x = memFull m.mem x) ∧ ∀ x, memByte u.mach.mem x = memByte m.mem x) ∧
    ((m.attn[ad]).rec? q.seq = some q → locate q.exts b = some a → ∃ u, exec (.asyncTrapDelivery c0 (some (.block ad q.seq b))) s = .next u ∧ u.mach.mem = m.mem ∧
      (u.mach.attn[ad]).cells = (m.attn[ad]).cells.map (fun x => if x.1 = a then (a, { x.2 with bad := true }) else x) ∧ (u.mach.attn[ad]).recs = (m.attn[ad]).recs ∧
      u.fw.sepkgUnc = count s.fw.sepkgUnc) ∧
    (m.samp.units[cl].run = some run → (∀ o code tok, run.phase ≠ .ended o code tok) → ∃ u z, exec (.asyncTrapDelivery c0 (some (.sampler cl))) s = .next u ∧ u.mach.mem = m.mem ∧
      u.mach.samp.units[cl].run = some z ∧ z.phase = .ended 4 TrapClass.poison.code.toNat 0xFFFFFFFF ∧ u.fw.sepkgUnc = count s.fw.sepkgUnc)) ∧
  (∀ (s : State) (c : CoreId) (e : Engine),
    let k := s.core c
    let t := k.sets[engineNo e]
    let inside := e = .vector ∧ (k.vec.loop.act = true ∨ k.vec.skip = true ∨ k.vec.issued = true)
    (inside → exec (.swapPoint c e) s = .next s) ∧
    (¬ inside →
      exec (.swapPoint c e) s = .next (if t.swap then s.onCore c fun k => { k with sets := k.sets.set (engineNo e) { cur := t.shadow, shadow := t.cur, swap := false } } else s)))

/-! Fabric messages at their homes, and their answers (12 R342 to R354, R365 to R368, 13 R378). -/

/-- R12, R342, R343, R349, R350, R337, R387: a message of at most 4,096 bytes whose locations all translate at its home is performed there and answered once: puts write, a get reads, a strand's
access is the access it names, a mooring joins its context's list in device memory, and an atomic writes its new value and answers the old one. One that fails to translate has no effect and
is answered as failed.

Of the model, not of the spec alone: log entries 12, 37, 38 and 63. -/
def Obligations.FabricMessagesArePerformedAtTheirHome : Prop :=
  ∀ (s : State) (g : FabMsg),
    let m := s.mach
    let arrive := exec (.fabricMessageArrival g) s
    let atomic := exec (.fabricAtomicHome g) s
    let answers (o : Host.Outcome State Fault Refusal) (r : FabReply) (p : State → Prop) : Prop := ∃ u, o = .next u ∧ u.fw = s.fw ∧
      (g.src = m.pkg → ∀ x ∈ u.mach.fab.net, x.msg = g → x.delivered = true ∧ x.reply = some r) ∧ (g.src ≠ m.pkg → u.mach.fab.out = m.fab.out ++ [(g.src, g.id, r)]) ∧ p u
    let still (u : State) : Prop := u.mach.mem = m.mem ∧ u.mach.moorings = m.moorings ∧ u.mach.cores = m.cores
    let kept (u : State) : Prop := ∀ x, m.inList x = false → memByte u.mach.mem x = memByte m.mem x
    let one (p : W64) (op : RemoteOp) (key : Nat) : Prop := g.body = .access p op ∧ m.homeAll g (accessNeeds p op) = .stores [key]
    let clear (keys : List Nat) : Prop := ∀ k ∈ keys, memPoisoned m.mem (k / 8 * 8) = false
    (m.arrives g = false → arrive = .next s ∧ atomic = .next s) ∧
    (4096 < payloadOf g.body → arrive = .next s ∧ atomic = .next s) ∧
    (m.arrives g = true → memWf m.mem = true →
      (∀ ws, g.body = .puts ws →
        let needs := ws.map fun w => (w.ptr, w.bytes.length.max 1, if w.fe = .full ∨ w.fe = .empty then Kind.bitWrite else Kind.write)
        (∀ keys, m.homeAll g needs = .stores keys → answers arrive .landed fun u =>
          u.mach.mem = ((keys.zip ws).foldl (fun m x => m.makeMove { dst := x.1, src := .bytes x.2.bytes x.2.mark, fe := resolveBit x.2.fe x.2.full }) m).mem) ∧
        (m.homeAll g needs = .fail → answers arrive (.failed 3) still)) ∧
      (∀ p n needFull keys, g.body = .get p n needFull → m.homeAll g ((List.range (n / 8)).map fun k => (p + BitVec.ofNat 64 (8 * k), 8, .read)) = .stores keys →
        ((needFull = false ∨ ∀ k ∈ keys, memFull m.mem k = true) →
          answers arrive (.data (keys.map fun k => { data := mem64 m.mem k, full := memFull m.mem k, poison := memPoisoned m.mem k })) still) ∧
        (∀ i key, needFull = true → keys[i]? = some key → memFull m.mem key = false → (∀ j k, j < i → keys[j]? = some k → memFull m.mem k = true) →
          answers arrive (.empty (p + BitVec.ofNat 64 (8 * i))) still)) ∧
      (∀ p n needFull, g.body = .get p n needFull → m.homeAll g ((List.range (n / 8)).map fun k => (p + BitVec.ofNat 64 (8 * k), 8, .read)) = .fail → answers arrive (.failed 3) still) ∧
      (∀ p op, g.body = .access p op → (∀ a v e, op ≠ .atomic a v e) → (∀ n ps, op ≠ .gather n ps) → (∀ es, op ≠ .scatter es) → m.homeAll g (accessNeeds p op) = .fail → answers arrive (.failed 3) still) ∧
      (∀ p n key, one p (.load n) key → answers arrive (.access (if memPoisoned m.mem (key / 8 * 8) then .poisoned else .value (memNat m.mem key n))) still) ∧
      (∀ p data key, one p (.store data) key →
        (memPoisoned m.mem (key / 8 * 8) = true → data.length ≠ 8 → answers arrive (.access .poisoned) still) ∧
        ((memPoisoned m.mem (key / 8 * 8) = false ∨ data.length = 8) → answers arrive (.access (.value 0)) fun u =>
          u.mach.mem = (m.makeMove { dst := key, src := .bytes data (some false), fe := .keep }).mem ∧ u.mach.moorings = m.moorings)) ∧
      (∀ p key, one p .state key → answers arrive (.access (.value (if memFull m.mem (key / 8 * 8) then 1 else 0))) still) ∧
      (∀ p key, one p .wait key → memPoisoned m.mem (key / 8 * 8) = false →
        answers arrive (.access (if memFull m.mem (key / 8 * 8) then .value (memNat m.mem key 8) else .notReady)) still) ∧
      (∀ p key, one p .consume key → key % 8 = 0 → memPoisoned m.mem key = false →
        (memFull m.mem key = true → answers arrive (.access (.value (memNat m.mem key 8))) fun u => memFull u.mach.mem key = false ∧ kept u) ∧
        (memFull m.mem key = false → answers arrive (.access .notReady) still)) ∧
      (∀ p key v, one p (.fill v) key → key % 8 = 0 →
        (memFull m.mem key = true → answers arrive (.access .notReady) still) ∧
        (memFull m.mem key = false → answers arrive (.access (.value 0)) fun u => memFull u.mach.mem key = true ∧ memPoisoned u.mach.mem key = false ∧
          ((∀ i, i < 8 → m.inList (key + i) = false) → memNat u.mach.mem key 8 = v.toNat) ∧
          ∀ x, m.inList x = false → (x < key ∨ key + 8 ≤ x) → memByte u.mach.mem x = memByte m.mem x)) ∧
      (∀ p bias v key, one p (.table bias v) key →
        (memPoisoned m.mem (key / 8 * 8) = true → answers arrive (.access .poisoned) still) ∧
        (memPoisoned m.mem (key / 8 * 8) = false → answers arrive (.access (.value (memNat m.mem key 4))) fun u => u.mach.moorings = m.moorings ∧
          memNat u.mach.mem key 4 = (if bias then (fAdd (BitVec.ofNat 32 (memNat m.mem key 4)) v).1.toNat else min (memNat m.mem key 4 + v.toNat) (2 ^ 32 - 1)) ∧
          ∀ x, (x < key ∨ key + 4 ≤ x) → memByte u.mach.mem x = memByte m.mem x)) ∧
      (∀ p form ps data keys, g.body = .access p (.feWords form ps data) → m.homeAll g (accessNeeds p (.feWords form ps data)) = .stores keys →
        (¬ clear keys → answers arrive (.access .poisoned) still) ∧
        (clear keys → (∃ k ∈ keys, memFull m.mem (k / 8 * 8) = (form == 2)) → answers arrive (.access .notReady) still) ∧
        (clear keys → (∀ k ∈ keys, memFull m.mem (k / 8 * 8) = (form != 2)) → answers arrive (.access (.many (keys.map fun k => memNat m.mem k 8))) fun u =>
          (form = 0 → u.mach.mem = m.mem) ∧ (form = 1 → kept u ∧ ∀ k ∈ keys, memFull u.mach.mem (k / 8 * 8) = false) ∧
          (form = 2 → u.mach.mem = ((keys.zip data).foldl (fun m x => m.makeMove { dst := x.1, src := .bytes x.2 none, fe := .full }) m).mem))) ∧
      (∀ p ns keys, g.body = .access p (.check ns) → m.homeAll g (accessNeeds p (.check ns)) = .stores keys →
        let bare := (keys.zip ns).filter fun x => x.2.2 == .readFull && !memFull m.mem (x.1 / 8 * 8)
        (∀ x rest, bare = x :: rest → answers arrive (.access (.empty x.2.1)) still) ∧
        (bare = [] → answers arrive (.access (if (keys.zip ns).any fun x => x.2.2 == .table && memPoisoned m.mem (x.1 / 8 * 8) then .poisoned else .value 0)) still)) ∧
      (∀ p n ps keys, g.body = .access p (.gather n ps) → m.homeAll g (ps.map fun q => (q, n, .read)) = .stores keys →
        answers arrive (.access (.each (keys.map fun k => if memPoisoned m.mem (k / 8 * 8) then .poisoned else .value (memNat m.mem k n)))) still) ∧
      (∀ p es keys, g.body = .access p (.scatter es) → m.homeAll g (es.map fun e => (e.1, e.2.length, .write)) = .stores keys →
        answers arrive (.access (.each (keys.map fun k => if memPoisoned m.mem (k / 8 * 8) then .poisoned else .value 0))) fun u =>
          (¬ clear keys → u.mach.mem = m.mem) ∧
          (clear keys → u.mach.mem = ((keys.zip es).foldl (fun m x => m.makeMove { dst := x.1, src := .bytes x.2.2 none, fe := .keep }) m).mem)) ∧
      (∀ p want c t key, g.body = .moor p want c t → m.homeAll g [(p, 8, .read)] = .stores [key] →
        let mine := m.moorings.filter (·.ctx == g.ctx)
        let k := moorKey c p
        (memFull m.mem (key / 8 * 8) ≠ want → answers arrive (.access (.value 1)) still) ∧
        (memFull m.mem (key / 8 * 8) = want → (∀ x, m.ctx? g.ctx = some x → x.mlbase + 32768 + 16 * x.pool ≤ hbmEnd → x.pool ≤ mine.length) → answers arrive (.access .notReady) still) ∧
        (∀ x, memFull m.mem (key / 8 * 8) = want → m.ctx? g.ctx = some x → x.mlbase + 32768 + 16 * x.pool ≤ hbmEnd → mine.length < x.pool →
          answers arrive .landed fun u => ∃ idx, idx < x.pool ∧ (∀ e ∈ mine, e.idx ≠ idx) ∧
            u.mach.moorings = m.moorings ++ [{ pkg := g.src, ctx := g.ctx, key := k, core := c, strand := t, wantEmpty := want, idx := idx }] ∧
            let entry := x.mlbase + 32768 + 16 * idx
            let bucket := x.mlbase + 8 * bucketOf k
            let tail := memNat m.mem (bucket + 2) 2
            let first := ∀ e ∈ mine, bucketOf e.key ≠ bucketOf k
            (first ∨ tail ≠ idx → memNat u.mach.mem entry 8 = k.toNat ∧
              memNat u.mach.mem (entry + 8) 8 = 0xFFFF + b2n want * 2 ^ 41 + strandNo t * 2 ^ 42 + c.val * 2 ^ 45 + g.src.toNat * 2 ^ 52) ∧
            (first → memNat u.mach.mem bucket 8 = idx + idx * 2 ^ 16 ∧
              ∀ a, (a < entry ∨ entry + 16 ≤ a) → (a < bucket ∨ bucket + 8 ≤ a) → memByte u.mach.mem a = memByte m.mem a) ∧
            (¬ first → tail < x.pool → memNat u.mach.mem bucket 8 = memNat m.mem bucket 2 + idx * 2 ^ 16 ∧ memNat u.mach.mem (x.mlbase + 32768 + 16 * tail + 8) 2 = idx ∧
              ∀ a, (a < entry ∨ entry + 16 ≤ a) → (a < bucket ∨ bucket + 8 ≤ a) → (a < x.mlbase + 32768 + 16 * tail + 8 ∨ x.mlbase + 32768 + 16 * tail + 10 ≤ a) →
                memByte u.mach.mem a = memByte m.mem a))) ∧
      (∀ c t, g.body = .unmoor c t → answers arrive .landed fun u => kept u ∧
        ∀ x, x ∈ u.mach.moorings ↔ (x ∈ m.moorings ∧ ¬ (x.pkg = g.src ∧ x.core = c ∧ x.strand = t))) ∧
      (∀ p op v e key step, (g.body = .atom p op v e ∧ step = true) ∨ (g.body = .access p (.atomic op v e) ∧ step = false) →
        let n := if op = .fadd then 4 else 8
        let old := memNat m.mem key n
        let watched := m.watched g.ctx (key / 8 * 8)
        (m.homeAt g p n .atomic = .fail → answers atomic (.failed 3) still) ∧
        (m.homeAt g p n .atomic = .store key → memPoisoned m.mem (key / 8 * 8) = true → answers atomic (.access .poisoned) still) ∧
        (m.homeAt g p n .atomic = .store key → memPoisoned m.mem (key / 8 * 8) = false → watched = true → g.src ≠ m.pkg → answers atomic (.failed 3) still) ∧
        (m.homeAt g p n .atomic = .store key → memPoisoned m.mem (key / 8 * 8) = false → watched = true → g.src = m.pkg →
          let gate := m.gate g.ctx (key / 8 * 8) (logId (m.senderCore g) .copy)
          (gate = none → atomic = .next s) ∧
          ∀ m1, gate = some m1 → let before := memNat m1.mem key n
            answers atomic (if step then .old (BitVec.ofNat 64 before) else .access (.value before)) fun u => (∀ x ∈ u.mach.fab.net, x.msg = g → x.start = m.scyc) ∧
              (∀ x, (x < key ∨ key + n ≤ x) → memByte u.mach.mem x = memByte m1.mem x) ∧ u.mach.mem = (m1.atomAt key op v e).1.mem) ∧
        (m.homeAt g p n .atomic = .store key → memPoisoned m.mem (key / 8 * 8) = false → watched = false →
          answers atomic (if step then .old (BitVec.ofNat 64 old) else .access (.value old)) fun u => u.mach.moorings = m.moorings ∧ (∀ x, memFull u.mach.mem x = memFull m.mem x) ∧
            (∀ x, (x < key ∨ key + n ≤ x) → memByte u.mach.mem x = memByte m.mem x) ∧
            let new := memNat u.mach.mem key n
            (op = .add → new = (old + v.toNat) % 2 ^ 64) ∧ (op = .xchg → new = v.toNat) ∧ (op = .fadd → new = (fAdd (BitVec.ofNat 32 old) (v.setWidth 32)).1.toNat) ∧
            (op = .and → new = (BitVec.ofNat 64 old &&& v).toNat) ∧ (op = .or → new = (BitVec.ofNat 64 old ||| v).toNat) ∧ (op = .xor → new = (BitVec.ofNat 64 old ^^^ v).toNat) ∧
            (op = .minn → new = min old v.toNat) ∧ (op = .maxn → new = max old v.toNat) ∧
            (op = .min → new = if (BitVec.ofNat 64 old).toInt ≤ v.toInt then old else v.toNat) ∧ (op = .max → new = if (BitVec.ofNat 64 old).toInt ≤ v.toInt then v.toNat else old) ∧
            (op = .cas → new = if old = e.toNat then v.toNat else old))))

/-- R191, R200, R365 to R368, R383, R450: a row that has arrived is decided against its port by the first case that applies, and answered: without a port it is placed under its object's record;
redirected, stale, squashed, discarded, spilled or failed rows write no element, and a row written sets its tag and is counted. A failed row is logged, or counted in LOST; a spilled one
fills a slot of the ring, marked where it is poisoned, and then TAIL advances. A row whose port table, ring or log lies in a sub-tile that is away waits for the pager. An `epadd` row's
elements are added one at a time, and then it is answered.

Of the model, not of the spec alone: log entries 37, 54 and 78. -/
def Obligations.RowsAreDecidedAtTheirPorts : Prop :=
  ∀ (s : State) (g : FabMsg) (r : RowMsg) (p : Port),
    let m := s.mach
    let done := exec (.rowArrival g) s
    let gen := r.gen.toNat % 128
    let squash := r.gen.getLsbD 7
    let row := r.row.toNat
    let answers (a : FabReply) (q : Mach → Prop) : Prop := ∃ u, done = .next u ∧
      (g.src = m.pkg → ∀ x ∈ u.mach.fab.net, x.msg = g → x.delivered = true ∧ x.reply = some a) ∧ (g.src ≠ m.pkg → u.mach.fab.out = m.fab.out ++ [(g.src, g.id, a)]) ∧ q u.mach
    let still (u : Mach) : Prop := u.mem = m.mem ∧ u.fab.ports = m.fab.ports ∧ u.cores = m.cores
    let only (u : Mach) (m1 : Mem) (ks : List Nat) (n : Nat) : Prop := ∀ x, (∀ k ∈ ks, x < k ∨ k + n ≤ x) → memByte u.mem x = memByte m1 x
    let waits (x : HomeAt) : Prop := (∀ h k, x = .miss h k → done = .next { s with mach := m.pagerMiss p.ctx h k }) ∧ (x = .held → done = .next s)
    let logAt (off : Nat) : HomeAt := m.portAt p p.flog off 8 .write
    let fails (reason : Nat) : Prop :=
      (p.flog = 0 → answers (.failed reason) still) ∧ (p.flog ≠ 0 → waits (logAt 0)) ∧
      (∀ kc kl, p.flog ≠ 0 → logAt 0 = .store kc → logAt 8 = .store kl → kc % 8 = 0 → kl % 8 = 0 →
        let count := memNat m.mem kc 8
        (count < p.fln → waits (logAt (64 + 8 * count))) ∧
        (∀ ke, count < p.fln → logAt (64 + 8 * count) = .store ke → ke % 8 = 0 → ke ≠ kc → answers (.failed reason) fun u =>
          memNat u.mem ke 8 = g.src.toNat * 2 ^ 52 + r.gen.toNat * 2 ^ 44 + reason * 2 ^ 36 + row ∧ memNat u.mem kc 8 = (count + 1) % 2 ^ 64 ∧ only u m.mem [ke, kc] 8 ∧ u.fab.ports = m.fab.ports) ∧
        (p.fln ≤ count → answers (.failed reason) fun u => memNat u.mem kl 8 = (memNat m.mem kl 8 + 1) % 2 ^ 64 ∧ only u m.mem [kl] 8 ∧ u.fab.ports = m.fab.ports))
    let pieces := rowPieces r
    let kind : Kind := if r.add then .atomic else if r.fe then .bitWrite else .write
    let cells (o : ObjRec) : List (W64 × Nat × Kind) := pieces.2.map fun q => (mkPtr r.h.toNat ((row * o.extAt 0 + q.1) * pieces.1), pieces.1, kind)
    let lands (q : Mach → Prop) : Prop := (r.add = false → answers .landed q) ∧ (r.add = true → ∃ u, done = .next u ∧ u.mach.fab.net = m.fab.net ∧ u.mach.fab.out = m.fab.out ∧ q u.mach)
    let counted (u : Mach) : Prop := ∃ q ∈ u.fab.ports, q.ctx = p.ctx ∧ q.h = p.h ∧ q.rcnt = p.rcnt + 1
    (∀ o, objRec? m none g.ctx r.h.toNat = some o →
      ((o.esize ≠ pieces.1 ∨ o.rank < 2 ∨ o.extAt 1 ≤ row ∨ ∃ q ∈ pieces.2, o.extAt 0 ≤ q.1) → m.placeRow g r = .fail) ∧
      (∀ keys, o.esize = pieces.1 → 2 ≤ o.rank → row < o.extAt 1 → (∀ q ∈ pieces.2, q.1 < o.extAt 0) → m.homeAll g (cells o) = .stores keys →
        ∃ m1, m.placeRow g r = .done m1 ∧
          (r.add = false → m1 = (keys.zip pieces.2).foldl (fun m x => m.makeMove { dst := x.1, src := .bytes (wholeBytes x.2.2) (if r.poison then some true else none), fe := if r.fe then .full else .keep }) m) ∧
          (r.add = true → m1.mem = m.mem ∧ ∃ x, m1.fab.adds = m.fab.adds ++ [x] ∧ x.msg = g ∧ x.left = (keys.zip pieces.2).map fun y => (y.1, y.2.2)))) ∧
    (objRec? m none g.ctx r.h.toNat = none → m.placeRow g r = .fail) ∧
    (∀ a, m.fab.adds.find? (fun x => x.msg == g) = some a → g.body = .row r → memWf m.mem = true →
      (a.left = [] → answers .landed fun u => u.mem = m.mem ∧ u.fab.adds = m.fab.adds.erase a) ∧
      (a.left ≠ [] → ∃ u i key data, done = .next u ∧ a.left[i]? = some (key, data) ∧ u.mach.fab.adds = m.fab.adds.map (fun b => if b = a then { b with left := b.left.eraseIdx i } else b) ∧
        u.mach.fab.net = m.fab.net ∧ u.mach.fab.out = m.fab.out ∧
        (r.fe = false → data.length = 4 → memNat u.mach.mem key 4 = (fAdd (BitVec.ofNat 32 (memNat m.mem key 4)) (BitVec.ofNat 32 (leNat data))).1.toNat ∧ only u.mach m.mem [key] 4 ∧
          (r.poison = true → memPoisoned u.mach.mem (key / 8 * 8) = true)))) ∧
    (m.fab.adds.find? (fun x => x.msg == g) = none → m.arrives g = false → done = .next s) ∧
    (m.fab.adds.find? (fun x => x.msg == g) = none → m.arrives g = true → memWf m.mem = true → g.body = .row r →
      (m.fab.port? g.ctx r.h = none →
        (squash = true → answers .landed still) ∧
        (squash = false → (∀ m1, m.placeRow g r = .done m1 → lands fun u => u.mem = m1.mem ∧ u.fab.adds = m1.fab.adds) ∧ (m.placeRow g r = .fail → answers (.failed 1) still) ∧
          (∀ m1, m.placeRow g r = .wait m1 → done = .next { s with mach := m1 }))) ∧
      (m.fab.port? g.ctx r.h = some p →
        (∀ pk h nv, p.redirect = some (pk, h, nv) → r.mv.toNat < nv.toNat → answers (.redirect pk h) still) ∧
        (∀ pk h nv, p.redirect = some (pk, h, nv) → nv.toNat ≤ r.mv.toNat → fails 3) ∧
        (p.redirect = none → r.mv.toNat < p.ver.toNat → fails 3) ∧
        (p.redirect = none → p.ver.toNat ≤ r.mv.toNat →
          let covers := p.tag ≠ 0 ∧ row < p.rows
          let tagAt := m.portAt p p.tag row 1 .write
          (covers → waits tagAt) ∧
          (∀ k, covers → tagAt = .store k →
            let held := (memByte m.mem k).toNat
            (squash = true → (held = 0 ∨ held = gen) → answers .landed fun u => memByte u.mem k = BitVec.ofNat 8 (128 + gen) ∧ only u m.mem [k] 1) ∧
            (squash = true → held ≠ 0 → held ≠ gen → answers .landed still) ∧
            (squash = false → 1 ≤ gen → held = 128 + gen → answers .landed still) ∧
            (∀ m1, squash = false → p.closed = false → m.placeRow g r = .done m1 →
              (1 ≤ gen → held ≠ 128 + gen → lands fun u => memByte u.mem k = BitVec.ofNat 8 gen ∧ only u m1.mem [k] 1 ∧ u.fab.adds = m1.fab.adds ∧ counted u) ∧
              (gen = 0 → lands fun u => u.mem = m1.mem ∧ u.fab.adds = m1.fab.adds ∧ counted u))) ∧
          ((¬ covers ∨ tagAt = .fail) → squash = true → answers .landed still) ∧
          (squash = false → (¬ covers ∨ tagAt = .fail ∨ ∃ k, tagAt = .store k ∧ (gen = 0 ∨ (memByte m.mem k).toNat ≠ 128 + gen)) →
            (p.closed = false → (m.placeRow g r = .fail → fails 1) ∧ (∀ m1, m.placeRow g r = .wait m1 → done = .next { s with mach := m1 })) ∧
            (∀ m1, p.closed = false → (¬ covers ∨ tagAt = .fail) → m.placeRow g r = .done m1 → lands fun u => u.mem = m1.mem ∧ u.fab.adds = m1.fab.adds ∧ counted u) ∧
            (p.closed = true → (p.spill = 0 ∨ p.spn = 0) → fails 2) ∧
            (p.closed = true → p.spill ≠ 0 → p.spn ≠ 0 →
              let ringAt (off : Nat) : HomeAt := m.portAt p p.spill off 8 .write
              let headAt := m.portAt p p.spill 0 8 .read
              waits headAt ∧ (headAt = .fail → fails 2) ∧
              ∀ kh kt, headAt = .store kh → ringAt 8 = .store kt → kh % 8 = 0 → kt % 8 = 0 →
                let tail := memNat m.mem kt 8
                ((tail + 2 ^ 64 - memNat m.mem kh 8) % 2 ^ 64 = p.spn → fails 2) ∧
                ((tail + 2 ^ 64 - memNat m.mem kh 8) % 2 ^ 64 ≠ p.spn →
                  let slot := 64 + 272 * (tail % p.spn)
                  waits (ringAt slot) ∧
                  ∀ ks : Nat → Nat, (∀ i, i < 34 → ringAt (slot + 8 * i) = .store (ks i) ∧ ks i % 8 = 0 ∧ ks i ≠ kt ∧ ∀ j, j < i → ks j ≠ ks i) → r.data.length ≤ 256 → 1 ≤ r.n → r.n ≤ 64 →
                    answers .landed fun u => u.fab.ports = m.fab.ports ∧
                      memNat u.mem (ks 0) 8 = g.src.toNat * 2 ^ 52 + r.gen.toNat * 2 ^ 44 + r.otype.toNat * 2 ^ 40 + (r.n - 1) * 2 ^ 34 + row ∧ memNat u.mem (ks 1) 8 = r.col0 % 2 ^ 64 ∧
                      (∀ i, i < (r.data.length + 7) / 8 → memNat u.mem (ks (2 + i)) 8 = leNat ((r.data.drop (8 * i)).take 8) ∧ memPoisoned u.mem (ks (2 + i)) = r.poison) ∧
                      memNat u.mem kt 8 = (tail + 1) % 2 ^ 64 ∧ only u m.mem (kt :: (List.range (2 + (r.data.length + 7) / 8)).map ks) 8))))))

/-- R304, R306, R343, R344, R351, R354, R365: the answers to the package's own messages. An acknowledged message ends for its step; a failed one, or one whose answer comes after LIMIT, fails the
step with FABRIC and no effect on memory; what a get brings is written as it comes, or, by a step whose writes have an order, once the last has come, in the step's order; a bounced message is
sent again after 64 x 2^min(b,10) s-cycles; a failed row counts in ROWFAIL, and a redirected row is sent once more to its new home. A strand's access takes its answer, or a refusal at LIMIT.

Of the model, not of the spec alone: log entries 37, 39, 40 and 63. -/
def Obligations.FabricAnswersReachTheirSteps : Prop :=
  ∀ (s : State) (e : FabEntry) (f : Flight) (id : Nat),
    let m := s.mach
    let ends (o : Host.Outcome State Fault Refusal) (failed : Option Trap) (p : State → Prop) : Prop :=
      m.fab.coll? e.core e.flight = none → m.cores[e.core].flight? e.strand e.flight = some f → f.got = [] → ∃ u g, o = .next u ∧ u.mach.mem = m.mem ∧ u.mach.moorings = m.moorings ∧
      u.mach.cores[e.core].flight? e.strand e.flight = some g ∧ g.msgs = f.msgs.filter (fun x => x != id) ∧ g.op = f.op ∧ g.failed = failed ∧
      (∀ x ∈ u.mach.fab.net, x.msg.id = id → x.live = false) ∧ p u
    let first (cls : TrapClass) (a : W64) : Option Trap := match f.failed with | some x => some x | none => some { cls := cls, addr := a }
    let limit := max m.fab.fbtmo.toNat 1
    let coll := ∃ k, e.msg.body = .coll k
    let onTime := coll ∨ m.scyc ≤ e.start + limit
    let keeps := (∃ w q a b n, f.op = .tmov2d w q a b n) ∨ (∃ w q a b x y z, f.op = .scat w q a b x y z) ∨ ∃ w q l r x n, f.op = .crstr w q l r x n
    let flight (u : State) (p : Flight → Prop) : Prop := ∃ g, u.mach.cores[e.core].flight? e.strand e.flight = some g ∧ p g
    (m.fab.live? id = some e →
      ((∀ r, e.msg.body ≠ .row r) → (∀ r, m.replyDue e r = false → exec (.fabricReply id r) s = .next s) ∧
        (∀ r, m.replyDue e r = true → ¬ onTime → ends (exec (.fabricReply id r) s) (first .fabric f.far) fun _ => True) ∧
        (onTime → m.replyDue e .bounced = true → ∃ u, exec (.fabricReply id .bounced) s = .next u ∧ u.mach.mem = m.mem ∧ u.mach.cores = m.cores ∧
          ∀ x ∈ u.mach.fab.net, x.msg.id = id → ∃ y ∈ m.fab.net, x = { y with bounces := y.bounces + 1, resendAt := some (m.scyc + 64 * 2 ^ min (y.bounces + 1) 10) }) ∧
        (∀ ws, onTime → e.msg.body = .puts ws → m.replyDue e .landed = true → ends (exec (.fabricReply id .landed) s) f.failed fun _ => True) ∧
        (∀ n, onTime → ¬ coll → m.replyDue e (.failed n) = true → ends (exec (.fabricReply id (.failed n)) s) (first .fabric f.far) fun _ => True) ∧
        (∀ p, onTime → (∃ q n, e.msg.body = .get q n true) → m.replyDue e (.empty p) = true → ends (exec (.fabricReply id (.empty p)) s) (first .feExpire p) fun _ => True) ∧
        (∀ l p full, onTime → e.msg.body = .get p (8 * l.length) full → e.dests.length = l.length → (∀ d ∈ e.dests, ∃ key, d.1 = .loc key) → m.replyDue e (.data l) = true →
          let moves := (e.dests.zip l).filterMap fun x => match x.1.1 with
            | .loc key => some (PendMove.mk key (.bytes (wholeWord x.2.data) (some x.2.poison)) (resolveBit x.1.2 x.2.full))
            | _ => none
          (¬ keeps → full = false → ends (exec (.fabricReply id (.data l)) s) f.failed fun u => flight u fun g => g.moves = f.moves ++ moves) ∧
          ((keeps ∨ full = true) → (∃ x ∈ f.msgs, x ≠ id) → ends (exec (.fabricReply id (.data l)) s) f.failed fun u => flight u fun g =>
            g.moves = f.moves ∧ g.got = (e.dests.zip l).map fun x => (id, x.1.1, x.1.2, x.2))) ∧
        (∀ l p full, onTime → e.msg.body = .get p (8 * l.length) full → m.replyDue e (.data l) = true → (keeps ∨ full = true) → (∀ x ∈ f.msgs, x = id) → f.failed = none →
          m.fab.coll? e.core e.flight = none → m.cores[e.core].flight? e.strand e.flight = some f →
          let all := inOrder (f.got ++ (e.dests.zip l).map fun x => (id, x.1.1, x.1.2, x.2))
          (∀ x ∈ all, ∀ home p, x.1 ≠ .far home p) → ∃ u, exec (.fabricReply id (.data l)) s = .next u ∧ u.mach.mem = m.mem ∧ flight u fun g => g.got = [] ∧ g.msgs = [] ∧
            g.moves = f.moves ++ (all.filterMap fun x => match x.1 with
              | .loc key => some (PendMove.mk key (.bytes (wholeWord x.2.2.data) (some x.2.2.poison)) (resolveBit x.2.1 x.2.2.full))
              | _ => none) ++ wordMoves32 (streamed all)) ∧
        (∀ p op v x old w ly doff oaddr pkg, onTime → e.msg.body = .atom p op v x → f.op = .fatom w op ly doff oaddr pkg → m.replyDue e (.old old) = true →
          ends (exec (.fabricReply id (.old old)) s) f.failed fun u => flight u fun g =>
            g.moves = f.moves ++ [{ dst := spmKey e.core (oaddr.toNat + 8), src := .bytes (wholeWord old) (some false), fe := .keep }]) ∧
        (∀ p op v x, onTime → e.msg.body = .atom p op v x → m.replyDue e (.access .poisoned) = true → ends (exec (.fabricReply id (.access .poisoned)) s) (first .poison f.far) fun _ => True) ∧
        ((m.scyc < e.start + limit ∨ coll ∨ m.heldByGate e = true) → exec (.fabricReplyTimeout id) s = .next s) ∧
        (e.start + limit ≤ m.scyc → ¬ coll → m.heldByGate e = false → ends (exec (.fabricReplyTimeout id) s) (first .fabric f.far) fun _ => True)) ∧
      (∀ r, e.msg.body = .row r →
        let failed : State → Prop := fun u => (u.mach.cores[e.core].eng e.strand).mst.rowfail = countUp (m.cores[e.core].eng e.strand).mst.rowfail 1
        (∀ a, m.replyDue e a = false → exec (.rowAck id a) s = .next s) ∧
        (∀ a, e.start + limit < m.scyc → m.replyDue e a = true → ends (exec (.rowAck id a) s) f.failed failed) ∧
        (m.scyc < e.start + limit → exec (.fabricReplyTimeout id) s = .next s) ∧
        (e.start + limit ≤ m.scyc → ends (exec (.fabricReplyTimeout id) s) f.failed failed) ∧
        (m.scyc ≤ e.start + limit →
          (m.replyDue e .landed = true → ends (exec (.rowAck id .landed) s) f.failed fun u => (u.mach.cores[e.core].eng e.strand).mst = (m.cores[e.core].eng e.strand).mst) ∧
          (∀ n, m.replyDue e (.failed n) = true → ends (exec (.rowAck id (.failed n)) s) f.failed failed) ∧
          (∀ pkg h, m.replyDue e (.redirect pkg h) = true →
            (e.redirected = true → ends (exec (.rowAck id (.redirect pkg h)) s) f.failed failed) ∧
            (e.redirected = false → ∃ u, exec (.rowAck id (.redirect pkg h)) s = .next u ∧ u.mach.mem = m.mem ∧ u.mach.cores = m.cores ∧
              { e with msg := { e.msg with dst := pkg, body := .row { r with h := h } }, delivered := false, reply := none, redirected := true } ∈ u.mach.fab.net)))) ∧
      (∀ t, e.resendAt = some t →
        (m.scyc < t → exec (.bounceResend id) s = .next s) ∧
        (t ≤ m.scyc → ∃ u, exec (.bounceResend id) s = .next u ∧ u.mach.mem = m.mem ∧ u.mach.cores = m.cores ∧ { e with resendAt := none, delivered := false, reply := none } ∈ u.mach.fab.net))) ∧
    (∀ l : List (Nat × MoveDst × FeAct × LocData), ∃ l' : List (Nat × MoveDst × FeAct × LocData), inOrder l = l'.map (·.2) ∧ l'.Pairwise (fun x y => x.1 ≤ y.1) ∧ ∀ n, l'.filter (fun x => x.1 == n) = l.filter fun x => x.1 == n) ∧
    (m.fab.live? id = none →
      let replied (a : Remote → RemoteReply) : Host.Outcome State Fault Refusal :=
        .next { s with mach := { m with remotes := m.remotes.map fun r => if r.id = id ∧ r.reply.isNone then { r with reply := some (if r.start + limit < m.scyc then .refused else a r) } else r } }
      (∀ a, exec (.fabricReply id (.access a)) s = replied fun _ => a) ∧ (∀ n, exec (.fabricReply id (.failed n)) s = replied fun _ => .refused) ∧
      ∀ r, m.remotes.find? (fun x => x.id == id) = some r →
        (m.scyc < r.start + limit → exec (.fabricReplyTimeout id) s = .next s) ∧ (r.start + limit ≤ m.scyc → exec (.fabricReplyTimeout id) s = replied fun _ => .refused))

/-! The ferrymaster (11 R311 to R329, 14 R420 to R424). -/

/-- R314 to R316, R321: tail and control writes obey their fields; the head slot of the queue whose turn it is becomes a task with the next admission order and PRIO as its tokens, or is refused
with a completion object of its reason, or stops its queue with the class of its fault; a waiting ready task gains a token each 65,536 s-cycles, up to 255.

R326 to R328: when the highest-ranked ready task has no place and the cores of a running task of lower tokens would give it one, that task drains, is killed, or stops for its checkpoint, as
its record says; a drain that lasts too long becomes a checkpoint when the task may be checkpointed.

Of the model, not of the spec alone: log entries 42 and 52. -/
def Obligations.QueuesAdmitAndPreemptionFollowsTheRecord : Prop :=
   ((∀ (s : State) (q : Fin 64) (v : W64),
      let m := s.mach
      let x := m.ferry.queues[q]
      let set (y : TaskQueue) : Host.Outcome State Fault Refusal := .next { s with mach := { m with ferry := { m.ferry with queues := m.ferry.queues.set q y } } }
      let size := v.toNat / 256 % 16
      (x.src = true ∨ 2 ^ x.lsize < (v.setWidth 32 - x.head).toNat → exec (.tqtailWrite q v) s = .next s) ∧
      (x.src = false → (v.setWidth 32 - x.head).toNat ≤ 2 ^ x.lsize → exec (.tqtailWrite q v) s = set { x with tail := v.setWidth 32 }) ∧
      exec (.tqctlWrite q v) s = set { x with en := v.getLsbD 31 && decide (4 ≤ size ∧ size ≤ 12), src := v.getLsbD 30, ctx := v.toNat / 2 ^ 16 % 64, lsize := size,
                                              fault := if v.getLsbD 31 = true ∧ 4 ≤ size ∧ size ≤ 12 then 0 else x.fault }) ∧
    (∀ (s : State) (q : Fin 64) (p : W64),
      let m := s.mach
      let f := m.ferry
      let x := f.queues[q]
      let admitTask := exec (.taskAdmission none) s
      (1024 ≤ f.tasks.length → admitTask = .next s) ∧
      (f.tasks.length < 1024 → f.nextQueue = some q → ptrAdd x.base (256 * (x.head.toNat % 2 ^ x.lsize)) = .ok p →
        (∀ bs, m.agentRead x.ctx p 32 s.tick = .ok bs → m.refusal x.ctx bs = none → ∃ u, admitTask = .next u ∧ u.mach.mem = m.mem ∧ u.mach.cores = m.cores ∧
          u.mach.ferry.queues[q] = { x with head := x.head + 1 } ∧ (∀ j, j ≠ q → u.mach.ferry.queues[j] = f.queues[j]) ∧ u.mach.ferry.turnQ = (q.val + 1) % 64 ∧
          u.mach.ferry.nextOrder = f.nextOrder + 1 ∧ u.mach.ferry.tasks.length = f.tasks.length + 1 ∧
          (∃ y ∈ u.mach.ferry.tasks, y.recd = parseTask bs ∧ y.queue = q.val ∧ y.ctx = x.ctx ∧ y.tokens = (parseTask bs).prio ∧ y.order = f.nextOrder ∧ y.cores = [] ∧ y.ckpt = none ∧
            (y.recd.ranges = [] → y.state = .ready) ∧ ((∀ l ∈ f.launched, ¬ (l.queue = q.val ∧ l.slot = x.head)) → y.parent = none)) ∧
          ∀ z ∈ f.tasks, ∃ y ∈ u.mach.ferry.tasks, y.id = z.id ∧ y.order = z.order ∧ y.tokens = z.tokens ∧ y.recd = z.recd ∧ (z.state ≠ .admitted → z.state ≠ .saved → y = z)) ∧
        (∀ t, m.agentRead x.ctx p 32 s.tick = .error (.fault t) → ∃ u, admitTask = .next u ∧ u.mach.mem = m.mem ∧ u.mach.cores = m.cores ∧ u.mach.ferry.tasks = f.tasks ∧
          u.mach.ferry.queues[q] = { x with en := false, fault := t.cls.code } ∧ ∀ j, j ≠ q → u.mach.ferry.queues[j] = f.queues[j]) ∧
        (∀ bs reason done st, m.agentRead x.ctx p 32 s.tick = .ok bs → m.refusal x.ctx bs = some reason → (∀ l ∈ f.launched, ¬ (l.queue = q.val ∧ l.slot = x.head)) →
          (parseTask bs).compl.toNat % 16 = 0 → m.agentPlaces x.ctx (parseTask bs).compl 2 .fill = .ok [some done, some st] → done % 8 = 0 → st % 8 = 0 → done ≠ st → memWf m.mem = true →
          (∀ i, i < 8 → m.inList (done + i) = false ∧ m.inList (st + i) = false) →
          ∃ u, admitTask = .next u ∧ u.mach.ferry.tasks = f.tasks ∧ u.mach.ferry.queues[q] = { x with head := x.head + 1 } ∧
            memNat u.mach.mem st 8 = 3 * 64 + reason % 16 ∧ memNat u.mach.mem done 8 = 1 ∧ memFull u.mach.mem done = true ∧
            ∀ a, m.inList a = false → (a < done ∨ done + 8 ≤ a) → (a < st ∨ st + 8 ≤ a) → memByte u.mach.mem a = memByte m.mem a))) ∧
    (∀ (s : State) (id : Nat),
      let m := s.mach
      exec (.tokenAging id) s = .next { s with mach := { m with ferry := { m.ferry with tasks := m.ferry.tasks.map fun (t : Task) =>
        if t.id = id ∧ t.state = .ready ∧ t.agedAt + 65536 ≤ m.scyc then { t with tokens := if t.tokens < 255 then t.tokens + 1 else t.tokens, agedAt := t.agedAt + 65536 } else t } } })) ∧
   (∀ (s : State) (h t : Task),
      let m := s.mach
      let drains := t.recd.remain * 256 < m.ferry.fmdrain.toNat * 256
      let saves := t.recd.phint.getLsbD 1 = false ∧ (m.freeSlots t.ctx t.slotsNeeded).isSome = true
      let changed (o : Host.Outcome State Fault Refusal) (f : Task → Prop) : Prop := ∃ u, o = .next u ∧ u.mach.mem = m.mem ∧ u.mach.pend = m.pend ∧
        (∀ c, c ∉ t.cores → u.mach.cores[c] = m.cores[c]) ∧ ∃ y ∈ u.mach.ferry.tasks, y.id = t.id ∧ y.cores = t.cores ∧ y.recd = t.recd ∧ y.order = t.order ∧ f y
      let stopped (o : Host.Outcome State Fault Refusal) (f : Task → Prop) : Prop := changed o f ∧ ∀ u, o = .next u → ∀ c ∈ t.cores, u.mach.cores[c] = { m.cores[c] with stop := true }
      let stopsToSave (o : Host.Outcome State Fault Refusal) : Prop := stopped o fun y => y.state = .stopping ∧ ∃ k, y.ckpt = some k ∧ k.slots = t.slotsNeeded ∧ some (k.first - 1) = m.freeSlots t.ctx t.slotsNeeded
      let acts (o : Host.Outcome State Fault Refusal) : Prop :=
        (drains → changed o fun y => y.state = .draining ∧ y.drainAt = m.scyc) ∧
        (¬ drains → t.recd.phint.getLsbD 0 = true → stopped o fun y => y.state = .killing) ∧
        (¬ drains → t.recd.phint.getLsbD 0 = false → saves → stopsToSave o) ∧
        (¬ drains → t.recd.phint.getLsbD 0 = false → ¬ saves → o = .next s)
      (m.topReady = none → exec (.preemptionDecision none) s = .next s) ∧
      (m.topReady = some h → (domainOf m.freeCore h.recd.size).isSome = true → exec (.preemptionDecision none) s = .next s) ∧
      (m.topReady = some h → domainOf m.freeCore h.recd.size = none → (m.ferry.tasks.filter fun x => x.state == .running && !x.cores.isEmpty) = [t] →
        (m.ferry.tasks.all fun x => x.state != .draining && x.state != .stopping && x.state != .killing) = true →
        (h.tokens ≤ t.recd.prio → exec (.preemptionDecision none) s = .next s) ∧
        (t.recd.prio < h.tokens → t.recd.pkg0 = m.pkg.toNat → (domainOf (fun c => m.freeCore c || t.cores.contains c) h.recd.size).isSome = true → acts (exec (.preemptionDecision none) s))) ∧
      (∀ a : Fin 3, m.ferry.tasks.find? (fun x => x.id == t.id && x.recd.pkg0 != m.pkg.toNat && x.state == .running) = some t →
        (a = 0 → changed (exec (.preemptionDecision (some (t.id, a))) s) fun y => y.state = .draining ∧ y.drainAt = m.scyc) ∧
        (a = 1 → stopped (exec (.preemptionDecision (some (t.id, a))) s) fun y => y.state = .killing) ∧
        (a = 2 → saves → stopsToSave (exec (.preemptionDecision (some (t.id, a))) s))) ∧
      (m.ferry.tasks.find? (fun x => x.id == t.id && x.state == .draining) = some t →
        (t.drainAt + 2 * m.ferry.fmdrain.toNat * 256 ≤ m.scyc → saves → stopsToSave (exec (.drainTimeout t.id) s)) ∧
        ((m.scyc < t.drainAt + 2 * m.ferry.fmdrain.toNat * 256 ∨ ¬ saves) → exec (.drainTimeout t.id) s = .next s)))

/-- R321, R322, R24: the highest-ranked ready task is dispatched onto the place it has, or nothing is. Dispatch copies its image to each core's SPM, with bits and marks, and starts the
strands, rings, registers, semaphores, queues and domain as the record says; the other cores stay.

Of the model, not of the spec alone: log entry 42. -/
def Obligations.DispatchSetsEveryCoreOfTheDomain : Prop :=
  ∀ (s : State) (t : Task) (cores : List CoreId) (keys : List (Option Nat)) (sets : Vector EngineSets 4),
    let m := s.mach
    let r := t.recd
    let m1 := cores.foldl (fun m c => m.loadImageTo c keys s.tick) m
    (m.placeTop s.tick = none → exec .taskDispatch s = .next s ∧ exec .restore s = .next s) ∧
    (m.placeTop s.tick = some (t, cores) → t.ckpt = none → cores.Nodup → cores ≠ [] → exec .restore s = .next s ∧
      (m.imagePlaces t.ctx r.image (r.imglen / 8) = .ok keys → imageSets m1.mem (cores.headD 0) r.slimg = some sets →
        ∃ u, exec .taskDispatch s = .next u ∧ u.fw = s.fw ∧ (∀ e, e ∉ cores → u.mach.cores[e] = m.cores[e]) ∧
          (∃ y ∈ u.mach.ferry.tasks, y = { t with state := .running, cores := cores, disp := m.ferry.nextDisp }) ∧ u.mach.ferry.nextDisp = m.ferry.nextDisp + 1 ∧
          ∀ (i : Nat) (c : CoreId), cores[i]? = some c →
            let k := u.mach.cores[c]
            k.task = some t.id ∧ k.ctl.pc = BitVec.ofNat 18 (r.centry / 4) ∧ k.ctl.status = .running ∧ k.ctl.sup = false ∧ k.ctl.ctxid = t.ctx ∧
            k.ctl.x[0] = { val := r.arg0, tag := 0 } ∧ k.ctl.x[1] = { val := r.arg1, tag := 0 } ∧ (∀ j : Fin 31, 2 ≤ j.val → k.ctl.x[j] = { val := 0, tag := 0 }) ∧
            k.ctl.rbud = Vector.replicate 5 64 ∧ k.ctl.mbud = Vector.replicate 5 (BitVec.ofNat 32 (if r.mbud = 0 then 16777216 else r.mbud)) ∧
            k.vec.pc = BitVec.ofNat 18 (r.ventry.toNat % 2 ^ 20 / 4) ∧ k.vec.status = (if r.ventry.getLsbD 31 then .running else .ended) ∧
            k.sets = sets ∧ (r.slimg = 0 → k.sets = Vector.replicate 4 .zero) ∧ k.sm = Vector.replicate 15 0 ∧ k.mx = Vector.replicate 8 false ∧ k.q = Vector.replicate 8 [] ∧ k.bp = r.imglen ∧
            (∀ j : Fin 3, let e := r.rings.getD j.val (0, 0)
              let size := e.1.toNat / 2 ^ 24 % 32
              k.rings[j].run = (e.1.getLsbD 31 && decide (size ≠ 0)) ∧ k.rings[j].halt = false ∧ k.rings[j].base = BitVec.ofNat 20 (e.1.toNat % 2 ^ 20) ∧
                k.rings[j].lsize.toNat = size ∧ k.rings[j].rp = 0 ∧ k.rings[j].wp = e.2) ∧
            k.dom[1].2 = (cores.length, i) ∧ k.dom[3].2 = (r.size * r.npkg, (m.pkg.toNat - r.pkg0) * r.size + i) ∧
            (memWf m.mem = true → r.imglen % 8 = 0 → r.imglen ≤ 2 ^ 20 → (∀ o ∈ keys, ∀ key, o = some key → key % 8 = 0 ∧ key + 8 ≤ spmKey 0 0) →
              (∀ (j : Nat) (key : Nat), keys[j]? = some (some key) → mem64 u.mach.mem (spmKey c (8 * j)) = mem64 m.mem key ∧
                memFull u.mach.mem (spmKey c (8 * j)) = memFull m.mem key ∧ memPoisoned u.mach.mem (spmKey c (8 * j)) = memPoisoned m.mem key) ∧
              (∀ j, r.imglen ≤ 8 * j → 8 * j < 2 ^ 20 → mem64 u.mach.mem (spmKey c (8 * j)) = 0 ∧ memFull u.mach.mem (spmKey c (8 * j)) = true ∧
                memPoisoned u.mach.mem (spmKey c (8 * j)) = false))) ∧
      (∀ e, m.imagePlaces t.ctx r.image (r.imglen / 8) = .error (.fault e) → ∃ u, exec .taskDispatch s = .next u ∧ u.mach.mem = m.mem ∧ u.mach.cores = m.cores ∧
        ∃ y ∈ u.mach.ferry.tasks, y = { t with state := .killing, kind := 1, cls := e.cls.code, cores := [] }) ∧
      (m.imagePlaces t.ctx r.image (r.imglen / 8) = .ok keys → imageSets m1.mem (cores.headD 0) r.slimg = none → ∃ u, exec .taskDispatch s = .next u ∧ u.mach.cores = m.cores ∧
        ∃ y ∈ u.mach.ferry.tasks, y = { t with state := .killing, kind := 1, cls := TrapClass.shape.code, cores := [] }))

/-- R323 to R325, R318, R328, R408: a core's share ends with its control strand and the rings that its task's record gives it; a task whose shares have all ended, and whose packages have all
reported, retires with the first nonzero user code in rank order, a killed one with KIND 10 or with the trap that ended it, and its domain is free; a report of an end by trap stops the task here
too; a retired task without children on any package writes its completion object and leaves the window.

Of the model, not of the spec alone: log entries 42 and 45. -/
def Obligations.TasksEndAndComplete : Prop :=
  (∀ (s : State) (c : CoreId) (id : Nat) (u : BitVec 8),
    let k := s.core c
    let absent (t : Strand) : Prop := ∀ x, s.mach.ferry.tasks.find? (fun x => x.id == id) = some x → (x.recd.rings.getD (ringOf t) (0, 0)).1.toNat / 2 ^ 24 % 32 = 0
    let drained (t : Strand) : Prop := let r := k.rings[ringOf t]; let e := k.eng t; absent t ∨ ((r.halt = true ∨ (r.rp = r.wp ∧ e.fetched = none)) ∧ e.flights = [])
    (k.task = some id → k.ctl.status = .ended u → drained .matrixA → drained .matrixB → drained .copy → k.forked = [] →
      exec (.coreShareEnd c) s = .next (s.onCore c fun k => { k with shareDone := true })) ∧
    (k.task = some id → (k.ctl.status = .running ∨ k.forked ≠ [] ∨ ¬ drained .matrixA ∨ ¬ drained .matrixB ∨ ¬ drained .copy) → exec (.coreShareEnd c) s = .next s) ∧
    (k.task = none → exec (.coreShareEnd c) s = .next s)) ∧
  (∀ (s : State) (t : Task) (far : List (BitVec 16)),
    let m := s.mach
    let find (p : Task → Bool) : Prop := m.ferry.tasks.find? p = some t
    let retires (o : Host.Outcome State Fault Refusal) (user : BitVec 8) (kind : BitVec 2) (cls : BitVec 4) : Prop := ∃ u, o = .next u ∧ u.fw = s.fw ∧
      (∃ y ∈ u.mach.ferry.tasks, y = { t with state := .retired, user := user, kind := kind, cls := cls, cores := [], ckpt := none }) ∧
      (∀ c ∈ t.cores, u.mach.cores[c].task = none ∧ u.mach.cores[c].dom = Vector.replicate 4 (0, 0, 0) ∧ u.mach.cores[c].lease = .free ∧ u.mach.cores[c].stop = false) ∧
      (∀ b ∈ u.mach.barriers, ∀ c ∈ t.cores, c ∉ b.members) ∧ u.mach.attn.map (·.ops) = m.attn.map (·.ops) ∧ u.mach.ctxs = m.ctxs
    let retire := exec (.taskRetire t.id far) s
    let others := if m.local t = true then (if t.recd.pkg0 = m.pkg.toNat then t.recd.npkg - 1 else 1) else t.recd.npkg
    let user (far : List (BitVec 16)) : BitVec 8 :=
      ((t.cores.map (fun (c : CoreId) => match (m.cores[c]).ctl.status with | .ended u => u | _ => (0 : BitVec 8)) ++ far.map fun (r : BitVec 16) => BitVec.ofNat 8 (r.toNat / 256)).find? fun u => u != 0).getD 0
    (find (fun x => x.id == t.id && (x.state == .running || x.state == .draining || (x.state == .ready && !m.local x))) →
      (far.length ≠ others → retire = .next s) ∧
      (far.length = others → (∀ r ∈ far, (r.toNat / 64) % 4 = 0) →
        ((∃ c ∈ t.cores, m.cores[c].shareDone = false) → retire = .next s) ∧
        ((∀ c ∈ t.cores, m.cores[c].shareDone = true) → retires retire (user far) 0 0)) ∧
      (∀ r, far.length = others → far.find? (fun r => (r.toNat / 64) % 4 != 0) = some r →
        ((∀ c ∈ t.cores, m.cores[c].shareDone = true) → retires retire (user far) (BitVec.ofNat 2 (r.toNat / 64)) (BitVec.ofNat 4 r.toNat)) ∧
        (m.local t = true → (∃ c ∈ t.cores, m.cores[c].shareDone = false) → ∃ u, retire = .next u ∧ u.mach.mem = m.mem ∧ (∀ c ∈ t.cores, u.mach.cores[c] = { m.cores[c] with stop := true }) ∧
          ∃ y ∈ u.mach.ferry.tasks, y = { t with state := .killing, kind := BitVec.ofNat 2 (r.toNat / 64), cls := BitVec.ofNat 4 r.toNat }))) ∧
    (find (fun x => x.id == t.id && x.state == .killing) →
      let come := (Config.remoteReports s.tick).take others
      (((∃ c ∈ t.cores, m.coreStopped c = false) ∨ come.length < others) → exec (.taskKill t.id) s = .next s) ∧
      ((∀ c ∈ t.cores, m.coreStopped c = true) → come.length = others → retires (exec (.taskKill t.id) s) (user come) (if t.kind = 1 then 1 else 2) (if t.kind = 1 then t.cls else 0))) ∧
    (∀ done st, find (fun x => x.id == t.id && x.state == .retired && x.children == 0 && (x.recd.npkg == 1 || Config.remoteChildren s.tick == 0)) → t.recd.pkg0 = m.pkg.toNat →
      t.recd.compl.toNat % 16 = 0 →
      m.agentPlaces t.ctx t.recd.compl 2 .fill = .ok [some done, some st] → done % 8 = 0 → st % 8 = 0 → done ≠ st → memWf m.mem = true →
      (∀ i, i < 8 → m.inList (done + i) = false ∧ m.inList (st + i) = false) →
      ∃ u, exec (.taskComplete t.id) s = .next u ∧ memNat u.mach.mem st 8 = t.user.toNat * 256 + t.kind.toNat * 64 + t.cls.toNat ∧ memNat u.mach.mem done 8 = 1 ∧ memFull u.mach.mem done = true ∧
        (∀ a, m.inList a = false → (a < done ∨ done + 8 ≤ a) → (a < st ∨ st + 8 ≤ a) → memByte u.mach.mem a = memByte m.mem a) ∧ (∀ y ∈ u.mach.ferry.tasks, y.id ≠ t.id) ∧
        ∀ z ∈ m.ferry.tasks, z.id ≠ t.id → ∃ y ∈ u.mach.ferry.tasks, y.id = z.id ∧ y.recd = z.recd ∧ y.order = z.order ∧ y.children = if t.parent = some z.id then z.children - 1 else z.children) ∧
    ((∀ x ∈ m.ferry.tasks, x.id = t.id → x.state ≠ .retired ∨ x.children ≠ 0 ∨ (x.recd.npkg ≠ 1 ∧ Config.remoteChildren s.tick ≠ 0)) → exec (.taskComplete t.id) s = .next s))

/-- R328, R420 to R424: once its strands have stopped, a task that is to be checkpointed is saved and is ready again with its tokens reset. Saved are each core's registers, the live spans of
its SPM with bits and marks, the CLM granules its record asks for, and the phase numbers of its domains; the pool takes the task header, an image for each rank, with its magic, rank, length and
CRC, and the granules. A restore puts every register, live span and window back on the new domain and goes on; a re-admission checks the pool in the order of its statuses, and changes nothing
but the status when a check fails.

Of the model, not of the spec alone: log entries 43, 44 and 46. -/
def Obligations.CheckpointsAreSavedRestoredAndReadmitted : Prop :=
  (∀ (s : State) (t : Task) (k : Checkpoint) (x : Context),
    let m := s.mach
    let save := exec (.checkpointSave t.id) s
    let m1 := t.cores.foldl (fun m c => (m.flushAll c .control).flushAll c .vector) m
    let c0 := t.cores.headD 0
    let phase (c : CoreId) (n : Fin 4) : W32 := (m1.barrier c n).phase
    let slot := 2490368
    let a := x.ckpool.toNat / 2 ^ 16 % 2 ^ 24 * 65536 + slot * (k.first - 1)
    let g := t.recd.clmsave
    let n := min g x.clmSize
    let per := (67584 * g + slot - 1) / slot
    let clusters := clustersOf t.cores
    m.ferry.tasks.find? (fun x => x.id == t.id && x.state == .stopping) = some t → t.ckpt = some k → m.ctxs[t.ctx]? = some (some x) →
      ((∃ c ∈ t.cores, m.coreStopped c = false) → save = .next s) ∧
      ((∀ c ∈ t.cores, m.coreStopped c = true) → 1 ≤ k.first → memWf m.mem = true → ∃ u ck, save = .next u ∧
        (∃ y ∈ u.mach.ferry.tasks, y = { t with state := .ready, tokens := t.recd.prio, agedAt := m.scyc, cores := [], ckpt := some ck }) ∧
        (∀ c ∈ t.cores, u.mach.cores[c].task = none ∧ u.mach.cores[c].dom = Vector.replicate 4 (0, 0, 0)) ∧
        ck.first = k.first ∧ ck.slots = k.slots ∧ ck.cores.length = t.cores.length ∧ ck.spm.length = t.cores.length ∧ ck.clm.length = clusters.length ∧
        ck.phases = [phase c0 1, phase c0 2, phase c0 3] ++ t.cores.map (fun c => phase c 0) ∧
        (∀ (i : Nat) (c : CoreId) (j : Core) (spm : Mem), t.cores[i]? = some c → ck.cores[i]? = some j → ck.spm[i]? = some spm →
          let o := m.cores[c]
          j = { o with acc := o.acc.map (fun y => if y.live then y else .zero), reread := none, ctl := { o.ctl with wait := none },
                       vec := { o.vec with wait := none, oq := o.vec.oq.map fun l => l.map fun i => match i with | .loaded r => .arrived r | i => i },
                       smw := Vector.replicate 15 [], lease := .free, leaseLast := true, stop := false, shareDone := false, task := none, dom := Vector.replicate 4 (0, 0, 0) } ∧
          ((∀ z ∈ o.liveSpans, z.1 + z.2 ≤ 2 ^ 20) → ∀ z ∈ o.liveSpans, ∀ b, z.1 ≤ b → b < z.1 + z.2 → memByte spm b = memByte m1.mem (spmKey c b) ∧
            (b % 8 = 0 → memFull spm b = memFull m1.mem (spmKey c b) ∧ memPoisoned spm b = memPoisoned m1.mem (spmKey c b)))) ∧
        (∀ (j cl : Nat) (y : Mem), clusters[j]? = some cl → ck.clm[j]? = some y → ∀ b, b < 65536 * n → memByte y b = memByte m1.mem (clmKey cl (65536 * x.clmBase) + b) ∧
          (b % 8 = 0 → memFull y b = memFull m1.mem (clmKey cl (65536 * x.clmBase) + b) ∧ memPoisoned y b = memPoisoned m1.mem (clmKey cl (65536 * x.clmBase) + b))) ∧
        (t.recd.size = t.cores.length → 3 ≤ t.recd.rings.length → t.recd.ranges.length ≤ 8 → a + slot * (1 + t.recd.size + per * clusters.length) ≤ hbmEnd → (∀ b, a ≤ b → b < a + slot * (1 + t.recd.size + per * clusters.length) → m.inList b = false) →
          (∀ (i : Nat) (j : Core) (spm : Mem), ck.cores[i]? = some j → ck.spm[i]? = some spm → (j.imageBytes spm (ck.phases.getD (3 + i) 0) i).length ≤ slot) →
          let word (o n : Nat) : Nat := memNat u.mach.mem (a + o) n
          word 0 4 = 0x4B5A4348 ∧ word 4 2 = 1 ∧ word 6 2 = t.recd.size % 65536 ∧ word 8 4 = k.first % 2 ^ 32 ∧
          word 12 4 = (phase c0 1).toNat ∧ word 16 4 = (phase c0 2).toNat ∧ word 20 4 = (phase c0 3).toNat ∧
          word 24 4 = (crc32c (memBytes u.mach.mem a 24 ++ memBytes u.mach.mem (a + 28) 484)).toNat ∧ (∀ b, 28 ≤ b → b < 256 → memByte u.mach.mem (a + b) = 0) ∧
          memBytes u.mach.mem (a + 256) 256 = recordBytes t.recd ∧
          (∀ (i : Nat) (j : Core) (spm : Mem), ck.cores[i]? = some j → ck.spm[i]? = some spm → let image := j.imageBytes spm (ck.phases.getD (3 + i) 0) i
            memBytes u.mach.mem (a + slot * (1 + i)) image.length = image) ∧
          (x.clmBase + n ≤ 128 → ∀ (j cl q : Nat), clusters[j]? = some cl → q < n → let at_ := a + slot * (1 + t.recd.size + per * j) + 67584 * q
            let from_ := clmKey cl (65536 * x.clmBase) + 65536 * q
            memBytes u.mach.mem at_ 65536 = memBytes m1.mem from_ 65536 ∧
            ∀ l, l < 8192 → (memByte u.mach.mem (at_ + 65536 + l / 8)).getLsbD (l % 8) = memFull m1.mem (from_ + 8 * l) ∧
              (memByte u.mach.mem (at_ + 66560 + l / 8)).getLsbD (l % 8) = memPoisoned m1.mem (from_ + 8 * l))))) ∧
  (∀ (k k0 : Core) (spm : Mem) (phase : W32) (rank : Nat) (rest : List Byte),
    let image := k.imageBytes spm phase rank
    let f (o : Nat) : Nat := leNat ((image.drop o).take 4)
    image.length < 2 ^ 32 → rank < 2 ^ 32 →
      f 0 = 0x4B5A4349 ∧ f 4 = rank ∧ f 8 = image.length ∧ f 12 = (crc32c (image.drop 64)).toNat ∧ (∀ b ∈ (image.take 64).drop 16, b = 0) ∧
      (image.drop 64).take 235264 = k.registerBytes phase ∧ (image.drop 235328).take 65536 = wordsBytes k.scale.toList ∧
      ((∀ z ∈ k.liveSpans, z.1 % 64 = 0 ∧ z.2 % 64 = 0) → image.length ≤ 2490368 → Config.sectionsRead (k.registerBytes phase) = some (k0, phase) → k0.bp = k.bp → k0.rg = k.rg →
        ∃ spm2, imageOfBytes rank (image ++ rest) = some ({ k0 with scale := k.scale, acc := k.acc.map fun y => if y.live then y else .zero }, spm2, phase) ∧
          ∀ z ∈ k.liveSpans, ∀ b, z.1 ≤ b → b < z.1 + z.2 → memByte spm2 b = memByte spm b ∧ (b % 8 = 0 → memFull spm2 b = memFull spm b ∧ memPoisoned spm2 b = memPoisoned spm b))) ∧
  (∀ (s : State) (t : Task) (cores : List CoreId) (ck : Checkpoint),
    let m := s.mach
    let cx := (m.ctxs[t.ctx]?).getD none
    m.placeTop s.tick = some (t, cores) → t.ckpt = some ck → cores.Nodup → ck.cores.length = cores.length → ck.spm.length = cores.length →
      exec .taskDispatch s = .next s ∧ ∃ u, exec .restore s = .next u ∧ u.fw = s.fw ∧ (∀ e, e ∉ cores → u.mach.cores[e] = m.cores[e]) ∧
        (∃ y ∈ u.mach.ferry.tasks, y = { t with state := .running, cores := cores, disp := m.ferry.nextDisp, ckpt := none }) ∧
        (∀ (i : Nat) (c : CoreId) (j : Core) (spm : Mem), cores[i]? = some c → ck.cores[i]? = some j → ck.spm[i]? = some spm →
          let k := u.mach.cores[c]
          let o := m.cores[c]
          k = { j with ctl := { j.ctl.loadContext t.ctx cx with status := (if j.ctl.status = .stopped then .running else j.ctl.status), errCorr := o.ctl.errCorr, errUnc := o.ctl.errUnc },
                       vec := { j.vec with status := (if j.vec.status = .stopped then .running else j.vec.status) },
                       dom := k.dom, task := some t.id, lcidCore := o.lcidCore, physCluster := o.physCluster, physCore := o.physCore } ∧
          k.ctl.ctxid = t.ctx ∧ k.dom[1].2 = (cores.length, i) ∧
          ((∀ b ∈ m.barriers, c ∉ b.members) → ∀ l : Fin 4, l ≠ 0 → (u.mach.barrier c l).phase = ck.phases.getD (l.val - 1) 0) ∧
          ((∀ b ∈ m.barriers, c ∉ b.members) → (∀ p, p < i → ∀ d, cores[p]? = some d → clusterOf d ≠ clusterOf c) → (u.mach.barrier c 0).phase = ck.phases.getD (3 + i) 0) ∧
          (memWf m.mem = true → (∀ y ∈ ck.spm ++ ck.clm, memWf y = true) → (∀ y ∈ ck.cores, ∀ z ∈ y.liveSpans, z.1 + z.2 ≤ 2 ^ 20) → (∀ y, cx = some y → y.clmBase + min t.recd.clmsave y.clmSize ≤ 128) →
            ∀ z ∈ j.liveSpans, ∀ b, z.1 ≤ b → b < z.1 + z.2 → memByte u.mach.mem (spmKey c b) = memByte spm b ∧
              (b % 8 = 0 → memFull u.mach.mem (spmKey c b) = memFull spm b ∧ memPoisoned u.mach.mem (spmKey c b) = memPoisoned spm b))) ∧
        ∀ (x : Context) (j cl : Nat) (y : Mem), cx = some x → (clustersOf cores)[j]? = some cl → ck.clm[j]? = some y → memWf m.mem = true → (∀ y ∈ ck.spm ++ ck.clm, memWf y = true) →
          let n := min t.recd.clmsave x.clmSize
          (x.clmBase + n ≤ 128 → ∀ b, b < 65536 * n → let at_ := clmKey cl (65536 * x.clmBase) + b
            memByte u.mach.mem at_ = memByte y b ∧ (b % 8 = 0 → memFull u.mach.mem at_ = memFull y b ∧ memPoisoned u.mach.mem at_ = memPoisoned y b))) ∧
  (∀ (s : State) (v : W64),
    let m := s.mach
    let q : Fin 64 := Fin.ofNat 64 (v.toNat % 64)
    let ctx := m.ferry.queues[q].ctx
    let go := exec (.ckrqctlGo v) s
    let refused (n : BitVec 8) : Prop := go = .next { s with fw := { s.fw with ckrqQueue := q, ckrqStatus := n } }
    (v.getLsbD 63 = false → go = .next { s with fw := { s.fw with ckrqQueue := q } }) ∧
    (v.getLsbD 63 = true →
      (m.readPool ctx s.fw.ckrqptr.toNat = none → refused 1) ∧
      (∀ t ck, m.readPool ctx s.fw.ckrqptr.toNat = some (t, ck) →
        let fits := (t.size + 7) / 8 ≤ ((List.range 16).filter fun i => !m.withdrawn.getLsbD i).length
        let present := ((m.ctxs[ctx]?).getD none).isSome = true
        (¬ fits → refused 2) ∧ (fits → ¬ present → refused 3) ∧ (fits → present → 1024 ≤ m.ferry.tasks.length → refused 4) ∧
        (fits → present → m.ferry.tasks.length < 1024 → 1 < t.npkg → refused 5) ∧
        (fits → present → m.ferry.tasks.length < 1024 → t.npkg ≤ 1 → ∃ u, go = .next u ∧ u.fw = { s.fw with ckrqQueue := q, ckrqStatus := 0 } ∧ u.mach.mem = m.mem ∧ u.mach.cores = m.cores ∧
          ∃ y ∈ u.mach.ferry.tasks, y.recd = { t with pkg0 := m.pkg.toNat } ∧ y.ctx = ctx ∧ y.queue = q.val ∧ y.tokens = t.prio ∧ y.order = m.ferry.nextOrder ∧ y.ckpt = some ck ∧ y.parent = none))))

/-! The host port and the management core (01 R16 to R18, R29, R30, 12 R344 to R347, 13 R376, R381, R396 to R402, 14 R428, R429). -/

/-- R346, R347: host writes and reads of BAR 4 touch the data of HBM, DSM and CLM at their offsets and leave the bits; a full/empty byte of 1 or 0 sets the bit alone; an aligned 8-byte write
clears a mark, a narrower one to a poisoned location is dropped, a read is marked where it meets one; other offsets, and the CLM of a withdrawn
cluster, read 0 and drop writes. R37, R345: BAR 2 is the capability list.

R7, R315, R344, R396, R397, R399, R402, R424: writes of BAR 0 registers set what their fields allow, and a read returns what was set. A write of ones clears counts; FWGRANT and NONCE are the host's;
the mailbox is the host's while no image is being verified or runs; a queue's base is fixed while it is enabled; every other offset changes nothing.

Of the model, not of the spec alone: log entries 5, 29 and 47. -/
def Obligations.HostPortReachesStorageAndRegisters : Prop :=
   (∀ (s : State) (off n : Nat) (data : List (BitVec 8)) (v : BitVec 8),
      let m := s.mach
      let write := exec (.hostBar4Write off data) s
      let bit := exec (.hostFeByteWrite off v) s
      let low : Nat := 0x3004000000
      let open_ : Prop := s.fw.boot ≠ .rejected
      let row (a : Nat) : Prop := a < low ∨ ∃ cl : Fin 16, low + 0x800000 * cl.val ≤ a ∧ a < low + 0x800000 * (cl.val + 1) ∧ m.withdrawn.getLsbD cl.val = false
      let covered (l : Nat) : Prop := off ≤ l ∧ l + 8 ≤ off + data.length
      let bitRow (a : Nat) : Prop := 0x4000000000 ≤ a ∧ row (8 * (a - 0x4000000000))
      let loc := 8 * (off - 0x4000000000)
      (s.fw.boot = .rejected → write = .next s ∧ bit = .next s ∧
        exec (.hostBar4Read off n) s = .next { s with fw := { s.fw with hostRead := { bytes := List.replicate n 0, poisoned := false } } }) ∧
      (open_ → memWf m.mem = true →
        ((∀ a, off ≤ a → a < off + data.length → row a) → ∃ u, write = .next u ∧ u.mach.cores = m.cores ∧ u.fw = s.fw ∧ u.mach.pend = m.pend ∧ u.mach.moorings = m.moorings ∧
          (∀ a, memFull u.mach.mem a = memFull m.mem a) ∧
          (∀ i b, data[i]? = some b → let l := (off + i) / 8 * 8; (memPoisoned m.mem l = false ∨ covered l → memByte u.mach.mem (off + i) = b) ∧
            (memPoisoned m.mem l = true → ¬ covered l → memByte u.mach.mem (off + i) = memByte m.mem (off + i))) ∧
          (∀ a, (a < off ∨ off + data.length ≤ a) → memByte u.mach.mem a = memByte m.mem a) ∧
          ∀ l, l % 8 = 0 → (covered l → memPoisoned u.mach.mem l = false) ∧ (¬ covered l → memPoisoned u.mach.mem l = memPoisoned m.mem l)) ∧
        ((∀ a, off ≤ a → a < off + data.length → ¬ row a ∧ ¬ bitRow a) → write = .next s) ∧
        (0x4000000000 ≤ off → exec (.hostBar4Write off [v]) s = bit) ∧
        (∃ r, exec (.hostBar4Read off n) s = .next { s with fw := { s.fw with hostRead := r } } ∧ r.bytes.length = n ∧
          (r.poisoned = true ↔ ∃ i, i < n ∧ row (off + i) ∧ memPoisoned m.mem ((off + i) / 8 * 8) = true) ∧
          ∀ i b, r.bytes[i]? = some b → (row (off + i) → b = memByte m.mem (off + i)) ∧
            (bitRow (off + i) → b = if memFull m.mem (8 * (off + i - 0x4000000000)) then 1 else 0) ∧ (¬ row (off + i) → ¬ bitRow (off + i) → b = 0)) ∧
        (bitRow off → v.toNat ≤ 1 → ∃ u, bit = .next u ∧ u.fw = s.fw ∧ memFull u.mach.mem loc = decide (v = 1) ∧ u.mach.pend = m.pend ∧
          (∀ a, m.inList a = false → memByte u.mach.mem a = memByte m.mem a) ∧ (∀ a, memPoisoned u.mach.mem a = memPoisoned m.mem a) ∧ (∀ a, a ≠ loc → memFull u.mach.mem a = memFull m.mem a) ∧
          (memFull m.mem loc = decide (v = 1) → u.mach.mem = m.mem ∧ u.mach.cores = m.cores ∧ u.mach.moorings = m.moorings) ∧
          (∀ e ∈ u.mach.moorings, e ∈ m.moorings) ∧ ∀ e : CoreId, (u.mach.cores[e].ctl.x, u.mach.cores[e].vec.v, u.mach.cores[e].ctl.pc, u.mach.cores[e].vec.pc) =
            (m.cores[e].ctl.x, m.cores[e].vec.v, m.cores[e].ctl.pc, m.cores[e].vec.pc)) ∧
        (2 ≤ v.toNat → bit = .next s) ∧ (¬ bitRow off → bit = .next s))) ∧
   (∀ (s : State) (off : Nat),
      let m := s.mach
      let ones : Nat := ((List.range 16).map fun i => if m.withdrawn.getLsbD i then 0 else 2 ^ i).sum
      let records : List (Nat × Nat) := [(0, 11), (1, ones + 7 * 2 ^ 16), (2, 0x00C03C00), (2, 0x00C03C01), (3, 0x0400000800400000 + 192), (4, 6 + 16 * 16 + 1024),
        (5, m.ports.toNat + 4096 * 2 ^ 16), (6, 0x0101010101), (7, 15), (8, 3), (9, 0x00401840)]
      (s.fw.boot ≠ .rejected → ∀ (i id data : Nat), records[i]? = some (id, data) →
        s.bar2Read (16 * i) = BitVec.ofNat 64 (id + 2 ^ 16 + (if i = 10 then 0 else 16) * 2 ^ 32) ∧ s.bar2Read (16 * i + 8) = BitVec.ofNat 64 data) ∧
      (s.fw.boot = .rejected ∨ 176 ≤ off → s.bar2Read off = 0)) ∧
   (∀ (s : State) (off : Nat) (v : W64) (fw : Bool) (q : Fin 64) (i : Fin 4),
      let f := s.fw
      let m := s.mach
      let write := exec (.registerWrite off v fw) s
      let reads (w : W64) : Prop := ∃ u, write = .next u ∧ u.mach.mem = m.mem ∧ u.mach.cores = m.cores ∧ u.bar0Read off = w
      let clears (c : BitVec 16) (lo : Nat) : BitVec 16 := c &&& ~~~(BitVec.ofNat 16 (v.toNat / 2 ^ lo))
      (f.boot ≠ .rejected →
        (off = 0x10000 + 32 * q.val → (m.ferry.queues[q].en = false → reads v) ∧ (m.ferry.queues[q].en = true → write = .next s)) ∧
        (off = 0x10800 ∨ off = 0x10810 → reads ((v.setWidth 32).setWidth 64)) ∧
        (off = 0x10C00 → reads v) ∧
        (off = 0x10900 ∨ off = 0x20000 + 8 * i.val → (fw = false → reads v) ∧ (fw = true → write = .next s)) ∧
        (off = 0x10908 → write = .next { s with fw := { f with bvDma := clears f.bvDma 0, bvPower := clears f.bvPower 16, bvRoute := clears f.bvRoute 32, bvData := clears f.bvData 48 } }) ∧
        (off = 0x10C20 → write = .next { s with fw := { f with sepkgCorr := f.sepkgCorr &&& ~~~BitVec.ofNat 32 (v.toNat / 2 ^ 32), sepkgUnc := f.sepkgUnc &&& ~~~(v.setWidth 32) } }) ∧
        (off = 0x10C08 → v.getLsbD 63 = false → write = .next { s with fw := { f with ckrqQueue := Fin.ofNat 64 (v.toNat % 64) } }) ∧
        (off = 0x10C30 → write = .next { s with mach := { m with bell := { m.bell with arm := v.getLsbD 7, rung := m.bell.rung && !v.getLsbD 6, fwd := v.getLsbD 5, srcFab := v.getLsbD 3,
                                                                                       srcPin := v.getLsbD 2, srcTrap := v.getLsbD 1, srcSnap := v.getLsbD 0 } } }) ∧
        ((off < 0x10000 ∨ (0x10000 ≤ off ∧ off < 0x10800 ∧ off % 32 ≠ 0) ∨ (0x20000 ≤ off ∧ off < 0x20020 ∧ off % 8 ≠ 0) ∨ (0x20020 ≤ off ∧ ¬ (0x400000 ≤ off ∧ off < 0x800000)) ∨
          (0x10800 ≤ off ∧ off < 0x20000 ∧ off ∉ [0x10800, 0x10810, 0x10900, 0x10908, 0x10C00, 0x10C08, 0x10C20, 0x10C30])) → write = .next s)) ∧
      (f.boot = .rejected → ¬ (0x400000 ≤ off ∧ off < 0x800000) → write = .next s) ∧
      (0x400000 ≤ off → off < 0x800000 →
        ((fw = true ∨ f.boot = .verifying ∨ f.boot = .running) → write = .next s) ∧
        (fw = false → (f.boot = .waiting ∨ f.boot = .rejected) → off % 8 = 0 → cellsWfFrom none f.mailbox = true → ∃ u, write = .next u ∧ u.mach = m ∧
          (∀ a, cellsRead u.fw.mailbox a = if off ≤ 0x400000 + a ∧ 0x400000 + a < off + 8 then BitVec.ofNat 8 (v.toNat / 2 ^ (8 * (0x400000 + a - off))) else cellsRead f.mailbox a) ∧
          u.fw = { f with mailbox := u.fw.mailbox })))

/-- R396, R398 to R402: GO starts the verification of the mailbox while no firmware runs. The image is rejected with the first reason that holds, or runs after MEAS0 and MEAS1 are extended with its
digest and the bound set's; an extend chains SHA-256 and appends to the log of at most 1,024; an attestation answers the nonce it took with the registers, the log and a signature.

Of the model, not of the spec alone: log entries 14 and 48. -/
def Obligations.BootMeasuresAndAttestationAnswers : Prop :=
  ∀ (s : State) (v : W64) (i : Fin 8) (d : BitVec 256) (label : BitVec 128),
    let f := s.fw
    let mail (a n : Nat) : List Byte := (List.range n).map fun j => cellsRead f.mailbox (a + j)
    let num (a : Nat) : Nat := leNat (mail a 4)
    let len := num 8
    let bad1 := num 0 ≠ 0x4B5A4657 ∨ len % 4 ≠ 0 ∨ len < 4 ∨ 4178016 < len ∨ num 12 ≠ 0
    let bad2 := digest (sha256 (mail 16 48)) ≠ Config.keyDigest
    let bad3 := Config.slhVerify (mail 16 48) (mail 0 64 ++ mail 16288 len) (mail 64 16224) = false
    let bad4 := num 4 < Config.minVersion.toNat
    let goesTo (g : Fw) : Host.Outcome State Fault Refusal := .next { s with fw := g }
    let done := exec .firmwareVerifyDone s
    let rejects (n : BitVec 8) : Prop := done = goesTo { f with boot := .rejected, reason := n }
    let chained (old : BitVec 256) (x : List Byte) : BitVec 256 := digest (sha256 (leBytes old.toNat 32 ++ x))
    (v.getLsbD 0 = true → f.boot = .waiting ∨ f.boot = .rejected → exec (.bootctlGo v) s = goesTo { f with boot := .verifying, reason := 0 }) ∧
    (v.getLsbD 0 = false ∨ f.boot = .verifying ∨ f.boot = .running → exec (.bootctlGo v) s = .next s) ∧
    (f.boot ≠ .verifying → done = .next s) ∧
    (f.boot = .verifying →
      (bad1 → rejects 1) ∧ (¬ bad1 → bad2 → rejects 2) ∧ (¬ bad1 → ¬ bad2 → bad3 → rejects 3) ∧ (¬ bad1 → ¬ bad2 → ¬ bad3 → bad4 → rejects 4) ∧
      (¬ bad1 → ¬ bad2 → ¬ bad3 → ¬ bad4 → ∃ u l0 l1, done = .next u ∧ u.mach = s.mach ∧ u.fw.boot = .running ∧ u.fw.bounds = f.bounds ∧
        u.fw.meas = (f.meas.set 0 (chained f.meas[0] (sha256 (mail 0 (16288 + len))))).set 1 (chained f.meas[1] (sha256 f.bounds.bytes)) ∧
        u.fw.log = f.log ++ [{ reg := 0, digest := digest (sha256 (mail 0 (16288 + len))), label := l0 }, { reg := 1, digest := digest (sha256 f.bounds.bytes), label := l1 }])) ∧
    (f.boot = .running → 2 ≤ i.val → f.log.length < 1024 →
      exec (.measurementExtend i d label) s = goesTo { f with meas := f.meas.set i (chained f.meas[i] (leBytes d.toNat 32)), log := f.log ++ [{ reg := i, digest := d, label := label }] }) ∧
    (f.boot ≠ .running ∨ i.val < 2 ∨ 1024 ≤ f.log.length → exec (.measurementExtend i d label) s = .next s) ∧
    (v.getLsbD 0 = true → f.attBusy = false → f.boot ≠ .rejected → exec (.attctlGo v) s = goesTo { f with attBusy := true, nonceHeld := f.nonce }) ∧
    (v.getLsbD 0 = false ∨ f.attBusy = true → exec (.attctlGo v) s = .next s) ∧
    (f.attBusy = false → exec .attestationResponse s = .next s) ∧
    (f.attBusy = true → ∃ r, exec .attestationResponse s = goesTo { f with attBusy := false, attResp := r, attLen := BitVec.ofNat 32 r.length } ∧
      let nonce := leBytes f.nonceHeld.toNat 32
      let meas := f.meas.toList.flatMap fun x => leBytes x.toNat 32
      let log := f.log.flatMap fun e => leBytes e.reg.val 1 ++ List.replicate 15 0 ++ leBytes e.digest.toNat 32 ++ leBytes e.label.toNat 16
      let sig := Config.slhSign (sha256 (nonce ++ meas ++ sha256 log))
      r.take 256 = meas ∧ (r.drop 256).take 32 = nonce ∧ leNat ((r.drop 288).take 4) = f.log.length % 2 ^ 32 ∧ leNat ((r.drop 292).take 4) = (Config.certificate.take 65536).length ∧
      (sig.length = 16224 → (r.drop 296).take 16224 = sig) ∧ (r.drop 16520).take (64 * f.log.length) = log ∧ r.drop (16520 + 64 * f.log.length) = Config.certificate.take 65536)

/-- R428, R429: the pin and messages of other packages ring the bell when it is armed and their source is enabled; a ring disarms it, and one from a source other than a message is forwarded.
Thirty-two s-cycles after it the snapshot window takes the machine's registers, which keep their values.

R3, R17, R18, R29, R30, R398, R400: the clocks fall and rise in steps of 50 MHz between 350 and the nominal 700; a trip stops them, after which every step but a cold reset leaves the machine;
a cold reset gives every register its reset value, withdraws the faulty clusters and waits for an image; bring-up numbers the package in its group.

Of the model, not of the spec alone: log entries 3, 4, 14, 50, 51 and 60. -/
def Obligations.BellClocksTripAndResetAct : Prop :=
   (∀ (s : State) (src : BitVec 12) (at_ source core : Nat) (tag : W32) (cls : BitVec 4) (rest : List (Nat × Nat × W32 × BitVec 4 × Nat)),
      let m := s.mach
      let b := m.bell
      let rings (k sent : Nat) : Host.Outcome State Fault Refusal :=
        .next { s with mach := { m with bell := { b with arm := false, rung := true, rings := b.rings ++ [(m.scyc + 32, k, 0, 0, 0)], sent := b.sent + sent } } }
      (b.arm = true → b.srcPin = true → exec .bellPin s = rings 2 (if b.fwd then m.group - 1 else 0)) ∧
      (b.arm = false ∨ b.srcPin = false → exec .bellPin s = .next s) ∧
      (b.arm = true → b.srcFab = true → src ≠ m.pkg → src.toNat < m.group → exec (.bellMessage src) s = rings 3 0) ∧
      (b.arm = false ∨ b.srcFab = false ∨ src = m.pkg ∨ m.group ≤ src.toNat → exec (.bellMessage src) s = .next s) ∧
      (b.rings = [] → exec .snapshotLatch s = .next s) ∧
      let holds (w : Snapshot) : Prop :=
        w.scyc = at_ ∧ w.source = source ∧ w.tag = tag ∧ w.cls = cls ∧ w.core = core ∧ w.cores.length = 128 ∧ w.occupancy = m.ferry.tasks.length ∧
        (∀ q h tl, (q, h, tl) ∈ w.queues ↔ ∃ i : Fin 64, i.val = q ∧ m.ferry.queues[i].en = true ∧ m.ferry.queues[i].head = h ∧ m.ferry.queues[i].tail = tl) ∧
        (∀ i, i ∈ w.running ↔ ∃ t ∈ m.ferry.tasks, t.cores ≠ [] ∧ t.id = i) ∧
        (∀ cl : Fin 16, w.samplers[cl.val]? = some ((m.samp.units[cl].run).map (fun r => r.job.idx), ((m.samp.units[cl].run).map (fun r => r.charge)).getD 0, m.samp.units[cl].queue.length)) ∧
        (∀ d : Fin 2, ∃ vs, w.dies[d.val]? = some (m.attn[d].ops.length, vs) ∧ ∀ v, v ∈ vs ↔ ∃ r ∈ m.attn[d].recs, ∃ y ∈ r.draining, y.1 = v) ∧ w.ports.length = 16 ∧
        ∀ (c : CoreId) (x : SnapCore), w.cores[c.val]? = some x →
          let k := m.cores[c]
          let waiting (y : Option Wait) : Nat := match y with | none => 0 | some y => if y.fe = false then 1 else if y.moored then 3 else 2
          let engine (t : Strand) : Nat := if k.rings[ringOf t].run = false ∨ k.stop = true then 4 else if (k.eng t).fetched.isSome then 1 else 0
          x.pcs = (k.ctl.pc, k.vec.pc) ∧ x.sm = k.sm.toList ∧ x.rings = k.rings.toList.map (fun r => (r.rp, r.wp)) ∧
          x.strands = [match k.ctl.status with | .ended _ => 5 | .stopped => 4 | .running => if k.ctl.sup then 6 else waiting k.ctl.wait,
                       match k.vec.status with | .ended => 5 | .running => waiting k.vec.wait | .trapped => 4 | .stopped => 4, engine .matrixA, engine .matrixB, engine .copy] ∧
          x.lease = (match k.lease with | .free => (0, 0) | .arb _ _ => (1, 0) | .held false n => (2, n) | .held true n => (3, n)) ∧
          x.qstat = (m.sysRead c .qstat).setWidth 32 ∧ x.bytes = (List.finRange 4).map (fun l => (m.barrier c l).bytes) ∧ x.flights.2.2 = k.copy.flights.length
      (b.rings = (at_, source, tag, cls, core) :: rest →
        (m.scyc ≠ at_ → exec .snapshotLatch s = .next s) ∧
        (m.scyc = at_ → ∃ w, exec .snapshotLatch s = .next { s with mach := { m with bell := { b with rings := rest, window := some w } } } ∧ holds w)) ∧
      (∀ n, (∀ r ∈ b.rings, m.scyc + n ≤ r.1) → m.passClock s.tick n = { m with scyc := m.scyc + n }) ∧
      (∀ n, b.rings = [(at_, source, tag, cls, core)] → at_ < m.scyc + n → ∃ w, holds w ∧ m.passClock s.tick n = { m with scyc := m.scyc + n, bell := { b with rings := [], window := some w } }) ∧
      (∀ u, step s = .next u → u.fw.down = false → ∀ r ∈ u.mach.bell.rings, u.mach.scyc ≤ r.1)) ∧
   (∀ (s u : State) (c j : Nat),
      let reads (off : Nat) : Prop := s.bar0Read (0x100000 + off) = u.bar0Read (0x100000 + off)
      let same {α : Type} (f : Snapshot → α) : Prop := s.mach.bell.window.map f = u.mach.bell.window.map f
      s.fw.boot ≠ .rejected → u.fw.boot ≠ .rejected → j % 8 = 0 →
        (j < 0x40 → same (fun w => (w.scyc, w.source, w.tag, w.cls, w.core)) → reads j) ∧
        (c < 128 → j < 128 → same (fun w => w.cores[c]?) → reads (0x40 + 256 * c + j)) ∧
        (c < 128 → 128 ≤ j → j < 256 → s.bar0Read (0x100040 + 256 * c + j) = 0) ∧
        (j < 0x100 → same (fun w => (w.occupancy, w.queues, w.running)) → reads (0x8040 + j)) ∧
        (c < 16 → j < 64 → same (fun w => w.samplers[c]?) → reads (0x8140 + 64 * c + j)) ∧
        (c < 2 → j < 256 → same (fun w => w.dies[c]?) → reads (0x8540 + 256 * c + j)) ∧
        (c < 16 → j < 64 → same (fun w => w.ports[c]?) → reads (0x8740 + 64 * c + j))) ∧
   (∀ (s : State) (faulty : BitVec 16) (pkg : BitVec 12) (group : Nat) (ports : BitVec 16),
      let f := s.fw
      let goesTo (g : Fw) : Host.Outcome State Fault Refusal := .next { s with fw := g }
      (350 ≤ f.aclk → f.aclk ≤ 700 → f.aclk % 50 = 0 →
        exec .throttleDown s = goesTo { f with aclk := max 350 (f.aclk - 50) } ∧ exec .throttleUp s = goesTo { f with aclk := min 700 (f.aclk + 50) }) ∧
      exec .thermalTrip s = goesTo { f with down := true } ∧
      (f.down = true → (∀ i, s.turn ≠ .event (.coldReset i)) → ∃ t, step s = .next t ∧ t.mach = s.mach ∧ t.fw = f) ∧
      (s.turn = .event (.coldReset faulty) → ∃ t, step s = .next t ∧ t.fw.down = false ∧ t.fw.boot = .waiting ∧ { t.mach with scyc := 0 } = { Mach.reset with withdrawn := faulty }) ∧
      (∃ t, exec (.coldReset faulty) s = .next t ∧ t.mach = { Mach.reset with withdrawn := faulty } ∧ t.fw.down = false ∧ t.fw.boot = .waiting ∧ t.fw.reason = 0 ∧ t.fw.meas = Vector.replicate 8 0 ∧
        t.fw.log = [] ∧ t.fw.bounds.lock = true ∧ t.fw.bounds.pcapmax.toNat ≤ 2200 ∧ t.fw.fwgrant = 0 ∧ t.fw.bvDma = 0 ∧ t.fw.bvPower = 0 ∧ t.fw.bvRoute = 0 ∧ t.fw.bvData = 0 ∧ t.fw.aclk = 700 ∧
        t.mach.scyc = 0 ∧ t.mach.ferry.fmdrain = 4096 ∧ t.mach.fab.fbtmo = 1048576 ∧ t.mach.pkg = 0 ∧
        ∀ c : CoreId, t.mach.cores[c].task = none ∧ t.mach.cores[c].lcidCore = BitVec.ofNat 7 c.val ∧ t.mach.cores[c].physCluster.toNat = c.val / 8 ∧ t.mach.cores[c].physCore.toNat ≤ 8) ∧
      (f.boot = .running → pkg.toNat < group → group ≤ 4096 →
        exec (.fabricBringUp pkg group ports) s = .next { s with mach := { s.mach with pkg := pkg, group := group, ports := ports } }) ∧
      (f.boot ≠ .running ∨ group ≤ pkg.toNat ∨ 4096 < group → exec (.fabricBringUp pkg group ports) s = .next s))

/-- R376, R381, R396, R397: while firmware runs, host DMA outside every HDMA window, an access to HBM outside FWREG without a grant, a cap above PCAPMAX and a route outside FSPAN do nothing but
their count (a cap above PCAPMAX becomes PCAPMAX), and a refused read returns zeros; within the bounds each is done. R16: no cap below 1,200 W is set. R376, R381, R387: contexts are created only where their
windows are free, with an empty mooring list in their device memory, and a destroyed one leaves its windows 0 and full.

Of the model, not of the spec alone: log entries 12, 14, 49 and 51. -/
def Obligations.FirmwareStaysWithinTheBoundSet : Prop :=
  (∀ (s : State) (cap : BitVec 16) (dst : BitVec 12) (port : Fin 16) (wr : Bool) (addr n : Nat) (acc : HbmAccess) (data : List (BitVec 8)),
    let f := s.fw
    let b := f.bounds
    let m := s.mach
    let goesTo (g : Fw) : Host.Outcome State Fault Refusal := .next { s with fw := g }
    let count (c : BitVec 16) : BitVec 16 := BitVec.ofNat 16 (min (c.toNat + 1) 65535)
    let len := if wr then data.length else n
    let zeros := if wr then f.fwRead else { bytes := List.replicate n 0, poisoned := false }
    let inWindow := ∃ w ∈ b.hdma.toList, w.1.toNat ≤ addr ∧ addr + len ≤ w.2.toNat
    let region := b.fwreg.toNat / 2 ^ 16 % 2 ^ 24 * 65536
    let inRegion (a : Nat) : Prop := region ≤ a ∧ a + len ≤ region + b.fwreg.toNat / 2 ^ 40 * 65536 ∧ a + len ≤ hbmEnd
    let span := b.fspan.toNat
    let routed := span % 2 ^ 12 ≤ dst.toNat ∧ dst.toNat ≤ span / 2 ^ 12 % 2 ^ 12 ∧ b.fspan.getLsbD (24 + port.val) = true
    (f.boot ≠ .running → exec (.powerCapWrite cap) s = .next s ∧ exec (.routeWrite dst port) s = .next s ∧ exec (.firmwareDma wr addr n data) s = .next s ∧
      exec (.firmwareHbmAccess wr acc n data) s = .next s) ∧
    (f.boot = .running →
      (1200 ≤ cap.toNat → cap.toNat ≤ b.pcapmax.toNat % 65536 → exec (.powerCapWrite cap) s = goesTo { f with pcap := cap.toNat }) ∧
      (cap.toNat < 1200 → exec (.powerCapWrite cap) s = .next s) ∧
      (1200 ≤ cap.toNat → b.pcapmax.toNat % 65536 < cap.toNat → exec (.powerCapWrite cap) s = goesTo { f with pcap := b.pcapmax.toNat % 65536, bvPower := count f.bvPower }) ∧
      (routed → ∃ u, exec (.routeWrite dst port) s = .next u ∧ u.mach = m ∧ (dst, port) ∈ u.fw.routes ∧ ∀ d p, d ≠ dst → ((d, p) ∈ u.fw.routes ↔ (d, p) ∈ f.routes)) ∧
      (¬ routed → exec (.routeWrite dst port) s = goesTo { f with bvRoute := count f.bvRoute }) ∧
      (¬ inWindow → exec (.firmwareDma wr addr n data) s = goesTo { f with bvDma := count f.bvDma, fwRead := zeros }) ∧
      (inWindow → wr = false → exec (.firmwareDma wr addr n data) s = goesTo { f with fwRead := { bytes := memBytes m.mem (hostKey addr) n, poisoned := false } }) ∧
      (inWindow → wr = true → memWf m.mem = true → ∃ u, exec (.firmwareDma wr addr n data) s = .next u ∧ u.fw = f ∧ u.mach.cores = m.cores ∧
        (∀ i x, data[i]? = some x → memByte u.mach.mem (hostKey (addr + i)) = x) ∧ ∀ a, (a < hostKey addr ∨ hostKey (addr + data.length) ≤ a) → memByte u.mach.mem a = memByte m.mem a) ∧
      (∀ a, acc = .direct a → ¬ inRegion a → exec (.firmwareHbmAccess wr acc n data) s = goesTo { f with bvData := count f.bvData, fwRead := zeros }) ∧
      (∀ c p, acc = .object c p → f.fwgrant.getLsbD c.val = false → exec (.firmwareHbmAccess wr acc n data) s = goesTo { f with bvData := count f.bvData, fwRead := zeros }) ∧
      (∀ c p key mt use, acc = .object c p → f.fwgrant.getLsbD c.val = true → len = 1 ∨ len = 2 ∨ len = 4 ∨ len = 8 → ptrHandle p ≠ 0 → ptrHandle p ≠ 0xFFFFFF → ptrOff p % len = 0 →
        place m (agent c.val) p len (if wr then .write else .read) = .ok (.store key mt use) →
        (wr = false → exec (.firmwareHbmAccess wr acc n data) s = goesTo { f with fwRead := { bytes := memBytes m.mem key n, poisoned := (List.range n).any fun i => memPoisoned m.mem ((key + i) / 8 * 8) } }) ∧
        (wr = true → memWf m.mem = true → key % len = 0 → (memPoisoned m.mem (key / 8 * 8) = true → len = 8) → ∃ u, exec (.firmwareHbmAccess wr acc n data) s = .next u ∧ u.fw = f ∧ u.mach.cores = m.cores ∧
          (∀ i x, data[i]? = some x → memByte u.mach.mem (key + i) = x) ∧ ∀ x, (x < key ∨ key + data.length ≤ x) → memByte u.mach.mem x = memByte m.mem x)) ∧
      (∀ a, acc = .direct a → inRegion a → wr = false → exec (.firmwareHbmAccess wr acc n data) s =
        goesTo { f with fwRead := { bytes := memBytes m.mem a n, poisoned := (List.range n).any fun i => memPoisoned m.mem ((a + i) / 8 * 8) } }) ∧
      (∀ a, acc = .direct a → inRegion a → wr = true → memWf m.mem = true → (∀ x, a ≤ x → x < a + data.length → memPoisoned m.mem (x / 8 * 8) = false) →
        ∃ u, exec (.firmwareHbmAccess wr acc n data) s = .next u ∧ u.fw = f ∧ u.mach.cores = m.cores ∧ (∀ i x, data[i]? = some x → memByte u.mach.mem (a + i) = x) ∧
          ∀ x, (x < a ∨ a + data.length ≤ x) → memByte u.mach.mem x = memByte m.mem x))) ∧
  (∀ (s : State) (ctx : Fin 64) (x : ContextCfg) (y : Context),
    let m := s.mach
    let free := ∀ (j : Fin 64) (z : Context), m.ctxs[j] = some z →
      (x.dsmBase + x.dsmSize ≤ z.dsmBase ∨ z.dsmBase + z.dsmSize ≤ x.dsmBase) ∧ (x.clmBase + x.clmSize ≤ z.clmBase ∨ z.clmBase + z.clmSize ≤ x.clmBase)
    let sound := x.otbase % 4096 = 0 ∧ 2 ≤ x.otlen ∧ x.otlen ≤ 2 ^ 24 ∧ x.otbase + 128 * x.otlen ≤ hbmEnd ∧ x.dsmBase + x.dsmSize ≤ 1024 ∧ x.clmBase + x.clmSize ≤ 128 ∧
      x.mlbase % 65536 = 0 ∧ 640 ≤ x.pool ∧ x.pool ≤ 63488 ∧ x.mlbase + 32768 + 16 * x.pool ≤ hbmEnd
    (s.fw.boot = .running → m.ctxs[ctx] = none → sound → free → ∃ u, exec (.contextCreate ctx x) s = .next u ∧ u = { s with mach := { m with mem := u.mach.mem, ctxs := m.ctxs.set ctx (some
      { otbase := x.otbase, otlen := x.otlen, dsmBase := x.dsmBase, dsmSize := x.dsmSize, clmBase := x.clmBase, clmSize := x.clmSize, mlbase := x.mlbase, pool := x.pool, stvec := x.stvec,
        trefl := x.trefl, ckpool := BitVec.ofNat 64 (x.ckpool.toNat / 65536 * 65536) }) } } ∧
      (memWf m.mem = true → (∀ b, b < 4096 → mem64 u.mach.mem (x.mlbase + 8 * b) = 0xFFFFFFFF) ∧
        (∀ a, (a < x.mlbase ∨ x.mlbase + 32768 ≤ a) → memByte u.mach.mem a = memByte m.mem a) ∧ ∀ a, memFull u.mach.mem a = memFull m.mem a ∧ memPoisoned u.mach.mem a = memPoisoned m.mem a)) ∧
    (s.fw.boot ≠ .running ∨ m.ctxs[ctx] ≠ none ∨ ¬ sound → exec (.contextCreate ctx x) s = .next s) ∧
    (∀ (j : Fin 64) (z : Context) (g : Nat), m.ctxs[j] = some z → x.clmBase ≤ g → g < x.clmBase + x.clmSize → z.clmBase ≤ g → g < z.clmBase + z.clmSize → exec (.contextCreate ctx x) s = .next s) ∧
    (∀ (j : Fin 64) (z : Context) (g : Nat), m.ctxs[j] = some z → x.dsmBase ≤ g → g < x.dsmBase + x.dsmSize → z.dsmBase ≤ g → g < z.dsmBase + z.dsmSize → exec (.contextCreate ctx x) s = .next s) ∧
    (s.fw.boot = .running → m.ctxs[ctx] = some y → (∀ t ∈ m.ferry.tasks, t.ctx ≠ ctx.val) → ∃ u, exec (.contextDestroy ctx) s = .next u ∧ u.fw = s.fw ∧ u.mach.cores = m.cores ∧
      u.mach.ctxs = m.ctxs.set ctx none ∧ (∀ e ∈ u.mach.moorings, e.ctx ≠ ctx.val) ∧ (∀ e ∈ u.mach.fab.bufs, e.ctx ≠ ctx.val) ∧ (∀ e ∈ u.mach.fab.ports, e.ctx ≠ ctx.val) ∧
      (memWf m.mem = true → ∀ a, 65536 * y.dsmBase ≤ a → a < 65536 * (y.dsmBase + y.dsmSize) →
        memByte u.mach.mem (dsmKey a) = 0 ∧ memFull u.mach.mem (dsmKey a) = true ∧ memPoisoned u.mach.mem (dsmKey a) = false) ∧
      (memWf m.mem = true → ∀ cl a, cl < 16 → 65536 * y.clmBase ≤ a → a < 65536 * (y.clmBase + y.clmSize) → memByte u.mach.mem (clmKey cl a) = 0 ∧ memFull u.mach.mem (clmKey cl a) = true)) ∧
    ((∃ t ∈ m.ferry.tasks, t.ctx = ctx.val) → exec (.contextDestroy ctx) s = .next s))

/-! The whole machine: decoding, stepping and what every step keeps. -/

/-- R38 to R61: words written out field by field from the formats, or taken from the spec's worked examples, decode to the instructions they stand for; a reserved bit, a reserved code or a second
literal makes a word illegal.

Of the model, not of the spec alone: log entry 55. -/
def Obligations.DecodersReadTheSpecsWords : Prop :=
  decodeControl [0x01#6 ++ 3#5 ++ 1#5 ++ 2#5 ++ 0#1 ++ 0#4 ++ 0x00#6] = .ok (.add (.x 3) (.x 1) (.x 2)) 1 ∧
  decodeControl [0x02#6 ++ 31#5 ++ 31#5 ++ 1#1 ++ 0x7FFF#15, 5#32, 6#32] = .ok (.addi .none (.lit64 0x600000005#64) 0x7FFF#15) 3 ∧
  decodeControl [0x12#6 ++ 5#5 ++ 6#5 ++ 9#4 ++ 0#1 ++ 1#2 ++ 2#3 ++ 7#6] = .ok (.ld32s (.x 5) (.x 6) { cls := 9#4, ord := .acq, scope := .die, off := 7#6 }) 1 ∧
  decodeControl [0x20#6 ++ 4#5 ++ 5#5 ++ 6#5 ++ 3#2 ++ 4#3 ++ 15#4 ++ 0#1 ++ 0#1] = .ok (.aadd (.x 4) (.x 5) (.x 6) { cls := 15#4, ord := .acqRel, scope := .fabric }) 1 ∧
  decodeControl [0x2F#6 ++ 5#3 ++ 0#1 ++ 0x3FFFFF#22] = .ok (.bc 5 0x3FFFFF#22) 1 ∧
  decodeControl [0xC4430003#32] = .ok (.jtab (.x 2) (.x 3) 3#15) 1 ∧
  decodeControl [0xDC000000#32] = .ok .uiret 1 ∧
  decodeVector [0x01#7 ++ 1#7 ++ 2#7 ++ 3#7 ++ 1#1 ++ 4#3] = .ok (.vadd none (.reg (.v 1)) (.reg (.v 2)) (.reg (.v 3)) { p := 4, pn := true }) 1 ∧
  decodeVector [0x7E#7 ++ 0xA#4 ++ 0#3 ++ 0#1 ++ 0#1 ++ 0#1 ++ 0#2 ++ 0#1 ++ 6#3 ++ 0#9, 0x24#7 ++ 31#7 ++ 0x44#7 ++ 0x7F#7 ++ 0#1 ++ 0#3, 9#32] =
    .ok (.vshl (some { type := 0xA#4, round := 0#3, sat := false, ftz := false, spec := false, sg := 0, sgen := false, sh := 6 }) (.reg (.v 31)) .zero (.lit 9#32) { p := 0, pn := false }) 3 ∧
  decodeMatrix [0x04#6 ++ 15#4 ++ 2#4 ++ 1#2 ++ 7#3 ++ 0#13, 0x3F800000#32] = .ok (.fset { aw := 15#4, rs := 2#4 } 7 0x3F800000#32) 2 ∧
  decodeCopy [0x0BD50614#32, 0x3000#32] = .ok (.tmov2d { aw := 15#4, rs := 5#4 } { fe := .dataAndBits, scope := .cluster, pb := true, dl := 0 } 1 2 0x3000#32) 2 ∧
  decodeCopy [0x12#6 ++ 3#4 ++ 15#4 ++ 0#2 ++ 1#1 ++ 0#15] = .ok (.csync { aw := 3#4, rs := 15#4 } true) 1 ∧
  decodeSampler [0x0C48C000#32] = .ok (.sadd 1 2 3) 1 ∧
  decodeControl [0x01#6 ++ 3#5 ++ 1#5 ++ 2#5 ++ 0#1 ++ 1#4 ++ 0x00#6] = .illegal ∧
  decodeControl [0x01#6 ++ 3#5 ++ 31#5 ++ 31#5 ++ 0#1 ++ 0#4 ++ 0x00#6, 1#32, 1#32] = .illegal ∧
  decodeVector [0x01#7 ++ 1#7 ++ 2#7 ++ 3#7 ++ 1#1 ++ 0#3] = .illegal ∧
  decodeMatrix [0x04#6 ++ 15#4 ++ 2#4 ++ 0#2 ++ 7#3 ++ 0#13] = .illegal ∧
  decodeCopy [0x17#6 ++ 15#4 ++ 15#4 ++ 0#2 ++ 0#16] = .illegal

/-- R38 to R61: every well-formed instruction with words decodes, in its section, from its own words to itself, whatever follows them; and what a decoder answers is well formed and is encoded by the
words it took. So each word has one meaning in a section, and no bit of it is dropped.

Of the model, not of the spec alone: log entry 55. -/
def Obligations.DecodingAndEncodingAgree : Prop :=
  (∀ (i : Instr) (rest : List W32), wellFormed i = true → encode i ≠ [] →
    let ws := encode i ++ rest
    let is (o : Decoded) : Prop := o = .ok i (encode i).length
    is (decodeControl ws) ∨ is (decodeVector ws) ∨ is (decodeMatrix ws) ∨ is (decodeCopy ws) ∨ is (decodeSampler ws)) ∧
  (∀ (ws : List W32) (i : Instr) (n : Nat),
    decodeControl ws = .ok i n ∨ decodeVector ws = .ok i n ∨ decodeMatrix ws = .ok i n ∨ decodeCopy ws = .ok i n ∨ decodeSampler ws = .ok i n →
      wellFormed i = true ∧ encode i = ws.take n ∧ 0 < n ∧ n ≤ ws.length)

/-- R42 to R44, R82, R230: a step of a strand at a well-formed instruction is that instruction executed, for that strand, after the earlier stores that its fetch follows, the stores that only their
own core sees and the operands that a multiply step still reads; then the turn passes, and the s-cycle counter goes on unless the clocks stand. R405: what a boundary brings comes before the next instruction.
An instruction of the opcode table without words comes about by itself, when its turn comes.

Of the model, not of the spec alone: log entries 1, 2, 7, 9, 13, 19 and 62. -/
def Obligations.AStepRunsTheDecodedInstruction : Prop :=
  ∀ (s : State) (c : CoreId) (i : Instr) (n : Nat),
    let m := (s.mach.settleFor s.turn).rereadFor s.turn
    let k := m.cores[c]
    let goesOn (u : State) : State :=
      { u with turn := Config.schedule u.tick, tick := u.tick + 1, mach := if u.fw.down then u.mach else u.mach.passClock u.tick (Config.elapsed u.tick) }
    let runsIn (s1 : State) : Prop := step s = match exec i s1 with | .next u => .next (goesOn u) | .fault f => .fault f | .refused r => .refused r
    let runs (m1 : Mach) (t : Strand) : Prop := runsIn { s with cur := { core := c, strand := t }, mach := m1 }
    let words (m1 : Mach) (pc : BitVec 18) : List W32 := (List.range (min 4 (2 ^ 18 - pc.toNat))).map fun j => mem32 m1.mem (spmKey c (4 * (pc.toNat + j)))
    let clean (m1 : Mach) (pc : BitVec 18) (l : Nat) : Prop := ∀ j, j < l → memPoisoned m1.mem (locOf (spmKey c (4 * (pc.toNat + j)))) = false
    s.fw.down = false →
      (s.turn = .strand c .control → k.ctl.status = .running → m.boundary c = none → (∀ w, k.ctl.wait = some w → w.attemptDue m.scyc = true) →
        let m1 := m.beforeFetch c .control k.ctl.pc
        decodeControl (words m1 k.ctl.pc) = .ok i n → clean m1 k.ctl.pc n → runs (m1.keepEarly c i) .control) ∧
      (s.turn = .strand c .control → k.ctl.status = .running → ∀ m1, m.boundary c = some m1 → step s = .next (goesOn { s with mach := m1 })) ∧
      (s.turn = .strand c .vector → k.vec.status = .running → k.vec.skip = false → (k.stop = false ∨ k.vec.loop.act = true) →
        (k.sets[0].swap = false ∨ k.vec.issued = true ∨ k.vec.loop.act = true) → (∀ w, k.vec.wait = some w → w.attemptDue m.scyc = true) → m.heldVec c (fetchLoads c k.vec.pc) = false →
        let m1 := m.beforeFetch c .vector k.vec.pc
        decodeVector (words m1 k.vec.pc) = .ok i n → clean m1 k.vec.pc n → runs m1 .vector) ∧
      (∀ t, (t = .matrixA ∨ t = .matrixB ∨ t = .copy) → s.turn = .strand c t → k.sets[engineNo (engineOf t)].swap = false → k.rings[ringOf t].run = true → k.stop = false →
        (∀ f, (k.eng t).fetched = some f → f.op = i → runs m t) ∧
        ((k.eng t).fetched = none →
          let r := k.rings[ringOf t]
          let at_ (j : Nat) : Nat := spmKey c (r.addr (r.rp + BitVec.ofNat 32 j))
          let ws := (List.range (min 4 (r.wp - r.rp).toNat)).map fun j => mem32 m.mem (at_ j)
          (if t = .copy then decodeCopy ws else decodeMatrix ws) = .ok i n → (∀ j, j < n → memPoisoned m.mem (locOf (at_ j)) = false) →
            ∃ f, f.op = i ∧ f.words = n ∧ f.at_ = m.scyc ∧ f.budget = (k.ctl.mbud[strandNo t]?.getD 0).toNat ∧
              runs ((m.giveUpAsks c t).onEng c t fun e => { e with fetched := some f }) t)) ∧
      (∀ (cl : Fin 16) (r : SampRun) (w w2 : W32), s.turn = .sampler cl → m.samp.units[cl].run = some r → (r.phase = .block ∨ r.phase = .final) → c.val = 8 * cl.val →
        m.progWord cl r r.pc = some (w, false) → (decodeSampler [w] = .ok i n → runs m s.cur.strand) ∧
        (decodeSampler [w] = .short → m.progWord cl r (r.pc + 1) = some (w2, false) → decodeSampler [w, w2] = .ok i n → runs m s.cur.strand)) ∧
      (s.turn = .event i → encode i = [] → runsIn { s with mach := m })

/-- R39, R403 to R410: no instruction and no step stops the machine: whatever the state and the operands, a trap, an error, a wait and an expiry each leave a next state.

Of the model, not of the spec alone: log entry 6. -/
def Obligations.EveryInstructionAndEveryStepGoesOn : Prop :=
  (∀ (i : Instr) (s : State), ∃ t, exec i s = .next t) ∧ ∀ s : State, ∃ t, step s = .next t

/-- Every step keeps memory in its canonical form: addresses strictly rising, no byte 0 listed, each empty and each poisoned location listed once (the form is the model's choice, log entry 4).

Of the model, not of the spec alone: log entry 4. -/
def Obligations.EveryStepKeepsMemoryCanonical : Prop :=
  ∀ s t : State, memWf s.mach.mem = true → step s = .next t → memWf t.mach.mem = true

/-- R16, R17, R396, R397: whatever firmware and programs do, the bound set stays as it is except across a cold reset, which locks one whose PCAPMAX is from 1,200 to 2,200 W; the power cap stays from
1,200 to 2,200 W; and the arithmetic clock stays a multiple of 50 MHz between 350 and 700.

Of the model, not of the spec alone: log entries 14, 51 and 60. -/
def Obligations.EveryStepKeepsTheBoundSetAndTheCap : Prop :=
  ∀ s t : State,
    let inv (f : Fw) : Prop := f.bounds.lock = true ∧ 1200 ≤ f.bounds.pcapmax.toNat ∧ f.bounds.pcapmax.toNat ≤ 2200 ∧ 1200 ≤ f.pcap ∧ f.pcap ≤ 2200 ∧ 350 ≤ f.aclk ∧ f.aclk ≤ 700 ∧ f.aclk % 50 = 0
    inv s.fw → step s = .next t → inv t.fw ∧
      (t.fw.bounds = s.fw.bounds ∨ (t.fw = Fw.reset s.tick ∧ ∃ x, { t.mach with scyc := 0 } = { Mach.reset with withdrawn := x }))

/-- R29, R71, R344, R396, R398, R400: right after reset memory is in its canonical form and reads 0, full and unpoisoned; the bound set is locked within its limits; no task runs; and the registers
whose reset values the spec gives hold them. (Memory's contents are the model's choice, log entry 4, and so is every value that log entries 3 and 14 name.)

Of the model, not of the spec alone: log entries 3, 4, 14 and 51. -/
def Obligations.ResetMeetsTheInvariants : Prop :=
  let s := State.reset
  memWf s.mach.mem = true ∧ (∀ a, memByte s.mach.mem a = 0 ∧ memFull s.mach.mem a = true ∧ memPoisoned s.mach.mem a = false) ∧
  s.fw.bounds.lock = true ∧ 1200 ≤ s.fw.bounds.pcapmax.toNat ∧ s.fw.bounds.pcapmax.toNat ≤ 2200 ∧ s.fw.pcap = 1200 ∧ s.fw.aclk = 700 ∧ s.fw.boot = .waiting ∧ s.fw.meas = Vector.replicate 8 0 ∧ s.fw.log = [] ∧ s.fw.fwgrant = 0 ∧
  s.mach.fab.fbtmo = 1048576 ∧ s.mach.ferry.fmdrain = 4096 ∧ s.mach.ferry.tasks = [] ∧ s.mach.scyc = 0 ∧ s.mach.pkg = 0 ∧
  ∀ c : CoreId, let k := s.core c
    k.task = none ∧ k.lcidCore = BitVec.ofNat 7 c.val ∧ k.ctl.x = Vector.replicate 31 { val := 0, tag := 0 } ∧ k.ctl.k = Vector.replicate 8 false ∧ k.ctl.sup = false ∧
    k.ctl.rbud = Vector.replicate 5 64 ∧ k.ctl.mbud = Vector.replicate 5 16777216 ∧ k.sm = Vector.replicate 15 0 ∧ k.q = Vector.replicate 8 []

/-! Numbers (04 R106 to R121). -/

/-- R107, R118 to R120: rounding a finite value that is not 0 to a format gives, of the two neighbours in the format's spacing at its magnitude, the one its mode takes, with NX where it is inexact and UF where
the result is then below the smallest normal value; past the largest finite value it overflows, by format and mode. Zeros keep their sign; infinities and NaNs give what their format has. A value strictly between
two integers times a power of two rounds as the point halfway between, where the format's spacing is at least two of them. A floating lane is rounded so, in the qualifier's mode, and `.ftz` replaces a
subnormal result by its zero, with UF and NX (R110).

Of the model, not of the spec alone: an exact value is a number times a power of two, with a mark (the model's form, docstring of `Ex`). -/
def Obligations.RoundingGivesTheValueOfItsMode : Prop :=
  (∀ (f : Fmt) (neg : Bool) (m : Nat) (e : Int) (mode : RMode) (sat : Bool),
    f ∈ [fp32, bf16, fp16, e5m2, e4m3, e3m2, e2m3, e2m1, fx40, ue8m12] → (f = ue8m12 → neg = false) →
      let ieee : Prop := f ∈ [fp32, bf16, fp16, e5m2, fx40]
      let small : Prop := f ∈ [e3m2, e2m3, e2m1]
      let emin : Int := 1 - f.bias
      let j : Int := min e (emin - f.fb)
      let a : Nat := m * 2 ^ (e - j).toNat
      let spacing : Nat := 2 ^ (max ((Nat.log2 m : Int) + e) emin - f.fb - j).toNat
      let lo : Nat := a / spacing * spacing
      let hi : Nat := lo + spacing
      let v : Nat :=
        if a = lo then lo
        else match mode with
          | .rne => if a - lo < hi - a then lo else if hi - a < a - lo then hi else if lo / spacing % 2 = 0 then lo else hi
          | .rna => if a - lo < hi - a then lo else hi
          | .rtz => lo
          | .rup => if neg then lo else hi
          | .rdn => if neg then hi else lo
      let size (w : Nat) (n : Bool) (z : Nat) : Prop := w < 2 ^ (f.eb + f.fb + 1) ∧ ∃ m' e', f.decode w = .fin n m' e' false ∧ z = m' * 2 ^ (e' - j).toNat
      let top (n : Bool) (w : Nat) : Prop := ∃ z, size w n z ∧ ∀ w' n' z', size w' n' z' → z' ≤ z
      let fits : Prop := ∃ w n z, size w n z ∧ v ≤ z
      let toMax : Prop := sat = true ∨ mode = .rtz ∨ (mode = .rup ∧ neg = true) ∨ (mode = .rdn ∧ neg = false)
      let r := f.round (.fin neg m e false) mode sat
      let zero := f.round (.fin neg 0 e false) mode sat
      let inf := f.round (.inf neg) mode sat
      (m ≠ 0 →
        (fits → size r.bits neg v ∧ r.fl = { nx := decide (a ≠ lo), uf := decide (a ≠ lo) && decide (v < 2 ^ (emin - j).toNat) }) ∧
        (¬ fits → r.fl = { of := true, nx := true } ∧ (ieee → toMax → top neg r.bits) ∧ (ieee → ¬ toMax → f.decode r.bits = .inf neg) ∧ (f = e4m3 → toMax → top neg r.bits) ∧
          (f = e4m3 → ¬ toMax → r.bits = 0x7F) ∧ (small → top neg r.bits) ∧ (f = ue8m12 → top false r.bits)) ∧
        (f.fb + 1 ≤ Nat.log2 m → f.round (.fin neg m e true) mode sat = f.round (.fin neg (2 * m + 1) (e - 1) false) mode sat)) ∧
      (size zero.bits neg 0 ∧ zero.fl = {}) ∧
      (ieee → f.decode inf.bits = .inf neg ∧ inf.fl = {}) ∧ (f = e4m3 → (sat = false → inf.bits = 0x7F) ∧ (sat = true → top neg inf.bits) ∧ inf.fl = { nv := true }) ∧
      (small → top neg inf.bits ∧ inf.fl = { nv := true }) ∧ (f = ue8m12 → inf = { bits := 0xFF000, fl := {} })) ∧
  (∀ (sig : Bool) (mode : RMode) (sat : Bool),
    let nan (f : Fmt) : FpOut := f.round (.nan sig) mode sat
    nan fp32 = { bits := 0x7FC00000, fl := {} } ∧ nan bf16 = { bits := 0x7FC0, fl := {} } ∧ nan fp16 = { bits := 0x7E00, fl := {} } ∧ nan e5m2 = { bits := 0x7E, fl := {} } ∧
    nan e4m3 = { bits := 0x7F, fl := { nv := true } } ∧ nan e3m2 = { bits := 0, fl := { nv := true } } ∧ nan e2m3 = { bits := 0, fl := { nv := true } } ∧
    nan e2m1 = { bits := 0, fl := { nv := true } } ∧ nan fx40 = { bits := 255 * 2 ^ 31 + 2 ^ 30, fl := {} } ∧ nan ue8m12 = { bits := 0xFF000, fl := {} }) ∧
  (∀ (t : Nat) (f : Fmt) (q : Option Qual) (v : Ex × Bool),
    ([fp32, bf16, fp16, e4m3, e5m2, e2m3, e3m2, e2m1] : List Fmt)[t]? = some f →
      let mode : RMode := match q with | none => .rne | some y => if y.round = 0 then .rne else if y.round = 1 then .rtz else if y.round = 2 then .rup else if y.round = 3 then .rdn else .rna
      let o := f.round v.1 mode (match q with | none => false | some y => y.sat)
      let fl := { o.fl with nv := o.fl.nv || v.2 }
      let flushes : Bool := match q with | none => false | some y => y.ftz
      let subnormal (n : Bool) : Prop := ∃ m', m' ≠ 0 ∧ m' < 2 ^ f.fb ∧ f.decode o.bits = .fin n m' (1 - (f.bias : Int) - f.fb) false
      let z := floatOut t q v
      ((flushes = false ∨ ∀ n, ¬ subnormal n) → z = { bits := o.bits, fl := fl }) ∧
      (∀ n, flushes = true → subnormal n → (∃ e', f.decode z.bits = .fin n 0 e' false) ∧ z.fl = { fl with uf := true, nx := true }))
end

