-- ==== Sys2Proof/Laws/Exec.lean ====
section
/-! SUPPORT. What `exec` does with each constructor: the one meaning that its arm calls. -/

namespace Sys2Proof.Machine

@[simp] theorem exec_add (s : State) d a b : exec (.add d a b) s = execAdd d a b s := rfl
@[simp] theorem exec_sub (s : State) d a b : exec (.sub d a b) s = execSub d a b s := rfl
@[simp] theorem exec_mul (s : State) d a b : exec (.mul d a b) s = execMul d a b s := rfl
@[simp] theorem exec_mulh (s : State) d a b : exec (.mulh d a b) s = execMulh d a b s := rfl
@[simp] theorem exec_mulhn (s : State) d a b : exec (.mulhn d a b) s = execMulhn d a b s := rfl
@[simp] theorem exec_div (s : State) d a b : exec (.div d a b) s = execDiv d a b s := rfl
@[simp] theorem exec_divn (s : State) d a b : exec (.divn d a b) s = execDivn d a b s := rfl
@[simp] theorem exec_rem (s : State) d a b : exec (.rem d a b) s = execRem d a b s := rfl
@[simp] theorem exec_remn (s : State) d a b : exec (.remn d a b) s = execRemn d a b s := rfl
@[simp] theorem exec_and (s : State) d a b : exec (.and d a b) s = execAnd d a b s := rfl
@[simp] theorem exec_or (s : State) d a b : exec (.or d a b) s = execOr d a b s := rfl
@[simp] theorem exec_xor (s : State) d a b : exec (.xor d a b) s = execXor d a b s := rfl
@[simp] theorem exec_andn (s : State) d a b : exec (.andn d a b) s = execAndn d a b s := rfl
@[simp] theorem exec_shl (s : State) d a b : exec (.shl d a b) s = execShl d a b s := rfl
@[simp] theorem exec_shr (s : State) d a b : exec (.shr d a b) s = execShr d a b s := rfl
@[simp] theorem exec_sar (s : State) d a b : exec (.sar d a b) s = execSar d a b s := rfl
@[simp] theorem exec_rol (s : State) d a b : exec (.rol d a b) s = execRol d a b s := rfl
@[simp] theorem exec_min (s : State) d a b : exec (.min d a b) s = execMin d a b s := rfl
@[simp] theorem exec_max (s : State) d a b : exec (.max d a b) s = execMax d a b s := rfl
@[simp] theorem exec_minn (s : State) d a b : exec (.minn d a b) s = execMinn d a b s := rfl
@[simp] theorem exec_maxn (s : State) d a b : exec (.maxn d a b) s = execMaxn d a b s := rfl
@[simp] theorem exec_adds (s : State) d a b : exec (.adds d a b) s = execAdds d a b s := rfl
@[simp] theorem exec_subs (s : State) d a b : exec (.subs d a b) s = execSubs d a b s := rfl
@[simp] theorem exec_addsn (s : State) d a b : exec (.addsn d a b) s = execAddsn d a b s := rfl
@[simp] theorem exec_subsn (s : State) d a b : exec (.subsn d a b) s = execSubsn d a b s := rfl
@[simp] theorem exec_muls (s : State) d a b : exec (.muls d a b) s = execMuls d a b s := rfl
@[simp] theorem exec_abs (s : State) d a : exec (.abs d a) s = execAbs d a s := rfl
@[simp] theorem exec_neg (s : State) d a : exec (.neg d a) s = execNeg d a s := rfl
@[simp] theorem exec_clz (s : State) d a : exec (.clz d a) s = execClz d a s := rfl
@[simp] theorem exec_ctz (s : State) d a : exec (.ctz d a) s = execCtz d a s := rfl
@[simp] theorem exec_popc (s : State) d a : exec (.popc d a) s = execPopc d a s := rfl
@[simp] theorem exec_sext8 (s : State) d a : exec (.sext8 d a) s = execSext8 d a s := rfl
@[simp] theorem exec_sext16 (s : State) d a : exec (.sext16 d a) s = execSext16 d a s := rfl
@[simp] theorem exec_sext32 (s : State) d a : exec (.sext32 d a) s = execSext32 d a s := rfl
@[simp] theorem exec_mov (s : State) d a : exec (.mov d a) s = execMov d a s := rfl
@[simp] theorem exec_addi (s : State) d a imm : exec (.addi d a imm) s = execAddi d a imm s := rfl
@[simp] theorem exec_andi (s : State) d a imm : exec (.andi d a imm) s = execAndi d a imm s := rfl
@[simp] theorem exec_ori (s : State) d a imm : exec (.ori d a imm) s = execOri d a imm s := rfl
@[simp] theorem exec_xori (s : State) d a imm : exec (.xori d a imm) s = execXori d a imm s := rfl
@[simp] theorem exec_shli (s : State) d a amount : exec (.shli d a amount) s = execShli d a amount s := rfl
@[simp] theorem exec_shri (s : State) d a amount : exec (.shri d a amount) s = execShri d a amount s := rfl
@[simp] theorem exec_sari (s : State) d a amount : exec (.sari d a amount) s = execSari d a amount s := rfl
@[simp] theorem exec_roli (s : State) d a amount : exec (.roli d a amount) s = execRoli d a amount s := rfl
@[simp] theorem exec_movi (s : State) d imm : exec (.movi d imm) s = execMovi d imm s := rfl
@[simp] theorem exec_cmp (s : State) k a b c : exec (.cmp k a b c) s = execCmp k a b c s := rfl
@[simp] theorem exec_cmpi (s : State) k a c imm : exec (.cmpi k a c imm) s = execCmpi k a c imm s := rfl
@[simp] theorem exec_sel (s : State) d a b k : exec (.sel d a b k) s = execSel d a b k s := rfl
@[simp] theorem exec_kand (s : State) d a b : exec (.kand d a b) s = execKand d a b s := rfl
@[simp] theorem exec_kor (s : State) d a b : exec (.kor d a b) s = execKor d a b s := rfl
@[simp] theorem exec_kxor (s : State) d a b : exec (.kxor d a b) s = execKxor d a b s := rfl
@[simp] theorem exec_knot (s : State) d a : exec (.knot d a) s = execKnot d a s := rfl
@[simp] theorem exec_kmov (s : State) d a : exec (.kmov d a) s = execKmov d a s := rfl
@[simp] theorem exec_padd (s : State) d a b : exec (.padd d a b) s = execPadd d a b s := rfl
@[simp] theorem exec_psub (s : State) d a b : exec (.psub d a b) s = execPsub d a b s := rfl
@[simp] theorem exec_phdl (s : State) d a : exec (.phdl d a) s = execPhdl d a s := rfl
@[simp] theorem exec_poff (s : State) d a : exec (.poff d a) s = execPoff d a s := rfl
@[simp] theorem exec_pmake (s : State) d a b : exec (.pmake d a b) s = execPmake d a b s := rfl
@[simp] theorem exec_paddi (s : State) d a imm : exec (.paddi d a imm) s = execPaddi d a imm s := rfl
@[simp] theorem exec_ld (s : State) d base q : exec (.ld d base q) s = execLd d base q s := rfl
@[simp] theorem exec_ld32 (s : State) d base q : exec (.ld32 d base q) s = execLd32 d base q s := rfl
@[simp] theorem exec_ld32s (s : State) d base q : exec (.ld32s d base q) s = execLd32s d base q s := rfl
@[simp] theorem exec_ld16 (s : State) d base q : exec (.ld16 d base q) s = execLd16 d base q s := rfl
@[simp] theorem exec_ld16s (s : State) d base q : exec (.ld16s d base q) s = execLd16s d base q s := rfl
@[simp] theorem exec_ld8 (s : State) d base q : exec (.ld8 d base q) s = execLd8 d base q s := rfl
@[simp] theorem exec_ld8s (s : State) d base q : exec (.ld8s d base q) s = execLd8s d base q s := rfl
@[simp] theorem exec_ldwait (s : State) d base q : exec (.ldwait d base q) s = execLdwait d base q s := rfl
@[simp] theorem exec_ldcons (s : State) d base q : exec (.ldcons d base q) s = execLdcons d base q s := rfl
@[simp] theorem exec_st (s : State) v base q : exec (.st v base q) s = execSt v base q s := rfl
@[simp] theorem exec_st32 (s : State) v base q : exec (.st32 v base q) s = execSt32 v base q s := rfl
@[simp] theorem exec_st16 (s : State) v base q : exec (.st16 v base q) s = execSt16 v base q s := rfl
@[simp] theorem exec_st8 (s : State) v base q : exec (.st8 v base q) s = execSt8 v base q s := rfl
@[simp] theorem exec_stfill (s : State) v base q : exec (.stfill v base q) s = execStfill v base q s := rfl
@[simp] theorem exec_fence (s : State) mask : exec (.fence mask) s = execFence mask s := rfl
@[simp] theorem exec_cireq (s : State) a b : exec (.cireq a b) s = execCireq a b s := rfl
@[simp] theorem exec_aadd (s : State) d base b q : exec (.aadd d base b q) s = execAadd d base b q s := rfl
@[simp] theorem exec_afadd (s : State) d base b q : exec (.afadd d base b q) s = execAfadd d base b q s := rfl
@[simp] theorem exec_axchg (s : State) d base b q : exec (.axchg d base b q) s = execAxchg d base b q s := rfl
@[simp] theorem exec_acas (s : State) e base b q : exec (.acas e base b q) s = execAcas e base b q s := rfl
@[simp] theorem exec_amin (s : State) d base b q : exec (.amin d base b q) s = execAmin d base b q s := rfl
@[simp] theorem exec_amax (s : State) d base b q : exec (.amax d base b q) s = execAmax d base b q s := rfl
@[simp] theorem exec_aminn (s : State) d base b q : exec (.aminn d base b q) s = execAminn d base b q s := rfl
@[simp] theorem exec_amaxn (s : State) d base b q : exec (.amaxn d base b q) s = execAmaxn d base b q s := rfl
@[simp] theorem exec_aand (s : State) d base b q : exec (.aand d base b q) s = execAand d base b q s := rfl
@[simp] theorem exec_aor (s : State) d base b q : exec (.aor d base b q) s = execAor d base b q s := rfl
@[simp] theorem exec_axor (s : State) d base b q : exec (.axor d base b q) s = execAxor d base b q s := rfl
@[simp] theorem exec_b (s : State) disp : exec (.b disp) s = execB disp s := rfl
@[simp] theorem exec_call (s : State) disp : exec (.call disp) s = execCall disp s := rfl
@[simp] theorem exec_bc (s : State) k disp : exec (.bc k disp) s = execBc k disp s := rfl
@[simp] theorem exec_bcn (s : State) k disp : exec (.bcn k disp) s = execBcn k disp s := rfl
@[simp] theorem exec_jr (s : State) a : exec (.jr a) s = execJr a s := rfl
@[simp] theorem exec_callr (s : State) a : exec (.callr a) s = execCallr a s := rfl
@[simp] theorem exec_ret (s : State) : exec (.ret) s = execRet s := rfl
@[simp] theorem exec_jtab (s : State) a b len : exec (.jtab a b len) s = execJtab a b len s := rfl
@[simp] theorem exec_qrd (s : State) d q : exec (.qrd d q) s = execQrd d q s := rfl
@[simp] theorem exec_qwr (s : State) q a : exec (.qwr q a) s = execQwr q a s := rfl
@[simp] theorem exec_qtryrd (s : State) d q : exec (.qtryrd d q) s = execQtryrd d q s := rfl
@[simp] theorem exec_qtrywr (s : State) q a : exec (.qtrywr q a) s = execQtrywr q a s := rfl
@[simp] theorem exec_shwr (s : State) r a e : exec (.shwr r a e) s = execShwr r a e s := rfl
@[simp] theorem exec_lywr (s : State) r a e : exec (.lywr r a e) s = execLywr r a e s := rfl
@[simp] theorem exec_shswap (s : State) e : exec (.shswap e) s = execShswap e s := rfl
@[simp] theorem exec_csel (s : State) d a k : exec (.csel d a k) s = execCsel d a k s := rfl
@[simp] theorem exec_pchk (s : State) k a : exec (.pchk k a) s = execPchk k a s := rfl
@[simp] theorem exec_pclr (s : State) d a : exec (.pclr d a) s = execPclr d a s := rfl
@[simp] theorem exec_srr (s : State) d n : exec (.srr d n) s = execSrr d n s := rfl
@[simp] theorem exec_srw (s : State) n a : exec (.srw n a) s = execSrw n a s := rfl
@[simp] theorem exec_crcfgWrite (s : State) ring a : exec (.crcfgWrite ring a) s = execCrcfgWrite ring a s := rfl
@[simp] theorem exec_crrpWrite (s : State) ring a : exec (.crrpWrite ring a) s = execCrrpWrite ring a s := rfl
@[simp] theorem exec_crwpWrite (s : State) ring a : exec (.crwpWrite ring a) s = execCrwpWrite ring a s := rfl
@[simp] theorem exec_mcinvWrite (s : State) a : exec (.mcinvWrite a) s = execMcinvWrite a s := rfl
@[simp] theorem exec_vstatWrite (s : State) a : exec (.vstatWrite a) s = execVstatWrite a s := rfl
@[simp] theorem exec_mlcfgWrite (s : State) a : exec (.mlcfgWrite a) s = execMlcfgWrite a s := rfl
@[simp] theorem exec_uiret (s : State) : exec (.uiret) s = execUiret s := rfl
@[simp] theorem exec_smwait (s : State) d a n : exec (.smwait d a n) s = execSmwait d a n s := rfl
@[simp] theorem exec_smadd (s : State) d a n : exec (.smadd d a n) s = execSmadd d a n s := rfl
@[simp] theorem exec_mxlock (s : State) n : exec (.mxlock n) s = execMxlock n s := rfl
@[simp] theorem exec_mxfree (s : State) n : exec (.mxfree n) s = execMxfree n s := rfl
@[simp] theorem exec_dbar (s : State) d a : exec (.dbar d a) s = execDbar d a s := rfl
@[simp] theorem exec_moor (s : State) d a b : exec (.moor d a b) s = execMoor d a b s := rfl
@[simp] theorem exec_yieldPoint (s : State) a : exec (.yieldPoint a) s = execYieldPoint a s := rfl
@[simp] theorem exec_yieldEnd (s : State) a : exec (.yieldEnd a) s = execYieldEnd a s := rfl
@[simp] theorem exec_launch (s : State) d a b : exec (.launch d a b) s = execLaunch d a b s := rfl
@[simp] theorem exec_allocRing (s : State) d a b : exec (.allocRing d a b) s = execAllocRing d a b s := rfl
@[simp] theorem exec_allocBump (s : State) d a b : exec (.allocBump d a b) s = execAllocBump d a b s := rfl
@[simp] theorem exec_allocStatus (s : State) d a b : exec (.allocStatus d a b) s = execAllocStatus d a b s := rfl
@[simp] theorem exec_freeRing (s : State) a b : exec (.freeRing a b) s = execFreeRing a b s := rfl
@[simp] theorem exec_freeBump (s : State) a b : exec (.freeBump a b) s = execFreeBump a b s := rfl
@[simp] theorem exec_attn (s : State) a b : exec (.attn a b) s = execAttn a b s := rfl
@[simp] theorem exec_atcommit (s : State) a b : exec (.atcommit a b) s = execAtcommit a b s := rfl
@[simp] theorem exec_atdrop (s : State) a b : exec (.atdrop a b) s = execAtdrop a b s := rfl
@[simp] theorem exec_exalloc (s : State) d a b : exec (.exalloc d a b) s = execExalloc d a b s := rfl
@[simp] theorem exec_exfree (s : State) a b : exec (.exfree a b) s = execExfree a b s := rfl
@[simp] theorem exec_exinv (s : State) d a b : exec (.exinv d a b) s = execExinv d a b s := rfl
@[simp] theorem exec_sample (s : State) a b : exec (.sample a b) s = execSample a b s := rfl
@[simp] theorem exec_sbind (s : State) a b : exec (.sbind a b) s = execSbind a b s := rfl
@[simp] theorem exec_hins (s : State) d a b : exec (.hins d a b) s = execHins d a b s := rfl
@[simp] theorem exec_htop (s : State) d a b : exec (.htop d a b) s = execHtop d a b s := rfl
@[simp] theorem exec_hclr (s : State) a b : exec (.hclr a b) s = execHclr a b s := rfl
@[simp] theorem exec_obqry (s : State) d a b : exec (.obqry d a b) s = execObqry d a b s := rfl
@[simp] theorem exec_obprobe (s : State) d a b : exec (.obprobe d a b) s = execObprobe d a b s := rfl
@[simp] theorem exec_trap (s : State) a : exec (.trap a) s = execTrap a s := rfl
@[simp] theorem exec_retsReturn (s : State) a : exec (.retsReturn a) s = execRetsReturn a s := rfl
@[simp] theorem exec_retsEnd (s : State) a : exec (.retsEnd a) s = execRetsEnd a s := rfl
@[simp] theorem exec_snap (s : State) a : exec (.snap a) s = execSnap a s := rfl
@[simp] theorem exec_rpctlRdst (s : State) d a b : exec (.rpctlRdst d a b) s = execRpctlRdst d a b s := rfl
@[simp] theorem exec_rpctlCk (s : State) d a b : exec (.rpctlCk d a b) s = execRpctlCk d a b s := rfl
@[simp] theorem exec_rpctlRdhash (s : State) d a b : exec (.rpctlRdhash d a b) s = execRpctlRdhash d a b s := rfl
@[simp] theorem exec_rpctlConfig (s : State) d a b : exec (.rpctlConfig d a b) s = execRpctlConfig d a b s := rfl
@[simp] theorem exec_rpctlStop (s : State) d a b : exec (.rpctlStop d a b) s = execRpctlStop d a b s := rfl
@[simp] theorem exec_vld (s : State) q d ly off g : exec (.vld q d ly off g) s = execVld q d ly off g s := rfl
@[simp] theorem exec_vst (s : State) q v ly off g : exec (.vst q v ly off g) s = execVst q v ly off g s := rfl
@[simp] theorem exec_vldwait (s : State) q d ly off g : exec (.vldwait q d ly off g) s = execVldwait q d ly off g s := rfl
@[simp] theorem exec_vldcons (s : State) q d ly off g : exec (.vldcons q d ly off g) s = execVldcons q d ly off g s := rfl
@[simp] theorem exec_vstfill (s : State) q v ly off g : exec (.vstfill q v ly off g) s = execVstfill q v ly off g s := rfl
@[simp] theorem exec_vgath (s : State) q d ly off g : exec (.vgath q d ly off g) s = execVgath q d ly off g s := rfl
@[simp] theorem exec_vscat (s : State) q v ly off g : exec (.vscat q v ly off g) s = execVscat q v ly off g s := rfl
@[simp] theorem exec_mma (s : State) w m : exec (.mma w m) s = execMma w m s := rfl
@[simp] theorem exec_mmaz (s : State) w m : exec (.mmaz w m) s = execMmaz w m s := rfl
@[simp] theorem exec_mmasg (s : State) w m : exec (.mmasg w m) s = execMmasg w m s := rfl
@[simp] theorem exec_fset (s : State) w n v : exec (.fset w n v) s = execFset w n v s := rfl
@[simp] theorem exec_fqrd (s : State) w n : exec (.fqrd w n) s = execFqrd w n s := rfl
@[simp] theorem exec_mthr (s : State) w v : exec (.mthr w v) s = execMthr w v s := rfl
@[simp] theorem exec_scld (s : State) w fmt count1 src cls didx : exec (.scld w fmt count1 src cls didx) s = execScld w fmt count1 src cls didx s := rfl
@[simp] theorem exec_acczero (s : State) w tile count1 : exec (.acczero w tile count1) s = execAcczero w tile count1 s := rfl
@[simp] theorem exec_epil (s : State) w e dst : exec (.epil w e dst) s = execEpil w e dst s := rfl
@[simp] theorem exec_epobj (s : State) w e ly row0 : exec (.epobj w e ly row0) s = execEpobj w e ly row0 s := rfl
@[simp] theorem exec_eprow (s : State) w e taddr : exec (.eprow w e taddr) s = execEprow w e taddr s := rfl
@[simp] theorem exec_epadd (s : State) w e taddr : exec (.epadd w e taddr) s = execEpadd w e taddr s := rfl
@[simp] theorem exec_accst (s : State) w tile addr cls scope : exec (.accst w tile addr cls scope) s = execAccst w tile addr cls scope s := rfl
@[simp] theorem exec_accld (s : State) w tile addr cls scope : exec (.accld w tile addr cls scope) s = execAccld w tile addr cls scope s := rfl
@[simp] theorem exec_mqwr (s : State) w tag : exec (.mqwr w tag) s = execMqwr w tag s := rfl
@[simp] theorem exec_mqwrSt (s : State) w : exec (.mqwrSt w) s = execMqwrSt w s := rfl
@[simp] theorem exec_mrel (s : State) w : exec (.mrel w) s = execMrel w s := rfl
@[simp] theorem exec_msync (s : State) w : exec (.msync w) s = execMsync w s := rfl
@[simp] theorem exec_mjmp (s : State) w count disp : exec (.mjmp w count disp) s = execMjmp w count disp s := rfl
@[simp] theorem exec_tmov (s : State) w m lys lyd soff doff count1 : exec (.tmov w m lys lyd soff doff count1) s = execTmov w m lys lyd soff doff count1 s := rfl
@[simp] theorem exec_tmov2d (s : State) w m lys lyd rec : exec (.tmov2d w m lys lyd rec) s = execTmov2d w m lys lyd rec s := rfl
@[simp] theorem exec_rrot (s : State) w m dist saddr daddr count1 : exec (.rrot w m dist saddr daddr count1) s = execRrot w m dist saddr daddr count1 s := rfl
@[simp] theorem exec_gath (s : State) w m lys lyd iaddr rowb rows1 : exec (.gath w m lys lyd iaddr rowb rows1) s = execGath w m lys lyd iaddr rowb rows1 s := rfl
@[simp] theorem exec_scat (s : State) w m lys lyd iaddr rowb rows1 : exec (.scat w m lys lyd iaddr rowb rows1) s = execScat w m lys lyd iaddr rowb rows1 s := rfl
@[simp] theorem exec_rpush (s : State) w m lys rg soff : exec (.rpush w m lys rg soff) s = execRpush w m lys rg soff s := rfl
@[simp] theorem exec_cfill (s : State) w m lyd doff count1 pat : exec (.cfill w m lyd doff count1 pat) s = execCfill w m lyd doff count1 pat s := rfl
@[simp] theorem exec_crstr (s : State) w m lys ring soff words1 : exec (.crstr w m lys ring soff words1) s = execCrstr w m lys ring soff words1 s := rfl
@[simp] theorem exec_csync (s : State) w pop : exec (.csync w pop) s = execCsync w pop s := rfl
@[simp] theorem exec_cqwr (s : State) w tag : exec (.cqwr w tag) s = execCqwr w tag s := rfl
@[simp] theorem exec_fwr (s : State) w m lys lyd soff doff pkg count1 : exec (.fwr w m lys lyd soff doff pkg count1) s = execFwr w m lys lyd soff doff pkg count1 s := rfl
@[simp] theorem exec_frd (s : State) w m lys lyd soff doff pkg count1 : exec (.frd w m lys lyd soff doff pkg count1) s = execFrd w m lys lyd soff doff pkg count1 s := rfl
@[simp] theorem exec_fatom (s : State) w aop lyd doff oaddr pkg : exec (.fatom w aop lyd doff oaddr pkg) s = execFatom w aop lyd doff oaddr pkg s := rfl
@[simp] theorem exec_lbregBuffer (s : State) w rec : exec (.lbregBuffer w rec) s = execLbregBuffer w rec s := rfl
@[simp] theorem exec_lbregPort (s : State) w rec : exec (.lbregPort w rec) s = execLbregPort w rec s := rfl
@[simp] theorem exec_lbregClose (s : State) w rec : exec (.lbregClose w rec) s = execLbregClose w rec s := rfl
@[simp] theorem exec_lbregOpen (s : State) w rec : exec (.lbregOpen w rec) s = execLbregOpen w rec s := rfl
@[simp] theorem exec_lbregRedirect (s : State) w rec : exec (.lbregRedirect w rec) s = execLbregRedirect w rec s := rfl
@[simp] theorem exec_lbrelBuffer (s : State) w key : exec (.lbrelBuffer w key) s = execLbrelBuffer w key s := rfl
@[simp] theorem exec_lbrelPort (s : State) w h : exec (.lbrelPort w h) s = execLbrelPort w h s := rfl
@[simp] theorem exec_a2av (s : State) w m desc : exec (.a2av w m desc) s = execA2av w m desc s := rfl
@[simp] theorem exec_rscat (s : State) w m desc : exec (.rscat w m desc) s = execRscat w m desc s := rfl
@[simp] theorem exec_agath (s : State) w m desc : exec (.agath w m desc) s = execAgath w m desc s := rfl
@[simp] theorem exec_bcast (s : State) w m desc : exec (.bcast w m desc) s = execBcast w m desc s := rfl
@[simp] theorem exec_pgmovUp (s : State) w h k staddr : exec (.pgmovUp w h k staddr) s = execPgmovUp w h k staddr s := rfl
@[simp] theorem exec_pgmovDown (s : State) w h k staddr : exec (.pgmovDown w h k staddr) s = execPgmovDown w h k staddr s := rfl
@[simp] theorem exec_feset (s : State) w m lyd doff count1 : exec (.feset w m lyd doff count1) s = execFeset w m lyd doff count1 s := rfl
@[simp] theorem exec_obcopy (s : State) w h k nslot : exec (.obcopy w h k nslot) s = execObcopy w h k nslot s := rfl
@[simp] theorem exec_vadd (s : State) q d a b g : exec (.vadd q d a b g) s = execVadd q d a b g s := rfl
@[simp] theorem exec_vsub (s : State) q d a b g : exec (.vsub q d a b g) s = execVsub q d a b g s := rfl
@[simp] theorem exec_vmul (s : State) q d a b g : exec (.vmul q d a b g) s = execVmul q d a b g s := rfl
@[simp] theorem exec_vfma (s : State) q d a b g : exec (.vfma q d a b g) s = execVfma q d a b g s := rfl
@[simp] theorem exec_vfnma (s : State) q d a b g : exec (.vfnma q d a b g) s = execVfnma q d a b g s := rfl
@[simp] theorem exec_vmin (s : State) q d a b g : exec (.vmin q d a b g) s = execVmin q d a b g s := rfl
@[simp] theorem exec_vmax (s : State) q d a b g : exec (.vmax q d a b g) s = execVmax q d a b g s := rfl
@[simp] theorem exec_vabs (s : State) q d a g : exec (.vabs q d a g) s = execVabs q d a g s := rfl
@[simp] theorem exec_vneg (s : State) q d a g : exec (.vneg q d a g) s = execVneg q d a g s := rfl
@[simp] theorem exec_vadds (s : State) q d a b g : exec (.vadds q d a b g) s = execVadds q d a b g s := rfl
@[simp] theorem exec_vsubs (s : State) q d a b g : exec (.vsubs q d a b g) s = execVsubs q d a b g s := rfl
@[simp] theorem exec_vmulh (s : State) q d a b g : exec (.vmulh q d a b g) s = execVmulh q d a b g s := rfl
@[simp] theorem exec_vceq (s : State) q pd a b g : exec (.vceq q pd a b g) s = execVceq q pd a b g s := rfl
@[simp] theorem exec_vcne (s : State) q pd a b g : exec (.vcne q pd a b g) s = execVcne q pd a b g s := rfl
@[simp] theorem exec_vclt (s : State) q pd a b g : exec (.vclt q pd a b g) s = execVclt q pd a b g s := rfl
@[simp] theorem exec_vcle (s : State) q pd a b g : exec (.vcle q pd a b g) s = execVcle q pd a b g s := rfl
@[simp] theorem exec_vcgt (s : State) q pd a b g : exec (.vcgt q pd a b g) s = execVcgt q pd a b g s := rfl
@[simp] theorem exec_vcge (s : State) q pd a b g : exec (.vcge q pd a b g) s = execVcge q pd a b g s := rfl
@[simp] theorem exec_vsel (s : State) q d a b g : exec (.vsel q d a b g) s = execVsel q d a b g s := rfl
@[simp] theorem exec_vcsel (s : State) q d a b g : exec (.vcsel q d a b g) s = execVcsel q d a b g s := rfl
@[simp] theorem exec_vcvt (s : State) q d a dir g : exec (.vcvt q d a dir g) s = execVcvt q d a dir g s := rfl
@[simp] theorem exec_vmov (s : State) q d a g : exec (.vmov q d a g) s = execVmov q d a g s := rfl
@[simp] theorem exec_vand (s : State) q d a b g : exec (.vand q d a b g) s = execVand q d a b g s := rfl
@[simp] theorem exec_vor (s : State) q d a b g : exec (.vor q d a b g) s = execVor q d a b g s := rfl
@[simp] theorem exec_vxor (s : State) q d a b g : exec (.vxor q d a b g) s = execVxor q d a b g s := rfl
@[simp] theorem exec_vnot (s : State) q d a g : exec (.vnot q d a g) s = execVnot q d a g s := rfl
@[simp] theorem exec_vshl (s : State) q d a b g : exec (.vshl q d a b g) s = execVshl q d a b g s := rfl
@[simp] theorem exec_vshr (s : State) q d a b g : exec (.vshr q d a b g) s = execVshr q d a b g s := rfl
@[simp] theorem exec_vsar (s : State) q d a b g : exec (.vsar q d a b g) s = execVsar q d a b g s := rfl
@[simp] theorem exec_vxrot (s : State) q d a b g : exec (.vxrot q d a b g) s = execVxrot q d a b g s := rfl
@[simp] theorem exec_vxbc (s : State) q d a b g : exec (.vxbc q d a b g) s = execVxbc q d a b g s := rfl
@[simp] theorem exec_vxred (s : State) q d a op g : exec (.vxred q d a op g) s = execVxred q d a op g s := rfl
@[simp] theorem exec_vyrot (s : State) q d a b g : exec (.vyrot q d a b g) s = execVyrot q d a b g s := rfl
@[simp] theorem exec_vybc (s : State) q d a b g : exec (.vybc q d a b g) s = execVybc q d a b g s := rfl
@[simp] theorem exec_vyred (s : State) q d a op g : exec (.vyred q d a op g) s = execVyred q d a op g s := rfl
@[simp] theorem exec_vwalk (s : State) sg ly start : exec (.vwalk sg ly start) s = execVwalk sg ly start s := rfl
@[simp] theorem exec_vsgred (s : State) q d a op g : exec (.vsgred q d a op g) s = execVsgred q d a op g s := rfl
@[simp] theorem exec_vsgscan (s : State) q d a op g : exec (.vsgscan q d a op g) s = execVsgscan q d a op g s := rfl
@[simp] theorem exec_vpack (s : State) q d a kind g : exec (.vpack q d a kind g) s = execVpack q d a kind g s := rfl
@[simp] theorem exec_vperm (s : State) q d a b g : exec (.vperm q d a b g) s = execVperm q d a b g s := rfl
@[simp] theorem exec_vtrans (s : State) q d a g : exec (.vtrans q d a g) s = execVtrans q d a g s := rfl
@[simp] theorem exec_vshuf (s : State) q d a b g : exec (.vshuf q d a b g) s = execVshuf q d a b g s := rfl
@[simp] theorem exec_vrcp (s : State) q d a g : exec (.vrcp q d a g) s = execVrcp q d a g s := rfl
@[simp] theorem exec_vrsqrt (s : State) q d a g : exec (.vrsqrt q d a g) s = execVrsqrt q d a g s := rfl
@[simp] theorem exec_vsqrt (s : State) q d a g : exec (.vsqrt q d a g) s = execVsqrt q d a g s := rfl
@[simp] theorem exec_vexp2 (s : State) q d a g : exec (.vexp2 q d a g) s = execVexp2 q d a g s := rfl
@[simp] theorem exec_vlog2 (s : State) q d a g : exec (.vlog2 q d a g) s = execVlog2 q d a g s := rfl
@[simp] theorem exec_vtanh (s : State) q d a g : exec (.vtanh q d a g) s = execVtanh q d a g s := rfl
@[simp] theorem exec_vsigm (s : State) q d a g : exec (.vsigm q d a g) s = execVsigm q d a g s := rfl
@[simp] theorem exec_vqrd (s : State) q oq ly off g : exec (.vqrd q oq ly off g) s = execVqrd q oq ly off g s := rfl
@[simp] theorem exec_vpand (s : State) d a b : exec (.vpand d a b) s = execVpand d a b s := rfl
@[simp] theorem exec_vpor (s : State) d a b : exec (.vpor d a b) s = execVpor d a b s := rfl
@[simp] theorem exec_vpxor (s : State) d a b : exec (.vpxor d a b) s = execVpxor d a b s := rfl
@[simp] theorem exec_vpnot (s : State) d a : exec (.vpnot d a) s = execVpnot d a s := rfl
@[simp] theorem exec_vloop (s : State) stages mask n : exec (.vloop stages mask n) s = execVloop stages mask n s := rfl
@[simp] theorem exec_vlend (s : State) : exec (.vlend) s = execVlend s := rfl
@[simp] theorem exec_vbset (s : State) c v : exec (.vbset c v) s = execVbset c v s := rfl
@[simp] theorem exec_vbadd (s : State) c v : exec (.vbadd c v) s = execVbadd c v s := rfl
@[simp] theorem exec_vsmwait (s : State) n v : exec (.vsmwait n v) s = execVsmwait n v s := rfl
@[simp] theorem exec_vsmadd (s : State) n v : exec (.vsmadd n v) s = execVsmadd n v s := rfl
@[simp] theorem exec_vqget (s : State) d mode g : exec (.vqget d mode g) s = execVqget d mode g s := rfl
@[simp] theorem exec_vqput (s : State) v mode : exec (.vqput v mode) s = execVqput v mode s := rfl
@[simp] theorem exec_sld (s : State) d a idx : exec (.sld d a idx) s = execSld d a idx s := rfl
@[simp] theorem exec_scst (s : State) a b : exec (.scst a b) s = execScst a b s := rfl
@[simp] theorem exec_sadd (s : State) d a b : exec (.sadd d a b) s = execSadd d a b s := rfl
@[simp] theorem exec_ssub (s : State) d a b : exec (.ssub d a b) s = execSsub d a b s := rfl
@[simp] theorem exec_smul (s : State) d a b : exec (.smul d a b) s = execSmul d a b s := rfl
@[simp] theorem exec_sfma (s : State) d a b : exec (.sfma d a b) s = execSfma d a b s := rfl
@[simp] theorem exec_smax (s : State) d a b : exec (.smax d a b) s = execSmax d a b s := rfl
@[simp] theorem exec_smin (s : State) d a b : exec (.smin d a b) s = execSmin d a b s := rfl
@[simp] theorem exec_sexp2 (s : State) d a : exec (.sexp2 d a) s = execSexp2 d a s := rfl
@[simp] theorem exec_slog2 (s : State) d a : exec (.slog2 d a) s = execSlog2 d a s := rfl
@[simp] theorem exec_srcp (s : State) d a : exec (.srcp d a) s = execSrcp d a s := rfl
@[simp] theorem exec_sbc (s : State) d a : exec (.sbc d a) s = execSbc d a s := rfl
@[simp] theorem exec_sxred (s : State) d a op : exec (.sxred d a op) s = execSxred d a op s := rfl
@[simp] theorem exec_smov (s : State) d a : exec (.smov d a) s = execSmov d a s := rfl
@[simp] theorem exec_shmov (s : State) d v : exec (.shmov d v) s = execShmov d v s := rfl
@[simp] theorem exec_shadd (s : State) d a v : exec (.shadd d a v) s = execShadd d a v s := rfl
@[simp] theorem exec_shmul (s : State) d a b : exec (.shmul d a b) s = execShmul d a b s := rfl
@[simp] theorem exec_scmp (s : State) d a b c : exec (.scmp d a b c) s = execScmp d a b c s := rfl
@[simp] theorem exec_ssel (s : State) d a b : exec (.ssel d a b) s = execSsel d a b s := rfl
@[simp] theorem exec_stbl (s : State) d a table : exec (.stbl d a table) s = execStbl d a table s := rfl
@[simp] theorem exec_stbw (s : State) a b table : exec (.stbw a b table) s = execStbw a b table s := rfl
@[simp] theorem exec_smask (s : State) d a : exec (.smask d a) s = execSmask d a s := rfl
@[simp] theorem exec_spsort (s : State) a : exec (.spsort a) s = execSpsort a s := rfl
@[simp] theorem exec_scsum (s : State) d : exec (.scsum d) s = execScsum d s := rfl
@[simp] theorem exec_sdrawDraw (s : State) d a b : exec (.sdrawDraw d a b) s = execSdrawDraw d a b s := rfl
@[simp] theorem exec_sdrawCut (s : State) d a b : exec (.sdrawCut d a b) s = execSdrawCut d a b s := rfl
@[simp] theorem exec_sgen (s : State) d g mode : exec (.sgen d g mode) s = execSgen d g mode s := rfl
@[simp] theorem exec_saccept (s : State) d a b n g : exec (.saccept d a b n g) s = execSaccept d a b n g s := rfl
@[simp] theorem exec_sbnz (s : State) a disp : exec (.sbnz a disp) s = execSbnz a disp s := rfl
@[simp] theorem exec_sjmp (s : State) disp : exec (.sjmp disp) s = execSjmp disp s := rfl
@[simp] theorem exec_sendToken (s : State) a : exec (.sendToken a) s = execSendToken a s := rfl
@[simp] theorem exec_sendCount (s : State) a : exec (.sendCount a) s = execSendCount a s := rfl
@[simp] theorem exec_sendBlock (s : State) a : exec (.sendBlock a) s = execSendBlock a s := rfl
@[simp] theorem exec_sendNone (s : State) a : exec (.sendNone a) s = execSendNone a s := rfl
@[simp] theorem exec_ssoft (s : State) d : exec (.ssoft d) s = execSsoft d s := rfl
@[simp] theorem exec_attnAccept (s : State) ad id : exec (.attnAccept ad id) s = execAttnAccept ad id s := rfl
@[simp] theorem exec_attnComplete (s : State) ad id : exec (.attnComplete ad id) s = execAttnComplete ad id s := rfl
@[simp] theorem exec_exclusiveAccept (s : State) ad id : exec (.exclusiveAccept ad id) s = execExclusiveAccept ad id s := rfl
@[simp] theorem exec_exinvSwitch (s : State) ad seq : exec (.exinvSwitch ad seq) s = execExinvSwitch ad seq s := rfl
@[simp] theorem exec_exinvDrain (s : State) ad seq : exec (.exinvDrain ad seq) s = execExinvDrain ad seq s := rfl
@[simp] theorem exec_gateRelease (s : State) c t : exec (.gateRelease c t) s = execGateRelease c t s := rfl
@[simp] theorem exec_vqrdImageArrival (s : State) c oq k : exec (.vqrdImageArrival c oq k) s = execVqrdImageArrival c oq k s := rfl
@[simp] theorem exec_leaseGrant (s : State) c : exec (.leaseGrant c) s = execLeaseGrant c s := rfl
@[simp] theorem exec_matrixStepComplete (s : State) c b id : exec (.matrixStepComplete c b id) s = execMatrixStepComplete c b id s := rfl
@[simp] theorem exec_copyStepComplete (s : State) c id : exec (.copyStepComplete c id) s = execCopyStepComplete c id s := rfl
@[simp] theorem exec_collectiveMessageArrival (s : State) msg : exec (.collectiveMessageArrival msg) s = execCollectiveMessageArrival msg s := rfl
@[simp] theorem exec_bounceResend (s : State) id : exec (.bounceResend id) s = execBounceResend id s := rfl
@[simp] theorem exec_collectiveComplete (s : State) c id : exec (.collectiveComplete c id) s = execCollectiveComplete c id s := rfl
@[simp] theorem exec_collectiveTimeout (s : State) c id : exec (.collectiveTimeout c id) s = execCollectiveTimeout c id s := rfl
@[simp] theorem exec_obcopySwitch (s : State) c id : exec (.obcopySwitch c id) s = execObcopySwitch c id s := rfl
@[simp] theorem exec_sampleAccept (s : State) cl : exec (.sampleAccept cl) s = execSampleAccept cl s := rfl
@[simp] theorem exec_samplerBlock (s : State) cl : exec (.samplerBlock cl) s = execSamplerBlock cl s := rfl
@[simp] theorem exec_samplerFinalPhase (s : State) cl : exec (.samplerFinalPhase cl) s = execSamplerFinalPhase cl s := rfl
@[simp] theorem exec_watchdogExhausted (s : State) cl : exec (.watchdogExhausted cl) s = execWatchdogExhausted cl s := rfl
@[simp] theorem exec_sampleComplete (s : State) cl : exec (.sampleComplete cl) s = execSampleComplete cl s := rfl
@[simp] theorem exec_shardContribution (s : State) msg : exec (.shardContribution msg) s = execShardContribution msg s := rfl
@[simp] theorem exec_shardTokenArrival (s : State) cl r : exec (.shardTokenArrival cl r) s = execShardTokenArrival cl r s := rfl
@[simp] theorem exec_rootTimeout (s : State) cl : exec (.rootTimeout cl) s = execRootTimeout cl s := rfl
@[simp] theorem exec_shardReplyTimeout (s : State) cl : exec (.shardReplyTimeout cl) s = execShardReplyTimeout cl s := rfl
@[simp] theorem exec_contributionHoldTimeout (s : State) cl k : exec (.contributionHoldTimeout cl k) s = execContributionHoldTimeout cl k s := rfl
@[simp] theorem exec_rowArrival (s : State) msg : exec (.rowArrival msg) s = execRowArrival msg s := rfl
@[simp] theorem exec_rowAck (s : State) id reply : exec (.rowAck id reply) s = execRowAck id reply s := rfl
@[simp] theorem exec_fabricMessageArrival (s : State) msg : exec (.fabricMessageArrival msg) s = execFabricMessageArrival msg s := rfl
@[simp] theorem exec_fabricAtomicHome (s : State) msg : exec (.fabricAtomicHome msg) s = execFabricAtomicHome msg s := rfl
@[simp] theorem exec_fabricReply (s : State) id reply : exec (.fabricReply id reply) s = execFabricReply id reply s := rfl
@[simp] theorem exec_fabricReplyTimeout (s : State) id : exec (.fabricReplyTimeout id) s = execFabricReplyTimeout id s := rfl
@[simp] theorem exec_waitRetry (s : State) c t : exec (.waitRetry c t) s = execWaitRetry c t s := rfl
@[simp] theorem exec_moorWakeAttempt (s : State) c t : exec (.moorWakeAttempt c t) s = execMoorWakeAttempt c t s := rfl
@[simp] theorem exec_moorPoolRetry (s : State) c t : exec (.moorPoolRetry c t) s = execMoorPoolRetry c t s := rfl
@[simp] theorem exec_feExpire (s : State) c t : exec (.feExpire c t) s = execFeExpire c t s := rfl
@[simp] theorem exec_moorExpire (s : State) c : exec (.moorExpire c) s = execMoorExpire c s := rfl
@[simp] theorem exec_stepWaitExpire (s : State) c t : exec (.stepWaitExpire c t) s = execStepWaitExpire c t s := rfl
@[simp] theorem exec_replayHoldExpire (s : State) c t : exec (.replayHoldExpire c t) s = execReplayHoldExpire c t s := rfl
@[simp] theorem exec_swapPoint (s : State) c e : exec (.swapPoint c e) s = execSwapPoint c e s := rfl
@[simp] theorem exec_userEventDelivery (s : State) c : exec (.userEventDelivery c) s = execUserEventDelivery c s := rfl
@[simp] theorem exec_asyncTrapDelivery (s : State) c e : exec (.asyncTrapDelivery c e) s = execAsyncTrapDelivery c e s := rfl
@[simp] theorem exec_pagerPromotion (s : State) ctx h k : exec (.pagerPromotion ctx h k) s = execPagerPromotion ctx h k s := rfl
@[simp] theorem exec_tqtailWrite (s : State) q v : exec (.tqtailWrite q v) s = execTqtailWrite q v s := rfl
@[simp] theorem exec_tqctlWrite (s : State) q v : exec (.tqctlWrite q v) s = execTqctlWrite q v s := rfl
@[simp] theorem exec_registerWrite (s : State) off v fw : exec (.registerWrite off v fw) s = execRegisterWrite off v fw s := rfl
@[simp] theorem exec_hostBar4Write (s : State) off data : exec (.hostBar4Write off data) s = execHostBar4Write off data s := rfl
@[simp] theorem exec_hostBar4Read (s : State) off n : exec (.hostBar4Read off n) s = execHostBar4Read off n s := rfl
@[simp] theorem exec_hostFeByteWrite (s : State) off v : exec (.hostFeByteWrite off v) s = execHostFeByteWrite off v s := rfl
@[simp] theorem exec_taskAdmission (s : State) far : exec (.taskAdmission far) s = execTaskAdmission far s := rfl
@[simp] theorem exec_taskDispatch (s : State) : exec (.taskDispatch) s = execTaskDispatch s := rfl
@[simp] theorem exec_tokenAging (s : State) id : exec (.tokenAging id) s = execTokenAging id s := rfl
@[simp] theorem exec_preemptionDecision (s : State) far : exec (.preemptionDecision far) s = execPreemptionDecision far s := rfl
@[simp] theorem exec_drainTimeout (s : State) id : exec (.drainTimeout id) s = execDrainTimeout id s := rfl
@[simp] theorem exec_checkpointSave (s : State) id : exec (.checkpointSave id) s = execCheckpointSave id s := rfl
@[simp] theorem exec_taskKill (s : State) id : exec (.taskKill id) s = execTaskKill id s := rfl
@[simp] theorem exec_restore (s : State) : exec (.restore) s = execRestore s := rfl
@[simp] theorem exec_coreShareEnd (s : State) c : exec (.coreShareEnd c) s = execCoreShareEnd c s := rfl
@[simp] theorem exec_taskRetire (s : State) id far : exec (.taskRetire id far) s = execTaskRetire id far s := rfl
@[simp] theorem exec_taskComplete (s : State) id : exec (.taskComplete id) s = execTaskComplete id s := rfl
@[simp] theorem exec_ckrqctlGo (s : State) v : exec (.ckrqctlGo v) s = execCkrqctlGo v s := rfl
@[simp] theorem exec_bootctlGo (s : State) v : exec (.bootctlGo v) s = execBootctlGo v s := rfl
@[simp] theorem exec_firmwareVerifyDone (s : State) : exec (.firmwareVerifyDone) s = execFirmwareVerifyDone s := rfl
@[simp] theorem exec_attctlGo (s : State) v : exec (.attctlGo v) s = execAttctlGo v s := rfl
@[simp] theorem exec_attestationResponse (s : State) : exec (.attestationResponse) s = execAttestationResponse s := rfl
@[simp] theorem exec_measurementExtend (s : State) ins d label : exec (.measurementExtend ins d label) s = execMeasurementExtend ins d label s := rfl
@[simp] theorem exec_powerCapWrite (s : State) w : exec (.powerCapWrite w) s = execPowerCapWrite w s := rfl
@[simp] theorem exec_routeWrite (s : State) dst port : exec (.routeWrite dst port) s = execRouteWrite dst port s := rfl
@[simp] theorem exec_firmwareDma (s : State) write addr n data : exec (.firmwareDma write addr n data) s = execFirmwareDma write addr n data s := rfl
@[simp] theorem exec_firmwareHbmAccess (s : State) write acc n data : exec (.firmwareHbmAccess write acc n data) s = execFirmwareHbmAccess write acc n data s := rfl
@[simp] theorem exec_contextCreate (s : State) ctx cfg : exec (.contextCreate ctx cfg) s = execContextCreate ctx cfg s := rfl
@[simp] theorem exec_contextDestroy (s : State) ctx : exec (.contextDestroy ctx) s = execContextDestroy ctx s := rfl
@[simp] theorem exec_coldReset (s : State) faulty : exec (.coldReset faulty) s = execColdReset faulty s := rfl
@[simp] theorem exec_throttleDown (s : State) : exec (.throttleDown) s = execThrottleDown s := rfl
@[simp] theorem exec_throttleUp (s : State) : exec (.throttleUp) s = execThrottleUp s := rfl
@[simp] theorem exec_thermalTrip (s : State) : exec (.thermalTrip) s = execThermalTrip s := rfl
@[simp] theorem exec_bellPin (s : State) : exec (.bellPin) s = execBellPin s := rfl
@[simp] theorem exec_bellMessage (s : State) src : exec (.bellMessage src) s = execBellMessage src s := rfl
@[simp] theorem exec_snapshotLatch (s : State) : exec (.snapshotLatch) s = execSnapshotLatch s := rfl
@[simp] theorem exec_fabricBringUp (s : State) pkg group ports : exec (.fabricBringUp pkg group ports) s = execFabricBringUp pkg group ports s := rfl

end Sys2Proof.Machine
end

