-- ==== Sys2Proof/Laws/Mem.lean ====
section
/-! SUPPORT. Memory: the canonical form, which every memory operation keeps, and reading after writing. -/

namespace Sys2Proof.Machine

/-! The byte list. -/

theorem cellsWfFrom_weaken {l : List Host.Cell} {lo lo' : Option Nat} (h : cellsWfFrom lo l = true)
    (hlo : ∀ a, lo' = some a → ∃ b, lo = some b ∧ a ≤ b) : cellsWfFrom lo' l = true := by
  cases l with
  | nil => rfl
  | cons c r =>
    obtain ⟨k, v⟩ := c
    simp only [cellsWfFrom, Bool.and_eq_true] at h ⊢
    refine ⟨⟨?_, h.1.2⟩, h.2⟩
    cases lo' with
    | none => rfl
    | some a =>
      obtain ⟨b, rfl, hab⟩ := hlo a rfl
      have := h.1.1
      simp only [decide_eq_true_eq] at this ⊢
      omega

theorem cellsWrite_wf {l : List Host.Cell} {lo : Option Nat} {a : Nat} {b : Byte} (h : cellsWfFrom lo l = true)
    (ha : ∀ x, lo = some x → x < a) : cellsWfFrom lo (cellsWrite l a b) = true := by
  induction l generalizing lo with
  | nil =>
    unfold cellsWrite
    split
    · rfl
    · cases lo <;> simp_all [cellsWfFrom]
  | cons c r ih =>
    obtain ⟨k, v⟩ := c
    simp only [cellsWfFrom, Bool.and_eq_true] at h
    obtain ⟨⟨h1, h2⟩, h3⟩ := h
    unfold cellsWrite
    split
    · rename_i hlt
      split
      · simp only [cellsWfFrom, Bool.and_eq_true]; exact ⟨⟨h1, h2⟩, h3⟩
      · rename_i hb
        simp only [cellsWfFrom, Bool.and_eq_true, bne_iff_ne, ne_eq, hb, not_false_eq_true, decide_eq_true_eq, hlt, and_true, true_and]
        refine ⟨?_, by simpa using h2, h3⟩
        cases lo with
        | none => rfl
        | some x => simpa using ha x rfl
    · split
      · rename_i hne heq
        subst heq
        split
        · exact cellsWfFrom_weaken h3 (fun x hx => ⟨a, rfl, by subst hx; exact Nat.le_of_lt (ha x rfl)⟩)
        · rename_i hb
          simp only [cellsWfFrom, Bool.and_eq_true, bne_iff_ne, ne_eq, hb, not_false_eq_true, and_true]
          exact ⟨h1, h3⟩
      · rename_i hn1 hn2
        simp only [cellsWfFrom, Bool.and_eq_true]
        refine ⟨⟨h1, h2⟩, ih h3 ?_⟩
        intro x hx
        cases hx
        omega

theorem cellsRead_below {l : List Host.Cell} {lo : Nat} (h : cellsWfFrom (some lo) l = true) {a : Nat} (ha : a ≤ lo) : cellsRead l a = unlisted := by
  induction l generalizing lo with
  | nil => rfl
  | cons c r ih =>
    obtain ⟨k, v⟩ := c
    simp only [cellsWfFrom, Bool.and_eq_true, decide_eq_true_eq] at h
    obtain ⟨⟨h1, _⟩, h3⟩ := h
    have hk : k ≠ a := by omega
    simp only [cellsRead, hk, if_false]
    exact ih h3 (by omega)

theorem cellsRead_write {l : List Host.Cell} {lo : Option Nat} (h : cellsWfFrom lo l = true) (a x : Nat) (b : Byte) :
    cellsRead (cellsWrite l a b) x = if x = a then b else cellsRead l x := by
  induction l generalizing lo with
  | nil =>
    unfold cellsWrite
    split
    · rename_i hb
      rw [hb]
      simp [cellsRead]
    · by_cases hx : x = a
      · subst hx; simp [cellsRead]
      · simp only [cellsRead, if_neg (Ne.symm hx), if_neg hx]
  | cons c r ih =>
    obtain ⟨k, v⟩ := c
    simp only [cellsWfFrom, Bool.and_eq_true] at h
    obtain ⟨⟨_, _⟩, h3⟩ := h
    unfold cellsWrite
    split
    · rename_i hlt
      have hbelow : cellsRead ((k, v) :: r) a = unlisted := by
        simp only [cellsRead, show k ≠ a by omega, if_false]
        exact cellsRead_below h3 (by omega)
      split
      · rename_i hb
        subst hb
        by_cases hx : x = a
        · subst hx; simpa using hbelow
        · simp [hx]
      · by_cases hx : x = a
        · subst hx; simp [cellsRead]
        · simp only [cellsRead, if_neg (Ne.symm hx), if_neg hx]
    · split
      · rename_i heq
        subst heq
        split
        · rename_i hb
          subst hb
          by_cases hx : x = a
          · subst hx; simp only [if_true]; exact cellsRead_below h3 (Nat.le_refl _)
          · simp only [cellsRead, if_neg (Ne.symm hx), if_neg hx]
        · by_cases hx : x = a
          · subst hx; simp [cellsRead]
          · simp only [cellsRead, if_neg (Ne.symm hx), if_neg hx]
      · rename_i hn1 hn2
        simp only [cellsRead, ih h3]
        by_cases hk : k = x
        · subst hk; simp [Ne.symm hn2]
        · simp [hk]

/-! The location lists. -/

theorem locsWfFrom_weaken {l : List Nat} {lo lo' : Option Nat} (h : locsWfFrom lo l = true)
    (hlo : ∀ a, lo' = some a → ∃ b, lo = some b ∧ a ≤ b) : locsWfFrom lo' l = true := by
  cases l with
  | nil => rfl
  | cons k r =>
    simp only [locsWfFrom, Bool.and_eq_true] at h ⊢
    refine ⟨?_, h.2⟩
    cases lo' with
    | none => rfl
    | some a =>
      obtain ⟨b, rfl, hab⟩ := hlo a rfl
      have := h.1
      simp only [decide_eq_true_eq] at this ⊢
      omega

theorem locInsert_wf {l : List Nat} {lo : Option Nat} {a : Nat} (h : locsWfFrom lo l = true) (ha : ∀ x, lo = some x → x < a) :
    locsWfFrom lo (locInsert l a) = true := by
  induction l generalizing lo with
  | nil => cases lo <;> simp_all [locInsert, locsWfFrom]
  | cons k r ih =>
    have h' := h
    simp only [locsWfFrom, Bool.and_eq_true] at h
    unfold locInsert
    split
    · rename_i hlt
      simp only [locsWfFrom, Bool.and_eq_true, decide_eq_true_eq]
      refine ⟨?_, hlt, h.2⟩
      cases lo with
      | none => rfl
      | some x => simpa using ha x rfl
    · split
      · exact h'
      · simp only [locsWfFrom, Bool.and_eq_true]
        refine ⟨h.1, ih h.2 ?_⟩
        intro x hx
        cases hx
        omega

theorem locErase_wf {l : List Nat} {lo : Option Nat} {a : Nat} (h : locsWfFrom lo l = true) : locsWfFrom lo (locErase l a) = true := by
  induction l generalizing lo with
  | nil => rfl
  | cons k r ih =>
    simp only [locsWfFrom, Bool.and_eq_true] at h
    unfold locErase
    split
    · refine locsWfFrom_weaken h.2 ?_
      intro x hx
      subst hx
      exact ⟨k, rfl, by simpa using Nat.le_of_lt (by simpa using h.1)⟩
    · simp only [locsWfFrom, Bool.and_eq_true]
      exact ⟨h.1, ih h.2⟩

theorem locInsert_mem {l : List Nat} {a x : Nat} : x ∈ locInsert l a ↔ x = a ∨ x ∈ l := by
  induction l with
  | nil => simp [locInsert]
  | cons k r ih =>
    unfold locInsert
    split
    · simp
    · split
      · rename_i h; subst h; simp
      · simp only [List.mem_cons, ih]; exact or_left_comm

theorem locsWf_above {l : List Nat} {lo : Nat} (h : locsWfFrom (some lo) l = true) {x : Nat} (hx : x ∈ l) : lo < x := by
  induction l generalizing lo with
  | nil => simp at hx
  | cons k r ih =>
    simp only [locsWfFrom, Bool.and_eq_true, decide_eq_true_eq] at h
    rcases List.mem_cons.1 hx with rfl | hr
    · exact h.1
    · exact Nat.lt_trans h.1 (ih h.2 hr)

theorem locErase_mem {l : List Nat} {lo : Option Nat} (h : locsWfFrom lo l = true) {a x : Nat} : x ∈ locErase l a ↔ x ≠ a ∧ x ∈ l := by
  induction l generalizing lo with
  | nil => simp [locErase]
  | cons k r ih =>
    simp only [locsWfFrom, Bool.and_eq_true] at h
    unfold locErase
    split
    · rename_i hk
      subst hk
      constructor
      · intro hx; exact ⟨by have := locsWf_above h.2 hx; omega, List.mem_cons_of_mem _ hx⟩
      · rintro ⟨hne, hx⟩
        rcases List.mem_cons.1 hx with rfl | hr
        · exact absurd rfl hne
        · exact hr
    · rename_i hk
      simp only [List.mem_cons, ih h.2]
      constructor
      · rintro (rfl | ⟨h1, h2⟩)
        · exact ⟨fun e => hk e.symm, .inl rfl⟩
        · exact ⟨h1, .inr h2⟩
      · rintro ⟨h1, rfl | h2⟩
        · exact .inl rfl
        · exact .inr ⟨h1, h2⟩

theorem cellsFilter_wf {l : List Host.Cell} {lo : Option Nat} (p : Host.Cell → Bool) (h : cellsWfFrom lo l = true) : cellsWfFrom lo (l.filter p) = true := by
  induction l generalizing lo with
  | nil => rfl
  | cons c r ih =>
    obtain ⟨k, v⟩ := c
    simp only [cellsWfFrom, Bool.and_eq_true] at h
    rw [List.filter_cons]
    split
    · simp only [cellsWfFrom, Bool.and_eq_true]; exact ⟨h.1, ih h.2⟩
    · refine cellsWfFrom_weaken (ih h.2) ?_
      intro x hx; subst hx
      exact ⟨k, rfl, Nat.le_of_lt (by simpa using h.1.1)⟩

theorem locsFilter_wf {l : List Nat} {lo : Option Nat} (p : Nat → Bool) (h : locsWfFrom lo l = true) : locsWfFrom lo (l.filter p) = true := by
  induction l generalizing lo with
  | nil => rfl
  | cons k r ih =>
    simp only [locsWfFrom, Bool.and_eq_true] at h
    rw [List.filter_cons]
    split
    · simp only [locsWfFrom, Bool.and_eq_true]; exact ⟨h.1, ih h.2⟩
    · refine locsWfFrom_weaken (ih h.2) ?_
      intro x hx; subst hx
      exact ⟨k, rfl, Nat.le_of_lt (by simpa using h.1)⟩

/-! Memory operations keep the canonical form. -/

theorem memWf_iff (m : Mem) : memWf m = true ↔ cellsWfFrom none m.cells = true ∧ locsWfFrom none m.empt = true ∧ locsWfFrom none m.pois = true := by
  simp [memWf, and_assoc]

theorem memSetByte_wf {m : Mem} (h : memWf m = true) (a : Nat) (b : Byte) : memWf (memSetByte m a b) = true := by
  rw [memWf_iff] at h ⊢
  exact ⟨cellsWrite_wf h.1 (by simp), h.2⟩

theorem memSetFull_wf {m : Mem} (h : memWf m = true) (a : Nat) (b : Bool) : memWf (memSetFull m a b) = true := by
  rw [memWf_iff] at h ⊢
  refine ⟨h.1, ?_, h.2.2⟩
  cases b
  · exact locInsert_wf h.2.1 (by simp)
  · exact locErase_wf h.2.1

theorem memSetPoison_wf {m : Mem} (h : memWf m = true) (a : Nat) (b : Bool) : memWf (memSetPoison m a b) = true := by
  rw [memWf_iff] at h ⊢
  refine ⟨h.1, h.2.1, ?_⟩
  cases b
  · exact locErase_wf h.2.2
  · exact locInsert_wf h.2.2 (by simp)

theorem memSetBytes_wf {m : Mem} (h : memWf m = true) (a : Nat) (bs : List Byte) : memWf (memSetBytes m a bs) = true := by
  induction bs generalizing m a with
  | nil => exact h
  | cons b r ih => exact ih (memSetByte_wf h a b) (a + 1)

theorem memSetMasked_wf {m : Mem} (h : memWf m = true) (a : Nat) (bs : List (Byte × Byte)) : memWf (memSetMasked m a bs) = true := by
  induction bs generalizing m a with
  | nil => exact h
  | cons b r ih => exact ih (memSetByte_wf h a _) (a + 1)

theorem storeMem_wf {m : Mem} (h : memWf m = true) (a : Nat) (bs : List Byte) : memWf (storeMem m a bs) = true := by
  unfold storeMem
  split
  · exact memSetPoison_wf (memSetBytes_wf h a bs) _ _
  · exact memSetBytes_wf h a bs

theorem memSet64_wf {m : Mem} (h : memWf m = true) (a : Nat) (v : W64) : memWf (memSet64 m a v) = true := memSetBytes_wf h a _

theorem memZero_wf {m : Mem} (h : memWf m = true) (a n : Nat) : memWf (memZero m a n) = true := by
  rw [memWf_iff] at h ⊢
  exact ⟨cellsFilter_wf _ h.1, locsFilter_wf _ h.2.1, locsFilter_wf _ h.2.2⟩

theorem memPaste_wf {m : Mem} (h : memWf m = true) (sl : Mem) (dst n : Nat) : memWf (memPaste m sl dst n) = true := by
  have hz := (memWf_iff _).1 (memZero_wf h dst n)
  rw [memWf_iff]
  have hc : ∀ (l cs : List Host.Cell), cellsWfFrom none cs = true → cellsWfFrom none (l.foldl (fun cs c => cellsWrite cs c.1 c.2) cs) = true := by
    intro l
    induction l with
    | nil => intro cs h; exact h
    | cons c r ih => intro cs h; exact ih _ (cellsWrite_wf h (by simp))
  have hl : ∀ (l ls : List Nat), locsWfFrom none ls = true → locsWfFrom none (l.foldl locInsert ls) = true := by
    intro l
    induction l with
    | nil => intro ls h; exact h
    | cons c r ih => intro ls h; exact ih _ (locInsert_wf h (by simp))
  exact ⟨hc _ _ hz.1, hl _ _ hz.2.1, hl _ _ hz.2.2⟩

theorem perform_wf {m : Mem} (h : memWf m = true) (p : PendStore) : memWf (p.perform m) = true := by
  simp only [PendStore.perform]
  split
  · exact memSetPoison_wf (memSetMasked_wf h _ _) _ _
  · exact memSetMasked_wf h _ _

theorem performAll_wf {m : Mem} (h : memWf m = true) (l : List PendStore) : memWf (l.foldl (fun mem p => p.perform mem) m) = true := by
  induction l generalizing m with
  | nil => exact h
  | cons p r ih => exact ih (perform_wf h p)

/-! Reading after writing. -/

/-- A byte written reads back, and every other byte reads as before. -/
theorem memByte_setByte {m : Mem} (h : memWf m = true) (a x : Nat) (b : Byte) : memByte (memSetByte m a b) x = if x = a then b else memByte m x :=
  cellsRead_write ((memWf_iff m).1 h).1 a x b

/-- Bytes outside a run written read as before. -/
theorem memByte_setBytes_other {m : Mem} (h : memWf m = true) (a : Nat) (bs : List Byte) {x : Nat} (hx : x < a ∨ a + bs.length ≤ x) :
    memByte (memSetBytes m a bs) x = memByte m x := by
  induction bs generalizing m a with
  | nil => rfl
  | cons b r ih =>
    simp only [List.length_cons] at hx
    rw [memSetBytes, ih (memSetByte_wf h a b) (a + 1) (by omega), memByte_setByte h, if_neg (by omega)]

/-- Bytes outside a run of masked bytes written read as before. -/
theorem memByte_setMasked_other {m : Mem} (h : memWf m = true) (a : Nat) (bs : List (Byte × Byte)) {x : Nat} (hx : x < a ∨ a + bs.length ≤ x) :
    memByte (memSetMasked m a bs) x = memByte m x := by
  induction bs generalizing m a with
  | nil => rfl
  | cons b r ih =>
    obtain ⟨k, v⟩ := b
    simp only [List.length_cons] at hx
    rw [memSetMasked, ih (memSetByte_wf h a _) (a + 1) (by omega), memByte_setByte h, if_neg (by omega)]

/-- The bytes of a run written read back. -/
theorem memBytes_setBytes {m : Mem} (h : memWf m = true) (a : Nat) (bs : List Byte) : memBytes (memSetBytes m a bs) a bs.length = bs := by
  induction bs generalizing m a with
  | nil => rfl
  | cons b r ih =>
    simp only [List.length_cons, memBytes, memSetBytes]
    rw [ih (memSetByte_wf h a b), memByte_setBytes_other (memSetByte_wf h a b) (a + 1) r (by omega), memByte_setByte h]
    simp

/-- A location's bit after a write of a bit. -/
theorem memFull_setFull {m : Mem} (h : memWf m = true) (l x : Nat) (b : Bool) : memFull (memSetFull m l b) x = if x = l then b else memFull m x := by
  have hw := ((memWf_iff m).1 h).2.1
  cases b
  · by_cases hx : x = l <;> simp [memFull, memSetFull, locInsert_mem, hx]
  · have := @locErase_mem m.empt none hw l x
    by_cases hx : x = l <;> simp_all [memFull, memSetFull]

/-- A location's mark after a write of a mark. -/
theorem memPoisoned_setPoison {m : Mem} (h : memWf m = true) (l x : Nat) (b : Bool) :
    memPoisoned (memSetPoison m l b) x = if x = l then b else memPoisoned m x := by
  have hw := ((memWf_iff m).1 h).2.2
  cases b
  · have := @locErase_mem m.pois none hw l x
    by_cases hx : x = l <;> simp_all [memPoisoned, memSetPoison]
  · by_cases hx : x = l <;> simp [memPoisoned, memSetPoison, locInsert_mem, hx]

/-- The memory of the machine right after cold reset is in the canonical form. -/
theorem reset_wf : memWf Mach.reset.mem = true := rfl

end Sys2Proof.Machine
end

