-- ==== Sys2Proof/Laws/State.lean ====
section
/-! SUPPORT. What each update of the state leaves as it was and what it sets, one lemma for each field. -/

namespace Sys2Proof.Machine

/-! `State.onMach` -/

@[simp] theorem State.onMach_mach (s : State) (f : Mach → Mach) : (s.onMach f).mach = f s.mach := rfl
@[simp] theorem State.onMach_fw (s : State) (f : Mach → Mach) : (s.onMach f).fw = s.fw := rfl
@[simp] theorem State.onMach_turn (s : State) (f : Mach → Mach) : (s.onMach f).turn = s.turn := rfl
@[simp] theorem State.onMach_cur (s : State) (f : Mach → Mach) : (s.onMach f).cur = s.cur := rfl
@[simp] theorem State.onMach_tick (s : State) (f : Mach → Mach) : (s.onMach f).tick = s.tick := rfl

/-! `State.onCore` -/

@[simp] theorem State.onCore_mach (s : State) (c : CoreId) (f : Core → Core) : (s.onCore c f).mach = s.mach.onCore c f := rfl
@[simp] theorem State.onCore_fw (s : State) (c : CoreId) (f : Core → Core) : (s.onCore c f).fw = s.fw := rfl
@[simp] theorem State.onCore_turn (s : State) (c : CoreId) (f : Core → Core) : (s.onCore c f).turn = s.turn := rfl
@[simp] theorem State.onCore_cur (s : State) (c : CoreId) (f : Core → Core) : (s.onCore c f).cur = s.cur := rfl
@[simp] theorem State.onCore_tick (s : State) (c : CoreId) (f : Core → Core) : (s.onCore c f).tick = s.tick := rfl

/-! `State.onCtl` -/

@[simp] theorem State.onCtl_mach (s : State) (c : CoreId) (f : Ctl → Ctl) : (s.onCtl c f).mach = s.mach.onCtl c f := rfl
@[simp] theorem State.onCtl_fw (s : State) (c : CoreId) (f : Ctl → Ctl) : (s.onCtl c f).fw = s.fw := rfl
@[simp] theorem State.onCtl_turn (s : State) (c : CoreId) (f : Ctl → Ctl) : (s.onCtl c f).turn = s.turn := rfl
@[simp] theorem State.onCtl_cur (s : State) (c : CoreId) (f : Ctl → Ctl) : (s.onCtl c f).cur = s.cur := rfl
@[simp] theorem State.onCtl_tick (s : State) (c : CoreId) (f : Ctl → Ctl) : (s.onCtl c f).tick = s.tick := rfl

/-! `State.onVec` -/

@[simp] theorem State.onVec_mach (s : State) (c : CoreId) (f : Vec → Vec) : (s.onVec c f).mach = s.mach.onVec c f := rfl
@[simp] theorem State.onVec_fw (s : State) (c : CoreId) (f : Vec → Vec) : (s.onVec c f).fw = s.fw := rfl
@[simp] theorem State.onVec_turn (s : State) (c : CoreId) (f : Vec → Vec) : (s.onVec c f).turn = s.turn := rfl
@[simp] theorem State.onVec_cur (s : State) (c : CoreId) (f : Vec → Vec) : (s.onVec c f).cur = s.cur := rfl
@[simp] theorem State.onVec_tick (s : State) (c : CoreId) (f : Vec → Vec) : (s.onVec c f).tick = s.tick := rfl

/-! `State.asAgent` -/

@[simp] theorem State.asAgent_mach (s : State) (c : CoreId) (t : Strand) : (s.asAgent c t).mach = s.mach := rfl
@[simp] theorem State.asAgent_fw (s : State) (c : CoreId) (t : Strand) : (s.asAgent c t).fw = s.fw := rfl
@[simp] theorem State.asAgent_turn (s : State) (c : CoreId) (t : Strand) : (s.asAgent c t).turn = s.turn := rfl
@[simp] theorem State.asAgent_cur (s : State) (c : CoreId) (t : Strand) : (s.asAgent c t).cur = { core := c, strand := t } := rfl
@[simp] theorem State.asAgent_tick (s : State) (c : CoreId) (t : Strand) : (s.asAgent c t).tick = s.tick := rfl

/-! `State.afterTurn` -/

@[simp] theorem State.afterTurn_fw (s : State)  : (s.afterTurn ).fw = s.fw := rfl
@[simp] theorem State.afterTurn_turn (s : State)  : (s.afterTurn ).turn = Config.schedule s.tick := rfl
@[simp] theorem State.afterTurn_cur (s : State)  : (s.afterTurn ).cur = s.cur := rfl
@[simp] theorem State.afterTurn_tick (s : State)  : (s.afterTurn ).tick = s.tick + 1 := rfl

/-! `Mach.onCore` -/

@[simp] theorem Mach.onCore_cores (m : Mach) (c : CoreId) (f : Core → Core) : (m.onCore c f).cores = m.cores.set c (f m.cores[c]) := rfl
@[simp] theorem Mach.onCore_mem (m : Mach) (c : CoreId) (f : Core → Core) : (m.onCore c f).mem = m.mem := rfl
@[simp] theorem Mach.onCore_pend (m : Mach) (c : CoreId) (f : Core → Core) : (m.onCore c f).pend = m.pend := rfl
@[simp] theorem Mach.onCore_early (m : Mach) (c : CoreId) (f : Core → Core) : (m.onCore c f).early = m.early := rfl
@[simp] theorem Mach.onCore_scyc (m : Mach) (c : CoreId) (f : Core → Core) : (m.onCore c f).scyc = m.scyc := rfl
@[simp] theorem Mach.onCore_pkg (m : Mach) (c : CoreId) (f : Core → Core) : (m.onCore c f).pkg = m.pkg := rfl
@[simp] theorem Mach.onCore_group (m : Mach) (c : CoreId) (f : Core → Core) : (m.onCore c f).group = m.group := rfl
@[simp] theorem Mach.onCore_ports (m : Mach) (c : CoreId) (f : Core → Core) : (m.onCore c f).ports = m.ports := rfl
@[simp] theorem Mach.onCore_withdrawn (m : Mach) (c : CoreId) (f : Core → Core) : (m.onCore c f).withdrawn = m.withdrawn := rfl
@[simp] theorem Mach.onCore_ctxs (m : Mach) (c : CoreId) (f : Core → Core) : (m.onCore c f).ctxs = m.ctxs := rfl
@[simp] theorem Mach.onCore_mcache (m : Mach) (c : CoreId) (f : Core → Core) : (m.onCore c f).mcache = m.mcache := rfl
@[simp] theorem Mach.onCore_misses (m : Mach) (c : CoreId) (f : Core → Core) : (m.onCore c f).misses = m.misses := rfl
@[simp] theorem Mach.onCore_moorings (m : Mach) (c : CoreId) (f : Core → Core) : (m.onCore c f).moorings = m.moorings := rfl
@[simp] theorem Mach.onCore_remotes (m : Mach) (c : CoreId) (f : Core → Core) : (m.onCore c f).remotes = m.remotes := rfl
@[simp] theorem Mach.onCore_holds (m : Mach) (c : CoreId) (f : Core → Core) : (m.onCore c f).holds = m.holds := rfl
@[simp] theorem Mach.onCore_replays (m : Mach) (c : CoreId) (f : Core → Core) : (m.onCore c f).replays = m.replays := rfl
@[simp] theorem Mach.onCore_barriers (m : Mach) (c : CoreId) (f : Core → Core) : (m.onCore c f).barriers = m.barriers := rfl
@[simp] theorem Mach.onCore_bell (m : Mach) (c : CoreId) (f : Core → Core) : (m.onCore c f).bell = m.bell := rfl
@[simp] theorem Mach.onCore_ferry (m : Mach) (c : CoreId) (f : Core → Core) : (m.onCore c f).ferry = m.ferry := rfl
@[simp] theorem Mach.onCore_fab (m : Mach) (c : CoreId) (f : Core → Core) : (m.onCore c f).fab = m.fab := rfl
@[simp] theorem Mach.onCore_attn (m : Mach) (c : CoreId) (f : Core → Core) : (m.onCore c f).attn = m.attn := rfl
@[simp] theorem Mach.onCore_samp (m : Mach) (c : CoreId) (f : Core → Core) : (m.onCore c f).samp = m.samp := rfl
@[simp] theorem Mach.onCore_nextOp (m : Mach) (c : CoreId) (f : Core → Core) : (m.onCore c f).nextOp = m.nextOp := rfl

/-! `Mach.onCtl` -/

@[simp] theorem Mach.onCtl_cores (m : Mach) (c : CoreId) (f : Ctl → Ctl) : (m.onCtl c f).cores = m.cores.set c { m.cores[c] with ctl := f m.cores[c].ctl } := rfl
@[simp] theorem Mach.onCtl_mem (m : Mach) (c : CoreId) (f : Ctl → Ctl) : (m.onCtl c f).mem = m.mem := rfl
@[simp] theorem Mach.onCtl_pend (m : Mach) (c : CoreId) (f : Ctl → Ctl) : (m.onCtl c f).pend = m.pend := rfl
@[simp] theorem Mach.onCtl_early (m : Mach) (c : CoreId) (f : Ctl → Ctl) : (m.onCtl c f).early = m.early := rfl
@[simp] theorem Mach.onCtl_scyc (m : Mach) (c : CoreId) (f : Ctl → Ctl) : (m.onCtl c f).scyc = m.scyc := rfl
@[simp] theorem Mach.onCtl_pkg (m : Mach) (c : CoreId) (f : Ctl → Ctl) : (m.onCtl c f).pkg = m.pkg := rfl
@[simp] theorem Mach.onCtl_group (m : Mach) (c : CoreId) (f : Ctl → Ctl) : (m.onCtl c f).group = m.group := rfl
@[simp] theorem Mach.onCtl_ports (m : Mach) (c : CoreId) (f : Ctl → Ctl) : (m.onCtl c f).ports = m.ports := rfl
@[simp] theorem Mach.onCtl_withdrawn (m : Mach) (c : CoreId) (f : Ctl → Ctl) : (m.onCtl c f).withdrawn = m.withdrawn := rfl
@[simp] theorem Mach.onCtl_ctxs (m : Mach) (c : CoreId) (f : Ctl → Ctl) : (m.onCtl c f).ctxs = m.ctxs := rfl
@[simp] theorem Mach.onCtl_mcache (m : Mach) (c : CoreId) (f : Ctl → Ctl) : (m.onCtl c f).mcache = m.mcache := rfl
@[simp] theorem Mach.onCtl_misses (m : Mach) (c : CoreId) (f : Ctl → Ctl) : (m.onCtl c f).misses = m.misses := rfl
@[simp] theorem Mach.onCtl_moorings (m : Mach) (c : CoreId) (f : Ctl → Ctl) : (m.onCtl c f).moorings = m.moorings := rfl
@[simp] theorem Mach.onCtl_remotes (m : Mach) (c : CoreId) (f : Ctl → Ctl) : (m.onCtl c f).remotes = m.remotes := rfl
@[simp] theorem Mach.onCtl_holds (m : Mach) (c : CoreId) (f : Ctl → Ctl) : (m.onCtl c f).holds = m.holds := rfl
@[simp] theorem Mach.onCtl_replays (m : Mach) (c : CoreId) (f : Ctl → Ctl) : (m.onCtl c f).replays = m.replays := rfl
@[simp] theorem Mach.onCtl_barriers (m : Mach) (c : CoreId) (f : Ctl → Ctl) : (m.onCtl c f).barriers = m.barriers := rfl
@[simp] theorem Mach.onCtl_bell (m : Mach) (c : CoreId) (f : Ctl → Ctl) : (m.onCtl c f).bell = m.bell := rfl
@[simp] theorem Mach.onCtl_ferry (m : Mach) (c : CoreId) (f : Ctl → Ctl) : (m.onCtl c f).ferry = m.ferry := rfl
@[simp] theorem Mach.onCtl_fab (m : Mach) (c : CoreId) (f : Ctl → Ctl) : (m.onCtl c f).fab = m.fab := rfl
@[simp] theorem Mach.onCtl_attn (m : Mach) (c : CoreId) (f : Ctl → Ctl) : (m.onCtl c f).attn = m.attn := rfl
@[simp] theorem Mach.onCtl_samp (m : Mach) (c : CoreId) (f : Ctl → Ctl) : (m.onCtl c f).samp = m.samp := rfl
@[simp] theorem Mach.onCtl_nextOp (m : Mach) (c : CoreId) (f : Ctl → Ctl) : (m.onCtl c f).nextOp = m.nextOp := rfl

/-! `Mach.onVec` -/

@[simp] theorem Mach.onVec_cores (m : Mach) (c : CoreId) (f : Vec → Vec) : (m.onVec c f).cores = m.cores.set c { m.cores[c] with vec := f m.cores[c].vec } := rfl
@[simp] theorem Mach.onVec_mem (m : Mach) (c : CoreId) (f : Vec → Vec) : (m.onVec c f).mem = m.mem := rfl
@[simp] theorem Mach.onVec_pend (m : Mach) (c : CoreId) (f : Vec → Vec) : (m.onVec c f).pend = m.pend := rfl
@[simp] theorem Mach.onVec_early (m : Mach) (c : CoreId) (f : Vec → Vec) : (m.onVec c f).early = m.early := rfl
@[simp] theorem Mach.onVec_scyc (m : Mach) (c : CoreId) (f : Vec → Vec) : (m.onVec c f).scyc = m.scyc := rfl
@[simp] theorem Mach.onVec_pkg (m : Mach) (c : CoreId) (f : Vec → Vec) : (m.onVec c f).pkg = m.pkg := rfl
@[simp] theorem Mach.onVec_group (m : Mach) (c : CoreId) (f : Vec → Vec) : (m.onVec c f).group = m.group := rfl
@[simp] theorem Mach.onVec_ports (m : Mach) (c : CoreId) (f : Vec → Vec) : (m.onVec c f).ports = m.ports := rfl
@[simp] theorem Mach.onVec_withdrawn (m : Mach) (c : CoreId) (f : Vec → Vec) : (m.onVec c f).withdrawn = m.withdrawn := rfl
@[simp] theorem Mach.onVec_ctxs (m : Mach) (c : CoreId) (f : Vec → Vec) : (m.onVec c f).ctxs = m.ctxs := rfl
@[simp] theorem Mach.onVec_mcache (m : Mach) (c : CoreId) (f : Vec → Vec) : (m.onVec c f).mcache = m.mcache := rfl
@[simp] theorem Mach.onVec_misses (m : Mach) (c : CoreId) (f : Vec → Vec) : (m.onVec c f).misses = m.misses := rfl
@[simp] theorem Mach.onVec_moorings (m : Mach) (c : CoreId) (f : Vec → Vec) : (m.onVec c f).moorings = m.moorings := rfl
@[simp] theorem Mach.onVec_remotes (m : Mach) (c : CoreId) (f : Vec → Vec) : (m.onVec c f).remotes = m.remotes := rfl
@[simp] theorem Mach.onVec_holds (m : Mach) (c : CoreId) (f : Vec → Vec) : (m.onVec c f).holds = m.holds := rfl
@[simp] theorem Mach.onVec_replays (m : Mach) (c : CoreId) (f : Vec → Vec) : (m.onVec c f).replays = m.replays := rfl
@[simp] theorem Mach.onVec_barriers (m : Mach) (c : CoreId) (f : Vec → Vec) : (m.onVec c f).barriers = m.barriers := rfl
@[simp] theorem Mach.onVec_bell (m : Mach) (c : CoreId) (f : Vec → Vec) : (m.onVec c f).bell = m.bell := rfl
@[simp] theorem Mach.onVec_ferry (m : Mach) (c : CoreId) (f : Vec → Vec) : (m.onVec c f).ferry = m.ferry := rfl
@[simp] theorem Mach.onVec_fab (m : Mach) (c : CoreId) (f : Vec → Vec) : (m.onVec c f).fab = m.fab := rfl
@[simp] theorem Mach.onVec_attn (m : Mach) (c : CoreId) (f : Vec → Vec) : (m.onVec c f).attn = m.attn := rfl
@[simp] theorem Mach.onVec_samp (m : Mach) (c : CoreId) (f : Vec → Vec) : (m.onVec c f).samp = m.samp := rfl
@[simp] theorem Mach.onVec_nextOp (m : Mach) (c : CoreId) (f : Vec → Vec) : (m.onVec c f).nextOp = m.nextOp := rfl

/-! `Mach.onEng` -/

@[simp] theorem Mach.onEng_cores (m : Mach) (c : CoreId) (t : Strand) (f : EngStrand → EngStrand) : (m.onEng c t f).cores = m.cores.set c (m.cores[c].onEng t f) := rfl
@[simp] theorem Mach.onEng_mem (m : Mach) (c : CoreId) (t : Strand) (f : EngStrand → EngStrand) : (m.onEng c t f).mem = m.mem := rfl
@[simp] theorem Mach.onEng_pend (m : Mach) (c : CoreId) (t : Strand) (f : EngStrand → EngStrand) : (m.onEng c t f).pend = m.pend := rfl
@[simp] theorem Mach.onEng_early (m : Mach) (c : CoreId) (t : Strand) (f : EngStrand → EngStrand) : (m.onEng c t f).early = m.early := rfl
@[simp] theorem Mach.onEng_scyc (m : Mach) (c : CoreId) (t : Strand) (f : EngStrand → EngStrand) : (m.onEng c t f).scyc = m.scyc := rfl
@[simp] theorem Mach.onEng_pkg (m : Mach) (c : CoreId) (t : Strand) (f : EngStrand → EngStrand) : (m.onEng c t f).pkg = m.pkg := rfl
@[simp] theorem Mach.onEng_group (m : Mach) (c : CoreId) (t : Strand) (f : EngStrand → EngStrand) : (m.onEng c t f).group = m.group := rfl
@[simp] theorem Mach.onEng_ports (m : Mach) (c : CoreId) (t : Strand) (f : EngStrand → EngStrand) : (m.onEng c t f).ports = m.ports := rfl
@[simp] theorem Mach.onEng_withdrawn (m : Mach) (c : CoreId) (t : Strand) (f : EngStrand → EngStrand) : (m.onEng c t f).withdrawn = m.withdrawn := rfl
@[simp] theorem Mach.onEng_ctxs (m : Mach) (c : CoreId) (t : Strand) (f : EngStrand → EngStrand) : (m.onEng c t f).ctxs = m.ctxs := rfl
@[simp] theorem Mach.onEng_mcache (m : Mach) (c : CoreId) (t : Strand) (f : EngStrand → EngStrand) : (m.onEng c t f).mcache = m.mcache := rfl
@[simp] theorem Mach.onEng_misses (m : Mach) (c : CoreId) (t : Strand) (f : EngStrand → EngStrand) : (m.onEng c t f).misses = m.misses := rfl
@[simp] theorem Mach.onEng_moorings (m : Mach) (c : CoreId) (t : Strand) (f : EngStrand → EngStrand) : (m.onEng c t f).moorings = m.moorings := rfl
@[simp] theorem Mach.onEng_remotes (m : Mach) (c : CoreId) (t : Strand) (f : EngStrand → EngStrand) : (m.onEng c t f).remotes = m.remotes := rfl
@[simp] theorem Mach.onEng_holds (m : Mach) (c : CoreId) (t : Strand) (f : EngStrand → EngStrand) : (m.onEng c t f).holds = m.holds := rfl
@[simp] theorem Mach.onEng_replays (m : Mach) (c : CoreId) (t : Strand) (f : EngStrand → EngStrand) : (m.onEng c t f).replays = m.replays := rfl
@[simp] theorem Mach.onEng_barriers (m : Mach) (c : CoreId) (t : Strand) (f : EngStrand → EngStrand) : (m.onEng c t f).barriers = m.barriers := rfl
@[simp] theorem Mach.onEng_bell (m : Mach) (c : CoreId) (t : Strand) (f : EngStrand → EngStrand) : (m.onEng c t f).bell = m.bell := rfl
@[simp] theorem Mach.onEng_ferry (m : Mach) (c : CoreId) (t : Strand) (f : EngStrand → EngStrand) : (m.onEng c t f).ferry = m.ferry := rfl
@[simp] theorem Mach.onEng_fab (m : Mach) (c : CoreId) (t : Strand) (f : EngStrand → EngStrand) : (m.onEng c t f).fab = m.fab := rfl
@[simp] theorem Mach.onEng_attn (m : Mach) (c : CoreId) (t : Strand) (f : EngStrand → EngStrand) : (m.onEng c t f).attn = m.attn := rfl
@[simp] theorem Mach.onEng_samp (m : Mach) (c : CoreId) (t : Strand) (f : EngStrand → EngStrand) : (m.onEng c t f).samp = m.samp := rfl
@[simp] theorem Mach.onEng_nextOp (m : Mach) (c : CoreId) (t : Strand) (f : EngStrand → EngStrand) : (m.onEng c t f).nextOp = m.nextOp := rfl

/-! `Mach.onFab` -/

@[simp] theorem Mach.onFab_cores (m : Mach) (f : Fabric → Fabric) : (m.onFab f).cores = m.cores := rfl
@[simp] theorem Mach.onFab_mem (m : Mach) (f : Fabric → Fabric) : (m.onFab f).mem = m.mem := rfl
@[simp] theorem Mach.onFab_pend (m : Mach) (f : Fabric → Fabric) : (m.onFab f).pend = m.pend := rfl
@[simp] theorem Mach.onFab_early (m : Mach) (f : Fabric → Fabric) : (m.onFab f).early = m.early := rfl
@[simp] theorem Mach.onFab_scyc (m : Mach) (f : Fabric → Fabric) : (m.onFab f).scyc = m.scyc := rfl
@[simp] theorem Mach.onFab_pkg (m : Mach) (f : Fabric → Fabric) : (m.onFab f).pkg = m.pkg := rfl
@[simp] theorem Mach.onFab_group (m : Mach) (f : Fabric → Fabric) : (m.onFab f).group = m.group := rfl
@[simp] theorem Mach.onFab_ports (m : Mach) (f : Fabric → Fabric) : (m.onFab f).ports = m.ports := rfl
@[simp] theorem Mach.onFab_withdrawn (m : Mach) (f : Fabric → Fabric) : (m.onFab f).withdrawn = m.withdrawn := rfl
@[simp] theorem Mach.onFab_ctxs (m : Mach) (f : Fabric → Fabric) : (m.onFab f).ctxs = m.ctxs := rfl
@[simp] theorem Mach.onFab_mcache (m : Mach) (f : Fabric → Fabric) : (m.onFab f).mcache = m.mcache := rfl
@[simp] theorem Mach.onFab_misses (m : Mach) (f : Fabric → Fabric) : (m.onFab f).misses = m.misses := rfl
@[simp] theorem Mach.onFab_moorings (m : Mach) (f : Fabric → Fabric) : (m.onFab f).moorings = m.moorings := rfl
@[simp] theorem Mach.onFab_remotes (m : Mach) (f : Fabric → Fabric) : (m.onFab f).remotes = m.remotes := rfl
@[simp] theorem Mach.onFab_holds (m : Mach) (f : Fabric → Fabric) : (m.onFab f).holds = m.holds := rfl
@[simp] theorem Mach.onFab_replays (m : Mach) (f : Fabric → Fabric) : (m.onFab f).replays = m.replays := rfl
@[simp] theorem Mach.onFab_barriers (m : Mach) (f : Fabric → Fabric) : (m.onFab f).barriers = m.barriers := rfl
@[simp] theorem Mach.onFab_bell (m : Mach) (f : Fabric → Fabric) : (m.onFab f).bell = m.bell := rfl
@[simp] theorem Mach.onFab_ferry (m : Mach) (f : Fabric → Fabric) : (m.onFab f).ferry = m.ferry := rfl
@[simp] theorem Mach.onFab_fab (m : Mach) (f : Fabric → Fabric) : (m.onFab f).fab = f m.fab := rfl
@[simp] theorem Mach.onFab_attn (m : Mach) (f : Fabric → Fabric) : (m.onFab f).attn = m.attn := rfl
@[simp] theorem Mach.onFab_samp (m : Mach) (f : Fabric → Fabric) : (m.onFab f).samp = m.samp := rfl
@[simp] theorem Mach.onFab_nextOp (m : Mach) (f : Fabric → Fabric) : (m.onFab f).nextOp = m.nextOp := rfl

/-! `Mach.onSamp` -/

@[simp] theorem Mach.onSamp_cores (m : Mach) (cl : Fin 16) (f : Sampler → Sampler) : (m.onSamp cl f).cores = m.cores := rfl
@[simp] theorem Mach.onSamp_mem (m : Mach) (cl : Fin 16) (f : Sampler → Sampler) : (m.onSamp cl f).mem = m.mem := rfl
@[simp] theorem Mach.onSamp_pend (m : Mach) (cl : Fin 16) (f : Sampler → Sampler) : (m.onSamp cl f).pend = m.pend := rfl
@[simp] theorem Mach.onSamp_early (m : Mach) (cl : Fin 16) (f : Sampler → Sampler) : (m.onSamp cl f).early = m.early := rfl
@[simp] theorem Mach.onSamp_scyc (m : Mach) (cl : Fin 16) (f : Sampler → Sampler) : (m.onSamp cl f).scyc = m.scyc := rfl
@[simp] theorem Mach.onSamp_pkg (m : Mach) (cl : Fin 16) (f : Sampler → Sampler) : (m.onSamp cl f).pkg = m.pkg := rfl
@[simp] theorem Mach.onSamp_group (m : Mach) (cl : Fin 16) (f : Sampler → Sampler) : (m.onSamp cl f).group = m.group := rfl
@[simp] theorem Mach.onSamp_ports (m : Mach) (cl : Fin 16) (f : Sampler → Sampler) : (m.onSamp cl f).ports = m.ports := rfl
@[simp] theorem Mach.onSamp_withdrawn (m : Mach) (cl : Fin 16) (f : Sampler → Sampler) : (m.onSamp cl f).withdrawn = m.withdrawn := rfl
@[simp] theorem Mach.onSamp_ctxs (m : Mach) (cl : Fin 16) (f : Sampler → Sampler) : (m.onSamp cl f).ctxs = m.ctxs := rfl
@[simp] theorem Mach.onSamp_mcache (m : Mach) (cl : Fin 16) (f : Sampler → Sampler) : (m.onSamp cl f).mcache = m.mcache := rfl
@[simp] theorem Mach.onSamp_misses (m : Mach) (cl : Fin 16) (f : Sampler → Sampler) : (m.onSamp cl f).misses = m.misses := rfl
@[simp] theorem Mach.onSamp_moorings (m : Mach) (cl : Fin 16) (f : Sampler → Sampler) : (m.onSamp cl f).moorings = m.moorings := rfl
@[simp] theorem Mach.onSamp_remotes (m : Mach) (cl : Fin 16) (f : Sampler → Sampler) : (m.onSamp cl f).remotes = m.remotes := rfl
@[simp] theorem Mach.onSamp_holds (m : Mach) (cl : Fin 16) (f : Sampler → Sampler) : (m.onSamp cl f).holds = m.holds := rfl
@[simp] theorem Mach.onSamp_replays (m : Mach) (cl : Fin 16) (f : Sampler → Sampler) : (m.onSamp cl f).replays = m.replays := rfl
@[simp] theorem Mach.onSamp_barriers (m : Mach) (cl : Fin 16) (f : Sampler → Sampler) : (m.onSamp cl f).barriers = m.barriers := rfl
@[simp] theorem Mach.onSamp_bell (m : Mach) (cl : Fin 16) (f : Sampler → Sampler) : (m.onSamp cl f).bell = m.bell := rfl
@[simp] theorem Mach.onSamp_ferry (m : Mach) (cl : Fin 16) (f : Sampler → Sampler) : (m.onSamp cl f).ferry = m.ferry := rfl
@[simp] theorem Mach.onSamp_fab (m : Mach) (cl : Fin 16) (f : Sampler → Sampler) : (m.onSamp cl f).fab = m.fab := rfl
@[simp] theorem Mach.onSamp_attn (m : Mach) (cl : Fin 16) (f : Sampler → Sampler) : (m.onSamp cl f).attn = m.attn := rfl
@[simp] theorem Mach.onSamp_nextOp (m : Mach) (cl : Fin 16) (f : Sampler → Sampler) : (m.onSamp cl f).nextOp = m.nextOp := rfl

/-! `Mach.onRun` -/

@[simp] theorem Mach.onRun_cores (m : Mach) (cl : Fin 16) (r : SampRun) : (m.onRun cl r).cores = m.cores := rfl
@[simp] theorem Mach.onRun_mem (m : Mach) (cl : Fin 16) (r : SampRun) : (m.onRun cl r).mem = m.mem := rfl
@[simp] theorem Mach.onRun_pend (m : Mach) (cl : Fin 16) (r : SampRun) : (m.onRun cl r).pend = m.pend := rfl
@[simp] theorem Mach.onRun_early (m : Mach) (cl : Fin 16) (r : SampRun) : (m.onRun cl r).early = m.early := rfl
@[simp] theorem Mach.onRun_scyc (m : Mach) (cl : Fin 16) (r : SampRun) : (m.onRun cl r).scyc = m.scyc := rfl
@[simp] theorem Mach.onRun_pkg (m : Mach) (cl : Fin 16) (r : SampRun) : (m.onRun cl r).pkg = m.pkg := rfl
@[simp] theorem Mach.onRun_group (m : Mach) (cl : Fin 16) (r : SampRun) : (m.onRun cl r).group = m.group := rfl
@[simp] theorem Mach.onRun_ports (m : Mach) (cl : Fin 16) (r : SampRun) : (m.onRun cl r).ports = m.ports := rfl
@[simp] theorem Mach.onRun_withdrawn (m : Mach) (cl : Fin 16) (r : SampRun) : (m.onRun cl r).withdrawn = m.withdrawn := rfl
@[simp] theorem Mach.onRun_ctxs (m : Mach) (cl : Fin 16) (r : SampRun) : (m.onRun cl r).ctxs = m.ctxs := rfl
@[simp] theorem Mach.onRun_mcache (m : Mach) (cl : Fin 16) (r : SampRun) : (m.onRun cl r).mcache = m.mcache := rfl
@[simp] theorem Mach.onRun_misses (m : Mach) (cl : Fin 16) (r : SampRun) : (m.onRun cl r).misses = m.misses := rfl
@[simp] theorem Mach.onRun_moorings (m : Mach) (cl : Fin 16) (r : SampRun) : (m.onRun cl r).moorings = m.moorings := rfl
@[simp] theorem Mach.onRun_remotes (m : Mach) (cl : Fin 16) (r : SampRun) : (m.onRun cl r).remotes = m.remotes := rfl
@[simp] theorem Mach.onRun_holds (m : Mach) (cl : Fin 16) (r : SampRun) : (m.onRun cl r).holds = m.holds := rfl
@[simp] theorem Mach.onRun_replays (m : Mach) (cl : Fin 16) (r : SampRun) : (m.onRun cl r).replays = m.replays := rfl
@[simp] theorem Mach.onRun_barriers (m : Mach) (cl : Fin 16) (r : SampRun) : (m.onRun cl r).barriers = m.barriers := rfl
@[simp] theorem Mach.onRun_bell (m : Mach) (cl : Fin 16) (r : SampRun) : (m.onRun cl r).bell = m.bell := rfl
@[simp] theorem Mach.onRun_ferry (m : Mach) (cl : Fin 16) (r : SampRun) : (m.onRun cl r).ferry = m.ferry := rfl
@[simp] theorem Mach.onRun_fab (m : Mach) (cl : Fin 16) (r : SampRun) : (m.onRun cl r).fab = m.fab := rfl
@[simp] theorem Mach.onRun_attn (m : Mach) (cl : Fin 16) (r : SampRun) : (m.onRun cl r).attn = m.attn := rfl
@[simp] theorem Mach.onRun_nextOp (m : Mach) (cl : Fin 16) (r : SampRun) : (m.onRun cl r).nextOp = m.nextOp := rfl

/-! `Mach.onDie` -/

@[simp] theorem Mach.onDie_cores (m : Mach) (ad : Fin 2) (f : AttnDie → AttnDie) : (m.onDie ad f).cores = m.cores := rfl
@[simp] theorem Mach.onDie_mem (m : Mach) (ad : Fin 2) (f : AttnDie → AttnDie) : (m.onDie ad f).mem = m.mem := rfl
@[simp] theorem Mach.onDie_pend (m : Mach) (ad : Fin 2) (f : AttnDie → AttnDie) : (m.onDie ad f).pend = m.pend := rfl
@[simp] theorem Mach.onDie_early (m : Mach) (ad : Fin 2) (f : AttnDie → AttnDie) : (m.onDie ad f).early = m.early := rfl
@[simp] theorem Mach.onDie_scyc (m : Mach) (ad : Fin 2) (f : AttnDie → AttnDie) : (m.onDie ad f).scyc = m.scyc := rfl
@[simp] theorem Mach.onDie_pkg (m : Mach) (ad : Fin 2) (f : AttnDie → AttnDie) : (m.onDie ad f).pkg = m.pkg := rfl
@[simp] theorem Mach.onDie_group (m : Mach) (ad : Fin 2) (f : AttnDie → AttnDie) : (m.onDie ad f).group = m.group := rfl
@[simp] theorem Mach.onDie_ports (m : Mach) (ad : Fin 2) (f : AttnDie → AttnDie) : (m.onDie ad f).ports = m.ports := rfl
@[simp] theorem Mach.onDie_withdrawn (m : Mach) (ad : Fin 2) (f : AttnDie → AttnDie) : (m.onDie ad f).withdrawn = m.withdrawn := rfl
@[simp] theorem Mach.onDie_ctxs (m : Mach) (ad : Fin 2) (f : AttnDie → AttnDie) : (m.onDie ad f).ctxs = m.ctxs := rfl
@[simp] theorem Mach.onDie_mcache (m : Mach) (ad : Fin 2) (f : AttnDie → AttnDie) : (m.onDie ad f).mcache = m.mcache := rfl
@[simp] theorem Mach.onDie_misses (m : Mach) (ad : Fin 2) (f : AttnDie → AttnDie) : (m.onDie ad f).misses = m.misses := rfl
@[simp] theorem Mach.onDie_moorings (m : Mach) (ad : Fin 2) (f : AttnDie → AttnDie) : (m.onDie ad f).moorings = m.moorings := rfl
@[simp] theorem Mach.onDie_remotes (m : Mach) (ad : Fin 2) (f : AttnDie → AttnDie) : (m.onDie ad f).remotes = m.remotes := rfl
@[simp] theorem Mach.onDie_holds (m : Mach) (ad : Fin 2) (f : AttnDie → AttnDie) : (m.onDie ad f).holds = m.holds := rfl
@[simp] theorem Mach.onDie_replays (m : Mach) (ad : Fin 2) (f : AttnDie → AttnDie) : (m.onDie ad f).replays = m.replays := rfl
@[simp] theorem Mach.onDie_barriers (m : Mach) (ad : Fin 2) (f : AttnDie → AttnDie) : (m.onDie ad f).barriers = m.barriers := rfl
@[simp] theorem Mach.onDie_bell (m : Mach) (ad : Fin 2) (f : AttnDie → AttnDie) : (m.onDie ad f).bell = m.bell := rfl
@[simp] theorem Mach.onDie_ferry (m : Mach) (ad : Fin 2) (f : AttnDie → AttnDie) : (m.onDie ad f).ferry = m.ferry := rfl
@[simp] theorem Mach.onDie_fab (m : Mach) (ad : Fin 2) (f : AttnDie → AttnDie) : (m.onDie ad f).fab = m.fab := rfl
@[simp] theorem Mach.onDie_attn (m : Mach) (ad : Fin 2) (f : AttnDie → AttnDie) : (m.onDie ad f).attn = m.attn.set ad (f m.attn[ad]) := rfl
@[simp] theorem Mach.onDie_samp (m : Mach) (ad : Fin 2) (f : AttnDie → AttnDie) : (m.onDie ad f).samp = m.samp := rfl
@[simp] theorem Mach.onDie_nextOp (m : Mach) (ad : Fin 2) (f : AttnDie → AttnDie) : (m.onDie ad f).nextOp = m.nextOp := rfl

/-! `Mach.onQueue` -/

@[simp] theorem Mach.onQueue_cores (m : Mach) (q : Fin 64) (f : TaskQueue → TaskQueue) : (m.onQueue q f).cores = m.cores := rfl
@[simp] theorem Mach.onQueue_mem (m : Mach) (q : Fin 64) (f : TaskQueue → TaskQueue) : (m.onQueue q f).mem = m.mem := rfl
@[simp] theorem Mach.onQueue_pend (m : Mach) (q : Fin 64) (f : TaskQueue → TaskQueue) : (m.onQueue q f).pend = m.pend := rfl
@[simp] theorem Mach.onQueue_early (m : Mach) (q : Fin 64) (f : TaskQueue → TaskQueue) : (m.onQueue q f).early = m.early := rfl
@[simp] theorem Mach.onQueue_scyc (m : Mach) (q : Fin 64) (f : TaskQueue → TaskQueue) : (m.onQueue q f).scyc = m.scyc := rfl
@[simp] theorem Mach.onQueue_pkg (m : Mach) (q : Fin 64) (f : TaskQueue → TaskQueue) : (m.onQueue q f).pkg = m.pkg := rfl
@[simp] theorem Mach.onQueue_group (m : Mach) (q : Fin 64) (f : TaskQueue → TaskQueue) : (m.onQueue q f).group = m.group := rfl
@[simp] theorem Mach.onQueue_ports (m : Mach) (q : Fin 64) (f : TaskQueue → TaskQueue) : (m.onQueue q f).ports = m.ports := rfl
@[simp] theorem Mach.onQueue_withdrawn (m : Mach) (q : Fin 64) (f : TaskQueue → TaskQueue) : (m.onQueue q f).withdrawn = m.withdrawn := rfl
@[simp] theorem Mach.onQueue_ctxs (m : Mach) (q : Fin 64) (f : TaskQueue → TaskQueue) : (m.onQueue q f).ctxs = m.ctxs := rfl
@[simp] theorem Mach.onQueue_mcache (m : Mach) (q : Fin 64) (f : TaskQueue → TaskQueue) : (m.onQueue q f).mcache = m.mcache := rfl
@[simp] theorem Mach.onQueue_misses (m : Mach) (q : Fin 64) (f : TaskQueue → TaskQueue) : (m.onQueue q f).misses = m.misses := rfl
@[simp] theorem Mach.onQueue_moorings (m : Mach) (q : Fin 64) (f : TaskQueue → TaskQueue) : (m.onQueue q f).moorings = m.moorings := rfl
@[simp] theorem Mach.onQueue_remotes (m : Mach) (q : Fin 64) (f : TaskQueue → TaskQueue) : (m.onQueue q f).remotes = m.remotes := rfl
@[simp] theorem Mach.onQueue_holds (m : Mach) (q : Fin 64) (f : TaskQueue → TaskQueue) : (m.onQueue q f).holds = m.holds := rfl
@[simp] theorem Mach.onQueue_replays (m : Mach) (q : Fin 64) (f : TaskQueue → TaskQueue) : (m.onQueue q f).replays = m.replays := rfl
@[simp] theorem Mach.onQueue_barriers (m : Mach) (q : Fin 64) (f : TaskQueue → TaskQueue) : (m.onQueue q f).barriers = m.barriers := rfl
@[simp] theorem Mach.onQueue_bell (m : Mach) (q : Fin 64) (f : TaskQueue → TaskQueue) : (m.onQueue q f).bell = m.bell := rfl
@[simp] theorem Mach.onQueue_fab (m : Mach) (q : Fin 64) (f : TaskQueue → TaskQueue) : (m.onQueue q f).fab = m.fab := rfl
@[simp] theorem Mach.onQueue_attn (m : Mach) (q : Fin 64) (f : TaskQueue → TaskQueue) : (m.onQueue q f).attn = m.attn := rfl
@[simp] theorem Mach.onQueue_samp (m : Mach) (q : Fin 64) (f : TaskQueue → TaskQueue) : (m.onQueue q f).samp = m.samp := rfl
@[simp] theorem Mach.onQueue_nextOp (m : Mach) (q : Fin 64) (f : TaskQueue → TaskQueue) : (m.onQueue q f).nextOp = m.nextOp := rfl

/-! `Mach.onTask` -/

@[simp] theorem Mach.onTask_cores (m : Mach) (id : Nat) (f : Task → Task) : (m.onTask id f).cores = m.cores := rfl
@[simp] theorem Mach.onTask_mem (m : Mach) (id : Nat) (f : Task → Task) : (m.onTask id f).mem = m.mem := rfl
@[simp] theorem Mach.onTask_pend (m : Mach) (id : Nat) (f : Task → Task) : (m.onTask id f).pend = m.pend := rfl
@[simp] theorem Mach.onTask_early (m : Mach) (id : Nat) (f : Task → Task) : (m.onTask id f).early = m.early := rfl
@[simp] theorem Mach.onTask_scyc (m : Mach) (id : Nat) (f : Task → Task) : (m.onTask id f).scyc = m.scyc := rfl
@[simp] theorem Mach.onTask_pkg (m : Mach) (id : Nat) (f : Task → Task) : (m.onTask id f).pkg = m.pkg := rfl
@[simp] theorem Mach.onTask_group (m : Mach) (id : Nat) (f : Task → Task) : (m.onTask id f).group = m.group := rfl
@[simp] theorem Mach.onTask_ports (m : Mach) (id : Nat) (f : Task → Task) : (m.onTask id f).ports = m.ports := rfl
@[simp] theorem Mach.onTask_withdrawn (m : Mach) (id : Nat) (f : Task → Task) : (m.onTask id f).withdrawn = m.withdrawn := rfl
@[simp] theorem Mach.onTask_ctxs (m : Mach) (id : Nat) (f : Task → Task) : (m.onTask id f).ctxs = m.ctxs := rfl
@[simp] theorem Mach.onTask_mcache (m : Mach) (id : Nat) (f : Task → Task) : (m.onTask id f).mcache = m.mcache := rfl
@[simp] theorem Mach.onTask_misses (m : Mach) (id : Nat) (f : Task → Task) : (m.onTask id f).misses = m.misses := rfl
@[simp] theorem Mach.onTask_moorings (m : Mach) (id : Nat) (f : Task → Task) : (m.onTask id f).moorings = m.moorings := rfl
@[simp] theorem Mach.onTask_remotes (m : Mach) (id : Nat) (f : Task → Task) : (m.onTask id f).remotes = m.remotes := rfl
@[simp] theorem Mach.onTask_holds (m : Mach) (id : Nat) (f : Task → Task) : (m.onTask id f).holds = m.holds := rfl
@[simp] theorem Mach.onTask_replays (m : Mach) (id : Nat) (f : Task → Task) : (m.onTask id f).replays = m.replays := rfl
@[simp] theorem Mach.onTask_barriers (m : Mach) (id : Nat) (f : Task → Task) : (m.onTask id f).barriers = m.barriers := rfl
@[simp] theorem Mach.onTask_bell (m : Mach) (id : Nat) (f : Task → Task) : (m.onTask id f).bell = m.bell := rfl
@[simp] theorem Mach.onTask_fab (m : Mach) (id : Nat) (f : Task → Task) : (m.onTask id f).fab = m.fab := rfl
@[simp] theorem Mach.onTask_attn (m : Mach) (id : Nat) (f : Task → Task) : (m.onTask id f).attn = m.attn := rfl
@[simp] theorem Mach.onTask_samp (m : Mach) (id : Nat) (f : Task → Task) : (m.onTask id f).samp = m.samp := rfl
@[simp] theorem Mach.onTask_nextOp (m : Mach) (id : Nat) (f : Task → Task) : (m.onTask id f).nextOp = m.nextOp := rfl

/-! `Mach.setEntry` -/

@[simp] theorem Mach.setEntry_cores (m : Mach) (r : ObjRec) (k : Nat) (v : W64) : (m.setEntry r k v).cores = m.cores := rfl
@[simp] theorem Mach.setEntry_mem (m : Mach) (r : ObjRec) (k : Nat) (v : W64) : (m.setEntry r k v).mem = memSet64 m.mem (r.rmap + 16 * k) v := rfl
@[simp] theorem Mach.setEntry_pend (m : Mach) (r : ObjRec) (k : Nat) (v : W64) : (m.setEntry r k v).pend = m.pend := rfl
@[simp] theorem Mach.setEntry_early (m : Mach) (r : ObjRec) (k : Nat) (v : W64) : (m.setEntry r k v).early = m.early := rfl
@[simp] theorem Mach.setEntry_scyc (m : Mach) (r : ObjRec) (k : Nat) (v : W64) : (m.setEntry r k v).scyc = m.scyc := rfl
@[simp] theorem Mach.setEntry_pkg (m : Mach) (r : ObjRec) (k : Nat) (v : W64) : (m.setEntry r k v).pkg = m.pkg := rfl
@[simp] theorem Mach.setEntry_group (m : Mach) (r : ObjRec) (k : Nat) (v : W64) : (m.setEntry r k v).group = m.group := rfl
@[simp] theorem Mach.setEntry_ports (m : Mach) (r : ObjRec) (k : Nat) (v : W64) : (m.setEntry r k v).ports = m.ports := rfl
@[simp] theorem Mach.setEntry_withdrawn (m : Mach) (r : ObjRec) (k : Nat) (v : W64) : (m.setEntry r k v).withdrawn = m.withdrawn := rfl
@[simp] theorem Mach.setEntry_ctxs (m : Mach) (r : ObjRec) (k : Nat) (v : W64) : (m.setEntry r k v).ctxs = m.ctxs := rfl
@[simp] theorem Mach.setEntry_mcache (m : Mach) (r : ObjRec) (k : Nat) (v : W64) : (m.setEntry r k v).mcache = m.mcache := rfl
@[simp] theorem Mach.setEntry_misses (m : Mach) (r : ObjRec) (k : Nat) (v : W64) : (m.setEntry r k v).misses = m.misses := rfl
@[simp] theorem Mach.setEntry_moorings (m : Mach) (r : ObjRec) (k : Nat) (v : W64) : (m.setEntry r k v).moorings = m.moorings := rfl
@[simp] theorem Mach.setEntry_remotes (m : Mach) (r : ObjRec) (k : Nat) (v : W64) : (m.setEntry r k v).remotes = m.remotes := rfl
@[simp] theorem Mach.setEntry_holds (m : Mach) (r : ObjRec) (k : Nat) (v : W64) : (m.setEntry r k v).holds = m.holds := rfl
@[simp] theorem Mach.setEntry_replays (m : Mach) (r : ObjRec) (k : Nat) (v : W64) : (m.setEntry r k v).replays = m.replays := rfl
@[simp] theorem Mach.setEntry_barriers (m : Mach) (r : ObjRec) (k : Nat) (v : W64) : (m.setEntry r k v).barriers = m.barriers := rfl
@[simp] theorem Mach.setEntry_bell (m : Mach) (r : ObjRec) (k : Nat) (v : W64) : (m.setEntry r k v).bell = m.bell := rfl
@[simp] theorem Mach.setEntry_ferry (m : Mach) (r : ObjRec) (k : Nat) (v : W64) : (m.setEntry r k v).ferry = m.ferry := rfl
@[simp] theorem Mach.setEntry_fab (m : Mach) (r : ObjRec) (k : Nat) (v : W64) : (m.setEntry r k v).fab = m.fab := rfl
@[simp] theorem Mach.setEntry_attn (m : Mach) (r : ObjRec) (k : Nat) (v : W64) : (m.setEntry r k v).attn = m.attn := rfl
@[simp] theorem Mach.setEntry_samp (m : Mach) (r : ObjRec) (k : Nat) (v : W64) : (m.setEntry r k v).samp = m.samp := rfl
@[simp] theorem Mach.setEntry_nextOp (m : Mach) (r : ObjRec) (k : Nat) (v : W64) : (m.setEntry r k v).nextOp = m.nextOp := rfl

/-! `Mach.unlogAt` -/

@[simp] theorem Mach.unlogAt_cores (m : Mach) (key : Nat) : (m.unlogAt key).cores = m.cores := by simp only [Mach.unlogAt]
@[simp] theorem Mach.unlogAt_mem (m : Mach) (key : Nat) : (m.unlogAt key).mem = m.mem := by simp only [Mach.unlogAt]
@[simp] theorem Mach.unlogAt_pend (m : Mach) (key : Nat) : (m.unlogAt key).pend = m.pend := by simp only [Mach.unlogAt]
@[simp] theorem Mach.unlogAt_early (m : Mach) (key : Nat) : (m.unlogAt key).early = m.early := by simp only [Mach.unlogAt]
@[simp] theorem Mach.unlogAt_scyc (m : Mach) (key : Nat) : (m.unlogAt key).scyc = m.scyc := by simp only [Mach.unlogAt]
@[simp] theorem Mach.unlogAt_pkg (m : Mach) (key : Nat) : (m.unlogAt key).pkg = m.pkg := by simp only [Mach.unlogAt]
@[simp] theorem Mach.unlogAt_group (m : Mach) (key : Nat) : (m.unlogAt key).group = m.group := by simp only [Mach.unlogAt]
@[simp] theorem Mach.unlogAt_ports (m : Mach) (key : Nat) : (m.unlogAt key).ports = m.ports := by simp only [Mach.unlogAt]
@[simp] theorem Mach.unlogAt_withdrawn (m : Mach) (key : Nat) : (m.unlogAt key).withdrawn = m.withdrawn := by simp only [Mach.unlogAt]
@[simp] theorem Mach.unlogAt_ctxs (m : Mach) (key : Nat) : (m.unlogAt key).ctxs = m.ctxs := by simp only [Mach.unlogAt]
@[simp] theorem Mach.unlogAt_mcache (m : Mach) (key : Nat) : (m.unlogAt key).mcache = m.mcache := by simp only [Mach.unlogAt]
@[simp] theorem Mach.unlogAt_misses (m : Mach) (key : Nat) : (m.unlogAt key).misses = m.misses := by simp only [Mach.unlogAt]
@[simp] theorem Mach.unlogAt_moorings (m : Mach) (key : Nat) : (m.unlogAt key).moorings = m.moorings := by simp only [Mach.unlogAt]
@[simp] theorem Mach.unlogAt_remotes (m : Mach) (key : Nat) : (m.unlogAt key).remotes = m.remotes := by simp only [Mach.unlogAt]
@[simp] theorem Mach.unlogAt_holds (m : Mach) (key : Nat) : (m.unlogAt key).holds = m.holds := by simp only [Mach.unlogAt]
@[simp] theorem Mach.unlogAt_replays (m : Mach) (key : Nat) : (m.unlogAt key).replays = m.unlogged [key] := by simp only [Mach.unlogAt]
@[simp] theorem Mach.unlogAt_barriers (m : Mach) (key : Nat) : (m.unlogAt key).barriers = m.barriers := by simp only [Mach.unlogAt]
@[simp] theorem Mach.unlogAt_bell (m : Mach) (key : Nat) : (m.unlogAt key).bell = m.bell := by simp only [Mach.unlogAt]
@[simp] theorem Mach.unlogAt_ferry (m : Mach) (key : Nat) : (m.unlogAt key).ferry = m.ferry := by simp only [Mach.unlogAt]
@[simp] theorem Mach.unlogAt_fab (m : Mach) (key : Nat) : (m.unlogAt key).fab = m.fab := by simp only [Mach.unlogAt]
@[simp] theorem Mach.unlogAt_attn (m : Mach) (key : Nat) : (m.unlogAt key).attn = m.attn := by simp only [Mach.unlogAt]
@[simp] theorem Mach.unlogAt_samp (m : Mach) (key : Nat) : (m.unlogAt key).samp = m.samp := by simp only [Mach.unlogAt]
@[simp] theorem Mach.unlogAt_nextOp (m : Mach) (key : Nat) : (m.unlogAt key).nextOp = m.nextOp := by simp only [Mach.unlogAt]

/-! `Mach.performAll` -/

@[simp] theorem Mach.performAll_cores (m : Mach) (now : List PendStore) (pend : List Pend) : (m.performAll now pend).cores = m.cores := by simp only [Mach.performAll]
@[simp] theorem Mach.performAll_mem (m : Mach) (now : List PendStore) (pend : List Pend) : (m.performAll now pend).mem = now.foldl (fun mem p => p.perform mem) m.mem := by simp only [Mach.performAll]
@[simp] theorem Mach.performAll_pend (m : Mach) (now : List PendStore) (pend : List Pend) : (m.performAll now pend).pend = pend := by simp only [Mach.performAll]
@[simp] theorem Mach.performAll_early (m : Mach) (now : List PendStore) (pend : List Pend) : (m.performAll now pend).early = m.early := by simp only [Mach.performAll]
@[simp] theorem Mach.performAll_scyc (m : Mach) (now : List PendStore) (pend : List Pend) : (m.performAll now pend).scyc = m.scyc := by simp only [Mach.performAll]
@[simp] theorem Mach.performAll_pkg (m : Mach) (now : List PendStore) (pend : List Pend) : (m.performAll now pend).pkg = m.pkg := by simp only [Mach.performAll]
@[simp] theorem Mach.performAll_group (m : Mach) (now : List PendStore) (pend : List Pend) : (m.performAll now pend).group = m.group := by simp only [Mach.performAll]
@[simp] theorem Mach.performAll_ports (m : Mach) (now : List PendStore) (pend : List Pend) : (m.performAll now pend).ports = m.ports := by simp only [Mach.performAll]
@[simp] theorem Mach.performAll_withdrawn (m : Mach) (now : List PendStore) (pend : List Pend) : (m.performAll now pend).withdrawn = m.withdrawn := by simp only [Mach.performAll]
@[simp] theorem Mach.performAll_ctxs (m : Mach) (now : List PendStore) (pend : List Pend) : (m.performAll now pend).ctxs = m.ctxs := by simp only [Mach.performAll]
@[simp] theorem Mach.performAll_mcache (m : Mach) (now : List PendStore) (pend : List Pend) : (m.performAll now pend).mcache = m.mcache := by simp only [Mach.performAll]
@[simp] theorem Mach.performAll_misses (m : Mach) (now : List PendStore) (pend : List Pend) : (m.performAll now pend).misses = m.misses := by simp only [Mach.performAll]
@[simp] theorem Mach.performAll_moorings (m : Mach) (now : List PendStore) (pend : List Pend) : (m.performAll now pend).moorings = m.moorings := by simp only [Mach.performAll]
@[simp] theorem Mach.performAll_remotes (m : Mach) (now : List PendStore) (pend : List Pend) : (m.performAll now pend).remotes = m.remotes := by simp only [Mach.performAll]
@[simp] theorem Mach.performAll_holds (m : Mach) (now : List PendStore) (pend : List Pend) : (m.performAll now pend).holds = m.holds := by simp only [Mach.performAll]
@[simp] theorem Mach.performAll_replays (m : Mach) (now : List PendStore) (pend : List Pend) : (m.performAll now pend).replays = m.unlogged (now.map (·.addr)) := by simp only [Mach.performAll]
@[simp] theorem Mach.performAll_barriers (m : Mach) (now : List PendStore) (pend : List Pend) : (m.performAll now pend).barriers = m.barriers := by simp only [Mach.performAll]
@[simp] theorem Mach.performAll_bell (m : Mach) (now : List PendStore) (pend : List Pend) : (m.performAll now pend).bell = m.bell := by simp only [Mach.performAll]
@[simp] theorem Mach.performAll_ferry (m : Mach) (now : List PendStore) (pend : List Pend) : (m.performAll now pend).ferry = m.ferry := by simp only [Mach.performAll]
@[simp] theorem Mach.performAll_fab (m : Mach) (now : List PendStore) (pend : List Pend) : (m.performAll now pend).fab = m.fab := by simp only [Mach.performAll]
@[simp] theorem Mach.performAll_attn (m : Mach) (now : List PendStore) (pend : List Pend) : (m.performAll now pend).attn = m.attn := by simp only [Mach.performAll]
@[simp] theorem Mach.performAll_samp (m : Mach) (now : List PendStore) (pend : List Pend) : (m.performAll now pend).samp = m.samp := by simp only [Mach.performAll]
@[simp] theorem Mach.performAll_nextOp (m : Mach) (now : List PendStore) (pend : List Pend) : (m.performAll now pend).nextOp = m.nextOp := by simp only [Mach.performAll]

/-! `Mach.flushReqs` -/

@[simp] theorem Mach.flushReqs_cores (m : Mach) (c : CoreId) (t : Strand) (bs : List Access) : (m.flushReqs c t bs).cores = m.cores := by simp only [Mach.flushReqs, Mach.performAll]
@[simp] theorem Mach.flushReqs_early (m : Mach) (c : CoreId) (t : Strand) (bs : List Access) : (m.flushReqs c t bs).early = m.early := by simp only [Mach.flushReqs, Mach.performAll]
@[simp] theorem Mach.flushReqs_scyc (m : Mach) (c : CoreId) (t : Strand) (bs : List Access) : (m.flushReqs c t bs).scyc = m.scyc := by simp only [Mach.flushReqs, Mach.performAll]
@[simp] theorem Mach.flushReqs_pkg (m : Mach) (c : CoreId) (t : Strand) (bs : List Access) : (m.flushReqs c t bs).pkg = m.pkg := by simp only [Mach.flushReqs, Mach.performAll]
@[simp] theorem Mach.flushReqs_group (m : Mach) (c : CoreId) (t : Strand) (bs : List Access) : (m.flushReqs c t bs).group = m.group := by simp only [Mach.flushReqs, Mach.performAll]
@[simp] theorem Mach.flushReqs_ports (m : Mach) (c : CoreId) (t : Strand) (bs : List Access) : (m.flushReqs c t bs).ports = m.ports := by simp only [Mach.flushReqs, Mach.performAll]
@[simp] theorem Mach.flushReqs_withdrawn (m : Mach) (c : CoreId) (t : Strand) (bs : List Access) : (m.flushReqs c t bs).withdrawn = m.withdrawn := by simp only [Mach.flushReqs, Mach.performAll]
@[simp] theorem Mach.flushReqs_ctxs (m : Mach) (c : CoreId) (t : Strand) (bs : List Access) : (m.flushReqs c t bs).ctxs = m.ctxs := by simp only [Mach.flushReqs, Mach.performAll]
@[simp] theorem Mach.flushReqs_mcache (m : Mach) (c : CoreId) (t : Strand) (bs : List Access) : (m.flushReqs c t bs).mcache = m.mcache := by simp only [Mach.flushReqs, Mach.performAll]
@[simp] theorem Mach.flushReqs_misses (m : Mach) (c : CoreId) (t : Strand) (bs : List Access) : (m.flushReqs c t bs).misses = m.misses := by simp only [Mach.flushReqs, Mach.performAll]
@[simp] theorem Mach.flushReqs_moorings (m : Mach) (c : CoreId) (t : Strand) (bs : List Access) : (m.flushReqs c t bs).moorings = m.moorings := by simp only [Mach.flushReqs, Mach.performAll]
@[simp] theorem Mach.flushReqs_remotes (m : Mach) (c : CoreId) (t : Strand) (bs : List Access) : (m.flushReqs c t bs).remotes = m.remotes := by simp only [Mach.flushReqs, Mach.performAll]
@[simp] theorem Mach.flushReqs_holds (m : Mach) (c : CoreId) (t : Strand) (bs : List Access) : (m.flushReqs c t bs).holds = m.holds := by simp only [Mach.flushReqs, Mach.performAll]
@[simp] theorem Mach.flushReqs_barriers (m : Mach) (c : CoreId) (t : Strand) (bs : List Access) : (m.flushReqs c t bs).barriers = m.barriers := by simp only [Mach.flushReqs, Mach.performAll]
@[simp] theorem Mach.flushReqs_bell (m : Mach) (c : CoreId) (t : Strand) (bs : List Access) : (m.flushReqs c t bs).bell = m.bell := by simp only [Mach.flushReqs, Mach.performAll]
@[simp] theorem Mach.flushReqs_ferry (m : Mach) (c : CoreId) (t : Strand) (bs : List Access) : (m.flushReqs c t bs).ferry = m.ferry := by simp only [Mach.flushReqs, Mach.performAll]
@[simp] theorem Mach.flushReqs_fab (m : Mach) (c : CoreId) (t : Strand) (bs : List Access) : (m.flushReqs c t bs).fab = m.fab := by simp only [Mach.flushReqs, Mach.performAll]
@[simp] theorem Mach.flushReqs_attn (m : Mach) (c : CoreId) (t : Strand) (bs : List Access) : (m.flushReqs c t bs).attn = m.attn := by simp only [Mach.flushReqs, Mach.performAll]
@[simp] theorem Mach.flushReqs_samp (m : Mach) (c : CoreId) (t : Strand) (bs : List Access) : (m.flushReqs c t bs).samp = m.samp := by simp only [Mach.flushReqs, Mach.performAll]
@[simp] theorem Mach.flushReqs_nextOp (m : Mach) (c : CoreId) (t : Strand) (bs : List Access) : (m.flushReqs c t bs).nextOp = m.nextOp := by simp only [Mach.flushReqs, Mach.performAll]

/-! `Mach.flushFor` -/

@[simp] theorem Mach.flushFor_cores (m : Mach) (c : CoreId) (t : Strand) (b : Access) : (m.flushFor c t b).cores = m.cores := by simp only [Mach.flushFor, Mach.flushReqs, Mach.performAll]
@[simp] theorem Mach.flushFor_early (m : Mach) (c : CoreId) (t : Strand) (b : Access) : (m.flushFor c t b).early = m.early := by simp only [Mach.flushFor, Mach.flushReqs, Mach.performAll]
@[simp] theorem Mach.flushFor_scyc (m : Mach) (c : CoreId) (t : Strand) (b : Access) : (m.flushFor c t b).scyc = m.scyc := by simp only [Mach.flushFor, Mach.flushReqs, Mach.performAll]
@[simp] theorem Mach.flushFor_pkg (m : Mach) (c : CoreId) (t : Strand) (b : Access) : (m.flushFor c t b).pkg = m.pkg := by simp only [Mach.flushFor, Mach.flushReqs, Mach.performAll]
@[simp] theorem Mach.flushFor_group (m : Mach) (c : CoreId) (t : Strand) (b : Access) : (m.flushFor c t b).group = m.group := by simp only [Mach.flushFor, Mach.flushReqs, Mach.performAll]
@[simp] theorem Mach.flushFor_ports (m : Mach) (c : CoreId) (t : Strand) (b : Access) : (m.flushFor c t b).ports = m.ports := by simp only [Mach.flushFor, Mach.flushReqs, Mach.performAll]
@[simp] theorem Mach.flushFor_withdrawn (m : Mach) (c : CoreId) (t : Strand) (b : Access) : (m.flushFor c t b).withdrawn = m.withdrawn := by simp only [Mach.flushFor, Mach.flushReqs, Mach.performAll]
@[simp] theorem Mach.flushFor_ctxs (m : Mach) (c : CoreId) (t : Strand) (b : Access) : (m.flushFor c t b).ctxs = m.ctxs := by simp only [Mach.flushFor, Mach.flushReqs, Mach.performAll]
@[simp] theorem Mach.flushFor_mcache (m : Mach) (c : CoreId) (t : Strand) (b : Access) : (m.flushFor c t b).mcache = m.mcache := by simp only [Mach.flushFor, Mach.flushReqs, Mach.performAll]
@[simp] theorem Mach.flushFor_misses (m : Mach) (c : CoreId) (t : Strand) (b : Access) : (m.flushFor c t b).misses = m.misses := by simp only [Mach.flushFor, Mach.flushReqs, Mach.performAll]
@[simp] theorem Mach.flushFor_moorings (m : Mach) (c : CoreId) (t : Strand) (b : Access) : (m.flushFor c t b).moorings = m.moorings := by simp only [Mach.flushFor, Mach.flushReqs, Mach.performAll]
@[simp] theorem Mach.flushFor_remotes (m : Mach) (c : CoreId) (t : Strand) (b : Access) : (m.flushFor c t b).remotes = m.remotes := by simp only [Mach.flushFor, Mach.flushReqs, Mach.performAll]
@[simp] theorem Mach.flushFor_holds (m : Mach) (c : CoreId) (t : Strand) (b : Access) : (m.flushFor c t b).holds = m.holds := by simp only [Mach.flushFor, Mach.flushReqs, Mach.performAll]
@[simp] theorem Mach.flushFor_barriers (m : Mach) (c : CoreId) (t : Strand) (b : Access) : (m.flushFor c t b).barriers = m.barriers := by simp only [Mach.flushFor, Mach.flushReqs, Mach.performAll]
@[simp] theorem Mach.flushFor_bell (m : Mach) (c : CoreId) (t : Strand) (b : Access) : (m.flushFor c t b).bell = m.bell := by simp only [Mach.flushFor, Mach.flushReqs, Mach.performAll]
@[simp] theorem Mach.flushFor_ferry (m : Mach) (c : CoreId) (t : Strand) (b : Access) : (m.flushFor c t b).ferry = m.ferry := by simp only [Mach.flushFor, Mach.flushReqs, Mach.performAll]
@[simp] theorem Mach.flushFor_fab (m : Mach) (c : CoreId) (t : Strand) (b : Access) : (m.flushFor c t b).fab = m.fab := by simp only [Mach.flushFor, Mach.flushReqs, Mach.performAll]
@[simp] theorem Mach.flushFor_attn (m : Mach) (c : CoreId) (t : Strand) (b : Access) : (m.flushFor c t b).attn = m.attn := by simp only [Mach.flushFor, Mach.flushReqs, Mach.performAll]
@[simp] theorem Mach.flushFor_samp (m : Mach) (c : CoreId) (t : Strand) (b : Access) : (m.flushFor c t b).samp = m.samp := by simp only [Mach.flushFor, Mach.flushReqs, Mach.performAll]
@[simp] theorem Mach.flushFor_nextOp (m : Mach) (c : CoreId) (t : Strand) (b : Access) : (m.flushFor c t b).nextOp = m.nextOp := by simp only [Mach.flushFor, Mach.flushReqs, Mach.performAll]

/-! `Mach.flushAll` -/

@[simp] theorem Mach.flushAll_cores (m : Mach) (c : CoreId) (t : Strand) : (m.flushAll c t).cores = m.cores := by simp only [Mach.flushAll, Mach.performAll]
@[simp] theorem Mach.flushAll_early (m : Mach) (c : CoreId) (t : Strand) : (m.flushAll c t).early = m.early := by simp only [Mach.flushAll, Mach.performAll]
@[simp] theorem Mach.flushAll_scyc (m : Mach) (c : CoreId) (t : Strand) : (m.flushAll c t).scyc = m.scyc := by simp only [Mach.flushAll, Mach.performAll]
@[simp] theorem Mach.flushAll_pkg (m : Mach) (c : CoreId) (t : Strand) : (m.flushAll c t).pkg = m.pkg := by simp only [Mach.flushAll, Mach.performAll]
@[simp] theorem Mach.flushAll_group (m : Mach) (c : CoreId) (t : Strand) : (m.flushAll c t).group = m.group := by simp only [Mach.flushAll, Mach.performAll]
@[simp] theorem Mach.flushAll_ports (m : Mach) (c : CoreId) (t : Strand) : (m.flushAll c t).ports = m.ports := by simp only [Mach.flushAll, Mach.performAll]
@[simp] theorem Mach.flushAll_withdrawn (m : Mach) (c : CoreId) (t : Strand) : (m.flushAll c t).withdrawn = m.withdrawn := by simp only [Mach.flushAll, Mach.performAll]
@[simp] theorem Mach.flushAll_ctxs (m : Mach) (c : CoreId) (t : Strand) : (m.flushAll c t).ctxs = m.ctxs := by simp only [Mach.flushAll, Mach.performAll]
@[simp] theorem Mach.flushAll_mcache (m : Mach) (c : CoreId) (t : Strand) : (m.flushAll c t).mcache = m.mcache := by simp only [Mach.flushAll, Mach.performAll]
@[simp] theorem Mach.flushAll_misses (m : Mach) (c : CoreId) (t : Strand) : (m.flushAll c t).misses = m.misses := by simp only [Mach.flushAll, Mach.performAll]
@[simp] theorem Mach.flushAll_moorings (m : Mach) (c : CoreId) (t : Strand) : (m.flushAll c t).moorings = m.moorings := by simp only [Mach.flushAll, Mach.performAll]
@[simp] theorem Mach.flushAll_remotes (m : Mach) (c : CoreId) (t : Strand) : (m.flushAll c t).remotes = m.remotes := by simp only [Mach.flushAll, Mach.performAll]
@[simp] theorem Mach.flushAll_holds (m : Mach) (c : CoreId) (t : Strand) : (m.flushAll c t).holds = m.holds := by simp only [Mach.flushAll, Mach.performAll]
@[simp] theorem Mach.flushAll_barriers (m : Mach) (c : CoreId) (t : Strand) : (m.flushAll c t).barriers = m.barriers := by simp only [Mach.flushAll, Mach.performAll]
@[simp] theorem Mach.flushAll_bell (m : Mach) (c : CoreId) (t : Strand) : (m.flushAll c t).bell = m.bell := by simp only [Mach.flushAll, Mach.performAll]
@[simp] theorem Mach.flushAll_ferry (m : Mach) (c : CoreId) (t : Strand) : (m.flushAll c t).ferry = m.ferry := by simp only [Mach.flushAll, Mach.performAll]
@[simp] theorem Mach.flushAll_fab (m : Mach) (c : CoreId) (t : Strand) : (m.flushAll c t).fab = m.fab := by simp only [Mach.flushAll, Mach.performAll]
@[simp] theorem Mach.flushAll_attn (m : Mach) (c : CoreId) (t : Strand) : (m.flushAll c t).attn = m.attn := by simp only [Mach.flushAll, Mach.performAll]
@[simp] theorem Mach.flushAll_samp (m : Mach) (c : CoreId) (t : Strand) : (m.flushAll c t).samp = m.samp := by simp only [Mach.flushAll, Mach.performAll]
@[simp] theorem Mach.flushAll_nextOp (m : Mach) (c : CoreId) (t : Strand) : (m.flushAll c t).nextOp = m.nextOp := by simp only [Mach.flushAll, Mach.performAll]

/-! `Mach.passClock` -/

@[simp] theorem Mach.passClock_cores (m : Mach) (tick n : Nat) : (m.passClock tick n).cores = m.cores := by simp only [Mach.passClock, Mach.latchBefore]
@[simp] theorem Mach.passClock_mem (m : Mach) (tick n : Nat) : (m.passClock tick n).mem = m.mem := by simp only [Mach.passClock, Mach.latchBefore]
@[simp] theorem Mach.passClock_pend (m : Mach) (tick n : Nat) : (m.passClock tick n).pend = m.pend := by simp only [Mach.passClock, Mach.latchBefore]
@[simp] theorem Mach.passClock_early (m : Mach) (tick n : Nat) : (m.passClock tick n).early = m.early := by simp only [Mach.passClock, Mach.latchBefore]
@[simp] theorem Mach.passClock_scyc (m : Mach) (tick n : Nat) : (m.passClock tick n).scyc = m.scyc + n := by simp only [Mach.passClock, Mach.latchBefore]
@[simp] theorem Mach.passClock_pkg (m : Mach) (tick n : Nat) : (m.passClock tick n).pkg = m.pkg := by simp only [Mach.passClock, Mach.latchBefore]
@[simp] theorem Mach.passClock_group (m : Mach) (tick n : Nat) : (m.passClock tick n).group = m.group := by simp only [Mach.passClock, Mach.latchBefore]
@[simp] theorem Mach.passClock_ports (m : Mach) (tick n : Nat) : (m.passClock tick n).ports = m.ports := by simp only [Mach.passClock, Mach.latchBefore]
@[simp] theorem Mach.passClock_withdrawn (m : Mach) (tick n : Nat) : (m.passClock tick n).withdrawn = m.withdrawn := by simp only [Mach.passClock, Mach.latchBefore]
@[simp] theorem Mach.passClock_ctxs (m : Mach) (tick n : Nat) : (m.passClock tick n).ctxs = m.ctxs := by simp only [Mach.passClock, Mach.latchBefore]
@[simp] theorem Mach.passClock_mcache (m : Mach) (tick n : Nat) : (m.passClock tick n).mcache = m.mcache := by simp only [Mach.passClock, Mach.latchBefore]
@[simp] theorem Mach.passClock_misses (m : Mach) (tick n : Nat) : (m.passClock tick n).misses = m.misses := by simp only [Mach.passClock, Mach.latchBefore]
@[simp] theorem Mach.passClock_moorings (m : Mach) (tick n : Nat) : (m.passClock tick n).moorings = m.moorings := by simp only [Mach.passClock, Mach.latchBefore]
@[simp] theorem Mach.passClock_remotes (m : Mach) (tick n : Nat) : (m.passClock tick n).remotes = m.remotes := by simp only [Mach.passClock, Mach.latchBefore]
@[simp] theorem Mach.passClock_holds (m : Mach) (tick n : Nat) : (m.passClock tick n).holds = m.holds := by simp only [Mach.passClock, Mach.latchBefore]
@[simp] theorem Mach.passClock_replays (m : Mach) (tick n : Nat) : (m.passClock tick n).replays = m.replays := by simp only [Mach.passClock, Mach.latchBefore]
@[simp] theorem Mach.passClock_barriers (m : Mach) (tick n : Nat) : (m.passClock tick n).barriers = m.barriers := by simp only [Mach.passClock, Mach.latchBefore]
@[simp] theorem Mach.passClock_ferry (m : Mach) (tick n : Nat) : (m.passClock tick n).ferry = m.ferry := by simp only [Mach.passClock, Mach.latchBefore]
@[simp] theorem Mach.passClock_fab (m : Mach) (tick n : Nat) : (m.passClock tick n).fab = m.fab := by simp only [Mach.passClock, Mach.latchBefore]
@[simp] theorem Mach.passClock_attn (m : Mach) (tick n : Nat) : (m.passClock tick n).attn = m.attn := by simp only [Mach.passClock, Mach.latchBefore]
@[simp] theorem Mach.passClock_samp (m : Mach) (tick n : Nat) : (m.passClock tick n).samp = m.samp := by simp only [Mach.passClock, Mach.latchBefore]
@[simp] theorem Mach.passClock_nextOp (m : Mach) (tick n : Nat) : (m.passClock tick n).nextOp = m.nextOp := by simp only [Mach.passClock, Mach.latchBefore]

/-! `Mach.ring` -/

@[simp] theorem Mach.ring_cores (m : Mach) (source : Nat) (tag : W32) (cls : BitVec 4) (core : Nat) : (m.ring source tag cls core).cores = m.cores := by unfold Mach.ring; extract_lets b en; clear_value en; split <;> rfl
@[simp] theorem Mach.ring_mem (m : Mach) (source : Nat) (tag : W32) (cls : BitVec 4) (core : Nat) : (m.ring source tag cls core).mem = m.mem := by unfold Mach.ring; extract_lets b en; clear_value en; split <;> rfl
@[simp] theorem Mach.ring_pend (m : Mach) (source : Nat) (tag : W32) (cls : BitVec 4) (core : Nat) : (m.ring source tag cls core).pend = m.pend := by unfold Mach.ring; extract_lets b en; clear_value en; split <;> rfl
@[simp] theorem Mach.ring_early (m : Mach) (source : Nat) (tag : W32) (cls : BitVec 4) (core : Nat) : (m.ring source tag cls core).early = m.early := by unfold Mach.ring; extract_lets b en; clear_value en; split <;> rfl
@[simp] theorem Mach.ring_scyc (m : Mach) (source : Nat) (tag : W32) (cls : BitVec 4) (core : Nat) : (m.ring source tag cls core).scyc = m.scyc := by unfold Mach.ring; extract_lets b en; clear_value en; split <;> rfl
@[simp] theorem Mach.ring_pkg (m : Mach) (source : Nat) (tag : W32) (cls : BitVec 4) (core : Nat) : (m.ring source tag cls core).pkg = m.pkg := by unfold Mach.ring; extract_lets b en; clear_value en; split <;> rfl
@[simp] theorem Mach.ring_group (m : Mach) (source : Nat) (tag : W32) (cls : BitVec 4) (core : Nat) : (m.ring source tag cls core).group = m.group := by unfold Mach.ring; extract_lets b en; clear_value en; split <;> rfl
@[simp] theorem Mach.ring_ports (m : Mach) (source : Nat) (tag : W32) (cls : BitVec 4) (core : Nat) : (m.ring source tag cls core).ports = m.ports := by unfold Mach.ring; extract_lets b en; clear_value en; split <;> rfl
@[simp] theorem Mach.ring_withdrawn (m : Mach) (source : Nat) (tag : W32) (cls : BitVec 4) (core : Nat) : (m.ring source tag cls core).withdrawn = m.withdrawn := by unfold Mach.ring; extract_lets b en; clear_value en; split <;> rfl
@[simp] theorem Mach.ring_ctxs (m : Mach) (source : Nat) (tag : W32) (cls : BitVec 4) (core : Nat) : (m.ring source tag cls core).ctxs = m.ctxs := by unfold Mach.ring; extract_lets b en; clear_value en; split <;> rfl
@[simp] theorem Mach.ring_mcache (m : Mach) (source : Nat) (tag : W32) (cls : BitVec 4) (core : Nat) : (m.ring source tag cls core).mcache = m.mcache := by unfold Mach.ring; extract_lets b en; clear_value en; split <;> rfl
@[simp] theorem Mach.ring_misses (m : Mach) (source : Nat) (tag : W32) (cls : BitVec 4) (core : Nat) : (m.ring source tag cls core).misses = m.misses := by unfold Mach.ring; extract_lets b en; clear_value en; split <;> rfl
@[simp] theorem Mach.ring_moorings (m : Mach) (source : Nat) (tag : W32) (cls : BitVec 4) (core : Nat) : (m.ring source tag cls core).moorings = m.moorings := by unfold Mach.ring; extract_lets b en; clear_value en; split <;> rfl
@[simp] theorem Mach.ring_remotes (m : Mach) (source : Nat) (tag : W32) (cls : BitVec 4) (core : Nat) : (m.ring source tag cls core).remotes = m.remotes := by unfold Mach.ring; extract_lets b en; clear_value en; split <;> rfl
@[simp] theorem Mach.ring_holds (m : Mach) (source : Nat) (tag : W32) (cls : BitVec 4) (core : Nat) : (m.ring source tag cls core).holds = m.holds := by unfold Mach.ring; extract_lets b en; clear_value en; split <;> rfl
@[simp] theorem Mach.ring_replays (m : Mach) (source : Nat) (tag : W32) (cls : BitVec 4) (core : Nat) : (m.ring source tag cls core).replays = m.replays := by unfold Mach.ring; extract_lets b en; clear_value en; split <;> rfl
@[simp] theorem Mach.ring_barriers (m : Mach) (source : Nat) (tag : W32) (cls : BitVec 4) (core : Nat) : (m.ring source tag cls core).barriers = m.barriers := by unfold Mach.ring; extract_lets b en; clear_value en; split <;> rfl
@[simp] theorem Mach.ring_ferry (m : Mach) (source : Nat) (tag : W32) (cls : BitVec 4) (core : Nat) : (m.ring source tag cls core).ferry = m.ferry := by unfold Mach.ring; extract_lets b en; clear_value en; split <;> rfl
@[simp] theorem Mach.ring_fab (m : Mach) (source : Nat) (tag : W32) (cls : BitVec 4) (core : Nat) : (m.ring source tag cls core).fab = m.fab := by unfold Mach.ring; extract_lets b en; clear_value en; split <;> rfl
@[simp] theorem Mach.ring_attn (m : Mach) (source : Nat) (tag : W32) (cls : BitVec 4) (core : Nat) : (m.ring source tag cls core).attn = m.attn := by unfold Mach.ring; extract_lets b en; clear_value en; split <;> rfl
@[simp] theorem Mach.ring_samp (m : Mach) (source : Nat) (tag : W32) (cls : BitVec 4) (core : Nat) : (m.ring source tag cls core).samp = m.samp := by unfold Mach.ring; extract_lets b en; clear_value en; split <;> rfl
@[simp] theorem Mach.ring_nextOp (m : Mach) (source : Nat) (tag : W32) (cls : BitVec 4) (core : Nat) : (m.ring source tag cls core).nextOp = m.nextOp := by unfold Mach.ring; extract_lets b en; clear_value en; split <;> rfl

/-! `Core.onEng` -/

@[simp] theorem Core.onEng_ctl (k : Core) (t : Strand) (f : EngStrand → EngStrand) : (k.onEng t f).ctl = k.ctl := by cases t <;> rfl
@[simp] theorem Core.onEng_vec (k : Core) (t : Strand) (f : EngStrand → EngStrand) : (k.onEng t f).vec = k.vec := by cases t <;> rfl
@[simp] theorem Core.onEng_rings (k : Core) (t : Strand) (f : EngStrand → EngStrand) : (k.onEng t f).rings = k.rings := by cases t <;> rfl
@[simp] theorem Core.onEng_sets (k : Core) (t : Strand) (f : EngStrand → EngStrand) : (k.onEng t f).sets = k.sets := by cases t <;> rfl
@[simp] theorem Core.onEng_q (k : Core) (t : Strand) (f : EngStrand → EngStrand) : (k.onEng t f).q = k.q := by cases t <;> rfl
@[simp] theorem Core.onEng_sm (k : Core) (t : Strand) (f : EngStrand → EngStrand) : (k.onEng t f).sm = k.sm := by cases t <;> rfl
@[simp] theorem Core.onEng_smw (k : Core) (t : Strand) (f : EngStrand → EngStrand) : (k.onEng t f).smw = k.smw := by cases t <;> rfl
@[simp] theorem Core.onEng_mx (k : Core) (t : Strand) (f : EngStrand → EngStrand) : (k.onEng t f).mx = k.mx := by cases t <;> rfl
@[simp] theorem Core.onEng_rg (k : Core) (t : Strand) (f : EngStrand → EngStrand) : (k.onEng t f).rg = k.rg := by cases t <;> rfl
@[simp] theorem Core.onEng_bp (k : Core) (t : Strand) (f : EngStrand → EngStrand) : (k.onEng t f).bp = k.bp := by cases t <;> rfl
@[simp] theorem Core.onEng_imglen (k : Core) (t : Strand) (f : EngStrand → EngStrand) : (k.onEng t f).imglen = k.imglen := by cases t <;> rfl
@[simp] theorem Core.onEng_acc (k : Core) (t : Strand) (f : EngStrand → EngStrand) : (k.onEng t f).acc = k.acc := by cases t <;> rfl
@[simp] theorem Core.onEng_scale (k : Core) (t : Strand) (f : EngStrand → EngStrand) : (k.onEng t f).scale = k.scale := by cases t <;> rfl
@[simp] theorem Core.onEng_lease (k : Core) (t : Strand) (f : EngStrand → EngStrand) : (k.onEng t f).lease = k.lease := by cases t <;> rfl
@[simp] theorem Core.onEng_leaseLast (k : Core) (t : Strand) (f : EngStrand → EngStrand) : (k.onEng t f).leaseLast = k.leaseLast := by cases t <;> rfl
@[simp] theorem Core.onEng_reread (k : Core) (t : Strand) (f : EngStrand → EngStrand) : (k.onEng t f).reread = k.reread := by cases t <;> rfl
@[simp] theorem Core.onEng_dom (k : Core) (t : Strand) (f : EngStrand → EngStrand) : (k.onEng t f).dom = k.dom := by cases t <;> rfl
@[simp] theorem Core.onEng_lcidCore (k : Core) (t : Strand) (f : EngStrand → EngStrand) : (k.onEng t f).lcidCore = k.lcidCore := by cases t <;> rfl
@[simp] theorem Core.onEng_physCluster (k : Core) (t : Strand) (f : EngStrand → EngStrand) : (k.onEng t f).physCluster = k.physCluster := by cases t <;> rfl
@[simp] theorem Core.onEng_physCore (k : Core) (t : Strand) (f : EngStrand → EngStrand) : (k.onEng t f).physCore = k.physCore := by cases t <;> rfl
@[simp] theorem Core.onEng_task (k : Core) (t : Strand) (f : EngStrand → EngStrand) : (k.onEng t f).task = k.task := by cases t <;> rfl
@[simp] theorem Core.onEng_forked (k : Core) (t : Strand) (f : EngStrand → EngStrand) : (k.onEng t f).forked = k.forked := by cases t <;> rfl
@[simp] theorem Core.onEng_stop (k : Core) (t : Strand) (f : EngStrand → EngStrand) : (k.onEng t f).stop = k.stop := by cases t <;> rfl
@[simp] theorem Core.onEng_shareDone (k : Core) (t : Strand) (f : EngStrand → EngStrand) : (k.onEng t f).shareDone = k.shareDone := by cases t <;> rfl
@[simp] theorem Core.onEng_rhCtl (k : Core) (t : Strand) (f : EngStrand → EngStrand) : (k.onEng t f).rhCtl = k.rhCtl := by cases t <;> rfl
@[simp] theorem Core.onEng_rhVec (k : Core) (t : Strand) (f : EngStrand → EngStrand) : (k.onEng t f).rhVec = k.rhVec := by cases t <;> rfl

/-! `Core.onRing` -/

@[simp] theorem Core.onRing_ctl (k : Core) (r : Fin 3) (f : CmdRing → CmdRing) : (k.onRing r f).ctl = k.ctl := rfl
@[simp] theorem Core.onRing_vec (k : Core) (r : Fin 3) (f : CmdRing → CmdRing) : (k.onRing r f).vec = k.vec := rfl
@[simp] theorem Core.onRing_mata (k : Core) (r : Fin 3) (f : CmdRing → CmdRing) : (k.onRing r f).mata = k.mata := rfl
@[simp] theorem Core.onRing_matb (k : Core) (r : Fin 3) (f : CmdRing → CmdRing) : (k.onRing r f).matb = k.matb := rfl
@[simp] theorem Core.onRing_copy (k : Core) (r : Fin 3) (f : CmdRing → CmdRing) : (k.onRing r f).copy = k.copy := rfl
@[simp] theorem Core.onRing_rings (k : Core) (r : Fin 3) (f : CmdRing → CmdRing) : (k.onRing r f).rings = k.rings.set r (f k.rings[r]) := rfl
@[simp] theorem Core.onRing_sets (k : Core) (r : Fin 3) (f : CmdRing → CmdRing) : (k.onRing r f).sets = k.sets := rfl
@[simp] theorem Core.onRing_q (k : Core) (r : Fin 3) (f : CmdRing → CmdRing) : (k.onRing r f).q = k.q := rfl
@[simp] theorem Core.onRing_sm (k : Core) (r : Fin 3) (f : CmdRing → CmdRing) : (k.onRing r f).sm = k.sm := rfl
@[simp] theorem Core.onRing_smw (k : Core) (r : Fin 3) (f : CmdRing → CmdRing) : (k.onRing r f).smw = k.smw := rfl
@[simp] theorem Core.onRing_mx (k : Core) (r : Fin 3) (f : CmdRing → CmdRing) : (k.onRing r f).mx = k.mx := rfl
@[simp] theorem Core.onRing_rg (k : Core) (r : Fin 3) (f : CmdRing → CmdRing) : (k.onRing r f).rg = k.rg := rfl
@[simp] theorem Core.onRing_bp (k : Core) (r : Fin 3) (f : CmdRing → CmdRing) : (k.onRing r f).bp = k.bp := rfl
@[simp] theorem Core.onRing_imglen (k : Core) (r : Fin 3) (f : CmdRing → CmdRing) : (k.onRing r f).imglen = k.imglen := rfl
@[simp] theorem Core.onRing_acc (k : Core) (r : Fin 3) (f : CmdRing → CmdRing) : (k.onRing r f).acc = k.acc := rfl
@[simp] theorem Core.onRing_scale (k : Core) (r : Fin 3) (f : CmdRing → CmdRing) : (k.onRing r f).scale = k.scale := rfl
@[simp] theorem Core.onRing_lease (k : Core) (r : Fin 3) (f : CmdRing → CmdRing) : (k.onRing r f).lease = k.lease := rfl
@[simp] theorem Core.onRing_leaseLast (k : Core) (r : Fin 3) (f : CmdRing → CmdRing) : (k.onRing r f).leaseLast = k.leaseLast := rfl
@[simp] theorem Core.onRing_reread (k : Core) (r : Fin 3) (f : CmdRing → CmdRing) : (k.onRing r f).reread = k.reread := rfl
@[simp] theorem Core.onRing_dom (k : Core) (r : Fin 3) (f : CmdRing → CmdRing) : (k.onRing r f).dom = k.dom := rfl
@[simp] theorem Core.onRing_lcidCore (k : Core) (r : Fin 3) (f : CmdRing → CmdRing) : (k.onRing r f).lcidCore = k.lcidCore := rfl
@[simp] theorem Core.onRing_physCluster (k : Core) (r : Fin 3) (f : CmdRing → CmdRing) : (k.onRing r f).physCluster = k.physCluster := rfl
@[simp] theorem Core.onRing_physCore (k : Core) (r : Fin 3) (f : CmdRing → CmdRing) : (k.onRing r f).physCore = k.physCore := rfl
@[simp] theorem Core.onRing_task (k : Core) (r : Fin 3) (f : CmdRing → CmdRing) : (k.onRing r f).task = k.task := rfl
@[simp] theorem Core.onRing_forked (k : Core) (r : Fin 3) (f : CmdRing → CmdRing) : (k.onRing r f).forked = k.forked := rfl
@[simp] theorem Core.onRing_stop (k : Core) (r : Fin 3) (f : CmdRing → CmdRing) : (k.onRing r f).stop = k.stop := rfl
@[simp] theorem Core.onRing_shareDone (k : Core) (r : Fin 3) (f : CmdRing → CmdRing) : (k.onRing r f).shareDone = k.shareDone := rfl
@[simp] theorem Core.onRing_rhCtl (k : Core) (r : Fin 3) (f : CmdRing → CmdRing) : (k.onRing r f).rhCtl = k.rhCtl := rfl
@[simp] theorem Core.onRing_rhVec (k : Core) (r : Fin 3) (f : CmdRing → CmdRing) : (k.onRing r f).rhVec = k.rhVec := rfl

/-! `Core.semAdd` -/

@[simp] theorem Core.semAdd_ctl (k : Core) (n : Fin 15) (d : Int) : (k.semAdd n d).ctl = k.ctl := by unfold Core.semAdd; extract_lets sum v; clear_value v; generalize releaseWaiters v k.smw[n] = p; obtain ⟨_, _⟩ := p; rfl
@[simp] theorem Core.semAdd_vec (k : Core) (n : Fin 15) (d : Int) : (k.semAdd n d).vec = k.vec := by unfold Core.semAdd; extract_lets sum v; clear_value v; generalize releaseWaiters v k.smw[n] = p; obtain ⟨_, _⟩ := p; rfl
@[simp] theorem Core.semAdd_mata (k : Core) (n : Fin 15) (d : Int) : (k.semAdd n d).mata = k.mata := by unfold Core.semAdd; extract_lets sum v; clear_value v; generalize releaseWaiters v k.smw[n] = p; obtain ⟨_, _⟩ := p; rfl
@[simp] theorem Core.semAdd_matb (k : Core) (n : Fin 15) (d : Int) : (k.semAdd n d).matb = k.matb := by unfold Core.semAdd; extract_lets sum v; clear_value v; generalize releaseWaiters v k.smw[n] = p; obtain ⟨_, _⟩ := p; rfl
@[simp] theorem Core.semAdd_copy (k : Core) (n : Fin 15) (d : Int) : (k.semAdd n d).copy = k.copy := by unfold Core.semAdd; extract_lets sum v; clear_value v; generalize releaseWaiters v k.smw[n] = p; obtain ⟨_, _⟩ := p; rfl
@[simp] theorem Core.semAdd_rings (k : Core) (n : Fin 15) (d : Int) : (k.semAdd n d).rings = k.rings := by unfold Core.semAdd; extract_lets sum v; clear_value v; generalize releaseWaiters v k.smw[n] = p; obtain ⟨_, _⟩ := p; rfl
@[simp] theorem Core.semAdd_sets (k : Core) (n : Fin 15) (d : Int) : (k.semAdd n d).sets = k.sets := by unfold Core.semAdd; extract_lets sum v; clear_value v; generalize releaseWaiters v k.smw[n] = p; obtain ⟨_, _⟩ := p; rfl
@[simp] theorem Core.semAdd_q (k : Core) (n : Fin 15) (d : Int) : (k.semAdd n d).q = k.q := by unfold Core.semAdd; extract_lets sum v; clear_value v; generalize releaseWaiters v k.smw[n] = p; obtain ⟨_, _⟩ := p; rfl
@[simp] theorem Core.semAdd_mx (k : Core) (n : Fin 15) (d : Int) : (k.semAdd n d).mx = k.mx := by unfold Core.semAdd; extract_lets sum v; clear_value v; generalize releaseWaiters v k.smw[n] = p; obtain ⟨_, _⟩ := p; rfl
@[simp] theorem Core.semAdd_rg (k : Core) (n : Fin 15) (d : Int) : (k.semAdd n d).rg = k.rg := by unfold Core.semAdd; extract_lets sum v; clear_value v; generalize releaseWaiters v k.smw[n] = p; obtain ⟨_, _⟩ := p; rfl
@[simp] theorem Core.semAdd_bp (k : Core) (n : Fin 15) (d : Int) : (k.semAdd n d).bp = k.bp := by unfold Core.semAdd; extract_lets sum v; clear_value v; generalize releaseWaiters v k.smw[n] = p; obtain ⟨_, _⟩ := p; rfl
@[simp] theorem Core.semAdd_imglen (k : Core) (n : Fin 15) (d : Int) : (k.semAdd n d).imglen = k.imglen := by unfold Core.semAdd; extract_lets sum v; clear_value v; generalize releaseWaiters v k.smw[n] = p; obtain ⟨_, _⟩ := p; rfl
@[simp] theorem Core.semAdd_acc (k : Core) (n : Fin 15) (d : Int) : (k.semAdd n d).acc = k.acc := by unfold Core.semAdd; extract_lets sum v; clear_value v; generalize releaseWaiters v k.smw[n] = p; obtain ⟨_, _⟩ := p; rfl
@[simp] theorem Core.semAdd_scale (k : Core) (n : Fin 15) (d : Int) : (k.semAdd n d).scale = k.scale := by unfold Core.semAdd; extract_lets sum v; clear_value v; generalize releaseWaiters v k.smw[n] = p; obtain ⟨_, _⟩ := p; rfl
@[simp] theorem Core.semAdd_lease (k : Core) (n : Fin 15) (d : Int) : (k.semAdd n d).lease = k.lease := by unfold Core.semAdd; extract_lets sum v; clear_value v; generalize releaseWaiters v k.smw[n] = p; obtain ⟨_, _⟩ := p; rfl
@[simp] theorem Core.semAdd_leaseLast (k : Core) (n : Fin 15) (d : Int) : (k.semAdd n d).leaseLast = k.leaseLast := by unfold Core.semAdd; extract_lets sum v; clear_value v; generalize releaseWaiters v k.smw[n] = p; obtain ⟨_, _⟩ := p; rfl
@[simp] theorem Core.semAdd_reread (k : Core) (n : Fin 15) (d : Int) : (k.semAdd n d).reread = k.reread := by unfold Core.semAdd; extract_lets sum v; clear_value v; generalize releaseWaiters v k.smw[n] = p; obtain ⟨_, _⟩ := p; rfl
@[simp] theorem Core.semAdd_dom (k : Core) (n : Fin 15) (d : Int) : (k.semAdd n d).dom = k.dom := by unfold Core.semAdd; extract_lets sum v; clear_value v; generalize releaseWaiters v k.smw[n] = p; obtain ⟨_, _⟩ := p; rfl
@[simp] theorem Core.semAdd_lcidCore (k : Core) (n : Fin 15) (d : Int) : (k.semAdd n d).lcidCore = k.lcidCore := by unfold Core.semAdd; extract_lets sum v; clear_value v; generalize releaseWaiters v k.smw[n] = p; obtain ⟨_, _⟩ := p; rfl
@[simp] theorem Core.semAdd_physCluster (k : Core) (n : Fin 15) (d : Int) : (k.semAdd n d).physCluster = k.physCluster := by unfold Core.semAdd; extract_lets sum v; clear_value v; generalize releaseWaiters v k.smw[n] = p; obtain ⟨_, _⟩ := p; rfl
@[simp] theorem Core.semAdd_physCore (k : Core) (n : Fin 15) (d : Int) : (k.semAdd n d).physCore = k.physCore := by unfold Core.semAdd; extract_lets sum v; clear_value v; generalize releaseWaiters v k.smw[n] = p; obtain ⟨_, _⟩ := p; rfl
@[simp] theorem Core.semAdd_task (k : Core) (n : Fin 15) (d : Int) : (k.semAdd n d).task = k.task := by unfold Core.semAdd; extract_lets sum v; clear_value v; generalize releaseWaiters v k.smw[n] = p; obtain ⟨_, _⟩ := p; rfl
@[simp] theorem Core.semAdd_forked (k : Core) (n : Fin 15) (d : Int) : (k.semAdd n d).forked = k.forked := by unfold Core.semAdd; extract_lets sum v; clear_value v; generalize releaseWaiters v k.smw[n] = p; obtain ⟨_, _⟩ := p; rfl
@[simp] theorem Core.semAdd_stop (k : Core) (n : Fin 15) (d : Int) : (k.semAdd n d).stop = k.stop := by unfold Core.semAdd; extract_lets sum v; clear_value v; generalize releaseWaiters v k.smw[n] = p; obtain ⟨_, _⟩ := p; rfl
@[simp] theorem Core.semAdd_shareDone (k : Core) (n : Fin 15) (d : Int) : (k.semAdd n d).shareDone = k.shareDone := by unfold Core.semAdd; extract_lets sum v; clear_value v; generalize releaseWaiters v k.smw[n] = p; obtain ⟨_, _⟩ := p; rfl
@[simp] theorem Core.semAdd_rhCtl (k : Core) (n : Fin 15) (d : Int) : (k.semAdd n d).rhCtl = k.rhCtl := by unfold Core.semAdd; extract_lets sum v; clear_value v; generalize releaseWaiters v k.smw[n] = p; obtain ⟨_, _⟩ := p; rfl
@[simp] theorem Core.semAdd_rhVec (k : Core) (n : Fin 15) (d : Int) : (k.semAdd n d).rhVec = k.rhVec := by unfold Core.semAdd; extract_lets sum v; clear_value v; generalize releaseWaiters v k.smw[n] = p; obtain ⟨_, _⟩ := p; rfl

/-! `Core.raise` -/

@[simp] theorem Core.raise_ctl (k : Core) (rs : BitVec 4) : (k.raise rs).ctl = k.ctl := by unfold Core.raise; split <;> simp
@[simp] theorem Core.raise_vec (k : Core) (rs : BitVec 4) : (k.raise rs).vec = k.vec := by unfold Core.raise; split <;> simp
@[simp] theorem Core.raise_mata (k : Core) (rs : BitVec 4) : (k.raise rs).mata = k.mata := by unfold Core.raise; split <;> simp
@[simp] theorem Core.raise_matb (k : Core) (rs : BitVec 4) : (k.raise rs).matb = k.matb := by unfold Core.raise; split <;> simp
@[simp] theorem Core.raise_copy (k : Core) (rs : BitVec 4) : (k.raise rs).copy = k.copy := by unfold Core.raise; split <;> simp
@[simp] theorem Core.raise_rings (k : Core) (rs : BitVec 4) : (k.raise rs).rings = k.rings := by unfold Core.raise; split <;> simp
@[simp] theorem Core.raise_sets (k : Core) (rs : BitVec 4) : (k.raise rs).sets = k.sets := by unfold Core.raise; split <;> simp
@[simp] theorem Core.raise_q (k : Core) (rs : BitVec 4) : (k.raise rs).q = k.q := by unfold Core.raise; split <;> simp
@[simp] theorem Core.raise_mx (k : Core) (rs : BitVec 4) : (k.raise rs).mx = k.mx := by unfold Core.raise; split <;> simp
@[simp] theorem Core.raise_rg (k : Core) (rs : BitVec 4) : (k.raise rs).rg = k.rg := by unfold Core.raise; split <;> simp
@[simp] theorem Core.raise_bp (k : Core) (rs : BitVec 4) : (k.raise rs).bp = k.bp := by unfold Core.raise; split <;> simp
@[simp] theorem Core.raise_imglen (k : Core) (rs : BitVec 4) : (k.raise rs).imglen = k.imglen := by unfold Core.raise; split <;> simp
@[simp] theorem Core.raise_acc (k : Core) (rs : BitVec 4) : (k.raise rs).acc = k.acc := by unfold Core.raise; split <;> simp
@[simp] theorem Core.raise_scale (k : Core) (rs : BitVec 4) : (k.raise rs).scale = k.scale := by unfold Core.raise; split <;> simp
@[simp] theorem Core.raise_lease (k : Core) (rs : BitVec 4) : (k.raise rs).lease = k.lease := by unfold Core.raise; split <;> simp
@[simp] theorem Core.raise_leaseLast (k : Core) (rs : BitVec 4) : (k.raise rs).leaseLast = k.leaseLast := by unfold Core.raise; split <;> simp
@[simp] theorem Core.raise_reread (k : Core) (rs : BitVec 4) : (k.raise rs).reread = k.reread := by unfold Core.raise; split <;> simp
@[simp] theorem Core.raise_dom (k : Core) (rs : BitVec 4) : (k.raise rs).dom = k.dom := by unfold Core.raise; split <;> simp
@[simp] theorem Core.raise_lcidCore (k : Core) (rs : BitVec 4) : (k.raise rs).lcidCore = k.lcidCore := by unfold Core.raise; split <;> simp
@[simp] theorem Core.raise_physCluster (k : Core) (rs : BitVec 4) : (k.raise rs).physCluster = k.physCluster := by unfold Core.raise; split <;> simp
@[simp] theorem Core.raise_physCore (k : Core) (rs : BitVec 4) : (k.raise rs).physCore = k.physCore := by unfold Core.raise; split <;> simp
@[simp] theorem Core.raise_task (k : Core) (rs : BitVec 4) : (k.raise rs).task = k.task := by unfold Core.raise; split <;> simp
@[simp] theorem Core.raise_forked (k : Core) (rs : BitVec 4) : (k.raise rs).forked = k.forked := by unfold Core.raise; split <;> simp
@[simp] theorem Core.raise_stop (k : Core) (rs : BitVec 4) : (k.raise rs).stop = k.stop := by unfold Core.raise; split <;> simp
@[simp] theorem Core.raise_shareDone (k : Core) (rs : BitVec 4) : (k.raise rs).shareDone = k.shareDone := by unfold Core.raise; split <;> simp
@[simp] theorem Core.raise_rhCtl (k : Core) (rs : BitVec 4) : (k.raise rs).rhCtl = k.rhCtl := by unfold Core.raise; split <;> simp
@[simp] theorem Core.raise_rhVec (k : Core) (rs : BitVec 4) : (k.raise rs).rhVec = k.rhVec := by unfold Core.raise; split <;> simp

/-! `Core.dropWaiter` -/

@[simp] theorem Core.dropWaiter_ctl (k : Core) (n : Fin 15) (t : Strand) : (k.dropWaiter n t).ctl = k.ctl := rfl
@[simp] theorem Core.dropWaiter_vec (k : Core) (n : Fin 15) (t : Strand) : (k.dropWaiter n t).vec = k.vec := rfl
@[simp] theorem Core.dropWaiter_mata (k : Core) (n : Fin 15) (t : Strand) : (k.dropWaiter n t).mata = k.mata := rfl
@[simp] theorem Core.dropWaiter_matb (k : Core) (n : Fin 15) (t : Strand) : (k.dropWaiter n t).matb = k.matb := rfl
@[simp] theorem Core.dropWaiter_copy (k : Core) (n : Fin 15) (t : Strand) : (k.dropWaiter n t).copy = k.copy := rfl
@[simp] theorem Core.dropWaiter_rings (k : Core) (n : Fin 15) (t : Strand) : (k.dropWaiter n t).rings = k.rings := rfl
@[simp] theorem Core.dropWaiter_sets (k : Core) (n : Fin 15) (t : Strand) : (k.dropWaiter n t).sets = k.sets := rfl
@[simp] theorem Core.dropWaiter_q (k : Core) (n : Fin 15) (t : Strand) : (k.dropWaiter n t).q = k.q := rfl
@[simp] theorem Core.dropWaiter_sm (k : Core) (n : Fin 15) (t : Strand) : (k.dropWaiter n t).sm = k.sm := rfl
@[simp] theorem Core.dropWaiter_mx (k : Core) (n : Fin 15) (t : Strand) : (k.dropWaiter n t).mx = k.mx := rfl
@[simp] theorem Core.dropWaiter_rg (k : Core) (n : Fin 15) (t : Strand) : (k.dropWaiter n t).rg = k.rg := rfl
@[simp] theorem Core.dropWaiter_bp (k : Core) (n : Fin 15) (t : Strand) : (k.dropWaiter n t).bp = k.bp := rfl
@[simp] theorem Core.dropWaiter_imglen (k : Core) (n : Fin 15) (t : Strand) : (k.dropWaiter n t).imglen = k.imglen := rfl
@[simp] theorem Core.dropWaiter_acc (k : Core) (n : Fin 15) (t : Strand) : (k.dropWaiter n t).acc = k.acc := rfl
@[simp] theorem Core.dropWaiter_scale (k : Core) (n : Fin 15) (t : Strand) : (k.dropWaiter n t).scale = k.scale := rfl
@[simp] theorem Core.dropWaiter_lease (k : Core) (n : Fin 15) (t : Strand) : (k.dropWaiter n t).lease = k.lease := rfl
@[simp] theorem Core.dropWaiter_leaseLast (k : Core) (n : Fin 15) (t : Strand) : (k.dropWaiter n t).leaseLast = k.leaseLast := rfl
@[simp] theorem Core.dropWaiter_reread (k : Core) (n : Fin 15) (t : Strand) : (k.dropWaiter n t).reread = k.reread := rfl
@[simp] theorem Core.dropWaiter_dom (k : Core) (n : Fin 15) (t : Strand) : (k.dropWaiter n t).dom = k.dom := rfl
@[simp] theorem Core.dropWaiter_lcidCore (k : Core) (n : Fin 15) (t : Strand) : (k.dropWaiter n t).lcidCore = k.lcidCore := rfl
@[simp] theorem Core.dropWaiter_physCluster (k : Core) (n : Fin 15) (t : Strand) : (k.dropWaiter n t).physCluster = k.physCluster := rfl
@[simp] theorem Core.dropWaiter_physCore (k : Core) (n : Fin 15) (t : Strand) : (k.dropWaiter n t).physCore = k.physCore := rfl
@[simp] theorem Core.dropWaiter_task (k : Core) (n : Fin 15) (t : Strand) : (k.dropWaiter n t).task = k.task := rfl
@[simp] theorem Core.dropWaiter_forked (k : Core) (n : Fin 15) (t : Strand) : (k.dropWaiter n t).forked = k.forked := rfl
@[simp] theorem Core.dropWaiter_stop (k : Core) (n : Fin 15) (t : Strand) : (k.dropWaiter n t).stop = k.stop := rfl
@[simp] theorem Core.dropWaiter_shareDone (k : Core) (n : Fin 15) (t : Strand) : (k.dropWaiter n t).shareDone = k.shareDone := rfl
@[simp] theorem Core.dropWaiter_rhCtl (k : Core) (n : Fin 15) (t : Strand) : (k.dropWaiter n t).rhCtl = k.rhCtl := rfl
@[simp] theorem Core.dropWaiter_rhVec (k : Core) (n : Fin 15) (t : Strand) : (k.dropWaiter n t).rhVec = k.rhVec := rfl

/-! `Ctl.setX` -/

@[simp] theorem Ctl.setX_x (k : Ctl) (r : Fin 31) (v : XVal) : (k.setX r v).x = k.x.set r v := rfl
@[simp] theorem Ctl.setX_sx (k : Ctl) (r : Fin 31) (v : XVal) : (k.setX r v).sx = k.sx := rfl
@[simp] theorem Ctl.setX_k (k : Ctl) (r : Fin 31) (v : XVal) : (k.setX r v).k = k.k := rfl
@[simp] theorem Ctl.setX_pc (k : Ctl) (r : Fin 31) (v : XVal) : (k.setX r v).pc = k.pc := rfl
@[simp] theorem Ctl.setX_sup (k : Ctl) (r : Fin 31) (v : XVal) : (k.setX r v).sup = k.sup := rfl
@[simp] theorem Ctl.setX_status (k : Ctl) (r : Fin 31) (v : XVal) : (k.setX r v).status = k.status := rfl
@[simp] theorem Ctl.setX_dz (k : Ctl) (r : Fin 31) (v : XVal) : (k.setX r v).dz = k.dz := rfl
@[simp] theorem Ctl.setX_sat (k : Ctl) (r : Fin 31) (v : XVal) : (k.setX r v).sat = k.sat := rfl
@[simp] theorem Ctl.setX_pw (k : Ctl) (r : Fin 31) (v : XVal) : (k.setX r v).pw = k.pw := rfl
@[simp] theorem Ctl.setX_hd (k : Ctl) (r : Fin 31) (v : XVal) : (k.setX r v).hd = k.hd := rfl
@[simp] theorem Ctl.setX_specEn (k : Ctl) (r : Fin 31) (v : XVal) : (k.setX r v).specEn = k.specEn := rfl
@[simp] theorem Ctl.setX_rbud (k : Ctl) (r : Fin 31) (v : XVal) : (k.setX r v).rbud = k.rbud := rfl
@[simp] theorem Ctl.setX_mbud (k : Ctl) (r : Fin 31) (v : XVal) : (k.setX r v).mbud = k.mbud := rfl
@[simp] theorem Ctl.setX_uiEn (k : Ctl) (r : Fin 31) (v : XVal) : (k.setX r v).uiEn = k.uiEn := rfl
@[simp] theorem Ctl.setX_uiOvf (k : Ctl) (r : Fin 31) (v : XVal) : (k.setX r v).uiOvf = k.uiOvf := rfl
@[simp] theorem Ctl.setX_uiActive (k : Ctl) (r : Fin 31) (v : XVal) : (k.setX r v).uiActive = k.uiActive := rfl
@[simp] theorem Ctl.setX_uiVec (k : Ctl) (r : Fin 31) (v : XVal) : (k.setX r v).uiVec = k.uiVec := rfl
@[simp] theorem Ctl.setX_uiEpc (k : Ctl) (r : Fin 31) (v : XVal) : (k.setX r v).uiEpc = k.uiEpc := rfl
@[simp] theorem Ctl.setX_uiCause (k : Ctl) (r : Fin 31) (v : XVal) : (k.setX r v).uiCause = k.uiCause := rfl
@[simp] theorem Ctl.setX_events (k : Ctl) (r : Fin 31) (v : XVal) : (k.setX r v).events = k.events := rfl
@[simp] theorem Ctl.setX_armed (k : Ctl) (r : Fin 31) (v : XVal) : (k.setX r v).armed = k.armed := rfl
@[simp] theorem Ctl.setX_pending (k : Ctl) (r : Fin 31) (v : XVal) : (k.setX r v).pending = k.pending := rfl
@[simp] theorem Ctl.setX_held (k : Ctl) (r : Fin 31) (v : XVal) : (k.setX r v).held = k.held := rfl
@[simp] theorem Ctl.setX_stvec (k : Ctl) (r : Fin 31) (v : XVal) : (k.setX r v).stvec = k.stvec := rfl
@[simp] theorem Ctl.setX_stvecEn (k : Ctl) (r : Fin 31) (v : XVal) : (k.setX r v).stvecEn = k.stvecEn := rfl
@[simp] theorem Ctl.setX_sepc (k : Ctl) (r : Fin 31) (v : XVal) : (k.setX r v).sepc = k.sepc := rfl
@[simp] theorem Ctl.setX_snpc (k : Ctl) (r : Fin 31) (v : XVal) : (k.setX r v).snpc = k.snpc := rfl
@[simp] theorem Ctl.setX_causeSrc (k : Ctl) (r : Fin 31) (v : XVal) : (k.setX r v).causeSrc = k.causeSrc := rfl
@[simp] theorem Ctl.setX_causeAsync (k : Ctl) (r : Fin 31) (v : XVal) : (k.setX r v).causeAsync = k.causeAsync := rfl
@[simp] theorem Ctl.setX_causeClass (k : Ctl) (r : Fin 31) (v : XVal) : (k.setX r v).causeClass = k.causeClass := rfl
@[simp] theorem Ctl.setX_sfaddr (k : Ctl) (r : Fin 31) (v : XVal) : (k.setX r v).sfaddr = k.sfaddr := rfl
@[simp] theorem Ctl.setX_sscr (k : Ctl) (r : Fin 31) (v : XVal) : (k.setX r v).sscr = k.sscr := rfl
@[simp] theorem Ctl.setX_treflMask (k : Ctl) (r : Fin 31) (v : XVal) : (k.setX r v).treflMask = k.treflMask := rfl
@[simp] theorem Ctl.setX_treflAddr (k : Ctl) (r : Fin 31) (v : XVal) : (k.setX r v).treflAddr = k.treflAddr := rfl
@[simp] theorem Ctl.setX_vstatStopped (k : Ctl) (r : Fin 31) (v : XVal) : (k.setX r v).vstatStopped = k.vstatStopped := rfl
@[simp] theorem Ctl.setX_vstatClass (k : Ctl) (r : Fin 31) (v : XVal) : (k.setX r v).vstatClass = k.vstatClass := rfl
@[simp] theorem Ctl.setX_vstatAddr (k : Ctl) (r : Fin 31) (v : XVal) : (k.setX r v).vstatAddr = k.vstatAddr := rfl
@[simp] theorem Ctl.setX_errCorr (k : Ctl) (r : Fin 31) (v : XVal) : (k.setX r v).errCorr = k.errCorr := rfl
@[simp] theorem Ctl.setX_errUnc (k : Ctl) (r : Fin 31) (v : XVal) : (k.setX r v).errUnc = k.errUnc := rfl
@[simp] theorem Ctl.setX_ctxid (k : Ctl) (r : Fin 31) (v : XVal) : (k.setX r v).ctxid = k.ctxid := rfl
@[simp] theorem Ctl.setX_miss (k : Ctl) (r : Fin 31) (v : XVal) : (k.setX r v).miss = k.miss := rfl
@[simp] theorem Ctl.setX_wait (k : Ctl) (r : Fin 31) (v : XVal) : (k.setX r v).wait = k.wait := rfl

/-! `Ctl.write` -/

@[simp] theorem Ctl.write_sx (k : Ctl) (d : Dst) (v : XVal) : (k.write d v).sx = k.sx := by cases d <;> rfl
@[simp] theorem Ctl.write_k (k : Ctl) (d : Dst) (v : XVal) : (k.write d v).k = k.k := by cases d <;> rfl
@[simp] theorem Ctl.write_pc (k : Ctl) (d : Dst) (v : XVal) : (k.write d v).pc = k.pc := by cases d <;> rfl
@[simp] theorem Ctl.write_sup (k : Ctl) (d : Dst) (v : XVal) : (k.write d v).sup = k.sup := by cases d <;> rfl
@[simp] theorem Ctl.write_status (k : Ctl) (d : Dst) (v : XVal) : (k.write d v).status = k.status := by cases d <;> rfl
@[simp] theorem Ctl.write_dz (k : Ctl) (d : Dst) (v : XVal) : (k.write d v).dz = k.dz := by cases d <;> rfl
@[simp] theorem Ctl.write_sat (k : Ctl) (d : Dst) (v : XVal) : (k.write d v).sat = k.sat := by cases d <;> rfl
@[simp] theorem Ctl.write_pw (k : Ctl) (d : Dst) (v : XVal) : (k.write d v).pw = k.pw := by cases d <;> rfl
@[simp] theorem Ctl.write_hd (k : Ctl) (d : Dst) (v : XVal) : (k.write d v).hd = k.hd := by cases d <;> rfl
@[simp] theorem Ctl.write_specEn (k : Ctl) (d : Dst) (v : XVal) : (k.write d v).specEn = k.specEn := by cases d <;> rfl
@[simp] theorem Ctl.write_rbud (k : Ctl) (d : Dst) (v : XVal) : (k.write d v).rbud = k.rbud := by cases d <;> rfl
@[simp] theorem Ctl.write_mbud (k : Ctl) (d : Dst) (v : XVal) : (k.write d v).mbud = k.mbud := by cases d <;> rfl
@[simp] theorem Ctl.write_uiEn (k : Ctl) (d : Dst) (v : XVal) : (k.write d v).uiEn = k.uiEn := by cases d <;> rfl
@[simp] theorem Ctl.write_uiOvf (k : Ctl) (d : Dst) (v : XVal) : (k.write d v).uiOvf = k.uiOvf := by cases d <;> rfl
@[simp] theorem Ctl.write_uiActive (k : Ctl) (d : Dst) (v : XVal) : (k.write d v).uiActive = k.uiActive := by cases d <;> rfl
@[simp] theorem Ctl.write_uiVec (k : Ctl) (d : Dst) (v : XVal) : (k.write d v).uiVec = k.uiVec := by cases d <;> rfl
@[simp] theorem Ctl.write_uiEpc (k : Ctl) (d : Dst) (v : XVal) : (k.write d v).uiEpc = k.uiEpc := by cases d <;> rfl
@[simp] theorem Ctl.write_uiCause (k : Ctl) (d : Dst) (v : XVal) : (k.write d v).uiCause = k.uiCause := by cases d <;> rfl
@[simp] theorem Ctl.write_events (k : Ctl) (d : Dst) (v : XVal) : (k.write d v).events = k.events := by cases d <;> rfl
@[simp] theorem Ctl.write_armed (k : Ctl) (d : Dst) (v : XVal) : (k.write d v).armed = k.armed := by cases d <;> rfl
@[simp] theorem Ctl.write_pending (k : Ctl) (d : Dst) (v : XVal) : (k.write d v).pending = k.pending := by cases d <;> rfl
@[simp] theorem Ctl.write_held (k : Ctl) (d : Dst) (v : XVal) : (k.write d v).held = k.held := by cases d <;> rfl
@[simp] theorem Ctl.write_stvec (k : Ctl) (d : Dst) (v : XVal) : (k.write d v).stvec = k.stvec := by cases d <;> rfl
@[simp] theorem Ctl.write_stvecEn (k : Ctl) (d : Dst) (v : XVal) : (k.write d v).stvecEn = k.stvecEn := by cases d <;> rfl
@[simp] theorem Ctl.write_sepc (k : Ctl) (d : Dst) (v : XVal) : (k.write d v).sepc = k.sepc := by cases d <;> rfl
@[simp] theorem Ctl.write_snpc (k : Ctl) (d : Dst) (v : XVal) : (k.write d v).snpc = k.snpc := by cases d <;> rfl
@[simp] theorem Ctl.write_causeSrc (k : Ctl) (d : Dst) (v : XVal) : (k.write d v).causeSrc = k.causeSrc := by cases d <;> rfl
@[simp] theorem Ctl.write_causeAsync (k : Ctl) (d : Dst) (v : XVal) : (k.write d v).causeAsync = k.causeAsync := by cases d <;> rfl
@[simp] theorem Ctl.write_causeClass (k : Ctl) (d : Dst) (v : XVal) : (k.write d v).causeClass = k.causeClass := by cases d <;> rfl
@[simp] theorem Ctl.write_sfaddr (k : Ctl) (d : Dst) (v : XVal) : (k.write d v).sfaddr = k.sfaddr := by cases d <;> rfl
@[simp] theorem Ctl.write_sscr (k : Ctl) (d : Dst) (v : XVal) : (k.write d v).sscr = k.sscr := by cases d <;> rfl
@[simp] theorem Ctl.write_treflMask (k : Ctl) (d : Dst) (v : XVal) : (k.write d v).treflMask = k.treflMask := by cases d <;> rfl
@[simp] theorem Ctl.write_treflAddr (k : Ctl) (d : Dst) (v : XVal) : (k.write d v).treflAddr = k.treflAddr := by cases d <;> rfl
@[simp] theorem Ctl.write_vstatStopped (k : Ctl) (d : Dst) (v : XVal) : (k.write d v).vstatStopped = k.vstatStopped := by cases d <;> rfl
@[simp] theorem Ctl.write_vstatClass (k : Ctl) (d : Dst) (v : XVal) : (k.write d v).vstatClass = k.vstatClass := by cases d <;> rfl
@[simp] theorem Ctl.write_vstatAddr (k : Ctl) (d : Dst) (v : XVal) : (k.write d v).vstatAddr = k.vstatAddr := by cases d <;> rfl
@[simp] theorem Ctl.write_errCorr (k : Ctl) (d : Dst) (v : XVal) : (k.write d v).errCorr = k.errCorr := by cases d <;> rfl
@[simp] theorem Ctl.write_errUnc (k : Ctl) (d : Dst) (v : XVal) : (k.write d v).errUnc = k.errUnc := by cases d <;> rfl
@[simp] theorem Ctl.write_ctxid (k : Ctl) (d : Dst) (v : XVal) : (k.write d v).ctxid = k.ctxid := by cases d <;> rfl
@[simp] theorem Ctl.write_miss (k : Ctl) (d : Dst) (v : XVal) : (k.write d v).miss = k.miss := by cases d <;> rfl
@[simp] theorem Ctl.write_wait (k : Ctl) (d : Dst) (v : XVal) : (k.write d v).wait = k.wait := by cases d <;> rfl

/-! `Ctl.setK` -/

@[simp] theorem Ctl.setK_x (k : Ctl) (i : Fin 8) (b : Bool) : (k.setK i b).x = k.x := rfl
@[simp] theorem Ctl.setK_sx (k : Ctl) (i : Fin 8) (b : Bool) : (k.setK i b).sx = k.sx := rfl
@[simp] theorem Ctl.setK_k (k : Ctl) (i : Fin 8) (b : Bool) : (k.setK i b).k = k.k.set i b := rfl
@[simp] theorem Ctl.setK_pc (k : Ctl) (i : Fin 8) (b : Bool) : (k.setK i b).pc = k.pc := rfl
@[simp] theorem Ctl.setK_sup (k : Ctl) (i : Fin 8) (b : Bool) : (k.setK i b).sup = k.sup := rfl
@[simp] theorem Ctl.setK_status (k : Ctl) (i : Fin 8) (b : Bool) : (k.setK i b).status = k.status := rfl
@[simp] theorem Ctl.setK_dz (k : Ctl) (i : Fin 8) (b : Bool) : (k.setK i b).dz = k.dz := rfl
@[simp] theorem Ctl.setK_sat (k : Ctl) (i : Fin 8) (b : Bool) : (k.setK i b).sat = k.sat := rfl
@[simp] theorem Ctl.setK_pw (k : Ctl) (i : Fin 8) (b : Bool) : (k.setK i b).pw = k.pw := rfl
@[simp] theorem Ctl.setK_hd (k : Ctl) (i : Fin 8) (b : Bool) : (k.setK i b).hd = k.hd := rfl
@[simp] theorem Ctl.setK_specEn (k : Ctl) (i : Fin 8) (b : Bool) : (k.setK i b).specEn = k.specEn := rfl
@[simp] theorem Ctl.setK_rbud (k : Ctl) (i : Fin 8) (b : Bool) : (k.setK i b).rbud = k.rbud := rfl
@[simp] theorem Ctl.setK_mbud (k : Ctl) (i : Fin 8) (b : Bool) : (k.setK i b).mbud = k.mbud := rfl
@[simp] theorem Ctl.setK_uiEn (k : Ctl) (i : Fin 8) (b : Bool) : (k.setK i b).uiEn = k.uiEn := rfl
@[simp] theorem Ctl.setK_uiOvf (k : Ctl) (i : Fin 8) (b : Bool) : (k.setK i b).uiOvf = k.uiOvf := rfl
@[simp] theorem Ctl.setK_uiActive (k : Ctl) (i : Fin 8) (b : Bool) : (k.setK i b).uiActive = k.uiActive := rfl
@[simp] theorem Ctl.setK_uiVec (k : Ctl) (i : Fin 8) (b : Bool) : (k.setK i b).uiVec = k.uiVec := rfl
@[simp] theorem Ctl.setK_uiEpc (k : Ctl) (i : Fin 8) (b : Bool) : (k.setK i b).uiEpc = k.uiEpc := rfl
@[simp] theorem Ctl.setK_uiCause (k : Ctl) (i : Fin 8) (b : Bool) : (k.setK i b).uiCause = k.uiCause := rfl
@[simp] theorem Ctl.setK_events (k : Ctl) (i : Fin 8) (b : Bool) : (k.setK i b).events = k.events := rfl
@[simp] theorem Ctl.setK_armed (k : Ctl) (i : Fin 8) (b : Bool) : (k.setK i b).armed = k.armed := rfl
@[simp] theorem Ctl.setK_pending (k : Ctl) (i : Fin 8) (b : Bool) : (k.setK i b).pending = k.pending := rfl
@[simp] theorem Ctl.setK_held (k : Ctl) (i : Fin 8) (b : Bool) : (k.setK i b).held = k.held := rfl
@[simp] theorem Ctl.setK_stvec (k : Ctl) (i : Fin 8) (b : Bool) : (k.setK i b).stvec = k.stvec := rfl
@[simp] theorem Ctl.setK_stvecEn (k : Ctl) (i : Fin 8) (b : Bool) : (k.setK i b).stvecEn = k.stvecEn := rfl
@[simp] theorem Ctl.setK_sepc (k : Ctl) (i : Fin 8) (b : Bool) : (k.setK i b).sepc = k.sepc := rfl
@[simp] theorem Ctl.setK_snpc (k : Ctl) (i : Fin 8) (b : Bool) : (k.setK i b).snpc = k.snpc := rfl
@[simp] theorem Ctl.setK_causeSrc (k : Ctl) (i : Fin 8) (b : Bool) : (k.setK i b).causeSrc = k.causeSrc := rfl
@[simp] theorem Ctl.setK_causeAsync (k : Ctl) (i : Fin 8) (b : Bool) : (k.setK i b).causeAsync = k.causeAsync := rfl
@[simp] theorem Ctl.setK_causeClass (k : Ctl) (i : Fin 8) (b : Bool) : (k.setK i b).causeClass = k.causeClass := rfl
@[simp] theorem Ctl.setK_sfaddr (k : Ctl) (i : Fin 8) (b : Bool) : (k.setK i b).sfaddr = k.sfaddr := rfl
@[simp] theorem Ctl.setK_sscr (k : Ctl) (i : Fin 8) (b : Bool) : (k.setK i b).sscr = k.sscr := rfl
@[simp] theorem Ctl.setK_treflMask (k : Ctl) (i : Fin 8) (b : Bool) : (k.setK i b).treflMask = k.treflMask := rfl
@[simp] theorem Ctl.setK_treflAddr (k : Ctl) (i : Fin 8) (b : Bool) : (k.setK i b).treflAddr = k.treflAddr := rfl
@[simp] theorem Ctl.setK_vstatStopped (k : Ctl) (i : Fin 8) (b : Bool) : (k.setK i b).vstatStopped = k.vstatStopped := rfl
@[simp] theorem Ctl.setK_vstatClass (k : Ctl) (i : Fin 8) (b : Bool) : (k.setK i b).vstatClass = k.vstatClass := rfl
@[simp] theorem Ctl.setK_vstatAddr (k : Ctl) (i : Fin 8) (b : Bool) : (k.setK i b).vstatAddr = k.vstatAddr := rfl
@[simp] theorem Ctl.setK_errCorr (k : Ctl) (i : Fin 8) (b : Bool) : (k.setK i b).errCorr = k.errCorr := rfl
@[simp] theorem Ctl.setK_errUnc (k : Ctl) (i : Fin 8) (b : Bool) : (k.setK i b).errUnc = k.errUnc := rfl
@[simp] theorem Ctl.setK_ctxid (k : Ctl) (i : Fin 8) (b : Bool) : (k.setK i b).ctxid = k.ctxid := rfl
@[simp] theorem Ctl.setK_miss (k : Ctl) (i : Fin 8) (b : Bool) : (k.setK i b).miss = k.miss := rfl
@[simp] theorem Ctl.setK_wait (k : Ctl) (i : Fin 8) (b : Bool) : (k.setK i b).wait = k.wait := rfl

/-! `Ctl.setFlags` -/

@[simp] theorem Ctl.setFlags_x (k : Ctl) (o : AluOut) : (k.setFlags o).x = k.x := rfl
@[simp] theorem Ctl.setFlags_sx (k : Ctl) (o : AluOut) : (k.setFlags o).sx = k.sx := rfl
@[simp] theorem Ctl.setFlags_k (k : Ctl) (o : AluOut) : (k.setFlags o).k = k.k := rfl
@[simp] theorem Ctl.setFlags_pc (k : Ctl) (o : AluOut) : (k.setFlags o).pc = k.pc := rfl
@[simp] theorem Ctl.setFlags_sup (k : Ctl) (o : AluOut) : (k.setFlags o).sup = k.sup := rfl
@[simp] theorem Ctl.setFlags_status (k : Ctl) (o : AluOut) : (k.setFlags o).status = k.status := rfl
@[simp] theorem Ctl.setFlags_dz (k : Ctl) (o : AluOut) : (k.setFlags o).dz = (k.dz || o.dz) := rfl
@[simp] theorem Ctl.setFlags_sat (k : Ctl) (o : AluOut) : (k.setFlags o).sat = (k.sat || o.sat) := rfl
@[simp] theorem Ctl.setFlags_pw (k : Ctl) (o : AluOut) : (k.setFlags o).pw = (k.pw || o.pw) := rfl
@[simp] theorem Ctl.setFlags_hd (k : Ctl) (o : AluOut) : (k.setFlags o).hd = (k.hd || o.hd) := rfl
@[simp] theorem Ctl.setFlags_specEn (k : Ctl) (o : AluOut) : (k.setFlags o).specEn = k.specEn := rfl
@[simp] theorem Ctl.setFlags_rbud (k : Ctl) (o : AluOut) : (k.setFlags o).rbud = k.rbud := rfl
@[simp] theorem Ctl.setFlags_mbud (k : Ctl) (o : AluOut) : (k.setFlags o).mbud = k.mbud := rfl
@[simp] theorem Ctl.setFlags_uiEn (k : Ctl) (o : AluOut) : (k.setFlags o).uiEn = k.uiEn := rfl
@[simp] theorem Ctl.setFlags_uiOvf (k : Ctl) (o : AluOut) : (k.setFlags o).uiOvf = k.uiOvf := rfl
@[simp] theorem Ctl.setFlags_uiActive (k : Ctl) (o : AluOut) : (k.setFlags o).uiActive = k.uiActive := rfl
@[simp] theorem Ctl.setFlags_uiVec (k : Ctl) (o : AluOut) : (k.setFlags o).uiVec = k.uiVec := rfl
@[simp] theorem Ctl.setFlags_uiEpc (k : Ctl) (o : AluOut) : (k.setFlags o).uiEpc = k.uiEpc := rfl
@[simp] theorem Ctl.setFlags_uiCause (k : Ctl) (o : AluOut) : (k.setFlags o).uiCause = k.uiCause := rfl
@[simp] theorem Ctl.setFlags_events (k : Ctl) (o : AluOut) : (k.setFlags o).events = k.events := rfl
@[simp] theorem Ctl.setFlags_armed (k : Ctl) (o : AluOut) : (k.setFlags o).armed = k.armed := rfl
@[simp] theorem Ctl.setFlags_pending (k : Ctl) (o : AluOut) : (k.setFlags o).pending = k.pending := rfl
@[simp] theorem Ctl.setFlags_held (k : Ctl) (o : AluOut) : (k.setFlags o).held = k.held := rfl
@[simp] theorem Ctl.setFlags_stvec (k : Ctl) (o : AluOut) : (k.setFlags o).stvec = k.stvec := rfl
@[simp] theorem Ctl.setFlags_stvecEn (k : Ctl) (o : AluOut) : (k.setFlags o).stvecEn = k.stvecEn := rfl
@[simp] theorem Ctl.setFlags_sepc (k : Ctl) (o : AluOut) : (k.setFlags o).sepc = k.sepc := rfl
@[simp] theorem Ctl.setFlags_snpc (k : Ctl) (o : AluOut) : (k.setFlags o).snpc = k.snpc := rfl
@[simp] theorem Ctl.setFlags_causeSrc (k : Ctl) (o : AluOut) : (k.setFlags o).causeSrc = k.causeSrc := rfl
@[simp] theorem Ctl.setFlags_causeAsync (k : Ctl) (o : AluOut) : (k.setFlags o).causeAsync = k.causeAsync := rfl
@[simp] theorem Ctl.setFlags_causeClass (k : Ctl) (o : AluOut) : (k.setFlags o).causeClass = k.causeClass := rfl
@[simp] theorem Ctl.setFlags_sfaddr (k : Ctl) (o : AluOut) : (k.setFlags o).sfaddr = k.sfaddr := rfl
@[simp] theorem Ctl.setFlags_sscr (k : Ctl) (o : AluOut) : (k.setFlags o).sscr = k.sscr := rfl
@[simp] theorem Ctl.setFlags_treflMask (k : Ctl) (o : AluOut) : (k.setFlags o).treflMask = k.treflMask := rfl
@[simp] theorem Ctl.setFlags_treflAddr (k : Ctl) (o : AluOut) : (k.setFlags o).treflAddr = k.treflAddr := rfl
@[simp] theorem Ctl.setFlags_vstatStopped (k : Ctl) (o : AluOut) : (k.setFlags o).vstatStopped = k.vstatStopped := rfl
@[simp] theorem Ctl.setFlags_vstatClass (k : Ctl) (o : AluOut) : (k.setFlags o).vstatClass = k.vstatClass := rfl
@[simp] theorem Ctl.setFlags_vstatAddr (k : Ctl) (o : AluOut) : (k.setFlags o).vstatAddr = k.vstatAddr := rfl
@[simp] theorem Ctl.setFlags_errCorr (k : Ctl) (o : AluOut) : (k.setFlags o).errCorr = k.errCorr := rfl
@[simp] theorem Ctl.setFlags_errUnc (k : Ctl) (o : AluOut) : (k.setFlags o).errUnc = k.errUnc := rfl
@[simp] theorem Ctl.setFlags_ctxid (k : Ctl) (o : AluOut) : (k.setFlags o).ctxid = k.ctxid := rfl
@[simp] theorem Ctl.setFlags_miss (k : Ctl) (o : AluOut) : (k.setFlags o).miss = k.miss := rfl
@[simp] theorem Ctl.setFlags_wait (k : Ctl) (o : AluOut) : (k.setFlags o).wait = k.wait := rfl

/-! `Ctl.exchange` -/

@[simp] theorem Ctl.exchange_k (k : Ctl)  : (k.exchange ).k = k.k := by simp only [Ctl.exchange]
@[simp] theorem Ctl.exchange_pc (k : Ctl)  : (k.exchange ).pc = k.pc := by simp only [Ctl.exchange]
@[simp] theorem Ctl.exchange_sup (k : Ctl)  : (k.exchange ).sup = k.sup := by simp only [Ctl.exchange]
@[simp] theorem Ctl.exchange_status (k : Ctl)  : (k.exchange ).status = k.status := by simp only [Ctl.exchange]
@[simp] theorem Ctl.exchange_dz (k : Ctl)  : (k.exchange ).dz = k.dz := by simp only [Ctl.exchange]
@[simp] theorem Ctl.exchange_sat (k : Ctl)  : (k.exchange ).sat = k.sat := by simp only [Ctl.exchange]
@[simp] theorem Ctl.exchange_pw (k : Ctl)  : (k.exchange ).pw = k.pw := by simp only [Ctl.exchange]
@[simp] theorem Ctl.exchange_hd (k : Ctl)  : (k.exchange ).hd = k.hd := by simp only [Ctl.exchange]
@[simp] theorem Ctl.exchange_specEn (k : Ctl)  : (k.exchange ).specEn = k.specEn := by simp only [Ctl.exchange]
@[simp] theorem Ctl.exchange_rbud (k : Ctl)  : (k.exchange ).rbud = k.rbud := by simp only [Ctl.exchange]
@[simp] theorem Ctl.exchange_mbud (k : Ctl)  : (k.exchange ).mbud = k.mbud := by simp only [Ctl.exchange]
@[simp] theorem Ctl.exchange_uiEn (k : Ctl)  : (k.exchange ).uiEn = k.uiEn := by simp only [Ctl.exchange]
@[simp] theorem Ctl.exchange_uiOvf (k : Ctl)  : (k.exchange ).uiOvf = k.uiOvf := by simp only [Ctl.exchange]
@[simp] theorem Ctl.exchange_uiActive (k : Ctl)  : (k.exchange ).uiActive = k.uiActive := by simp only [Ctl.exchange]
@[simp] theorem Ctl.exchange_uiVec (k : Ctl)  : (k.exchange ).uiVec = k.uiVec := by simp only [Ctl.exchange]
@[simp] theorem Ctl.exchange_uiEpc (k : Ctl)  : (k.exchange ).uiEpc = k.uiEpc := by simp only [Ctl.exchange]
@[simp] theorem Ctl.exchange_uiCause (k : Ctl)  : (k.exchange ).uiCause = k.uiCause := by simp only [Ctl.exchange]
@[simp] theorem Ctl.exchange_events (k : Ctl)  : (k.exchange ).events = k.events := by simp only [Ctl.exchange]
@[simp] theorem Ctl.exchange_armed (k : Ctl)  : (k.exchange ).armed = k.armed := by simp only [Ctl.exchange]
@[simp] theorem Ctl.exchange_pending (k : Ctl)  : (k.exchange ).pending = k.pending := by simp only [Ctl.exchange]
@[simp] theorem Ctl.exchange_held (k : Ctl)  : (k.exchange ).held = k.held := by simp only [Ctl.exchange]
@[simp] theorem Ctl.exchange_stvec (k : Ctl)  : (k.exchange ).stvec = k.stvec := by simp only [Ctl.exchange]
@[simp] theorem Ctl.exchange_stvecEn (k : Ctl)  : (k.exchange ).stvecEn = k.stvecEn := by simp only [Ctl.exchange]
@[simp] theorem Ctl.exchange_sepc (k : Ctl)  : (k.exchange ).sepc = k.sepc := by simp only [Ctl.exchange]
@[simp] theorem Ctl.exchange_snpc (k : Ctl)  : (k.exchange ).snpc = k.snpc := by simp only [Ctl.exchange]
@[simp] theorem Ctl.exchange_causeSrc (k : Ctl)  : (k.exchange ).causeSrc = k.causeSrc := by simp only [Ctl.exchange]
@[simp] theorem Ctl.exchange_causeAsync (k : Ctl)  : (k.exchange ).causeAsync = k.causeAsync := by simp only [Ctl.exchange]
@[simp] theorem Ctl.exchange_causeClass (k : Ctl)  : (k.exchange ).causeClass = k.causeClass := by simp only [Ctl.exchange]
@[simp] theorem Ctl.exchange_sfaddr (k : Ctl)  : (k.exchange ).sfaddr = k.sfaddr := by simp only [Ctl.exchange]
@[simp] theorem Ctl.exchange_sscr (k : Ctl)  : (k.exchange ).sscr = k.sscr := by simp only [Ctl.exchange]
@[simp] theorem Ctl.exchange_treflMask (k : Ctl)  : (k.exchange ).treflMask = k.treflMask := by simp only [Ctl.exchange]
@[simp] theorem Ctl.exchange_treflAddr (k : Ctl)  : (k.exchange ).treflAddr = k.treflAddr := by simp only [Ctl.exchange]
@[simp] theorem Ctl.exchange_vstatStopped (k : Ctl)  : (k.exchange ).vstatStopped = k.vstatStopped := by simp only [Ctl.exchange]
@[simp] theorem Ctl.exchange_vstatClass (k : Ctl)  : (k.exchange ).vstatClass = k.vstatClass := by simp only [Ctl.exchange]
@[simp] theorem Ctl.exchange_vstatAddr (k : Ctl)  : (k.exchange ).vstatAddr = k.vstatAddr := by simp only [Ctl.exchange]
@[simp] theorem Ctl.exchange_errCorr (k : Ctl)  : (k.exchange ).errCorr = k.errCorr := by simp only [Ctl.exchange]
@[simp] theorem Ctl.exchange_errUnc (k : Ctl)  : (k.exchange ).errUnc = k.errUnc := by simp only [Ctl.exchange]
@[simp] theorem Ctl.exchange_ctxid (k : Ctl)  : (k.exchange ).ctxid = k.ctxid := by simp only [Ctl.exchange]
@[simp] theorem Ctl.exchange_miss (k : Ctl)  : (k.exchange ).miss = k.miss := by simp only [Ctl.exchange]
@[simp] theorem Ctl.exchange_wait (k : Ctl)  : (k.exchange ).wait = k.wait := by simp only [Ctl.exchange]

/-! `Ctl.enterS` -/

@[simp] theorem Ctl.enterS_x (k : Ctl) (epc npc : BitVec 18) (src : BitVec 3) (a : Bool) (t : Trap) : (k.enterS epc npc src a t).x = k.x := rfl
@[simp] theorem Ctl.enterS_sx (k : Ctl) (epc npc : BitVec 18) (src : BitVec 3) (a : Bool) (t : Trap) : (k.enterS epc npc src a t).sx = k.sx := rfl
@[simp] theorem Ctl.enterS_k (k : Ctl) (epc npc : BitVec 18) (src : BitVec 3) (a : Bool) (t : Trap) : (k.enterS epc npc src a t).k = k.k := rfl
@[simp] theorem Ctl.enterS_pc (k : Ctl) (epc npc : BitVec 18) (src : BitVec 3) (a : Bool) (t : Trap) : (k.enterS epc npc src a t).pc = k.stvec := rfl
@[simp] theorem Ctl.enterS_sup (k : Ctl) (epc npc : BitVec 18) (src : BitVec 3) (a : Bool) (t : Trap) : (k.enterS epc npc src a t).sup = true := rfl
@[simp] theorem Ctl.enterS_status (k : Ctl) (epc npc : BitVec 18) (src : BitVec 3) (a : Bool) (t : Trap) : (k.enterS epc npc src a t).status = k.status := rfl
@[simp] theorem Ctl.enterS_dz (k : Ctl) (epc npc : BitVec 18) (src : BitVec 3) (a : Bool) (t : Trap) : (k.enterS epc npc src a t).dz = k.dz := rfl
@[simp] theorem Ctl.enterS_sat (k : Ctl) (epc npc : BitVec 18) (src : BitVec 3) (a : Bool) (t : Trap) : (k.enterS epc npc src a t).sat = k.sat := rfl
@[simp] theorem Ctl.enterS_pw (k : Ctl) (epc npc : BitVec 18) (src : BitVec 3) (a : Bool) (t : Trap) : (k.enterS epc npc src a t).pw = k.pw := rfl
@[simp] theorem Ctl.enterS_hd (k : Ctl) (epc npc : BitVec 18) (src : BitVec 3) (a : Bool) (t : Trap) : (k.enterS epc npc src a t).hd = k.hd := rfl
@[simp] theorem Ctl.enterS_specEn (k : Ctl) (epc npc : BitVec 18) (src : BitVec 3) (a : Bool) (t : Trap) : (k.enterS epc npc src a t).specEn = k.specEn := rfl
@[simp] theorem Ctl.enterS_rbud (k : Ctl) (epc npc : BitVec 18) (src : BitVec 3) (a : Bool) (t : Trap) : (k.enterS epc npc src a t).rbud = k.rbud := rfl
@[simp] theorem Ctl.enterS_mbud (k : Ctl) (epc npc : BitVec 18) (src : BitVec 3) (a : Bool) (t : Trap) : (k.enterS epc npc src a t).mbud = k.mbud := rfl
@[simp] theorem Ctl.enterS_uiEn (k : Ctl) (epc npc : BitVec 18) (src : BitVec 3) (a : Bool) (t : Trap) : (k.enterS epc npc src a t).uiEn = k.uiEn := rfl
@[simp] theorem Ctl.enterS_uiOvf (k : Ctl) (epc npc : BitVec 18) (src : BitVec 3) (a : Bool) (t : Trap) : (k.enterS epc npc src a t).uiOvf = k.uiOvf := rfl
@[simp] theorem Ctl.enterS_uiActive (k : Ctl) (epc npc : BitVec 18) (src : BitVec 3) (a : Bool) (t : Trap) : (k.enterS epc npc src a t).uiActive = k.uiActive := rfl
@[simp] theorem Ctl.enterS_uiVec (k : Ctl) (epc npc : BitVec 18) (src : BitVec 3) (a : Bool) (t : Trap) : (k.enterS epc npc src a t).uiVec = k.uiVec := rfl
@[simp] theorem Ctl.enterS_uiEpc (k : Ctl) (epc npc : BitVec 18) (src : BitVec 3) (a : Bool) (t : Trap) : (k.enterS epc npc src a t).uiEpc = k.uiEpc := rfl
@[simp] theorem Ctl.enterS_uiCause (k : Ctl) (epc npc : BitVec 18) (src : BitVec 3) (a : Bool) (t : Trap) : (k.enterS epc npc src a t).uiCause = k.uiCause := rfl
@[simp] theorem Ctl.enterS_events (k : Ctl) (epc npc : BitVec 18) (src : BitVec 3) (a : Bool) (t : Trap) : (k.enterS epc npc src a t).events = k.events := rfl
@[simp] theorem Ctl.enterS_armed (k : Ctl) (epc npc : BitVec 18) (src : BitVec 3) (a : Bool) (t : Trap) : (k.enterS epc npc src a t).armed = k.armed := rfl
@[simp] theorem Ctl.enterS_pending (k : Ctl) (epc npc : BitVec 18) (src : BitVec 3) (a : Bool) (t : Trap) : (k.enterS epc npc src a t).pending = k.pending := rfl
@[simp] theorem Ctl.enterS_held (k : Ctl) (epc npc : BitVec 18) (src : BitVec 3) (a : Bool) (t : Trap) : (k.enterS epc npc src a t).held = k.held := rfl
@[simp] theorem Ctl.enterS_stvec (k : Ctl) (epc npc : BitVec 18) (src : BitVec 3) (a : Bool) (t : Trap) : (k.enterS epc npc src a t).stvec = k.stvec := rfl
@[simp] theorem Ctl.enterS_stvecEn (k : Ctl) (epc npc : BitVec 18) (src : BitVec 3) (a : Bool) (t : Trap) : (k.enterS epc npc src a t).stvecEn = k.stvecEn := rfl
@[simp] theorem Ctl.enterS_sepc (k : Ctl) (epc npc : BitVec 18) (src : BitVec 3) (a : Bool) (t : Trap) : (k.enterS epc npc src a t).sepc = epc := rfl
@[simp] theorem Ctl.enterS_snpc (k : Ctl) (epc npc : BitVec 18) (src : BitVec 3) (a : Bool) (t : Trap) : (k.enterS epc npc src a t).snpc = npc := rfl
@[simp] theorem Ctl.enterS_causeSrc (k : Ctl) (epc npc : BitVec 18) (src : BitVec 3) (a : Bool) (t : Trap) : (k.enterS epc npc src a t).causeSrc = src := rfl
@[simp] theorem Ctl.enterS_causeAsync (k : Ctl) (epc npc : BitVec 18) (src : BitVec 3) (a : Bool) (t : Trap) : (k.enterS epc npc src a t).causeAsync = a := rfl
@[simp] theorem Ctl.enterS_causeClass (k : Ctl) (epc npc : BitVec 18) (src : BitVec 3) (a : Bool) (t : Trap) : (k.enterS epc npc src a t).causeClass = t.cls.code := rfl
@[simp] theorem Ctl.enterS_sfaddr (k : Ctl) (epc npc : BitVec 18) (src : BitVec 3) (a : Bool) (t : Trap) : (k.enterS epc npc src a t).sfaddr = t.addr := rfl
@[simp] theorem Ctl.enterS_sscr (k : Ctl) (epc npc : BitVec 18) (src : BitVec 3) (a : Bool) (t : Trap) : (k.enterS epc npc src a t).sscr = k.sscr := rfl
@[simp] theorem Ctl.enterS_treflMask (k : Ctl) (epc npc : BitVec 18) (src : BitVec 3) (a : Bool) (t : Trap) : (k.enterS epc npc src a t).treflMask = k.treflMask := rfl
@[simp] theorem Ctl.enterS_treflAddr (k : Ctl) (epc npc : BitVec 18) (src : BitVec 3) (a : Bool) (t : Trap) : (k.enterS epc npc src a t).treflAddr = k.treflAddr := rfl
@[simp] theorem Ctl.enterS_vstatStopped (k : Ctl) (epc npc : BitVec 18) (src : BitVec 3) (a : Bool) (t : Trap) : (k.enterS epc npc src a t).vstatStopped = k.vstatStopped := rfl
@[simp] theorem Ctl.enterS_vstatClass (k : Ctl) (epc npc : BitVec 18) (src : BitVec 3) (a : Bool) (t : Trap) : (k.enterS epc npc src a t).vstatClass = k.vstatClass := rfl
@[simp] theorem Ctl.enterS_vstatAddr (k : Ctl) (epc npc : BitVec 18) (src : BitVec 3) (a : Bool) (t : Trap) : (k.enterS epc npc src a t).vstatAddr = k.vstatAddr := rfl
@[simp] theorem Ctl.enterS_errCorr (k : Ctl) (epc npc : BitVec 18) (src : BitVec 3) (a : Bool) (t : Trap) : (k.enterS epc npc src a t).errCorr = k.errCorr := rfl
@[simp] theorem Ctl.enterS_errUnc (k : Ctl) (epc npc : BitVec 18) (src : BitVec 3) (a : Bool) (t : Trap) : (k.enterS epc npc src a t).errUnc = k.errUnc := rfl
@[simp] theorem Ctl.enterS_ctxid (k : Ctl) (epc npc : BitVec 18) (src : BitVec 3) (a : Bool) (t : Trap) : (k.enterS epc npc src a t).ctxid = k.ctxid := rfl
@[simp] theorem Ctl.enterS_miss (k : Ctl) (epc npc : BitVec 18) (src : BitVec 3) (a : Bool) (t : Trap) : (k.enterS epc npc src a t).miss = k.miss := rfl
@[simp] theorem Ctl.enterS_wait (k : Ctl) (epc npc : BitVec 18) (src : BitVec 3) (a : Bool) (t : Trap) : (k.enterS epc npc src a t).wait = k.wait := rfl

/-! `Ctl.returnS` -/

@[simp] theorem Ctl.returnS_x (k : Ctl) (next : Bool) : (k.returnS next).x = k.x := rfl
@[simp] theorem Ctl.returnS_sx (k : Ctl) (next : Bool) : (k.returnS next).sx = k.sx := rfl
@[simp] theorem Ctl.returnS_k (k : Ctl) (next : Bool) : (k.returnS next).k = k.k := rfl
@[simp] theorem Ctl.returnS_pc (k : Ctl) (next : Bool) : (k.returnS next).pc = if next then k.snpc else k.sepc := rfl
@[simp] theorem Ctl.returnS_sup (k : Ctl) (next : Bool) : (k.returnS next).sup = false := rfl
@[simp] theorem Ctl.returnS_status (k : Ctl) (next : Bool) : (k.returnS next).status = k.status := rfl
@[simp] theorem Ctl.returnS_dz (k : Ctl) (next : Bool) : (k.returnS next).dz = k.dz := rfl
@[simp] theorem Ctl.returnS_sat (k : Ctl) (next : Bool) : (k.returnS next).sat = k.sat := rfl
@[simp] theorem Ctl.returnS_pw (k : Ctl) (next : Bool) : (k.returnS next).pw = k.pw := rfl
@[simp] theorem Ctl.returnS_hd (k : Ctl) (next : Bool) : (k.returnS next).hd = k.hd := rfl
@[simp] theorem Ctl.returnS_specEn (k : Ctl) (next : Bool) : (k.returnS next).specEn = k.specEn := rfl
@[simp] theorem Ctl.returnS_rbud (k : Ctl) (next : Bool) : (k.returnS next).rbud = k.rbud := rfl
@[simp] theorem Ctl.returnS_mbud (k : Ctl) (next : Bool) : (k.returnS next).mbud = k.mbud := rfl
@[simp] theorem Ctl.returnS_uiEn (k : Ctl) (next : Bool) : (k.returnS next).uiEn = k.uiEn := rfl
@[simp] theorem Ctl.returnS_uiOvf (k : Ctl) (next : Bool) : (k.returnS next).uiOvf = k.uiOvf := rfl
@[simp] theorem Ctl.returnS_uiActive (k : Ctl) (next : Bool) : (k.returnS next).uiActive = k.uiActive := rfl
@[simp] theorem Ctl.returnS_uiVec (k : Ctl) (next : Bool) : (k.returnS next).uiVec = k.uiVec := rfl
@[simp] theorem Ctl.returnS_uiEpc (k : Ctl) (next : Bool) : (k.returnS next).uiEpc = k.uiEpc := rfl
@[simp] theorem Ctl.returnS_uiCause (k : Ctl) (next : Bool) : (k.returnS next).uiCause = k.uiCause := rfl
@[simp] theorem Ctl.returnS_events (k : Ctl) (next : Bool) : (k.returnS next).events = k.events := rfl
@[simp] theorem Ctl.returnS_armed (k : Ctl) (next : Bool) : (k.returnS next).armed = k.armed := rfl
@[simp] theorem Ctl.returnS_pending (k : Ctl) (next : Bool) : (k.returnS next).pending = k.pending ++ k.held := rfl
@[simp] theorem Ctl.returnS_held (k : Ctl) (next : Bool) : (k.returnS next).held = [] := rfl
@[simp] theorem Ctl.returnS_stvec (k : Ctl) (next : Bool) : (k.returnS next).stvec = k.stvec := rfl
@[simp] theorem Ctl.returnS_stvecEn (k : Ctl) (next : Bool) : (k.returnS next).stvecEn = k.stvecEn := rfl
@[simp] theorem Ctl.returnS_sepc (k : Ctl) (next : Bool) : (k.returnS next).sepc = k.sepc := rfl
@[simp] theorem Ctl.returnS_snpc (k : Ctl) (next : Bool) : (k.returnS next).snpc = k.snpc := rfl
@[simp] theorem Ctl.returnS_causeSrc (k : Ctl) (next : Bool) : (k.returnS next).causeSrc = k.causeSrc := rfl
@[simp] theorem Ctl.returnS_causeAsync (k : Ctl) (next : Bool) : (k.returnS next).causeAsync = k.causeAsync := rfl
@[simp] theorem Ctl.returnS_causeClass (k : Ctl) (next : Bool) : (k.returnS next).causeClass = k.causeClass := rfl
@[simp] theorem Ctl.returnS_sfaddr (k : Ctl) (next : Bool) : (k.returnS next).sfaddr = k.sfaddr := rfl
@[simp] theorem Ctl.returnS_sscr (k : Ctl) (next : Bool) : (k.returnS next).sscr = k.sscr := rfl
@[simp] theorem Ctl.returnS_treflMask (k : Ctl) (next : Bool) : (k.returnS next).treflMask = k.treflMask := rfl
@[simp] theorem Ctl.returnS_treflAddr (k : Ctl) (next : Bool) : (k.returnS next).treflAddr = k.treflAddr := rfl
@[simp] theorem Ctl.returnS_vstatStopped (k : Ctl) (next : Bool) : (k.returnS next).vstatStopped = k.vstatStopped := rfl
@[simp] theorem Ctl.returnS_vstatClass (k : Ctl) (next : Bool) : (k.returnS next).vstatClass = k.vstatClass := rfl
@[simp] theorem Ctl.returnS_vstatAddr (k : Ctl) (next : Bool) : (k.returnS next).vstatAddr = k.vstatAddr := rfl
@[simp] theorem Ctl.returnS_errCorr (k : Ctl) (next : Bool) : (k.returnS next).errCorr = k.errCorr := rfl
@[simp] theorem Ctl.returnS_errUnc (k : Ctl) (next : Bool) : (k.returnS next).errUnc = k.errUnc := rfl
@[simp] theorem Ctl.returnS_ctxid (k : Ctl) (next : Bool) : (k.returnS next).ctxid = k.ctxid := rfl
@[simp] theorem Ctl.returnS_miss (k : Ctl) (next : Bool) : (k.returnS next).miss = k.miss := rfl
@[simp] theorem Ctl.returnS_wait (k : Ctl) (next : Bool) : (k.returnS next).wait = k.wait := rfl

/-! `Ctl.reflect` -/

@[simp] theorem Ctl.reflect_k (k : Ctl) (t : Trap) : (k.reflect t).k = k.k := by simp only [Ctl.reflect, Ctl.exchange]
@[simp] theorem Ctl.reflect_pc (k : Ctl) (t : Trap) : (k.reflect t).pc = k.treflAddr := by simp only [Ctl.reflect, Ctl.exchange]
@[simp] theorem Ctl.reflect_sup (k : Ctl) (t : Trap) : (k.reflect t).sup = k.sup := by simp only [Ctl.reflect, Ctl.exchange]
@[simp] theorem Ctl.reflect_status (k : Ctl) (t : Trap) : (k.reflect t).status = k.status := by simp only [Ctl.reflect, Ctl.exchange]
@[simp] theorem Ctl.reflect_dz (k : Ctl) (t : Trap) : (k.reflect t).dz = k.dz := by simp only [Ctl.reflect, Ctl.exchange]
@[simp] theorem Ctl.reflect_sat (k : Ctl) (t : Trap) : (k.reflect t).sat = k.sat := by simp only [Ctl.reflect, Ctl.exchange]
@[simp] theorem Ctl.reflect_pw (k : Ctl) (t : Trap) : (k.reflect t).pw = k.pw := by simp only [Ctl.reflect, Ctl.exchange]
@[simp] theorem Ctl.reflect_hd (k : Ctl) (t : Trap) : (k.reflect t).hd = k.hd := by simp only [Ctl.reflect, Ctl.exchange]
@[simp] theorem Ctl.reflect_specEn (k : Ctl) (t : Trap) : (k.reflect t).specEn = k.specEn := by simp only [Ctl.reflect, Ctl.exchange]
@[simp] theorem Ctl.reflect_rbud (k : Ctl) (t : Trap) : (k.reflect t).rbud = k.rbud := by simp only [Ctl.reflect, Ctl.exchange]
@[simp] theorem Ctl.reflect_mbud (k : Ctl) (t : Trap) : (k.reflect t).mbud = k.mbud := by simp only [Ctl.reflect, Ctl.exchange]
@[simp] theorem Ctl.reflect_uiEn (k : Ctl) (t : Trap) : (k.reflect t).uiEn = k.uiEn := by simp only [Ctl.reflect, Ctl.exchange]
@[simp] theorem Ctl.reflect_uiOvf (k : Ctl) (t : Trap) : (k.reflect t).uiOvf = k.uiOvf := by simp only [Ctl.reflect, Ctl.exchange]
@[simp] theorem Ctl.reflect_uiActive (k : Ctl) (t : Trap) : (k.reflect t).uiActive = true := by simp only [Ctl.reflect, Ctl.exchange]
@[simp] theorem Ctl.reflect_uiVec (k : Ctl) (t : Trap) : (k.reflect t).uiVec = k.uiVec := by simp only [Ctl.reflect, Ctl.exchange]
@[simp] theorem Ctl.reflect_uiEpc (k : Ctl) (t : Trap) : (k.reflect t).uiEpc = k.pc := by simp only [Ctl.reflect, Ctl.exchange]
@[simp] theorem Ctl.reflect_uiCause (k : Ctl) (t : Trap) : (k.reflect t).uiCause = k.uiCause := by simp only [Ctl.reflect, Ctl.exchange]
@[simp] theorem Ctl.reflect_events (k : Ctl) (t : Trap) : (k.reflect t).events = k.events := by simp only [Ctl.reflect, Ctl.exchange]
@[simp] theorem Ctl.reflect_armed (k : Ctl) (t : Trap) : (k.reflect t).armed = k.armed := by simp only [Ctl.reflect, Ctl.exchange]
@[simp] theorem Ctl.reflect_pending (k : Ctl) (t : Trap) : (k.reflect t).pending = k.pending := by simp only [Ctl.reflect, Ctl.exchange]
@[simp] theorem Ctl.reflect_held (k : Ctl) (t : Trap) : (k.reflect t).held = k.held := by simp only [Ctl.reflect, Ctl.exchange]
@[simp] theorem Ctl.reflect_stvec (k : Ctl) (t : Trap) : (k.reflect t).stvec = k.stvec := by simp only [Ctl.reflect, Ctl.exchange]
@[simp] theorem Ctl.reflect_stvecEn (k : Ctl) (t : Trap) : (k.reflect t).stvecEn = k.stvecEn := by simp only [Ctl.reflect, Ctl.exchange]
@[simp] theorem Ctl.reflect_sepc (k : Ctl) (t : Trap) : (k.reflect t).sepc = k.sepc := by simp only [Ctl.reflect, Ctl.exchange]
@[simp] theorem Ctl.reflect_snpc (k : Ctl) (t : Trap) : (k.reflect t).snpc = k.snpc := by simp only [Ctl.reflect, Ctl.exchange]
@[simp] theorem Ctl.reflect_causeSrc (k : Ctl) (t : Trap) : (k.reflect t).causeSrc = k.causeSrc := by simp only [Ctl.reflect, Ctl.exchange]
@[simp] theorem Ctl.reflect_causeAsync (k : Ctl) (t : Trap) : (k.reflect t).causeAsync = k.causeAsync := by simp only [Ctl.reflect, Ctl.exchange]
@[simp] theorem Ctl.reflect_causeClass (k : Ctl) (t : Trap) : (k.reflect t).causeClass = k.causeClass := by simp only [Ctl.reflect, Ctl.exchange]
@[simp] theorem Ctl.reflect_sfaddr (k : Ctl) (t : Trap) : (k.reflect t).sfaddr = k.sfaddr := by simp only [Ctl.reflect, Ctl.exchange]
@[simp] theorem Ctl.reflect_sscr (k : Ctl) (t : Trap) : (k.reflect t).sscr = k.sscr := by simp only [Ctl.reflect, Ctl.exchange]
@[simp] theorem Ctl.reflect_treflMask (k : Ctl) (t : Trap) : (k.reflect t).treflMask = k.treflMask := by simp only [Ctl.reflect, Ctl.exchange]
@[simp] theorem Ctl.reflect_treflAddr (k : Ctl) (t : Trap) : (k.reflect t).treflAddr = k.treflAddr := by simp only [Ctl.reflect, Ctl.exchange]
@[simp] theorem Ctl.reflect_vstatStopped (k : Ctl) (t : Trap) : (k.reflect t).vstatStopped = k.vstatStopped := by simp only [Ctl.reflect, Ctl.exchange]
@[simp] theorem Ctl.reflect_vstatClass (k : Ctl) (t : Trap) : (k.reflect t).vstatClass = k.vstatClass := by simp only [Ctl.reflect, Ctl.exchange]
@[simp] theorem Ctl.reflect_vstatAddr (k : Ctl) (t : Trap) : (k.reflect t).vstatAddr = k.vstatAddr := by simp only [Ctl.reflect, Ctl.exchange]
@[simp] theorem Ctl.reflect_errCorr (k : Ctl) (t : Trap) : (k.reflect t).errCorr = k.errCorr := by simp only [Ctl.reflect, Ctl.exchange]
@[simp] theorem Ctl.reflect_errUnc (k : Ctl) (t : Trap) : (k.reflect t).errUnc = k.errUnc := by simp only [Ctl.reflect, Ctl.exchange]
@[simp] theorem Ctl.reflect_ctxid (k : Ctl) (t : Trap) : (k.reflect t).ctxid = k.ctxid := by simp only [Ctl.reflect, Ctl.exchange]
@[simp] theorem Ctl.reflect_miss (k : Ctl) (t : Trap) : (k.reflect t).miss = k.miss := by simp only [Ctl.reflect, Ctl.exchange]
@[simp] theorem Ctl.reflect_wait (k : Ctl) (t : Trap) : (k.reflect t).wait = k.wait := by simp only [Ctl.reflect, Ctl.exchange]

/-! Reads of the core an update names, and of the others. -/

@[simp] theorem Mach.onCore_self (m : Mach) (c : CoreId) (f : Core → Core) : (m.onCore c f).cores[c] = f m.cores[c] := by
  simp [Mach.onCore]

theorem Mach.onCore_other (m : Mach) (c d : CoreId) (f : Core → Core) (h : d ≠ c) : (m.onCore c f).cores[d] = m.cores[d] := by
  have : c.val ≠ d.val := fun e => h (Fin.ext e.symm)
  simp [Mach.onCore, this]

@[simp] theorem Mach.onCtl_self (m : Mach) (c : CoreId) (f : Ctl → Ctl) : (m.onCtl c f).cores[c].ctl = f m.cores[c].ctl := by
  simp [Mach.onCtl]

@[simp] theorem Mach.onVec_self (m : Mach) (c : CoreId) (f : Vec → Vec) : (m.onVec c f).cores[c].vec = f m.cores[c].vec := by
  simp [Mach.onVec]

theorem Mach.onCtl_other (m : Mach) (c d : CoreId) (f : Ctl → Ctl) (h : d ≠ c) : (m.onCtl c f).cores[d] = m.cores[d] :=
  m.onCore_other c d _ h

theorem Mach.onVec_other (m : Mach) (c d : CoreId) (f : Vec → Vec) (h : d ≠ c) : (m.onVec c f).cores[d] = m.cores[d] :=
  m.onCore_other c d _ h

/-- A register written reads back; the others keep their values. -/
theorem Ctl.write_x (k : Ctl) (r q : Fin 31) (v : XVal) : (k.write (.x r) v).x[q] = if q = r then v else k.x[q] := by
  simp only [Ctl.write, Ctl.setX, Fin.getElem_fin, Vector.getElem_set, Fin.ext_iff]
  by_cases h : r.val = q.val <;> simp [h, eq_comm]

@[simp] theorem Ctl.write_none (k : Ctl) (v : XVal) : k.write .none v = k := rfl

end Sys2Proof.Machine
end

