-- ==== Sys2Proof/Laws/Ops.lean ====
section
/-! SUPPORT. What each shared operation can do, said once: cited instead of unfolding it. -/

namespace Sys2Proof.Machine

/-! Control strand instructions. -/

theorem Mach.onCtl_congr (m : Mach) (c : CoreId) (f g : Ctl → Ctl) (h : f m.cores[c].ctl = g m.cores[c].ctl) : m.onCtl c f = m.onCtl c g := by
  simp only [Mach.onCtl, Mach.onCore, h]

theorem Mach.onCtl_onCtl (m : Mach) (c : CoreId) (f g : Ctl → Ctl) : (m.onCtl c f).onCtl c g = m.onCtl c fun k => g (f k) := by
  simp only [Mach.onCtl, Mach.onCore, Fin.getElem_fin, Vector.getElem_set_self, Vector.set_set]

theorem State.ctl_def (s : State) : s.ctl = s.mach.cores[s.cur.core].ctl := rfl

/-- Only what `f` does to the control strand as it is counts. -/
theorem State.onward_congr (s : State) (m : Mach) (n : Nat) (f g : Ctl → Ctl) (h : f m.cores[s.cur.core].ctl = g m.cores[s.cur.core].ctl) :
    s.onward m n f = s.onward m n g := by
  exact congrArg (fun x => ({ s with mach := x } : State)) (m.onCtl_congr _ _ _ (by simp only [h]))

theorem State.ctlNext_congr (s : State) (n : Nat) (f g : Ctl → Ctl) (h : f s.ctl = g s.ctl) : s.ctlNext n f = s.ctlNext n g := s.onward_congr _ _ _ _ h

/-- An instruction that ends in an advance goes on, if the counter stays in SPM. -/
theorem Mach.advance_ok (m : Mach) (c : CoreId) (n : Nat) (h : m.cores[c].ctl.pc.toNat + n < 2 ^ 18) :
    m.advance c n = .done (m.onCtl c fun k => { k with pc := k.pc + BitVec.ofNat 18 n, wait := none }) := by
  unfold Mach.advance
  rw [if_neg (by omega)]

/-- A counter that would leave SPM traps PERM. -/
theorem Mach.advance_past (m : Mach) (c : CoreId) (n : Nat) (h : 2 ^ 18 ≤ m.cores[c].ctl.pc.toNat + n) : m.advance c n = .trap pastSpm := by
  unfold Mach.advance
  rw [if_pos h]

/-- A register instruction that goes on. -/
theorem State.ctlStep_ok (s : State) (n : Nat) (f : Ctl → Except Trap Ctl) (g : Ctl → Ctl) (h : s.fits n) (hf : f s.ctl = .ok (g s.ctl))
    (hp : (g s.ctl).pc = s.ctl.pc) : s.ctlStep n f = .next (s.ctlNext n g) := by
  have hf' : f s.mach.cores[s.cur.core].ctl = .ok (g s.mach.cores[s.cur.core].ctl) := hf
  have hp' : (g s.mach.cores[s.cur.core].ctl).pc = s.mach.cores[s.cur.core].ctl.pc := hp
  have h' : s.mach.cores[s.cur.core].ctl.pc.toNat + n < 2 ^ 18 := h
  unfold State.ctlStep State.control
  simp only [hf']
  rw [Mach.advance_ok _ _ _ (by rw [Mach.onCtl_self, hp']; exact h')]
  simp only [State.ctlNext, State.onward, Mach.onCtl_onCtl]
  exact congrArg (fun x => Host.Outcome.next ({ s with mach := x } : State)) (s.mach.onCtl_congr _ _ _ (by simp only [hp']))

/-- A register instruction that traps, with no effect but the trap's. -/
theorem State.ctlStep_trap (s : State) (n : Nat) (f : Ctl → Except Trap Ctl) (t : Trap) (hf : f s.ctl = .error t) :
    s.ctlStep n f = .next { s with mach := s.mach.takeTrap s.cur.core (s.ctl.pc + BitVec.ofNat 18 n) t } := by
  have hf' : f s.mach.cores[s.cur.core].ctl = .error t := hf
  unfold State.ctlStep State.control
  simp only [hf']

@[simp] theorem Ctl.propagate_pc (k : Ctl) (d : Dst) (l : List XVal) (o : AluOut) : (k.propagate d l o).pc = k.pc := by
  unfold Ctl.propagate
  split <;> simp

/-- Clean sources: the result is written. -/
theorem Ctl.propagate_clean (k : Ctl) (d : Dst) (l : List XVal) (o : AluOut) (h : ∀ v ∈ l, v.tag = 0) :
    k.propagate d l o = (k.setFlags o).write d (clean o.val) := by
  have : l.find? (fun v => v.tag != 0) = none := by
    rw [List.find?_eq_none]
    intro v hv
    simp [h v hv]
  simp only [Ctl.propagate, this]

/-- The first poisoned source is written unchanged. -/
theorem Ctl.propagate_poison (k : Ctl) (d : Dst) (l : List XVal) (o : AluOut) (p : XVal) (h : l.find? (fun v => v.tag != 0) = some p) :
    k.propagate d l o = k.write d p := by
  simp only [Ctl.propagate, h]

/-- A two-source function over clean sources. -/
theorem State.alu2_ok (s : State) (d : Dst) (a b : Src) (f : W64 → W64 → AluOut) (h : s.fits (1 + litWords [a, b])) (hc : s.cleanSrcs [a, b]) :
    s.alu2 d a b f = .next (s.ctlNext (1 + litWords [a, b]) fun k => (k.setFlags (f (s.val a) (s.val b))).write d (clean (f (s.val a) (s.val b)).val)) := by
  refine s.ctlStep_ok _ _ _ h ?_ (by simp)
  rw [Ctl.propagate_clean]
  · rfl
  · intro v hv
    simp only [List.mem_cons, List.not_mem_nil, or_false] at hv
    rcases hv with rfl | rfl
    · exact hc a (by simp)
    · exact hc b (by simp)

/-- A single-source function over a clean source. -/
theorem State.alu1_ok (s : State) (d : Dst) (a : Src) (f : W64 → AluOut) (h : s.fits (1 + litWords [a])) (hc : s.cleanSrcs [a]) :
    s.alu1 d a f = .next (s.ctlNext (1 + litWords [a]) fun k => (k.setFlags (f (s.val a))).write d (clean (f (s.val a)).val)) := by
  refine s.ctlStep_ok _ _ _ h ?_ (by simp)
  rw [Ctl.propagate_clean]
  · rfl
  · intro v hv
    simp only [List.mem_cons, List.not_mem_nil, or_false] at hv
    subst hv
    exact hc a (by simp)

theorem Ctl.setFlags_plain (k : Ctl) (v : W64) : k.setFlags (plain v) = k := by
  cases k; simp [Ctl.setFlags, plain]

/-- A function that sets no flag. -/
theorem State.alu2_plain (s : State) (d : Dst) (a b : Src) (f : W64 → W64 → AluOut) (v : W64) (h : s.fits (1 + litWords [a, b])) (hc : s.cleanSrcs [a, b])
    (hv : f (s.val a) (s.val b) = plain v) : s.alu2 d a b f = .next (s.wrote (1 + litWords [a, b]) d v) := by
  rw [s.alu2_ok d a b f h hc, hv]
  simp only [Ctl.setFlags_plain]
  rfl

theorem State.alu1_plain (s : State) (d : Dst) (a : Src) (f : W64 → AluOut) (v : W64) (h : s.fits (1 + litWords [a])) (hc : s.cleanSrcs [a])
    (hv : f (s.val a) = plain v) : s.alu1 d a f = .next (s.wrote (1 + litWords [a]) d v) := by
  rw [s.alu1_ok d a f h hc, hv]
  simp only [Ctl.setFlags_plain]
  rfl

end Sys2Proof.Machine
end

