-- ==== Sys2Proof/Laws/Control.lean ====
section
/-! SUPPORT. How an instruction of the control strand ends: it goes on, traps, waits or misses; and when each happens. -/

namespace Sys2Proof.Machine

theorem State.control_done (s : State) (n : Nat) (f : Mach → Run) (m : Mach) (h : f s.mach = .done m) :
    s.control n f = .next { s with mach := m } := by
  simp only [State.control, h]

theorem State.control_stay (s : State) (n : Nat) (f : Mach → Run) (m : Mach) (h : f s.mach = .stay m) :
    s.control n f = .next { s with mach := m } := by
  simp only [State.control, h]

theorem State.control_trap (s : State) (n : Nat) (f : Mach → Run) (t : Trap) (h : f s.mach = .trap t) :
    s.control n f = .next { s with mach := s.mach.takeTrap s.cur.core (s.ctl.pc + BitVec.ofNat 18 n) t } := by
  simp only [State.control, h]

/-- A trap after a message was answered: it is taken from the machine in which the answer is used up. -/
theorem State.control_trapFrom (s : State) (n : Nat) (f : Mach → Run) (m : Mach) (t : Trap) (h : f s.mach = .trapFrom m t) :
    s.control n f = .next { s with mach := m.takeTrap s.cur.core (s.ctl.pc + BitVec.ofNat 18 n) t } := by
  simp only [State.control, h]

theorem State.control_miss (s : State) (n : Nat) (f : Mach → Run) (ctx h k : Nat) (ea : W64) (hf : f s.mach = .miss ctx h k ea) :
    s.control n f = .next { s with mach := s.mach.missControl s.cur.core (s.ctl.pc + BitVec.ofNat 18 n) ctx h k ea } := by
  simp only [State.control, hf]

/-- The five ends of a control instruction, and nothing else. -/
theorem State.control_cases (s : State) (n : Nat) (f : Mach → Run) :
    (∃ m, (f s.mach = .done m ∨ f s.mach = .stay m) ∧ s.control n f = .next { s with mach := m }) ∨
    (∃ t, f s.mach = .trap t ∧ s.control n f = .next { s with mach := s.mach.takeTrap s.cur.core (s.ctl.pc + BitVec.ofNat 18 n) t }) ∨
    (∃ m t, f s.mach = .trapFrom m t ∧ s.control n f = .next { s with mach := m.takeTrap s.cur.core (s.ctl.pc + BitVec.ofNat 18 n) t }) ∨
    (∃ ctx h k ea, f s.mach = .miss ctx h k ea ∧
      s.control n f = .next { s with mach := s.mach.missControl s.cur.core (s.ctl.pc + BitVec.ofNat 18 n) ctx h k ea }) := by
  cases hf : f s.mach with
  | done m => exact .inl ⟨m, .inl rfl, s.control_done n f m hf⟩
  | stay m => exact .inl ⟨m, .inr rfl, s.control_stay n f m hf⟩
  | trap t => exact .inr (.inl ⟨t, rfl, s.control_trap n f t hf⟩)
  | trapFrom m t => exact .inr (.inr (.inl ⟨m, t, rfl, s.control_trapFrom n f m t hf⟩))
  | miss ctx h k ea => exact .inr (.inr (.inr ⟨ctx, h, k, ea, rfl, s.control_miss n f ctx h k ea hf⟩))

/-- A change of the running core's control registers that leaves its program counter, and then the advance. -/
theorem State.control_onward (s : State) (n : Nat) (f : Mach → Run) (m : Mach) (g : Ctl → Ctl) (hf : f s.mach = (m.onCtl s.cur.core g).advance s.cur.core n)
    (hg : (g m.cores[s.cur.core].ctl).pc = m.cores[s.cur.core].ctl.pc) (h : m.cores[s.cur.core].ctl.pc.toNat + n < 2 ^ 18) :
    s.control n f = .next (s.onward m n g) := by
  rw [Mach.advance_ok _ _ _ (by rw [Mach.onCtl_self, hg]; exact h), Mach.onCtl_onCtl] at hf
  rw [s.control_done n f _ hf]
  exact congrArg (fun x => Host.Outcome.next ({ s with mach := x } : State)) (m.onCtl_congr _ _ _ (by simp only [hg]))

/-- The same with no change of a register. -/
theorem State.control_advance (s : State) (n : Nat) (f : Mach → Run) (m : Mach) (hf : f s.mach = m.advance s.cur.core n)
    (h : m.cores[s.cur.core].ctl.pc.toNat + n < 2 ^ 18) : s.control n f = .next (s.onward m n id) := by
  rw [Mach.advance_ok _ _ _ h] at hf
  exact s.control_done n f _ hf

/-- Clean sources pass their check. -/
theorem Ctl.clean_ok (k : Ctl) (l : List Src) (h : ∀ v ∈ l, (k.src v).tag = 0) : k.clean? l = .ok () := by
  unfold Ctl.clean?
  induction l with
  | nil => rfl
  | cons v r ih =>
    have hv := h v (by simp)
    have hr := ih fun w hw => h w (by simp [hw])
    simp only [List.map_cons, needClean, hv, if_true]
    exact hr

theorem State.cleanSrcs_ok (s : State) (l : List Src) (h : s.cleanSrcs l) : s.ctl.clean? l = .ok () := s.ctl.clean_ok l h

@[simp] theorem orTrap_ok {α : Type} (v : α) (k : α → Run) : orTrap (.ok v) k = k v := rfl
@[simp] theorem orTrap_error {α : Type} (t : Trap) (k : α → Run) : orTrap (.error t) k = .trap t := rfl

end Sys2Proof.Machine
end

