-- ==== Sys2Proof/Laws/PerInstr.lean ====
section
/-! SUPPORT. What is stated of every instruction as syntax, one lemma for each constructor: its words fit the four words that a fetch
looks at. -/

namespace Sys2Proof.Laws

theorem encLits_le (l : List Src) : (encLits l).length ≤ 2 := by
  induction l with
  | nil => simp [encLits]
  | cons a r ih => cases a <;> simp [encLits, ih]

theorem encVLit_le (v : VSrc) : (encVLit v).length ≤ 1 := by cases v <;> simp [encVLit]

theorem encStartLit_le (v : WalkStart) : (encStartLit v).length ≤ 1 := by cases v <;> simp [encStartLit]

theorem encCR_le (op d a b fn : Nat) (l : List Src) : (encCR op d a b l fn).length ≤ 4 := by
  have := encLits_le l
  simp [encCR]; omega

theorem encCI_le (op d a imm : Nat) (l : List Src) : (encCI op d a l imm).length ≤ 4 := by
  have := encLits_le l
  simp [encCI]; omega

theorem encCM_le (op d base : Nat) (l : List Src) (q : MemQ) : (encCM op d base l q).length ≤ 4 := by
  have := encLits_le l
  simp [encCM]; omega

theorem encCA_le (op d base b : Nat) (l : List Src) (q : AtomQ) : (encCA op d base b l q).length ≤ 4 := by
  have := encLits_le l
  simp [encCA]; omega

theorem encV_le (q : Option Qual) (op d a b : Nat) (g : Guard) : (encV q op d a b g).length ≤ 2 := by
  cases q <;> simp [encV, encQual]

theorem encV_zero_le (q : Option Qual) (op d a b : Nat) (g : Guard) : (encV q op d a b g).length ≤ 4 := by
  have := encV_le q op d a b g
  omega

theorem one_word_le : 1 ≤ 4 := by decide

theorem encV_one_le (q : Option Qual) (op d a b : Nat) (g : Guard) (l : List W32) (h : l.length ≤ 1) : (encV q op d a b g ++ l).length ≤ 4 := by
  have := encV_le q op d a b g
  simp; omega

theorem encV_two_le (q : Option Qual) (op d a b : Nat) (g : Guard) (l r : List W32) (h : l.length ≤ 1) (h2 : r.length ≤ 1) :
    (encV q op d a b g ++ l ++ r).length ≤ 4 := by
  have := encV_le q op d a b g
  simp; omega

theorem encStep_le (op : Nat) (w : Sems) (ext f : Nat) (e : List Nat) (h : e.length ≤ 3) : (encStep op w ext f e).length ≤ 4 := by
  simp [encStep]; omega

theorem encSImm_le (op d a : Nat) (v : SImm) : (encSImm op d a v).length ≤ 4 := by cases v <;> simp [encSImm, encS]

theorem cons_le (w : W32) (l : List Src) : (w :: encLits l).length ≤ 4 := by
  have := encLits_le l
  simp; omega

namespace FitsFetch

/-- An instruction has at most four words (02 R44, R45, R52; 08 R229): the fetch of a word stream never has to look further. -/
def Statement (i : Instr) : Prop := (encode i).length ≤ 4

theorem add (d : Dst) (a b : Src) : Statement (.add d a b) := encCR_le _ _ _ _ _ _
theorem sub (d : Dst) (a b : Src) : Statement (.sub d a b) := encCR_le _ _ _ _ _ _
theorem mul (d : Dst) (a b : Src) : Statement (.mul d a b) := encCR_le _ _ _ _ _ _
theorem mulh (d : Dst) (a b : Src) : Statement (.mulh d a b) := encCR_le _ _ _ _ _ _
theorem mulhn (d : Dst) (a b : Src) : Statement (.mulhn d a b) := encCR_le _ _ _ _ _ _
theorem div (d : Dst) (a b : Src) : Statement (.div d a b) := encCR_le _ _ _ _ _ _
theorem divn (d : Dst) (a b : Src) : Statement (.divn d a b) := encCR_le _ _ _ _ _ _
theorem rem (d : Dst) (a b : Src) : Statement (.rem d a b) := encCR_le _ _ _ _ _ _
theorem remn (d : Dst) (a b : Src) : Statement (.remn d a b) := encCR_le _ _ _ _ _ _
theorem and (d : Dst) (a b : Src) : Statement (.and d a b) := encCR_le _ _ _ _ _ _
theorem or (d : Dst) (a b : Src) : Statement (.or d a b) := encCR_le _ _ _ _ _ _
theorem xor (d : Dst) (a b : Src) : Statement (.xor d a b) := encCR_le _ _ _ _ _ _
theorem andn (d : Dst) (a b : Src) : Statement (.andn d a b) := encCR_le _ _ _ _ _ _
theorem shl (d : Dst) (a b : Src) : Statement (.shl d a b) := encCR_le _ _ _ _ _ _
theorem shr (d : Dst) (a b : Src) : Statement (.shr d a b) := encCR_le _ _ _ _ _ _
theorem sar (d : Dst) (a b : Src) : Statement (.sar d a b) := encCR_le _ _ _ _ _ _
theorem rol (d : Dst) (a b : Src) : Statement (.rol d a b) := encCR_le _ _ _ _ _ _
theorem min (d : Dst) (a b : Src) : Statement (.min d a b) := encCR_le _ _ _ _ _ _
theorem max (d : Dst) (a b : Src) : Statement (.max d a b) := encCR_le _ _ _ _ _ _
theorem minn (d : Dst) (a b : Src) : Statement (.minn d a b) := encCR_le _ _ _ _ _ _
theorem maxn (d : Dst) (a b : Src) : Statement (.maxn d a b) := encCR_le _ _ _ _ _ _
theorem adds (d : Dst) (a b : Src) : Statement (.adds d a b) := encCR_le _ _ _ _ _ _
theorem subs (d : Dst) (a b : Src) : Statement (.subs d a b) := encCR_le _ _ _ _ _ _
theorem addsn (d : Dst) (a b : Src) : Statement (.addsn d a b) := encCR_le _ _ _ _ _ _
theorem subsn (d : Dst) (a b : Src) : Statement (.subsn d a b) := encCR_le _ _ _ _ _ _
theorem muls (d : Dst) (a b : Src) : Statement (.muls d a b) := encCR_le _ _ _ _ _ _
theorem abs (d : Dst) (a : Src) : Statement (.abs d a) := encCR_le _ _ _ _ _ _
theorem neg (d : Dst) (a : Src) : Statement (.neg d a) := encCR_le _ _ _ _ _ _
theorem clz (d : Dst) (a : Src) : Statement (.clz d a) := encCR_le _ _ _ _ _ _
theorem ctz (d : Dst) (a : Src) : Statement (.ctz d a) := encCR_le _ _ _ _ _ _
theorem popc (d : Dst) (a : Src) : Statement (.popc d a) := encCR_le _ _ _ _ _ _
theorem sext8 (d : Dst) (a : Src) : Statement (.sext8 d a) := encCR_le _ _ _ _ _ _
theorem sext16 (d : Dst) (a : Src) : Statement (.sext16 d a) := encCR_le _ _ _ _ _ _
theorem sext32 (d : Dst) (a : Src) : Statement (.sext32 d a) := encCR_le _ _ _ _ _ _
theorem mov (d : Dst) (a : Src) : Statement (.mov d a) := encCR_le _ _ _ _ _ _
theorem addi (d : Dst) (a : Src) (imm : BitVec 15) : Statement (.addi d a imm) := encCI_le _ _ _ _ _
theorem andi (d : Dst) (a : Src) (imm : BitVec 15) : Statement (.andi d a imm) := encCI_le _ _ _ _ _
theorem ori (d : Dst) (a : Src) (imm : BitVec 15) : Statement (.ori d a imm) := encCI_le _ _ _ _ _
theorem xori (d : Dst) (a : Src) (imm : BitVec 15) : Statement (.xori d a imm) := encCI_le _ _ _ _ _
theorem shli (d : Dst) (a : Src) (amount : BitVec 6) : Statement (.shli d a amount) := encCI_le _ _ _ _ _
theorem shri (d : Dst) (a : Src) (amount : BitVec 6) : Statement (.shri d a amount) := encCI_le _ _ _ _ _
theorem sari (d : Dst) (a : Src) (amount : BitVec 6) : Statement (.sari d a amount) := encCI_le _ _ _ _ _
theorem roli (d : Dst) (a : Src) (amount : BitVec 6) : Statement (.roli d a amount) := encCI_le _ _ _ _ _
theorem movi (d : Dst) (imm : BitVec 15) : Statement (.movi d imm) := encCI_le _ _ _ _ _
theorem cmp (k : Fin 8) (a b : Src) (c : Cond) : Statement (.cmp k a b c) := encCR_le _ _ _ _ _ _
theorem cmpi (k : Fin 8) (a : Src) (c : Cond) (imm : BitVec 11) : Statement (.cmpi k a c imm) := encCI_le _ _ _ _ _
theorem sel (d : Dst) (a b : Src) (k : Fin 8) : Statement (.sel d a b k) := encCR_le _ _ _ _ _ _
theorem kand (d a b : Fin 8) : Statement (.kand d a b) := encCR_le _ _ _ _ _ _
theorem kor (d a b : Fin 8) : Statement (.kor d a b) := encCR_le _ _ _ _ _ _
theorem kxor (d a b : Fin 8) : Statement (.kxor d a b) := encCR_le _ _ _ _ _ _
theorem knot (d a : Fin 8) : Statement (.knot d a) := encCR_le _ _ _ _ _ _
theorem kmov (d a : Fin 8) : Statement (.kmov d a) := encCR_le _ _ _ _ _ _
theorem padd (d : Dst) (a b : Src) : Statement (.padd d a b) := encCR_le _ _ _ _ _ _
theorem psub (d : Dst) (a b : Src) : Statement (.psub d a b) := encCR_le _ _ _ _ _ _
theorem phdl (d : Dst) (a : Src) : Statement (.phdl d a) := encCR_le _ _ _ _ _ _
theorem poff (d : Dst) (a : Src) : Statement (.poff d a) := encCR_le _ _ _ _ _ _
theorem pmake (d : Dst) (a b : Src) : Statement (.pmake d a b) := encCR_le _ _ _ _ _ _
theorem paddi (d : Dst) (a : Src) (imm : BitVec 15) : Statement (.paddi d a imm) := encCI_le _ _ _ _ _
theorem ld (d : Dst) (base : Src) (q : MemQ) : Statement (.ld d base q) := encCM_le _ _ _ _ _
theorem ld32 (d : Dst) (base : Src) (q : MemQ) : Statement (.ld32 d base q) := encCM_le _ _ _ _ _
theorem ld32s (d : Dst) (base : Src) (q : MemQ) : Statement (.ld32s d base q) := encCM_le _ _ _ _ _
theorem ld16 (d : Dst) (base : Src) (q : MemQ) : Statement (.ld16 d base q) := encCM_le _ _ _ _ _
theorem ld16s (d : Dst) (base : Src) (q : MemQ) : Statement (.ld16s d base q) := encCM_le _ _ _ _ _
theorem ld8 (d : Dst) (base : Src) (q : MemQ) : Statement (.ld8 d base q) := encCM_le _ _ _ _ _
theorem ld8s (d : Dst) (base : Src) (q : MemQ) : Statement (.ld8s d base q) := encCM_le _ _ _ _ _
theorem ldwait (d : Dst) (base : Src) (q : MemQ) : Statement (.ldwait d base q) := encCM_le _ _ _ _ _
theorem ldcons (d : Dst) (base : Src) (q : MemQ) : Statement (.ldcons d base q) := encCM_le _ _ _ _ _
theorem st (v base : Src) (q : MemQ) : Statement (.st v base q) := encCM_le _ _ _ _ _
theorem st32 (v base : Src) (q : MemQ) : Statement (.st32 v base q) := encCM_le _ _ _ _ _
theorem st16 (v base : Src) (q : MemQ) : Statement (.st16 v base q) := encCM_le _ _ _ _ _
theorem st8 (v base : Src) (q : MemQ) : Statement (.st8 v base q) := encCM_le _ _ _ _ _
theorem stfill (v base : Src) (q : MemQ) : Statement (.stfill v base q) := encCM_le _ _ _ _ _
theorem fence (mask : BitVec 16) : Statement (.fence mask) := one_word_le
theorem cireq (a b : Src) : Statement (.cireq a b) := encCR_le _ _ _ _ _ _
theorem aadd (d : Dst) (base b : Src) (q : AtomQ) : Statement (.aadd d base b q) := encCA_le _ _ _ _ _ _
theorem afadd (d : Dst) (base b : Src) (q : AtomQ) : Statement (.afadd d base b q) := encCA_le _ _ _ _ _ _
theorem axchg (d : Dst) (base b : Src) (q : AtomQ) : Statement (.axchg d base b q) := encCA_le _ _ _ _ _ _
theorem acas (e base b : Src) (q : AtomQ) : Statement (.acas e base b q) := encCA_le _ _ _ _ _ _
theorem amin (d : Dst) (base b : Src) (q : AtomQ) : Statement (.amin d base b q) := encCA_le _ _ _ _ _ _
theorem amax (d : Dst) (base b : Src) (q : AtomQ) : Statement (.amax d base b q) := encCA_le _ _ _ _ _ _
theorem aminn (d : Dst) (base b : Src) (q : AtomQ) : Statement (.aminn d base b q) := encCA_le _ _ _ _ _ _
theorem amaxn (d : Dst) (base b : Src) (q : AtomQ) : Statement (.amaxn d base b q) := encCA_le _ _ _ _ _ _
theorem aand (d : Dst) (base b : Src) (q : AtomQ) : Statement (.aand d base b q) := encCA_le _ _ _ _ _ _
theorem aor (d : Dst) (base b : Src) (q : AtomQ) : Statement (.aor d base b q) := encCA_le _ _ _ _ _ _
theorem axor (d : Dst) (base b : Src) (q : AtomQ) : Statement (.axor d base b q) := encCA_le _ _ _ _ _ _
theorem b (disp : BitVec 26) : Statement (.b disp) := one_word_le
theorem call (disp : BitVec 26) : Statement (.call disp) := one_word_le
theorem bc (k : Fin 8) (disp : BitVec 22) : Statement (.bc k disp) := one_word_le
theorem bcn (k : Fin 8) (disp : BitVec 22) : Statement (.bcn k disp) := one_word_le
theorem jr (a : Src) : Statement (.jr a) := encCR_le _ _ _ _ _ _
theorem callr (a : Src) : Statement (.callr a) := encCR_le _ _ _ _ _ _
theorem ret : Statement (.ret) := encCR_le _ _ _ _ _ _
theorem jtab (a b : Src) (len : BitVec 15) : Statement (.jtab a b len) := cons_le _ _
theorem qrd (d : Dst) (q : Fin 8) : Statement (.qrd d q) := encCR_le _ _ _ _ _ _
theorem qwr (q : Fin 8) (a : Src) : Statement (.qwr q a) := encCR_le _ _ _ _ _ _
theorem qtryrd (d : Dst) (q : Fin 8) : Statement (.qtryrd d q) := encCR_le _ _ _ _ _ _
theorem qtrywr (q : Fin 8) (a : Src) : Statement (.qtrywr q a) := encCR_le _ _ _ _ _ _
theorem shwr (r : Fin 8) (a : Src) (e : Engine) : Statement (.shwr r a e) := encCR_le _ _ _ _ _ _
theorem lywr (r : Fin 8) (a : Src) (e : Engine) : Statement (.lywr r a e) := encCR_le _ _ _ _ _ _
theorem shswap (e : Engine) : Statement (.shswap e) := encCR_le _ _ _ _ _ _
theorem csel (d : Dst) (a : Src) (k : Fin 8) : Statement (.csel d a k) := encCR_le _ _ _ _ _ _
theorem pchk (k : Fin 8) (a : Src) : Statement (.pchk k a) := encCR_le _ _ _ _ _ _
theorem pclr (d : Dst) (a : Src) : Statement (.pclr d a) := encCR_le _ _ _ _ _ _
theorem srr (d : Dst) (n : BitVec 15) : Statement (.srr d n) := encCI_le _ _ _ _ _
theorem srw (n : BitVec 15) (a : Src) : Statement (.srw n a) := encCI_le _ _ _ _ _
theorem crcfgWrite (ring : RingNo) (a : Src) : Statement (.crcfgWrite ring a) := encCI_le _ _ _ _ _
theorem crrpWrite (ring : RingNo) (a : Src) : Statement (.crrpWrite ring a) := encCI_le _ _ _ _ _
theorem crwpWrite (ring : RingNo) (a : Src) : Statement (.crwpWrite ring a) := encCI_le _ _ _ _ _
theorem mcinvWrite (a : Src) : Statement (.mcinvWrite a) := encCI_le _ _ _ _ _
theorem vstatWrite (a : Src) : Statement (.vstatWrite a) := encCI_le _ _ _ _ _
theorem mlcfgWrite (a : Src) : Statement (.mlcfgWrite a) := encCI_le _ _ _ _ _
theorem uiret : Statement (.uiret) := encCR_le _ _ _ _ _ _
theorem smwait (d : Dst) (a : Src) (n : Fin 15) : Statement (.smwait d a n) := encCR_le _ _ _ _ _ _
theorem smadd (d : Dst) (a : Src) (n : Fin 15) : Statement (.smadd d a n) := encCR_le _ _ _ _ _ _
theorem mxlock (n : Fin 8) : Statement (.mxlock n) := encCR_le _ _ _ _ _ _
theorem mxfree (n : Fin 8) : Statement (.mxfree n) := encCR_le _ _ _ _ _ _
theorem dbar (d : Dst) (a : Src) : Statement (.dbar d a) := encCR_le _ _ _ _ _ _
theorem moor (d : Dst) (a b : Src) : Statement (.moor d a b) := encCR_le _ _ _ _ _ _
theorem yieldPoint (a : Src) : Statement (.yieldPoint a) := encCR_le _ _ _ _ _ _
theorem yieldEnd (a : Src) : Statement (.yieldEnd a) := encCR_le _ _ _ _ _ _
theorem launch (d : Dst) (a b : Src) : Statement (.launch d a b) := encCR_le _ _ _ _ _ _
theorem allocRing (d : Dst) (a b : Src) : Statement (.allocRing d a b) := encCR_le _ _ _ _ _ _
theorem allocBump (d : Dst) (a b : Src) : Statement (.allocBump d a b) := encCR_le _ _ _ _ _ _
theorem allocStatus (d : Dst) (a b : Src) : Statement (.allocStatus d a b) := encCR_le _ _ _ _ _ _
theorem freeRing (a b : Src) : Statement (.freeRing a b) := encCR_le _ _ _ _ _ _
theorem freeBump (a b : Src) : Statement (.freeBump a b) := encCR_le _ _ _ _ _ _
theorem attn (a b : Src) : Statement (.attn a b) := encCR_le _ _ _ _ _ _
theorem atcommit (a b : Src) : Statement (.atcommit a b) := encCR_le _ _ _ _ _ _
theorem atdrop (a b : Src) : Statement (.atdrop a b) := encCR_le _ _ _ _ _ _
theorem exalloc (d : Dst) (a b : Src) : Statement (.exalloc d a b) := encCR_le _ _ _ _ _ _
theorem exfree (a b : Src) : Statement (.exfree a b) := encCR_le _ _ _ _ _ _
theorem exinv (d : Dst) (a b : Src) : Statement (.exinv d a b) := encCR_le _ _ _ _ _ _
theorem sample (a b : Src) : Statement (.sample a b) := encCR_le _ _ _ _ _ _
theorem sbind (a b : Src) : Statement (.sbind a b) := encCR_le _ _ _ _ _ _
theorem hins (d : Dst) (a b : Src) : Statement (.hins d a b) := encCR_le _ _ _ _ _ _
theorem htop (d : Dst) (a b : Src) : Statement (.htop d a b) := encCR_le _ _ _ _ _ _
theorem hclr (a b : Src) : Statement (.hclr a b) := encCR_le _ _ _ _ _ _
theorem obqry (d : Dst) (a b : Src) : Statement (.obqry d a b) := encCR_le _ _ _ _ _ _
theorem obprobe (d : Dst) (a b : Src) : Statement (.obprobe d a b) := encCR_le _ _ _ _ _ _
theorem trap (a : Src) : Statement (.trap a) := encCR_le _ _ _ _ _ _
theorem retsReturn (a : Src) : Statement (.retsReturn a) := encCR_le _ _ _ _ _ _
theorem retsEnd (a : Src) : Statement (.retsEnd a) := encCR_le _ _ _ _ _ _
theorem snap (a : Src) : Statement (.snap a) := encCR_le _ _ _ _ _ _
theorem rpctlRdst (d : Dst) (a b : Src) : Statement (.rpctlRdst d a b) := encCR_le _ _ _ _ _ _
theorem rpctlCk (d : Dst) (a b : Src) : Statement (.rpctlCk d a b) := encCR_le _ _ _ _ _ _
theorem rpctlRdhash (d : Dst) (a b : Src) : Statement (.rpctlRdhash d a b) := encCR_le _ _ _ _ _ _
theorem rpctlConfig (d : Dst) (a b : Src) : Statement (.rpctlConfig d a b) := encCR_le _ _ _ _ _ _
theorem rpctlStop (d : Dst) (a b : Src) : Statement (.rpctlStop d a b) := encCR_le _ _ _ _ _ _
theorem vld (q : Option Qual) (d : VDst) (ly : Fin 8) (off : VSrc) (g : Guard) : Statement (.vld q d ly off g) := encV_one_le _ _ _ _ _ _ _ (encVLit_le _)
theorem vst (q : Option Qual) (v : VReg) (ly : Fin 8) (off : VSrc) (g : Guard) : Statement (.vst q v ly off g) := encV_one_le _ _ _ _ _ _ _ (encVLit_le _)
theorem vldwait (q : Option Qual) (d : VDst) (ly : Fin 8) (off : VSrc) (g : Guard) : Statement (.vldwait q d ly off g) := encV_one_le _ _ _ _ _ _ _ (encVLit_le _)
theorem vldcons (q : Option Qual) (d : VDst) (ly : Fin 8) (off : VSrc) (g : Guard) : Statement (.vldcons q d ly off g) := encV_one_le _ _ _ _ _ _ _ (encVLit_le _)
theorem vstfill (q : Option Qual) (v : VReg) (ly : Fin 8) (off : VSrc) (g : Guard) : Statement (.vstfill q v ly off g) := encV_one_le _ _ _ _ _ _ _ (encVLit_le _)
theorem vgath (q : Option Qual) (d : VDst) (ly : Fin 8) (off : VSrc) (g : Guard) : Statement (.vgath q d ly off g) := encV_one_le _ _ _ _ _ _ _ (encVLit_le _)
theorem vscat (q : Option Qual) (v : VReg) (ly : Fin 8) (off : VSrc) (g : Guard) : Statement (.vscat q v ly off g) := encV_one_le _ _ _ _ _ _ _ (encVLit_le _)
theorem mma (w : Sems) (m : MmaArgs) : Statement (.mma w m) := encStep_le _ _ _ _ _ (Nat.le_of_ble_eq_true rfl)
theorem mmaz (w : Sems) (m : MmaArgs) : Statement (.mmaz w m) := encStep_le _ _ _ _ _ (Nat.le_of_ble_eq_true rfl)
theorem mmasg (w : Sems) (m : MmaArgs) : Statement (.mmasg w m) := encStep_le _ _ _ _ _ (Nat.le_of_ble_eq_true rfl)
theorem fset (w : Sems) (n : Fin 8) (v : W32) : Statement (.fset w n v) := encStep_le _ _ _ _ _ (Nat.le_of_ble_eq_true rfl)
theorem fqrd (w : Sems) (n : Fin 8) : Statement (.fqrd w n) := encStep_le _ _ _ _ _ (Nat.le_of_ble_eq_true rfl)
theorem mthr (w : Sems) (v : W32) : Statement (.mthr w v) := encStep_le _ _ _ _ _ (Nat.le_of_ble_eq_true rfl)
theorem scld (w : Sems) (fmt : Fin 3) (count1 : BitVec 14) (src : W32) (cls : BitVec 4) (didx : BitVec 14) : Statement (.scld w fmt count1 src cls didx) := encStep_le _ _ _ _ _ (Nat.le_of_ble_eq_true rfl)
theorem acczero (w : Sems) (tile count1 : BitVec 6) : Statement (.acczero w tile count1) := encStep_le _ _ _ _ _ (Nat.le_of_ble_eq_true rfl)
theorem epil (w : Sems) (e : EpArgs) (dst : W32) : Statement (.epil w e dst) := encStep_le _ _ _ _ _ (Nat.le_of_ble_eq_true rfl)
theorem epobj (w : Sems) (e : EpArgs) (ly : Fin 8) (row0 : BitVec 29) : Statement (.epobj w e ly row0) := encStep_le _ _ _ _ _ (Nat.le_of_ble_eq_true rfl)
theorem eprow (w : Sems) (e : EpArgs) (taddr : BitVec 20) : Statement (.eprow w e taddr) := encStep_le _ _ _ _ _ (Nat.le_of_ble_eq_true rfl)
theorem epadd (w : Sems) (e : EpArgs) (taddr : BitVec 20) : Statement (.epadd w e taddr) := encStep_le _ _ _ _ _ (Nat.le_of_ble_eq_true rfl)
theorem accst (w : Sems) (tile : BitVec 6) (addr : W32) (cls : BitVec 4) (scope : Scope) : Statement (.accst w tile addr cls scope) := encStep_le _ _ _ _ _ (Nat.le_of_ble_eq_true rfl)
theorem accld (w : Sems) (tile : BitVec 6) (addr : W32) (cls : BitVec 4) (scope : Scope) : Statement (.accld w tile addr cls scope) := encStep_le _ _ _ _ _ (Nat.le_of_ble_eq_true rfl)
theorem mqwr (w : Sems) (tag : BitVec 14) : Statement (.mqwr w tag) := encStep_le _ _ _ _ _ (Nat.le_of_ble_eq_true rfl)
theorem mqwrSt (w : Sems) : Statement (.mqwrSt w) := encStep_le _ _ _ _ _ (Nat.le_of_ble_eq_true rfl)
theorem mrel (w : Sems) : Statement (.mrel w) := encStep_le _ _ _ _ _ (Nat.le_of_ble_eq_true rfl)
theorem msync (w : Sems) : Statement (.msync w) := encStep_le _ _ _ _ _ (Nat.le_of_ble_eq_true rfl)
theorem mjmp (w : Sems) (count disp : BitVec 8) : Statement (.mjmp w count disp) := encStep_le _ _ _ _ _ (Nat.le_of_ble_eq_true rfl)
theorem tmov (w : Sems) (m : MoveQ) (lys lyd : Fin 8) (soff doff : W32) (count1 : BitVec 24) : Statement (.tmov w m lys lyd soff doff count1) := encStep_le _ _ _ _ _ (Nat.le_of_ble_eq_true rfl)
theorem tmov2d (w : Sems) (m : MoveQ) (lys lyd : Fin 8) (rec : W32) : Statement (.tmov2d w m lys lyd rec) := encStep_le _ _ _ _ _ (Nat.le_of_ble_eq_true rfl)
theorem rrot (w : Sems) (m : MoveQ) (dist : Fin 8) (saddr daddr : W32) (count1 : BitVec 20) : Statement (.rrot w m dist saddr daddr count1) := encStep_le _ _ _ _ _ (Nat.le_of_ble_eq_true rfl)
theorem gath (w : Sems) (m : MoveQ) (lys lyd : Fin 8) (iaddr : W32) (rowb : BitVec 17) (rows1 : BitVec 16) : Statement (.gath w m lys lyd iaddr rowb rows1) := encStep_le _ _ _ _ _ (Nat.le_of_ble_eq_true rfl)
theorem scat (w : Sems) (m : MoveQ) (lys lyd : Fin 8) (iaddr : W32) (rowb : BitVec 17) (rows1 : BitVec 16) : Statement (.scat w m lys lyd iaddr rowb rows1) := encStep_le _ _ _ _ _ (Nat.le_of_ble_eq_true rfl)
theorem rpush (w : Sems) (m : MoveQ) (lys rg : Fin 8) (soff : W32) : Statement (.rpush w m lys rg soff) := encStep_le _ _ _ _ _ (Nat.le_of_ble_eq_true rfl)
theorem cfill (w : Sems) (m : MoveQ) (lyd : Fin 8) (doff : W32) (count1 : BitVec 24) (pat : W32) : Statement (.cfill w m lyd doff count1 pat) := encStep_le _ _ _ _ _ (Nat.le_of_ble_eq_true rfl)
theorem crstr (w : Sems) (m : MoveQ) (lys : Fin 8) (ring : RingNo) (soff : W32) (words1 : BitVec 16) : Statement (.crstr w m lys ring soff words1) := encStep_le _ _ _ _ _ (Nat.le_of_ble_eq_true rfl)
theorem csync (w : Sems) (pop : Bool) : Statement (.csync w pop) := encStep_le _ _ _ _ _ (Nat.le_of_ble_eq_true rfl)
theorem cqwr (w : Sems) (tag : BitVec 14) : Statement (.cqwr w tag) := encStep_le _ _ _ _ _ (Nat.le_of_ble_eq_true rfl)
theorem fwr (w : Sems) (m : FabQ) (lys lyd : Fin 8) (soff doff : W32) (pkg : BitVec 12) (count1 : BitVec 20) : Statement (.fwr w m lys lyd soff doff pkg count1) := encStep_le _ _ _ _ _ (Nat.le_of_ble_eq_true rfl)
theorem frd (w : Sems) (m : FabQ) (lys lyd : Fin 8) (soff doff : W32) (pkg : BitVec 12) (count1 : BitVec 20) : Statement (.frd w m lys lyd soff doff pkg count1) := encStep_le _ _ _ _ _ (Nat.le_of_ble_eq_true rfl)
theorem fatom (w : Sems) (aop : AtomOp) (lyd : Fin 8) (doff oaddr : W32) (pkg : BitVec 12) : Statement (.fatom w aop lyd doff oaddr pkg) := encStep_le _ _ _ _ _ (Nat.le_of_ble_eq_true rfl)
theorem lbregBuffer (w : Sems) (rec : W32) : Statement (.lbregBuffer w rec) := encStep_le _ _ _ _ _ (Nat.le_of_ble_eq_true rfl)
theorem lbregPort (w : Sems) (rec : W32) : Statement (.lbregPort w rec) := encStep_le _ _ _ _ _ (Nat.le_of_ble_eq_true rfl)
theorem lbregClose (w : Sems) (rec : W32) : Statement (.lbregClose w rec) := encStep_le _ _ _ _ _ (Nat.le_of_ble_eq_true rfl)
theorem lbregOpen (w : Sems) (rec : W32) : Statement (.lbregOpen w rec) := encStep_le _ _ _ _ _ (Nat.le_of_ble_eq_true rfl)
theorem lbregRedirect (w : Sems) (rec : W32) : Statement (.lbregRedirect w rec) := encStep_le _ _ _ _ _ (Nat.le_of_ble_eq_true rfl)
theorem lbrelBuffer (w : Sems) (key : W32) : Statement (.lbrelBuffer w key) := encStep_le _ _ _ _ _ (Nat.le_of_ble_eq_true rfl)
theorem lbrelPort (w : Sems) (h : BitVec 24) : Statement (.lbrelPort w h) := encStep_le _ _ _ _ _ (Nat.le_of_ble_eq_true rfl)
theorem a2av (w : Sems) (m : FabQ) (desc : W32) : Statement (.a2av w m desc) := encStep_le _ _ _ _ _ (Nat.le_of_ble_eq_true rfl)
theorem rscat (w : Sems) (m : FabQ) (desc : W32) : Statement (.rscat w m desc) := encStep_le _ _ _ _ _ (Nat.le_of_ble_eq_true rfl)
theorem agath (w : Sems) (m : FabQ) (desc : W32) : Statement (.agath w m desc) := encStep_le _ _ _ _ _ (Nat.le_of_ble_eq_true rfl)
theorem bcast (w : Sems) (m : FabQ) (desc : W32) : Statement (.bcast w m desc) := encStep_le _ _ _ _ _ (Nat.le_of_ble_eq_true rfl)
theorem pgmovUp (w : Sems) (h : BitVec 24) (k staddr : W32) : Statement (.pgmovUp w h k staddr) := encStep_le _ _ _ _ _ (Nat.le_of_ble_eq_true rfl)
theorem pgmovDown (w : Sems) (h : BitVec 24) (k staddr : W32) : Statement (.pgmovDown w h k staddr) := encStep_le _ _ _ _ _ (Nat.le_of_ble_eq_true rfl)
theorem feset (w : Sems) (m : MoveQ) (lyd : Fin 8) (doff : W32) (count1 : BitVec 24) : Statement (.feset w m lyd doff count1) := encStep_le _ _ _ _ _ (Nat.le_of_ble_eq_true rfl)
theorem obcopy (w : Sems) (h : BitVec 24) (k : W32) (nslot : BitVec 24) : Statement (.obcopy w h k nslot) := encStep_le _ _ _ _ _ (Nat.le_of_ble_eq_true rfl)
theorem vadd (q : Option Qual) (d : VDst) (a b : VSrc) (g : Guard) : Statement (.vadd q d a b g) := encV_two_le _ _ _ _ _ _ _ _ (encVLit_le _) (encVLit_le _)
theorem vsub (q : Option Qual) (d : VDst) (a b : VSrc) (g : Guard) : Statement (.vsub q d a b g) := encV_two_le _ _ _ _ _ _ _ _ (encVLit_le _) (encVLit_le _)
theorem vmul (q : Option Qual) (d : VDst) (a b : VSrc) (g : Guard) : Statement (.vmul q d a b g) := encV_two_le _ _ _ _ _ _ _ _ (encVLit_le _) (encVLit_le _)
theorem vfma (q : Option Qual) (d : VDst) (a b : VSrc) (g : Guard) : Statement (.vfma q d a b g) := encV_two_le _ _ _ _ _ _ _ _ (encVLit_le _) (encVLit_le _)
theorem vfnma (q : Option Qual) (d : VDst) (a b : VSrc) (g : Guard) : Statement (.vfnma q d a b g) := encV_two_le _ _ _ _ _ _ _ _ (encVLit_le _) (encVLit_le _)
theorem vmin (q : Option Qual) (d : VDst) (a b : VSrc) (g : Guard) : Statement (.vmin q d a b g) := encV_two_le _ _ _ _ _ _ _ _ (encVLit_le _) (encVLit_le _)
theorem vmax (q : Option Qual) (d : VDst) (a b : VSrc) (g : Guard) : Statement (.vmax q d a b g) := encV_two_le _ _ _ _ _ _ _ _ (encVLit_le _) (encVLit_le _)
theorem vabs (q : Option Qual) (d : VDst) (a : VSrc) (g : Guard) : Statement (.vabs q d a g) := encV_one_le _ _ _ _ _ _ _ (encVLit_le _)
theorem vneg (q : Option Qual) (d : VDst) (a : VSrc) (g : Guard) : Statement (.vneg q d a g) := encV_one_le _ _ _ _ _ _ _ (encVLit_le _)
theorem vadds (q : Option Qual) (d : VDst) (a b : VSrc) (g : Guard) : Statement (.vadds q d a b g) := encV_two_le _ _ _ _ _ _ _ _ (encVLit_le _) (encVLit_le _)
theorem vsubs (q : Option Qual) (d : VDst) (a b : VSrc) (g : Guard) : Statement (.vsubs q d a b g) := encV_two_le _ _ _ _ _ _ _ _ (encVLit_le _) (encVLit_le _)
theorem vmulh (q : Option Qual) (d : VDst) (a b : VSrc) (g : Guard) : Statement (.vmulh q d a b g) := encV_two_le _ _ _ _ _ _ _ _ (encVLit_le _) (encVLit_le _)
theorem vceq (q : Option Qual) (pd : Fin 8) (a b : VSrc) (g : Guard) : Statement (.vceq q pd a b g) := encV_two_le _ _ _ _ _ _ _ _ (encVLit_le _) (encVLit_le _)
theorem vcne (q : Option Qual) (pd : Fin 8) (a b : VSrc) (g : Guard) : Statement (.vcne q pd a b g) := encV_two_le _ _ _ _ _ _ _ _ (encVLit_le _) (encVLit_le _)
theorem vclt (q : Option Qual) (pd : Fin 8) (a b : VSrc) (g : Guard) : Statement (.vclt q pd a b g) := encV_two_le _ _ _ _ _ _ _ _ (encVLit_le _) (encVLit_le _)
theorem vcle (q : Option Qual) (pd : Fin 8) (a b : VSrc) (g : Guard) : Statement (.vcle q pd a b g) := encV_two_le _ _ _ _ _ _ _ _ (encVLit_le _) (encVLit_le _)
theorem vcgt (q : Option Qual) (pd : Fin 8) (a b : VSrc) (g : Guard) : Statement (.vcgt q pd a b g) := encV_two_le _ _ _ _ _ _ _ _ (encVLit_le _) (encVLit_le _)
theorem vcge (q : Option Qual) (pd : Fin 8) (a b : VSrc) (g : Guard) : Statement (.vcge q pd a b g) := encV_two_le _ _ _ _ _ _ _ _ (encVLit_le _) (encVLit_le _)
theorem vsel (q : Option Qual) (d : VDst) (a b : VSrc) (g : Guard) : Statement (.vsel q d a b g) := encV_two_le _ _ _ _ _ _ _ _ (encVLit_le _) (encVLit_le _)
theorem vcsel (q : Option Qual) (d : VDst) (a b : VSrc) (g : Guard) : Statement (.vcsel q d a b g) := encV_two_le _ _ _ _ _ _ _ _ (encVLit_le _) (encVLit_le _)
theorem vcvt (q : Option Qual) (d : VDst) (a : VSrc) (dir : Fin 4) (g : Guard) : Statement (.vcvt q d a dir g) := encV_one_le _ _ _ _ _ _ _ (encVLit_le _)
theorem vmov (q : Option Qual) (d : VDst) (a : VSrc) (g : Guard) : Statement (.vmov q d a g) := encV_one_le _ _ _ _ _ _ _ (encVLit_le _)
theorem vand (q : Option Qual) (d : VDst) (a b : VSrc) (g : Guard) : Statement (.vand q d a b g) := encV_two_le _ _ _ _ _ _ _ _ (encVLit_le _) (encVLit_le _)
theorem vor (q : Option Qual) (d : VDst) (a b : VSrc) (g : Guard) : Statement (.vor q d a b g) := encV_two_le _ _ _ _ _ _ _ _ (encVLit_le _) (encVLit_le _)
theorem vxor (q : Option Qual) (d : VDst) (a b : VSrc) (g : Guard) : Statement (.vxor q d a b g) := encV_two_le _ _ _ _ _ _ _ _ (encVLit_le _) (encVLit_le _)
theorem vnot (q : Option Qual) (d : VDst) (a : VSrc) (g : Guard) : Statement (.vnot q d a g) := encV_one_le _ _ _ _ _ _ _ (encVLit_le _)
theorem vshl (q : Option Qual) (d : VDst) (a b : VSrc) (g : Guard) : Statement (.vshl q d a b g) := encV_two_le _ _ _ _ _ _ _ _ (encVLit_le _) (encVLit_le _)
theorem vshr (q : Option Qual) (d : VDst) (a b : VSrc) (g : Guard) : Statement (.vshr q d a b g) := encV_two_le _ _ _ _ _ _ _ _ (encVLit_le _) (encVLit_le _)
theorem vsar (q : Option Qual) (d : VDst) (a b : VSrc) (g : Guard) : Statement (.vsar q d a b g) := encV_two_le _ _ _ _ _ _ _ _ (encVLit_le _) (encVLit_le _)
theorem vxrot (q : Option Qual) (d : VDst) (a b : VSrc) (g : Guard) : Statement (.vxrot q d a b g) := encV_two_le _ _ _ _ _ _ _ _ (encVLit_le _) (encVLit_le _)
theorem vxbc (q : Option Qual) (d : VDst) (a b : VSrc) (g : Guard) : Statement (.vxbc q d a b g) := encV_two_le _ _ _ _ _ _ _ _ (encVLit_le _) (encVLit_le _)
theorem vxred (q : Option Qual) (d : VDst) (a : VSrc) (op : Fin 6) (g : Guard) : Statement (.vxred q d a op g) := encV_one_le _ _ _ _ _ _ _ (encVLit_le _)
theorem vyrot (q : Option Qual) (d : VDst) (a b : VSrc) (g : Guard) : Statement (.vyrot q d a b g) := encV_two_le _ _ _ _ _ _ _ _ (encVLit_le _) (encVLit_le _)
theorem vybc (q : Option Qual) (d : VDst) (a b : VSrc) (g : Guard) : Statement (.vybc q d a b g) := encV_two_le _ _ _ _ _ _ _ _ (encVLit_le _) (encVLit_le _)
theorem vyred (q : Option Qual) (d : VDst) (a : VSrc) (op : Fin 6) (g : Guard) : Statement (.vyred q d a op g) := encV_one_le _ _ _ _ _ _ _ (encVLit_le _)
theorem vwalk (sg : Fin 4) (ly : Fin 8) (start : WalkStart) : Statement (.vwalk sg ly start) := encV_one_le _ _ _ _ _ _ _ (encStartLit_le _)
theorem vsgred (q : Option Qual) (d : VDst) (a : VSrc) (op : Fin 6) (g : Guard) : Statement (.vsgred q d a op g) := encV_one_le _ _ _ _ _ _ _ (encVLit_le _)
theorem vsgscan (q : Option Qual) (d : VDst) (a : VSrc) (op : Fin 6) (g : Guard) : Statement (.vsgscan q d a op g) := encV_one_le _ _ _ _ _ _ _ (encVLit_le _)
theorem vpack (q : Option Qual) (d : VDst) (a : VSrc) (kind : Fin 2) (g : Guard) : Statement (.vpack q d a kind g) := encV_one_le _ _ _ _ _ _ _ (encVLit_le _)
theorem vperm (q : Option Qual) (d : VDst) (a b : VSrc) (g : Guard) : Statement (.vperm q d a b g) := encV_two_le _ _ _ _ _ _ _ _ (encVLit_le _) (encVLit_le _)
theorem vtrans (q : Option Qual) (d : VDst) (a : VSrc) (g : Guard) : Statement (.vtrans q d a g) := encV_one_le _ _ _ _ _ _ _ (encVLit_le _)
theorem vshuf (q : Option Qual) (d : VDst) (a b : VSrc) (g : Guard) : Statement (.vshuf q d a b g) := encV_two_le _ _ _ _ _ _ _ _ (encVLit_le _) (encVLit_le _)
theorem vrcp (q : Option Qual) (d : VDst) (a : VSrc) (g : Guard) : Statement (.vrcp q d a g) := encV_one_le _ _ _ _ _ _ _ (encVLit_le _)
theorem vrsqrt (q : Option Qual) (d : VDst) (a : VSrc) (g : Guard) : Statement (.vrsqrt q d a g) := encV_one_le _ _ _ _ _ _ _ (encVLit_le _)
theorem vsqrt (q : Option Qual) (d : VDst) (a : VSrc) (g : Guard) : Statement (.vsqrt q d a g) := encV_one_le _ _ _ _ _ _ _ (encVLit_le _)
theorem vexp2 (q : Option Qual) (d : VDst) (a : VSrc) (g : Guard) : Statement (.vexp2 q d a g) := encV_one_le _ _ _ _ _ _ _ (encVLit_le _)
theorem vlog2 (q : Option Qual) (d : VDst) (a : VSrc) (g : Guard) : Statement (.vlog2 q d a g) := encV_one_le _ _ _ _ _ _ _ (encVLit_le _)
theorem vtanh (q : Option Qual) (d : VDst) (a : VSrc) (g : Guard) : Statement (.vtanh q d a g) := encV_one_le _ _ _ _ _ _ _ (encVLit_le _)
theorem vsigm (q : Option Qual) (d : VDst) (a : VSrc) (g : Guard) : Statement (.vsigm q d a g) := encV_one_le _ _ _ _ _ _ _ (encVLit_le _)
theorem vqrd (q : Option Qual) (oq : Fin 4) (ly : Fin 8) (off : VSrc) (g : Guard) : Statement (.vqrd q oq ly off g) := encV_one_le _ _ _ _ _ _ _ (encVLit_le _)
theorem vpand (d a b : Fin 8) : Statement (.vpand d a b) := encV_zero_le _ _ _ _ _ _
theorem vpor (d a b : Fin 8) : Statement (.vpor d a b) := encV_zero_le _ _ _ _ _ _
theorem vpxor (d a b : Fin 8) : Statement (.vpxor d a b) := encV_zero_le _ _ _ _ _ _
theorem vpnot (d a : Fin 8) : Statement (.vpnot d a) := encV_zero_le _ _ _ _ _ _
theorem vloop (stages : Fin 8) (mask : BitVec 4) (n : VSrc) : Statement (.vloop stages mask n) := encV_one_le _ _ _ _ _ _ _ (encVLit_le _)
theorem vlend : Statement (.vlend) := encV_zero_le _ _ _ _ _ _
theorem vbset (c : Fin 4) (v : VSrc) : Statement (.vbset c v) := encV_one_le _ _ _ _ _ _ _ (encVLit_le _)
theorem vbadd (c : Fin 4) (v : VSrc) : Statement (.vbadd c v) := encV_one_le _ _ _ _ _ _ _ (encVLit_le _)
theorem vsmwait (n : Fin 15) (v : VSrc) : Statement (.vsmwait n v) := encV_one_le _ _ _ _ _ _ _ (encVLit_le _)
theorem vsmadd (n : Fin 15) (v : VSrc) : Statement (.vsmadd n v) := encV_one_le _ _ _ _ _ _ _ (encVLit_le _)
theorem vqget (d : VDst) (mode : Fin 2) (g : Guard) : Statement (.vqget d mode g) := encV_zero_le _ _ _ _ _ _
theorem vqput (v : VSrc) (mode : Fin 3) : Statement (.vqput v mode) := encV_one_le _ _ _ _ _ _ _ (encVLit_le _)
theorem sld (d a : Fin 16) (idx : BitVec 13) : Statement (.sld d a idx) := one_word_le
theorem scst (a b : Fin 16) : Statement (.scst a b) := one_word_le
theorem sadd (d a b : Fin 16) : Statement (.sadd d a b) := one_word_le
theorem ssub (d a b : Fin 16) : Statement (.ssub d a b) := one_word_le
theorem smul (d a b : Fin 16) : Statement (.smul d a b) := one_word_le
theorem sfma (d a b : Fin 16) : Statement (.sfma d a b) := one_word_le
theorem smax (d a b : Fin 16) : Statement (.smax d a b) := one_word_le
theorem smin (d a b : Fin 16) : Statement (.smin d a b) := one_word_le
theorem sexp2 (d a : Fin 16) : Statement (.sexp2 d a) := one_word_le
theorem slog2 (d a : Fin 16) : Statement (.slog2 d a) := one_word_le
theorem srcp (d a : Fin 16) : Statement (.srcp d a) := one_word_le
theorem sbc (d a : Fin 16) : Statement (.sbc d a) := one_word_le
theorem sxred (d a : Fin 16) (op : Fin 3) : Statement (.sxred d a op) := one_word_le
theorem smov (d a : Fin 16) : Statement (.smov d a) := one_word_le
theorem shmov (d : Fin 16) (v : SImm) : Statement (.shmov d v) := encSImm_le _ _ _ _
theorem shadd (d a : Fin 16) (v : SImm) : Statement (.shadd d a v) := encSImm_le _ _ _ _
theorem shmul (d a b : Fin 16) : Statement (.shmul d a b) := one_word_le
theorem scmp (d a b : Fin 16) (c : Fin 11) : Statement (.scmp d a b c) := one_word_le
theorem ssel (d a b : Fin 16) : Statement (.ssel d a b) := one_word_le
theorem stbl (d a : Fin 16) (table : Fin 2) : Statement (.stbl d a table) := one_word_le
theorem stbw (a b : Fin 16) (table : Fin 2) : Statement (.stbw a b table) := one_word_le
theorem smask (d a : Fin 16) : Statement (.smask d a) := one_word_le
theorem spsort (a : Fin 16) : Statement (.spsort a) := one_word_le
theorem scsum (d : Fin 16) : Statement (.scsum d) := one_word_le
theorem sdrawDraw (d a b : Fin 16) : Statement (.sdrawDraw d a b) := one_word_le
theorem sdrawCut (d a b : Fin 16) : Statement (.sdrawCut d a b) := one_word_le
theorem sgen (d : Fin 16) (g : Fin 4) (mode : Fin 2) : Statement (.sgen d g mode) := one_word_le
theorem saccept (d a b : Fin 16) (n : BitVec 5) (g : Fin 4) : Statement (.saccept d a b n g) := one_word_le
theorem sbnz (a : Fin 16) (disp : BitVec 13) : Statement (.sbnz a disp) := one_word_le
theorem sjmp (disp : BitVec 13) : Statement (.sjmp disp) := one_word_le
theorem sendToken (a : Fin 16) : Statement (.sendToken a) := one_word_le
theorem sendCount (a : Fin 16) : Statement (.sendCount a) := one_word_le
theorem sendBlock (a : Fin 16) : Statement (.sendBlock a) := one_word_le
theorem sendNone (a : Fin 16) : Statement (.sendNone a) := one_word_le
theorem ssoft (d : Fin 16) : Statement (.ssoft d) := one_word_le
theorem attnAccept (ad : Fin 2) (id : Nat) : Statement (.attnAccept ad id) := Nat.zero_le 4
theorem attnComplete (ad : Fin 2) (id : Nat) : Statement (.attnComplete ad id) := Nat.zero_le 4
theorem exclusiveAccept (ad : Fin 2) (id : Nat) : Statement (.exclusiveAccept ad id) := Nat.zero_le 4
theorem exinvSwitch (ad : Fin 2) (seq : Nat) : Statement (.exinvSwitch ad seq) := Nat.zero_le 4
theorem exinvDrain (ad : Fin 2) (seq : Nat) : Statement (.exinvDrain ad seq) := Nat.zero_le 4
theorem gateRelease (c : CoreId) (t : Strand) : Statement (.gateRelease c t) := Nat.zero_le 4
theorem vqrdImageArrival (c : CoreId) (oq k : Fin 4) : Statement (.vqrdImageArrival c oq k) := Nat.zero_le 4
theorem leaseGrant (c : CoreId) : Statement (.leaseGrant c) := Nat.zero_le 4
theorem matrixStepComplete (c : CoreId) (b : Bool) (id : Nat) : Statement (.matrixStepComplete c b id) := Nat.zero_le 4
theorem copyStepComplete (c : CoreId) (id : Nat) : Statement (.copyStepComplete c id) := Nat.zero_le 4
theorem collectiveMessageArrival (msg : FabMsg) : Statement (.collectiveMessageArrival msg) := Nat.zero_le 4
theorem bounceResend (id : Nat) : Statement (.bounceResend id) := Nat.zero_le 4
theorem collectiveComplete (c : CoreId) (id : Nat) : Statement (.collectiveComplete c id) := Nat.zero_le 4
theorem collectiveTimeout (c : CoreId) (id : Nat) : Statement (.collectiveTimeout c id) := Nat.zero_le 4
theorem obcopySwitch (c : CoreId) (id : Nat) : Statement (.obcopySwitch c id) := Nat.zero_le 4
theorem sampleAccept (cl : Fin 16) : Statement (.sampleAccept cl) := Nat.zero_le 4
theorem samplerBlock (cl : Fin 16) : Statement (.samplerBlock cl) := Nat.zero_le 4
theorem samplerFinalPhase (cl : Fin 16) : Statement (.samplerFinalPhase cl) := Nat.zero_le 4
theorem watchdogExhausted (cl : Fin 16) : Statement (.watchdogExhausted cl) := Nat.zero_le 4
theorem sampleComplete (cl : Fin 16) : Statement (.sampleComplete cl) := Nat.zero_le 4
theorem shardContribution (msg : ShardMsg) : Statement (.shardContribution msg) := Nat.zero_le 4
theorem shardTokenArrival (cl : Fin 16) (r : ShardReply) : Statement (.shardTokenArrival cl r) := Nat.zero_le 4
theorem rootTimeout (cl : Fin 16) : Statement (.rootTimeout cl) := Nat.zero_le 4
theorem shardReplyTimeout (cl : Fin 16) : Statement (.shardReplyTimeout cl) := Nat.zero_le 4
theorem contributionHoldTimeout (cl : Fin 16) (k : Nat) : Statement (.contributionHoldTimeout cl k) := Nat.zero_le 4
theorem rowArrival (msg : FabMsg) : Statement (.rowArrival msg) := Nat.zero_le 4
theorem rowAck (id : Nat) (reply : FabReply) : Statement (.rowAck id reply) := Nat.zero_le 4
theorem fabricMessageArrival (msg : FabMsg) : Statement (.fabricMessageArrival msg) := Nat.zero_le 4
theorem fabricAtomicHome (msg : FabMsg) : Statement (.fabricAtomicHome msg) := Nat.zero_le 4
theorem fabricReply (id : Nat) (reply : FabReply) : Statement (.fabricReply id reply) := Nat.zero_le 4
theorem fabricReplyTimeout (id : Nat) : Statement (.fabricReplyTimeout id) := Nat.zero_le 4
theorem waitRetry (c : CoreId) (t : Strand) : Statement (.waitRetry c t) := Nat.zero_le 4
theorem moorWakeAttempt (c : CoreId) (t : Strand) : Statement (.moorWakeAttempt c t) := Nat.zero_le 4
theorem moorPoolRetry (c : CoreId) (t : Strand) : Statement (.moorPoolRetry c t) := Nat.zero_le 4
theorem feExpire (c : CoreId) (t : Strand) : Statement (.feExpire c t) := Nat.zero_le 4
theorem moorExpire (c : CoreId) : Statement (.moorExpire c) := Nat.zero_le 4
theorem stepWaitExpire (c : CoreId) (t : RingNo) : Statement (.stepWaitExpire c t) := Nat.zero_le 4
theorem replayHoldExpire (c : CoreId) (t : Strand) : Statement (.replayHoldExpire c t) := Nat.zero_le 4
theorem swapPoint (c : CoreId) (e : Engine) : Statement (.swapPoint c e) := Nat.zero_le 4
theorem userEventDelivery (c : CoreId) : Statement (.userEventDelivery c) := Nat.zero_le 4
theorem asyncTrapDelivery (c : CoreId) (e : Option Ecc) : Statement (.asyncTrapDelivery c e) := Nat.zero_le 4
theorem pagerPromotion (ctx h k : Nat) : Statement (.pagerPromotion ctx h k) := Nat.zero_le 4
theorem tqtailWrite (q : Fin 64) (v : W64) : Statement (.tqtailWrite q v) := Nat.zero_le 4
theorem tqctlWrite (q : Fin 64) (v : W64) : Statement (.tqctlWrite q v) := Nat.zero_le 4
theorem registerWrite (off : Nat) (v : W64) (fw : Bool) : Statement (.registerWrite off v fw) := Nat.zero_le 4
theorem hostBar4Write (off : Nat) (data : List (BitVec 8)) : Statement (.hostBar4Write off data) := Nat.zero_le 4
theorem hostBar4Read (off n : Nat) : Statement (.hostBar4Read off n) := Nat.zero_le 4
theorem hostFeByteWrite (off : Nat) (v : BitVec 8) : Statement (.hostFeByteWrite off v) := Nat.zero_le 4
theorem taskAdmission (far : Option FarTask) : Statement (.taskAdmission far) := Nat.zero_le 4
theorem taskDispatch : Statement (.taskDispatch) := Nat.zero_le 4
theorem tokenAging (id : Nat) : Statement (.tokenAging id) := Nat.zero_le 4
theorem preemptionDecision (far : Option (Nat × Fin 3)) : Statement (.preemptionDecision far) := Nat.zero_le 4
theorem drainTimeout (id : Nat) : Statement (.drainTimeout id) := Nat.zero_le 4
theorem checkpointSave (id : Nat) : Statement (.checkpointSave id) := Nat.zero_le 4
theorem taskKill (id : Nat) : Statement (.taskKill id) := Nat.zero_le 4
theorem restore : Statement (.restore) := Nat.zero_le 4
theorem coreShareEnd (c : CoreId) : Statement (.coreShareEnd c) := Nat.zero_le 4
theorem taskRetire (id : Nat) (far : List (BitVec 16)) : Statement (.taskRetire id far) := Nat.zero_le 4
theorem taskComplete (id : Nat) : Statement (.taskComplete id) := Nat.zero_le 4
theorem ckrqctlGo (v : W64) : Statement (.ckrqctlGo v) := Nat.zero_le 4
theorem bootctlGo (v : W64) : Statement (.bootctlGo v) := Nat.zero_le 4
theorem firmwareVerifyDone : Statement (.firmwareVerifyDone) := Nat.zero_le 4
theorem attctlGo (v : W64) : Statement (.attctlGo v) := Nat.zero_le 4
theorem attestationResponse : Statement (.attestationResponse) := Nat.zero_le 4
theorem measurementExtend (i : Fin 8) (d : BitVec 256) (label : BitVec 128) : Statement (.measurementExtend i d label) := Nat.zero_le 4
theorem powerCapWrite (w : BitVec 16) : Statement (.powerCapWrite w) := Nat.zero_le 4
theorem routeWrite (dst : BitVec 12) (port : Fin 16) : Statement (.routeWrite dst port) := Nat.zero_le 4
theorem firmwareDma (write : Bool) (addr n : Nat) (data : List (BitVec 8)) : Statement (.firmwareDma write addr n data) := Nat.zero_le 4
theorem firmwareHbmAccess (write : Bool) (acc : HbmAccess) (n : Nat) (data : List (BitVec 8)) : Statement (.firmwareHbmAccess write acc n data) := Nat.zero_le 4
theorem contextCreate (ctx : Fin 64) (cfg : ContextCfg) : Statement (.contextCreate ctx cfg) := Nat.zero_le 4
theorem contextDestroy (ctx : Fin 64) : Statement (.contextDestroy ctx) := Nat.zero_le 4
theorem coldReset (faulty : BitVec 16) : Statement (.coldReset faulty) := Nat.zero_le 4
theorem throttleDown : Statement (.throttleDown) := Nat.zero_le 4
theorem throttleUp : Statement (.throttleUp) := Nat.zero_le 4
theorem thermalTrip : Statement (.thermalTrip) := Nat.zero_le 4
theorem bellPin : Statement (.bellPin) := Nat.zero_le 4
theorem bellMessage (src : BitVec 12) : Statement (.bellMessage src) := Nat.zero_le 4
theorem snapshotLatch : Statement (.snapshotLatch) := Nat.zero_le 4
theorem fabricBringUp (pkg : BitVec 12) (group : Nat) (ports : BitVec 16) : Statement (.fabricBringUp pkg group ports) := Nat.zero_le 4

end FitsFetch

end Sys2Proof.Laws
end

