-- ==== Sys2Proof/Tests/Slice0.lean ====
section
/-! SUPPORT. Small tests of the model, with their expected results taken from the spec's rules and worked examples, and for each statement
of Certificates/Slice0/Obligations.lean witnesses: concrete states and operands that meet the hypotheses of its clauses. -/

open Sys2Proof Sys2Proof.Machine

namespace Sys2Proof.Tests

-- The theorems are checked one after another, in little memory.
set_option Elab.async false

/-! States of the tests: the machine after reset, with little changed. -/

/-- Core 0's control strand changed. -/
def ctl0 (f : Ctl → Ctl) : State := State.reset.onCtl 0 f

/-- Core 0's control strand at a word of SPM. -/
def atPc (n : BitVec 18) : State := ctl0 fun k => { k with pc := n }

/-- Core 0 changed. -/
def core0 (f : Core → Core) : State := State.reset.onCore 0 f

/-- A register of core 0 with a value and a tag. -/
def withX (s : State) (r : Fin 31) (v : W64) (tag : BitVec 4) : State := s.onCtl 0 fun k => k.setX r { val := v, tag := tag }

/-- An access gave a value. -/
def isVal : Got → Bool
  | .val _ _ => true
  | _ => false

theorem exists_val (g : Got) (h : isVal g = true) : ∃ m v, g = .val m v := by
  cases g with
  | val m v => exact ⟨m, v, rfl⟩
  | fault _ _ => cases h
  | miss a b c => cases h
  | wait m => cases h

/-- A result is this value. -/
def okIs {α β : Type} [DecidableEq β] (e : Except α β) (v : β) : Bool :=
  match e with
  | .ok x => decide (x = v)
  | .error _ => false

theorem ok_of {α β : Type} [DecidableEq β] {e : Except α β} {v : β} (h : okIs e v = true) : e = .ok v := by
  cases e with
  | ok x => exact congrArg Except.ok (of_decide_eq_true h)
  | error t => cases h

/-- Some value results. -/
def isOk {α β : Type} (e : Except α β) : Bool :=
  match e with
  | .ok _ => true
  | .error _ => false

theorem exists_ok {α β : Type} {e : Except α β} (h : isOk e = true) : ∃ v, e = .ok v := by
  cases e with
  | ok x => exact ⟨x, rfl⟩
  | error t => cases h

/-- A translation faults with this trap. -/
def faults (e : Except NoPlace Place) (t : Trap) : Bool :=
  match e with
  | .error (.fault u) => u == t
  | _ => false

/-- An access fails with this trap. -/
def failsWith (g : Got) (t : Trap) : Bool :=
  match g with
  | .fault _ u => decide (u = t)
  | _ => false

theorem fault_of {g : Got} {t : Trap} (h : failsWith g t = true) : ∃ m, g = .fault m t := by
  cases g with
  | fault m u => exact ⟨m, congrArg (Got.fault m) (of_decide_eq_true h)⟩
  | val a b => cases h
  | miss a b c => cases h
  | wait a => cases h

/-- A record of 65,536 bytes in one resident sub-tile: elements of a type, all permissions, at a home. -/
def record (type esize home rmap : Nat) : List Byte :=
  leBytes (2 ^ 63 + 63 * 2 ^ 54 + 2 ^ 51 + type * 2 ^ 46) 8 ++ leBytes rmap 8 ++ leBytes (65536 / esize) 16 ++ leBytes esize 32 ++
    leBytes (Nat.log2 (65536 / esize)) 4 ++ leBytes 1 4 ++ leBytes home 56

/-- Context 0 with an object table, and handle h an object at 0x1000000 h, both as the manifest cache holds them. -/
def withObject (m : Mach) (h type esize home : Nat) : Mach :=
  { m with
    mcache := m.mcache ++ [.record none 0 h (record type esize home (0x200000 + 64 * h)), .entry none 0 h 0 (BitVec.ofNat 64 (2 ^ 63 + 0x1000000 * h)) 0]
    ctxs := m.ctxs.set 0 (some { otbase := 0x100000, otlen := 64, dsmBase := 0, dsmSize := 0x10000, clmBase := 0, clmSize := 0x10000, mlbase := 0, pool := 640,
                                 stvec := 0, trefl := 0, ckpool := 0 }) }

/-- Handle 1 an FP32 object of this package, handle 2 an N8 object, handle 3 an FP32 object of package 1, in a group of 2. -/
def objects : State := State.reset.onMach fun m => { (withObject (withObject (withObject m 1 0 4 0) 2 11 1 0) 3 0 4 1) with group := 2 }

def h1 : W64 := 0x10000000000
def h2 : W64 := 0x20000000000
def h3 : W64 := 0x30000000000

/-- A task record of one core and 64 bytes of image, with a PRIO, DRAIN's REMAIN and PHINT. -/
def taskBytes (prio phint remain : Nat) : List Byte :=
  leBytes h1.toNat 8 ++ leBytes 64 4 ++ leBytes 0 36 ++ leBytes 1 2 ++ leBytes 0 2 ++ leBytes 1 2 ++ leBytes prio 1 ++ leBytes 0 1 ++ leBytes phint 1 ++ leBytes 0 7 ++
    leBytes remain 4 ++ leBytes 0 188

/-- A task of one core. -/
def aTask (id : Nat) (st : TaskState) (cores : List CoreId) : Task :=
  { id := id, queue := 0, ctx := 0, recd := parseTask (taskBytes 5 0 0), state := st, tokens := 0, agedAt := 0, order := id, parent := none, children := 0,
    cores := cores, disp := 0, drainAt := 0, user := 0, kind := 0, cls := 0, ckpt := none, far := none }

/-- Task 1 runs on core 0. -/
def tasked : State :=
  (State.reset.onCore 0 fun k => { k with task := some 1 }).onMach fun m => { m with ferry := { m.ferry with tasks := [aTask 1 .running [0]] } }

/-- A trap that two traps of one class share. -/
def someTrap : Trap := { cls := .perm, addr := 0x100000 }

/-- No semaphore fields. -/
def noSems : Sems := { aw := 15, rs := 15 }

/-- A step in flight that may complete, with a pop of ring 7. -/
def flightOf (op : Instr) (pops : List (Fin 8)) : Flight :=
  { id := 3, op := op, rp := 0, words := 4, startAt := 0, raise := 14, moves := [], pops := pops, msgs := [], got := [], push := none, wpTo := none, uses := [], pb := none, far := 0,
    failed := none, order := false }

/-- Bytes at an address of core 0's SPM. -/
def placed (s : State) (a : Nat) (l : List Byte) : State := s.onMach fun m => { m with mem := memSetBytes m.mem (spmKey 0 a) l }

def anyGuard : Guard := { p := 0, pn := false }

/-! Witnesses: the control strand's register instructions. -/

theorem wit_register_functions : (atPc 0x3FFFC).fits (1 + litWords [.lit64 7, .x 30]) ∧ (atPc 0x3FFFC).cleanSrcs [.lit64 7, .x 30] ∧
    (atPc 0x3FFFE).fits (1 + litWords [.x 0]) ∧ (atPc 0x3FFFE).cleanSrcs [.x 0] := by
  unfold State.fits State.cleanSrcs; decide

theorem wit_division_and_pointers : (withX State.reset 1 0 0).fits (1 + litWords [.lit64 0x8000000000000000, .x 1]) ∧
    (withX State.reset 1 0 0).cleanSrcs [.lit64 0x8000000000000000, .x 1] ∧ (atPc 0x3FFFE).fits (1 + litWords [.x 0]) := by
  unfold State.fits State.cleanSrcs; decide

theorem wit_poison_and_selection : let s := withX State.reset 1 0x40 3
    s.fits (1 + litWords [.x 0, .x 1]) ∧ (s.ctl.src (.x 0)).tag = 0 ∧ (s.ctl.src (.x 1)).tag ≠ 0 ∧ s.fits (1 + litWords [.x 1]) ∧ s.fits 1 ∧
    s.cleanSrcs [.x 0, .lit32 5] ∧ s.cleanSrcs [.lit32 5] := by
  unfold State.fits State.cleanSrcs; decide

/-- The targets 0 and 0xFFFFC are inside; -4 and 0x100000 are outside. -/
theorem wit_branches : let s := withX (withX (ctl0 fun k => { k with pc := 1, k := k.k.set 1 true }) 1 0xFFFFC 0) 30 0 0
    0 ≤ (4 * s.ctl.pc.toNat : Int) + 4 * (-1 : BitVec 26).toInt ∧ (4 * s.ctl.pc.toNat : Int) + 4 * (0x3FFFE : BitVec 26).toInt = 0xFFFFC ∧
    (4 * s.ctl.pc.toNat : Int) + 4 * (-2 : BitVec 22).toInt = -4 ∧ (4 * s.ctl.pc.toNat : Int) + 4 * (0x3FFFF : BitVec 26).toInt = 0x100000 ∧
    s.ctl.k[(1 : Fin 8)] = true ∧ s.ctl.k[(0 : Fin 8)] = false ∧ s.fits 1 ∧ s.cleanSrcs [.x 1, .x 2] ∧ (s.val (.x 1)).toNat ≤ 0xFFFFF ∧ (s.val (.x 1)).toNat % 4 = 0 ∧
    s.ctl.x[30].tag = 0 ∧ s.ctl.x[30].val.toNat ≤ 0xFFFFF ∧ (1 : BitVec 15).toNat ≤ (s.val (.x 1)).toNat := by
  unfold State.fits State.cleanSrcs State.val; decide

theorem wit_jump_table : let s := withX State.reset 1 2 0
    s.cleanSrcs [.x 1, .x 2] ∧ (s.val (.x 1)).toNat < (3 : BitVec 15).toNat ∧
    ∃ e, ptrAdd (s.val (.x 2)) (4 * (s.val (.x 1)).toNat) = .ok e ∧ e.toNat % 4 = 0 ∧ ∃ m1 w, s.mach.ctlLoad 0 e 4 0 = .val m1 w :=
  ⟨by unfold State.cleanSrcs; decide, by decide, 8, ok_of (by decide), by decide, exists_val _ (by decide)⟩

theorem wit_targets_outside : let s := withX (withX State.reset 1 0x100000 0) 2 6 5
    s.cleanSrcs [.x 1] ∧ 0xFFFFF < (s.val (.x 1)).toNat ∧ (s.ctl.src (.x 2)).tag ≠ 0 ∧ s.cleanSrcs [.lit32 2] ∧ (s.val (.lit32 2)).toNat % 4 ≠ 0 ∧
    2 ^ 40 ≤ (s.val (.lit64 0xFFFFFFFFFF)).toNat % 2 ^ 40 + 4 * (s.val (.lit32 2)).toNat ∧ (atPc 0x3FFFF).ctl.pc.toNat = 2 ^ 18 - 1 := by
  unfold State.cleanSrcs State.val; decide

/-- The entry of the jump table is misaligned, or lies where no object is. -/
theorem wit_jump_table_faults : let s := withX State.reset 1 1 0
    ptrAdd (2 : W64) (4 * (s.val (.x 1)).toNat) = .ok 6 ∧ (6 : W64).toNat % 4 ≠ 0 ∧
    ∃ t, (∃ m1, s.mach.ctlLoad 0 0x10000000000 4 0 = .fault m1 t) ∧ ptrAdd (0xFFFFFFFFFC : W64) 0 = .ok 0xFFFFFFFFFC := by
  exact ⟨ok_of (by decide), by decide, { cls := .perm, addr := 0x10000000000 }, fault_of (by decide), ok_of (by decide)⟩

/-! Witnesses: queues, shape registers, system registers, traps. -/

theorem wit_queues : let s := core0 fun k => { k with q := (k.q.set 1 [5]).set 2 (List.replicate 8 0) }
    s.mach.cores[(0 : Fin 128)].q[(1 : Fin 8)] = 5 :: [] ∧ s.mach.cores[(0 : Fin 128)].q[(3 : Fin 8)] = [] ∧ s.mach.cores[(0 : Fin 128)].q[(0 : Fin 8)].length < 8 ∧
    8 ≤ s.mach.cores[(0 : Fin 128)].q[(2 : Fin 8)].length ∧ s.fits 1 ∧ s.fits (1 + litWords [.x 0]) ∧ s.cleanSrcs [.x 0] ∧ s.ctl.wait = none := by
  unfold State.fits State.cleanSrcs; decide

/-- A wait within its budget, and one at its end. -/
theorem wit_blocked_queue : let w (b : Nat) : Wait := (State.reset.mach.newWait 0 .control 0 1 .trap false) |> fun w => { w with budget := b }
    let s (b : Nat) : State := ctl0 fun k => { k with wait := some (w b) }
    (s 1).ctl.wait = some (w 1) ∧ (s 1).mach.scyc < (w 1).start + (w 1).budget ∧
    (s 0).ctl.wait = some (w 0) ∧ (w 0).start + (w 0).budget ≤ (s 0).mach.scyc ∧ (w 0).expiry = .trap := by
  decide

/-- A shape image of rank 4 and a layout image with a row table, at their lowest and highest codes. -/
theorem wit_shape_images : let s := State.reset.onMach fun m => { m with mem := memSetBytes m.mem (spmKey 0 64) (leBytes (2 ^ 128 * 4 + 7) 32) }
    s.mach.cores[(0 : Fin 128)].sets[engineNo .copy].swap = false ∧ s.cleanSrcs [.lit32 64] ∧ s.fits (1 + litWords [.lit32 64]) ∧
    (parseShape (2 ^ 128 * 4 + 7)).isSome = true ∧ parseShape (2 ^ 128 * 5) = none ∧ parseShape 0 = none ∧
    (parseLayout (2 ^ 160 * 2 ^ 160 * (13 + 2 ^ 8 * 3 + 2 ^ 64))).isSome = true ∧ parseLayout (2 ^ 160 * 2 ^ 160 * 14) = none ∧ parseLayout (2 ^ 168 * 2 ^ 160 * 2) = none ∧
    (parseLayout 0).isSome = true ∧
    (∃ m1 img, s.mach.ctlImage 0 (s.val (.lit32 64)) 32 = .val m1 img) ∧ ∃ m1 img, s.mach.ctlImage 0 (s.val (.lit32 64)) 64 = .val m1 img :=
  ⟨by decide, by unfold State.cleanSrcs; decide, by unfold State.fits; decide, by decide, by decide, by decide, by decide, by decide, by decide, by decide,
   exists_val _ (by decide), exists_val _ (by decide)⟩

/-- The image at 64 is loaded with the program counter as it was. -/
theorem wit_shape_image_loaded : let m := (State.reset.onMach fun m => { m with mem := memSetBytes m.mem (spmKey 0 64) (leBytes (2 ^ 128 * 4 + 7) 32) }).mach
    (match m.ctlImage 0 64 32 with
     | .val m1 img => decide (m1.cores[(0 : Fin 128)].ctl.pc = 0) && (parseShape img).isSome
     | _ => false) = true ∧
    (match m.ctlImage 0 128 64 with
     | .val m1 img => decide (m1.cores[(0 : Fin 128)].ctl.pc = 0) && (parseLayout img).isSome
     | _ => false) = true ∧
    (match m.ctlImage 0 128 32 with
     | .val _ img => (parseShape img).isNone
     | _ => false) = true ∧
    (match m.ctlImage 0 64 64 with
     | .val _ img => (parseLayout (img + 2 ^ 200 * 2 ^ 120 * 14)).isNone
     | _ => false) = true := by
  decide

/-- A register write passes its checks: flags at U, a ring and the vector strand's status at S. -/
def writesOk (s : State) (r : SysReg) (v : W64) : Bool :=
  match s.mach.sysWrite s.cur.core r v with
  | .ok m1 => (!r.supOnly || s.ctl.sup) && !r.readOnly && decide (m1.cores[s.cur.core].ctl.pc.toNat + 3 < 2 ^ 18)
  | .error _ => false

theorem wit_system_registers : let s := ctl0 fun k => { k with sup := true, vstatStopped := true }
    let t := (s.onCtl 0 fun k => k).onCore 0 fun k => { k with rings := k.rings.set 1 { (CmdRing.absent) with run := true, lsize := 6 } }
    sysReg? 0 = some .cflags ∧ SysReg.cflags.supOnly = false ∧ State.reset.fits 1 ∧
    writesOk State.reset .cflags 0xF = true ∧ writesOk State.reset (.crcfg 0) 0x8000000600000000 = true ∧ writesOk State.reset (.crcfg 2) 0x1000000000 = true ∧ writesOk s .mlcfg 640 = true ∧ writesOk s .mcinv 0 = true ∧
    writesOk s .vstat 0x4000000000000000 = true ∧ writesOk s .trefl 0xFFFF00000000 = true ∧ writesOk t (.crwp 1) 64 = true ∧ writesOk State.reset (.crrp 2) 0 = true := by
  unfold State.fits; decide

theorem wit_system_registers_checked : sysReg? 0x7FFF = none ∧ sysReg? 0x1FF = none ∧ sysReg? 0x100 = some .ctxid ∧ SysReg.ctxid.supOnly = true ∧ SysReg.ctxid.readOnly = true ∧
    State.reset.ctl.sup = false := by
  decide

theorem wit_traps : let s := ctl0 fun k => { k with stvecEn := true }
    let r := ctl0 fun k => { k with treflMask := 0xFFFF }
    s.ctl.sup = false ∧ s.ctl.stvecEn = true ∧ ¬ (s.ctl.uiActive = false ∧ s.ctl.treflMask.getLsbD someTrap.cls.code.toNat = true) ∧
    r.ctl.sup = false ∧ r.ctl.uiActive = false ∧ r.ctl.treflMask.getLsbD someTrap.cls.code.toNat = true ∧
    tasked.ctl.stvecEn = false ∧ tasked.ctl.treflMask.getLsbD someTrap.cls.code.toNat = false ∧ tasked.mach.cores[(0 : Fin 128)].task = some 1 ∧
    aTask 1 .running [0] ∈ tasked.mach.ferry.tasks ∧ (aTask 1 .running [0]).id = 1 ∧ (0 : CoreId) ∈ taskCores tasked.mach 0 := by
  decide

/-- Sixteen traps pend at U, one of them a miss of the vector strand, which it stopped. -/
theorem wit_traps_held : let miss : AsyncTrap := { src := 1, trap := { cls := .objMiss, addr := 0 }, miss := some (1, 0) }
    let other : AsyncTrap := { src := 1, trap := someTrap, miss := none }
    let k := (ctl0 fun k => { k with stvecEn := true, vstatStopped := true, vstatClass := TrapClass.objMiss.code, pending := miss :: List.replicate 15 other }).ctl
    (k.held ++ k.pending.filter fun a => a.trap.cls != .objMiss).length ≤ 16 ∧ (k.vstatStopped && k.vstatClass == TrapClass.objMiss.code && k.pending.any fun a => a.src == 1 && a.trap.cls == .objMiss) = true ∧
    k.sup = false ∧ k.stvecEn = true ∧ (k.held ++ (List.replicate 16 other).filter fun a => a.trap.cls != .objMiss).length = 16 := by
  decide

theorem wit_returns : let s := ctl0 fun k => { k with sup := true }
    let u := ctl0 fun k => { k with uiActive := true }
    s.ctl.sup = true ∧ s.cleanSrcs [.lit32 0] ∧ s.val (.lit32 0) = 0 ∧ s.val (.lit32 1) = 1 ∧ s.val (.lit32 2) = 2 ∧ 3 ≤ (s.val (.lit32 3)).toNat ∧ u.ctl.uiActive = true ∧
    u.ctl.sup = false ∧ State.reset.ctl.uiActive = false ∧ s.cleanSrcs [.lit32 3] := by
  unfold State.cleanSrcs State.val; decide

/-- An image of a replay of handle 1, its log in handle 2, at SPM 64. -/
def replayImage : Nat := 0x20000000000 + 64 * 2 ^ 64 + 1 * 2 ^ 96 + 1 * 2 ^ 128 + 1 * 2 ^ 160

def replaying (mode : Nat) : State :=
  (objects.onMach fun m => { m with mem := memSetBytes m.mem (spmKey 0 64) (leBytes replayImage 64), replays := m.replays.set 0 { Replay.off with mode := mode } })
    |>.onCtl 0 fun k => { k with sup := true }

theorem wit_snapshot_and_replay :
    let s := State.reset.onMach fun m => { m with bell := { m.bell with arm := true, srcSnap := true } }
    s.cleanSrcs [.lit32 7] ∧ s.fits (1 + litWords [.lit32 7]) ∧ (s.val (.lit32 7)).toNat < 2 ^ 32 ∧ s.mach.bell.arm = true ∧ s.mach.bell.srcSnap = true ∧
    ¬ (State.reset.mach.bell.arm = true ∧ State.reset.mach.bell.srcSnap = true) ∧ s.ctl.ctxid < 64 ∧
    (s.val (.lit32 16)).toNat = 16 * 1 ∧ (s.val (.lit32 18)).toNat = 2 + 16 * 1 ∧ (s.val (.lit32 1)).toNat = 1 + 16 * 0 ∧ (s.val (.lit32 4)).toNat = 4 ∧
    s.cleanSrcs [.x 1, .lit32 4] ∧ (replaying 1).mach.replays[0].mode = 1 ∧ (replaying 2).mach.replays[0].mode = 2 := by
  unfold State.cleanSrcs State.val State.fits; decide

set_option maxRecDepth 20000 in
theorem wit_replay_check :
    okIs (checked (replaying 1).mach ((replaying 1).mach.asker 0) 0x800 8 .write) (.store (spmKey 0 0x800) .normal none) = true ∧
    (match (replaying 2).mach.ctlLoad 0 0x800 8 0 with
     | .val m1 v => decide (BitVec.ofNat 64 v = (replaying 2).mach.cores[(0 : Fin 128)].rhCtl ∧ m1.cores[(0 : Fin 128)].ctl.pc = (replaying 2).ctl.pc)
     | _ => false) = true ∧
    (match (replaying 0).mach.ctlImage 0 64 64 with
     | .val m1 img => match m1.replayConfig 0 img with
       | .ok r1 => decide ((m1.startMode 0 r1).cores[(0 : Fin 128)].ctl.pc = (replaying 0).ctl.pc)
       | .error _ => false
     | _ => false) = true ∧ (64 : W64).toNat % 64 = 0 ∧ (64 : W64).toNat + 64 ≤ 2 ^ 20 := by
  decide +kernel

/-! Witnesses: memory. -/

theorem wit_loads : let s := ctl0 fun k => { k with specEn := true }
    s.cleanSrcs [.lit32 0x40] ∧ s.fits (1 + litWords [.lit32 0x40]) ∧
    memAddr (s.val (.lit32 0x40)) 1 8 = .ok 0x48 ∧ s.sees 0x48 8 .read = .ok (.store (spmKey 0 0x48) .normal none) ∧
    s.sees 0xFFFFF 1 .read = .ok (.store (spmKey 0 0xFFFFF) .normal none) ∧
    memAddr (s.val (.lit32 0x100000)) 0 4 = .ok 0x100000 ∧ failsWith (s.mach.ctlLoad 0 0x100000 4 0) { cls := .perm, addr := 0x100000 } = true ∧
    failsWith (s.mach.ctlLoad 0 0x42 4 0) { cls := .align, addr := 0x42 } = true ∧ TrapClass.perm ∈ [TrapClass.perm, .shape, .align, .poison] ∧ s.ctl.specEn = true ∧
    State.reset.ctl.specEn = false :=
  ⟨by unfold State.cleanSrcs; decide, by unfold State.fits; decide, ok_of (by decide), ok_of (by decide), ok_of (by decide), ok_of (by decide), by decide, by decide, by decide,
   by decide, by decide⟩

theorem wit_stores : let s := State.reset
    s.cleanSrcs [.x 1, .lit64 0xFFFF8] ∧ s.fits (1 + litWords [.x 1, .lit64 0xFFFF8]) ∧ memAddr (s.val (.lit64 0xFFFF8)) 0 8 = .ok 0xFFFF8 ∧
    s.sees 0xFFFF8 8 .write = .ok (.store (spmKey 0 0xFFFF8) .normal none) ∧ memAddr (s.val (.lit64 0xFFFF8)) 7 1 = .ok 0xFFFFF ∧
    s.sees 0xFFFFF 1 .write = .ok (.store (spmKey 0 0xFFFFF) .normal none) ∧ memWf s.mach.mem = true ∧
    isVal (s.mach.ctlStore 0 0x40 8 5 0 .none) = true ∧ faults (s.sees 0x100000 8 .write) { cls := .perm, addr := 0x100000 } = true :=
  ⟨by unfold State.cleanSrcs; decide, by unfold State.fits; decide, ok_of (by decide), ok_of (by decide), ok_of (by decide), ok_of (by decide), by decide, by decide, by decide⟩

/-- A load performed early; a load whose offset leaves the 40 bits of an address, and ones that fault; a load of the capability list, and a poisoned
location that the strand's own store clears. -/
theorem wit_loads_early : let e : Early := { core := 0, pc := 0, base := 1, ea := 0x48, size := 8, cls := 0, value := 7 }
    let s := State.reset.onMach fun m => { m with early := [e] }
    s.mach.early = [e] ∧ e.core = 0 ∧ e.pc = s.ctl.pc ∧ e.ea = 0x48 ∧ e.size = 8 ∧ (∀ x ∈ State.reset.mach.early, x.core ≠ 0) ∧
    (((0xFFFFFFFFF8 : W64).toNat % 2 ^ 40 : Nat) : Int) + (1 : BitVec 7).toInt * 8 = 2 ^ 40 ∧ (((0 : W64).toNat % 2 ^ 40 : Nat) : Int) + (-1 : BitVec 7).toInt * 1 < 0 ∧
    faults (s.sees 0x100000 4 .read) { cls := .perm, addr := 0x100000 } = true ∧ faults (s.sees 0x42 4 .read) { cls := .align, addr := 0x42 } = true ∧
    isVal (s.mach.ctlLoad 0 0x3F000000 8 0) = true ∧
    (let p : PendStore := { core := 0, strand := .control, addr := spmKey 0 0x48, data := wholeBytes (List.replicate 8 0), clears := true, cls := 0, rel := false, near := false, mtype := .normal, use := none, shown := false }
     let t := State.reset.onMach fun m => { m with mem := memSetPoison m.mem (spmKey 0 0x48) true, pend := [.store p] }
     isOk (t.sees 0x48 8 .read) = true ∧ isOk (checked t.mach (t.mach.asker 0) 0x48 8 .read) = false) := by
  decide

/-- Handle 1's first location is full, and its second empty. -/
def bits12 : State := objects.onMach fun m => { m with mem := memSetFull m.mem 0x1000008 false }

set_option maxRecDepth 20000 in
theorem wit_full_empty : let s := bits12
    s.cleanSrcs [.x 1, .lit64 h1] ∧ memAddr (s.val (.lit64 h1)) 0 8 = .ok h1 ∧ memAddr (s.val (.lit64 h1)) 1 8 = .ok 0x10000000008 ∧ memWf s.mach.mem = true ∧
    s.fits (1 + litWords [.x 1, .lit64 h1]) ∧
    (∃ use, s.sees h1 8 .read = .ok (.store 0x1000000 .normal use)) ∧
    (∃ use, s.sees h1 8 .consume = .ok (.store 0x1000000 .normal use)) ∧
    (∃ use, s.sees 0x10000000008 8 .fill = .ok (.store 0x1000008 .normal use)) ∧
    memFull (s.mach.beforeFe 0 .control 0x1000000 .normal 0 false).mem (locOf 0x1000000) = true ∧
    memFull (s.mach.beforeFe 0 .control 0x1000008 .normal 0 true).mem (locOf 0x1000008) = false ∧ (∀ i, i < 8 → s.mach.inList (0x1000008 + i) = false) :=
  ⟨by unfold State.cleanSrcs; decide, ok_of (by decide +kernel), ok_of (by decide +kernel), by decide +kernel, by unfold State.fits; decide,
   ⟨some { ctx := 0, h := 1, k := 0, ver := 1 }, ok_of (by decide +kernel)⟩, ⟨some { ctx := 0, h := 1, k := 0, ver := 1 }, ok_of (by decide +kernel)⟩,
   ⟨some { ctx := 0, h := 1, k := 0, ver := 1 }, ok_of (by decide +kernel)⟩, by decide +kernel, by decide +kernel, by decide +kernel⟩

theorem wit_atomics : let s := objects
    s.cleanSrcs [.lit64 h1, .x 2, .x 3] ∧ s.fits (1 + litWords [.lit64 h1, .x 2, .x 3]) ∧ memAddr (s.val (.lit64 h1)) 0 8 = .ok (s.val (.lit64 h1)) ∧
    memAddr (s.val (.lit64 h1)) 0 4 = .ok (s.val (.lit64 h1)) ∧
    (∃ use, s.sees h1 8 .atomic = .ok (.store 0x1000000 .normal use)) ∧
    (∃ use, s.sees h1 4 .atomic = .ok (.store 0x1000000 .normal use)) ∧ s.mach.watched s.ctl.ctxid (locOf 0x1000000) = false ∧
    memWf s.mach.mem = true :=
  ⟨by unfold State.cleanSrcs; decide, by unfold State.fits; decide, ok_of (by decide +kernel), ok_of (by decide +kernel),
   ⟨some { ctx := 0, h := 1, k := 0, ver := 1 }, ok_of (by decide +kernel)⟩, ⟨some { ctx := 0, h := 1, k := 0, ver := 1 }, ok_of (by decide +kernel)⟩,
   by decide +kernel, by decide +kernel⟩

theorem wit_fences_and_requests : let s := State.reset
    s.fits 1 ∧ s.cleanSrcs [.lit32 9, .x 1] ∧ s.fits (1 + litWords [.lit32 9, .x 1]) ∧ (s.val (.lit32 9)).toNat < 2 ^ 32 ∧ s.ctl.armed.length < 16 ∧
    ((withX s 1 8 0).val (.x 1)).toNat ∈ [1, 5, 6, 8] ∧
    ((withX s 1 0x7FFFFFFF00000002 0).val (.x 1)).toNat = (0x7FFFFFFF : W32).toNat * 2 ^ 32 + (2 + (0 : Fin 3).val) ∧
    ((0x7FFFFFFF : W32) - s.mach.cores[(0 : Fin 128)].rings[(0 : Fin 3)].wp).toNat < 2 ^ 31 := by
  unfold State.fits State.cleanSrcs State.val; decide

/-- Two stores of core 0's control strand to two locations, in classes 1 and 2, with a fence of both classes between them, of one of them, or none; a release
at core scope; a load kept back. -/
def aStore (addr : Nat) (cls : BitVec 4) (near : Bool) : PendStore :=
  { core := 0, strand := .control, addr := addr, data := wholeBytes [1, 2, 3, 4], clears := false, cls := cls, rel := false, near := near, mtype := .normal, use := none, shown := false }

theorem wit_order : let p := aStore (spmKey 0 0x40) 1 false
    let r := aStore (spmKey 0 0x48) 2 false
    let s (l : List Pend) (k : Nat) : State := { (State.reset.onMach fun m => { m with pend := l }) with turn := .perform k }
    (6 : BitVec 16).getLsbD p.cls.toNat = true ∧ (6 : BitVec 16).getLsbD r.cls.toNat = true ∧ (2 : BitVec 16).getLsbD r.cls.toNat = false ∧ p.core = r.core ∧ p.strand = r.strand ∧
    performable [.store p, .fence 0 .control 6, .store r] 2 = false ∧ performable [.store p, .store r] 1 = true ∧ performable [.store p, .store { r with cls := 1 }] 1 = false ∧
    performable [.load 0 5 3 [], .store { r with strand := .vector }] 1 = false ∧ performable [.load 0 5 3 [], .store r] 1 = true ∧ (s [] 0).fw.down = false ∧
    performable (s [.store p] 1).mach.pend 1 = false ∧ performable (s [.store p, .store (aStore (spmKey 0 0x48) 2 true)] 1).mach.pend 1 = true ∧
    p.data = wholeBytes [1, 2, 3, 4] ∧ p.addr % 8 + 4 ≤ 8 ∧ r.addr / 8 ≠ p.addr / 8 ∧ r.addr % 8 + r.data.length ≤ 8 ∧ memWf (s [.store p] 0).mach.mem = true ∧
    (∀ q, Pend.store q ∈ [Pend.store { p with shown := true }] → q.near = false) := by
  simp only [List.mem_singleton, Pend.store.injEq, forall_eq]
  decide

/-- The turn of an early load. -/
theorem wit_early_turn : ({ State.reset with turn := .early 0 } : State).turn = .early 0 ∧ State.reset.fw.down = false := by decide

/-! Witnesses: synchronisation. -/

def synced : State := core0 fun k => { k with sm := k.sm.set 14 5, mx := k.mx.set 7 true }

theorem wit_semaphores_and_mutexes : let s := synced
    s.cleanSrcs [.lit32 5] ∧ s.fits (1 + litWords [.lit32 5]) ∧ (s.val (.lit32 5)).toNat < 2 ^ 32 ∧ (s.mach.cores[(0 : Fin 128)]).smw[(14 : Fin 15)] = [] ∧
    (s.val (.lit32 5)).toNat ≤ (s.mach.cores[(0 : Fin 128)]).sm[(14 : Fin 15)].toNat ∧ ((s.val (.lit32 0x80000000)).setWidth 32).signExtend 64 = s.val (.lit32 0x80000000) ∧
    s.fits 1 ∧ (s.mach.cores[(0 : Fin 128)]).mx[(7 : Fin 8)] = true ∧ (s.mach.cores[(0 : Fin 128)]).mx[(0 : Fin 8)] = false := by
  unfold State.fits State.cleanSrcs State.val; decide

/-- A barrier of cores 0 and 1. -/
def pair (arrived passed : List CoreId) (bytes : Nat) (remote : Bool) : Barrier :=
  { level := 1, id := 7, members := [0, 1], remote := remote, arrived := arrived, passed := passed, bytes := bytes, phase := 3 }

theorem wit_barriers : let s := State.reset.onMach fun m => { m with barriers := [pair [] [0, 1] 0 false] }
    s.cleanSrcs [.lit32 1] ∧ s.fits (1 + litWords [.lit32 1]) ∧ (s.val (.lit32 1)).toNat = (1 : Fin 4).val ∧ (0 : CoreId) ∈ (s.mach.barrier 0 1).passed ∧
    (0 : CoreId) ∈ (pair [0, 1] [] 0 true).members ∧ ((pair [0, 1] [] 0 true).members.all fun d => (pair [0, 1] [] 0 true).arrived.contains d) = true ∧
    ((pair [0] [] 0 false).members.all fun d => (pair [0] [] 0 false).arrived.contains d) = false ∧
    (s.mach.ferry.tasks.find? (fun t => t.state == .draining && t.cores.any fun d => (pair [0, 1] [] 0 true).members.contains d)) = none := by
  unfold State.fits State.cleanSrcs State.val; decide

theorem wit_moor_and_yield : let s := State.reset
    s.cleanSrcs [.lit32 0x40, .x 1] ∧ s.fits (1 + litWords [.lit32 0x40, .x 1]) ∧ s.val (.x 1) = 0 ∧
    s.sees (s.val (.lit32 0x40)) 8 .read = .ok (.store (spmKey 0 0x40) .normal none) ∧ memFull s.mach.mem (locOf (spmKey 0 0x40)) = (s.val (.x 1) == 0) ∧
    s.cleanSrcs [.x 1] ∧ s.fits (1 + litWords [.x 1]) ∧ (s.val (.lit32 0xFF02)).toNat = 2 + 256 * 255 ∧
    s.mach.cores[(0 : Fin 128)].vec.status = .ended ∧ s.mach.cores[(0 : Fin 128)].mata.flights = [] ∧ s.mach.cores[(0 : Fin 128)].matb.flights = [] ∧
    s.mach.cores[(0 : Fin 128)].copy.flights = [] ∧ s.mach.cores[(0 : Fin 128)].forked = [] :=
  ⟨by unfold State.cleanSrcs; decide, by unfold State.fits; decide, by decide, ok_of (by decide), by decide, by unfold State.cleanSrcs; decide, by unfold State.fits; decide,
   by decide, by decide, by decide, by decide, by decide, by decide⟩

/-- A record stands in own SPM at 0x100, and queue 63 of 16 slots in handle 2 takes children of context 0. -/
def launching (tail : W32) : State :=
  (objects.onMach fun m =>
    { m with mem := memSetBytes m.mem (spmKey 0 0x100) (taskBytes 5 0 0)
             ferry := { m.ferry with queues := m.ferry.queues.set 63 { base := h2, en := true, src := true, ctx := 0, lsize := 4, fault := 0, tail := tail, head := 0 } } })
    |>.onCtl 0 fun k => { k with sup := true }

/-- A launch with room, or with its queue full. -/
def launchOk (tail : W32) : Bool :=
  let s := launching tail
  match (s.mach.flushAll 0 .control).ctlRecord 0 0x100 with
  | .val m1 v =>
    let q := m1.ferry.queues[(63 : Fin 64)]
    decide (m1.cores[(0 : Fin 128)].ctl.pc = s.ctl.pc ∧ q.src = true ∧ q.ctx = s.ctl.ctxid ∧ 4 ≤ q.lsize ∧ q.lsize ≤ 12 ∧ m1.refusal s.ctl.ctxid (leBytes v 256) = none) &&
    (if tail = 16 then decide (2 ^ q.lsize ≤ (q.tail - q.head).toNat)
     else match ptrAdd q.base (256 * (q.tail.toNat % 2 ^ q.lsize)) with
       | .ok p => isOk (m1.agentPlaces s.ctl.ctxid p 32 .write) && decide ((q.tail - q.head).toNat < 2 ^ q.lsize)
       | .error _ => false)
  | _ => false

theorem wit_launch : launchOk 16 = true ∧ launchOk 15 = true ∧ ptrOff 0x100 % 256 = 0 ∧ (launching 0).ctl.sup = true := by decide +kernel

/-! Witnesses: the allocator, heaps and queries. -/

def allocated : State := core0 fun k => { k with bp := 64, imglen := 64, rg := k.rg.set 7 (some { base := 0, ss := 64, ns := 2, hd := 0, filled := 1, resv := [] }) }

theorem wit_allocator : let s := allocated
    let core := s.mach.cores[(0 : Fin 128)]
    s.cleanSrcs [.lit64 0x200000040, .x 1] ∧ s.fits (1 + litWords [.lit64 0x200000040, .x 1]) ∧ (s.val (.lit32 0)).toNat < 8 ∧ core.rg[0] = none ∧
    (s.val (.lit64 0x200000040)).toNat % 2 ^ 32 = 64 ∧ (s.val (.lit64 0x200000040)).toNat / 2 ^ 32 = 2 ∧ (s.val (.lit64 0x4000010000)).toNat / 2 ^ 32 = 64 ∧
    64 * ((core.bp + 63) / 64) + 64 * 2 ≤ 2 ^ 20 ∧ 2 ^ 20 < 64 * ((core.bp + 63) / 64) + 65536 * 64 ∧ (s.val (.lit32 8)).toNat = 8 ∧
    64 * ((core.bp + 63) / 64) + 64 * ((1048512 + 63) / 64) ≤ 2 ^ 20 ∧ 2 ^ 20 < 64 * ((core.bp + 63) / 64) + 64 * ((1048576 + 63) / 64) ∧
    (s.val (.lit32 23)).toNat - 16 < 8 ∧ core.rg[7].isSome = true ∧ core.ringBusy 7 = false ∧ core.imglen ≤ (s.val (.lit32 64)).toNat ∧
    (s.val (.lit32 64)).toNat ≤ core.bp := by
  unfold State.cleanSrcs State.fits State.val; decide +kernel

/-- A heap at SPM 16 of capacity 2, with so many entries; its worst score is 1. -/
def heaped (count : Nat) : State :=
  State.reset.onMach fun m => { m with mem := memSetBytes m.mem (spmKey 0 16) (leBytes (2 + 65536 * count) 16 ++ leBytes 0x3F80000000000001 8 ++ leBytes 0x4000000000000002 8) }

theorem wit_heaps : ∀ count, count ≤ 2 → let s := heaped count
    s.cleanSrcs [.lit32 16, .lit64 0x40400000] ∧ s.fits 4 ∧ let mb := s.mach.beforeHeap 0 (spmKey 0 16) 4097
    memWf s.mach.mem = true ∧ (s.val (.lit32 16)).toNat % 16 = 0 ∧
    memNat mb.mem (spmKey 0 16) 8 = 2 + 65536 * count ∧ memNat mb.mem (spmKey 0 16 + 8) 8 = 0 ∧ (∀ i, i < 4 → memPoisoned mb.mem (spmKey 0 16 + 8 * i) = false) ∧
    isNan32 ((s.val (.lit64 0x7FC0000000000000)).toNat / 2 ^ 32) = true ∧ isNan32 ((s.val (.lit64 0x4040000000000000)).toNat / 2 ^ 32) = false ∧
    heapBetter (s.val (.lit64 0x4040000000000000)) (mem64 s.mach.mem (spmKey 0 16 + 16)) = true ∧ heapBetter (s.val (.lit64 0)) (mem64 s.mach.mem (spmKey 0 16 + 16)) = false ∧
    (s.val (.lit32 0x100)).toNat % 8 = 0 ∧ 16 + 16 + 8 * 2 ≤ (s.val (.lit32 0x100)).toNat ∧ 16 + 16 + 8 * (4096 : W64).toNat ≤ 2 ^ 20 := by
  unfold State.cleanSrcs State.fits State.val; decide +kernel

theorem wit_queries : let s := objects
    s.cleanSrcs [.lit32 1, .lit32 11] ∧ s.fits 3 ∧ (s.val (.lit32 1)).toNat < 2 ^ 24 ∧ (s.val (.lit32 11)).toNat ≤ 11 ∧
    (s.mach.queryRec (some 0) s.ctl.ctxid 1).isSome = true ∧ s.mach.queryRec (some 0) s.ctl.ctxid 0xFFFFFF = none ∧ (0x53 : W64).toNat / 16 ≤ 5 ∧ (0x53 : W64).toNat % 16 < 4 ∧
    probeKind 5 = some .exec ∧ isOk (checked { s.mach.seen 0 .control with holds := [] } (s.mach.asker 0) h1 8 .exec) = true ∧ faults (checked { s.mach.seen 0 .control with holds := [] } (s.mach.asker 0) 0x100000 8 .exec) { cls := .perm, addr := 0x100000 } = true ∧
    failsWith (s.mach.ctlLoad 0 0x10000000001 8 0) { cls := .align, addr := 0x10000000001 } = true := by
  unfold State.cleanSrcs State.fits State.val; decide +kernel

/-! Witnesses: the vector engine. The shape SH0 has the lanes 0 and 1. -/

def shaped : State :=
  (core0 fun k => { k with sets := k.sets.set 0 { k.sets[(0 : Fin 4)] with cur := { k.sets[(0 : Fin 4)].cur with sh := k.sets[(0 : Fin 4)].cur.sh.set 0 { rank := 1, ext := #v[2, 0, 0, 0] } } } })
    |> fun s => { s with cur := { core := 0, strand := .vector } }

def anyType (t : Nat) : Option Qual :=
  some { type := BitVec.ofNat 4 t, round := 0, sat := false, ftz := false, spec := false, sg := 0, sgen := false, sh := 0 }

/-- The operands exist, some lane is active, and the lanes read at the active ones are clean. -/
def vinClean (s : State) (q : Option Qual) (d : VDst) (a b : VSrc) (g : Guard) (reads : Nat → List (Nat × Nat)) : Bool :=
  match s.mach.vin s.cur.core q d a b g with
  | some (x, _) => x.active 0 && (List.range 1024).all fun i => !x.active i || (reads i).all fun r => ((x.src r.1).at r.2).tag == 0
  | none => false

theorem clean_of {s : State} {q : Option Qual} {d : VDst} {a b : VSrc} {g : Guard} {reads : Nat → List (Nat × Nat)} (h : vinClean s q d a b g reads = true) :
    ∃ x v1, s.mach.vin s.cur.core q d a b g = some (x, v1) ∧ x.cleanAt reads := by
  unfold vinClean at h
  split at h
  · rename_i x v1 e
    refine ⟨x, v1, e, fun i hi ha r hr => ?_⟩
    simp only [Bool.and_eq_true, List.all_eq_true, List.mem_range, Bool.or_eq_true, Bool.not_eq_true', beq_iff_eq] at h
    rcases h.2 i hi with h0 | h0
    · rw [ha] at h0; cases h0
    · exact h0 r hr
  · cases h

theorem wit_vector_integers : shaped.vfits 4 ∧ 8 ≤ typeOf (anyType 8) ∧ typeOf (anyType 13) ≤ 13 ∧
    (∃ x v1, shaped.mach.vin 0 (anyType 13) (.reg (.v 31)) (.reg (.v 0)) (.lit 7) anyGuard = some (x, v1) ∧ x.cleanAt fun k => [(0, k), (1, k)]) ∧
    ∃ x v1, shaped.mach.vin 0 (anyType 8) (.reg (.v 31)) (.reg (.v 0)) .zero anyGuard = some (x, v1) ∧ x.cleanAt fun k => [(0, k)] :=
  ⟨by unfold State.vfits; decide, by decide, by decide, clean_of (s := shaped) (by decide +kernel), clean_of (s := shaped) (by decide +kernel)⟩

theorem wit_vector_floats : (∃ x v1, shaped.mach.vin 0 none (.reg (.v 31)) (.reg (.v 0)) (.reg (.v 1)) anyGuard = some (x, v1) ∧ x.cleanAt fun k => [(0, k), (1, k), (2, k)]) ∧
    typeOf none < 8 ∧ ∃ x v1, shaped.mach.vin 0 none (.reg (.v 31)) (.reg (.v 0)) .zero anyGuard = some (x, v1) ∧
      x.cleanAt fun k => (((List.range 32).map fun j => k / 32 * 32 + j).filter x.active).map fun j => (0, j) := by
  refine ⟨clean_of (s := shaped) (by decide +kernel), by decide, ?_⟩
  obtain ⟨x, v1, e, h⟩ := clean_of (s := shaped) (q := none) (d := .reg (.v 31)) (a := .reg (.v 0)) (b := .zero) (g := anyGuard)
    (reads := fun k => (List.range 32).map fun j => (0, k / 32 * 32 + j)) (by decide +kernel)
  refine ⟨x, v1, e, fun i hi ha r hr => h i hi ha r ?_⟩
  obtain ⟨j, hj, rfl⟩ := List.mem_map.mp hr
  obtain ⟨k, hk, rfl⟩ := List.mem_map.mp (List.mem_filter.mp hj).1
  exact List.mem_map.mpr ⟨k, hk, rfl⟩

/-- Lane 1 of V0 is poisoned and active, and lane 0 is clean. -/
def poisonedLane : State := shaped.onVec 0 fun v => { v with v := v.v.set 0 { v.v[(0 : Fin 32)] with lanes := v.v[(0 : Fin 32)].lanes.set 1 { bits := 0, tag := 3 } } }

def spec8 : Option Qual := (anyType 8).map fun q => { q with spec := true }

theorem wit_poisoned_lane : (match poisonedLane.mach.vin 0 spec8 (.reg (.v 31)) (.reg (.v 0)) (.reg (.v 1)) anyGuard with
    | some (x, _) => x.active 1 && (x.a.at 0).tag == 0 && (x.b.at 0).tag == 0 && (x.a.at 1).tag != 0
    | none => false) = true ∧ isSpec spec8 = true ∧ isSpec (anyType 8) = false ∧ poisonedLane.vfits (vwords spec8 [.reg (.v 0), .reg (.v 1)]) := by
  unfold State.vfits; decide +kernel

theorem wit_vector_compares : (∃ x v1, shaped.mach.vin 0 none .none (.reg (.v 0)) (.reg (.v 1)) anyGuard = some (x, v1) ∧ x.cleanAt fun k => [(0, k), (1, k)]) ∧
    (∃ x v1, shaped.mach.vin 0 (anyType 9) .none (.reg (.v 0)) (.reg (.v 1)) anyGuard = some (x, v1) ∧ x.cleanAt fun k => [(0, k), (1, k)]) ∧
    (match shaped.mach.vin 0 none (.reg (.v 2)) (.reg (.v 0)) (.reg (.v 1)) { p := 7, pn := true } with
     | some (x, _) => (List.range 1024).all fun k => !x.shaped k || ((x.a.at k).tag == 0 && (x.b.at k).tag == 0)
     | none => false) = true :=
  ⟨clean_of (s := shaped) (by decide +kernel), clean_of (s := shaped) (by decide +kernel), by decide +kernel⟩

theorem wit_vector_moves :
    ∃ x v1, shaped.mach.vin 0 none (.reg (.v 2)) (.reg (.v 0)) (.reg (.v 1)) anyGuard = some (x, v1) ∧ x.cleanAt fun k => [(0, k), (0, k / 64 * 64), (1, k), (1, 0)] :=
  clean_of (s := shaped) (by decide +kernel)

theorem wit_transpose :
    ∃ x v1, shaped.mach.vin 0 none (.reg (.v 2)) (.reg (.v 0)) .zero anyGuard = some (x, v1) ∧ x.cleanAt fun k => [(0, 64 * (k % 16) + (k % 64 / 16 * 16 + k / 64))] :=
  clean_of (s := shaped) (by decide +kernel)

def withSegments : Option Qual := (anyType 0).map fun q => { q with sgen := true }

theorem wit_reduced_groups : shaped.vec.regNo (.v 2) ≠ shaped.vec.regNo (.v 0) ∧
    (match shaped.mach.vin 0 none (.reg (.v 2)) (.reg (.v 0)) .zero anyGuard with
     | some (x, _) => x.sg.isNone && (List.range 1024).all fun k => !x.shape.lane k || (x.a.at k).tag == 0
     | none => false) = true ∧
    (match shaped.mach.vin 0 withSegments (.reg (.v 2)) (.reg (.v 0)) .zero anyGuard with
     | some (x, _) => x.sg.isSome
     | none => false) = true := by
  decide +kernel

theorem wit_reductions : ([some 5, none, some 0xFFFFFFFF, none] : List (Option W32)).length = 2 ^ 2 ∧
    (([some 5, none, some 0xFFFFFFFF, none] : List (Option W32)).filterMap id).map (intIn 10) = [5, -1] ∧
    (([none, none] : List (Option W32)).filterMap id).map (intIn 10) = [] := by
  decide +kernel

/-- SG0 with two rows of segment 5, the rows 2 and 9. -/
theorem wit_segment_rows : let sg : SegReg := { SegReg.zero with rows := (SegReg.zero.rows.set 2 { srcrow := 0, seg := 5, last := false, first := true, valid := true }).set 9 { srcrow := 1, seg := 5, last := true, first := false, valid := true } }
    let s := shaped.onVec 0 fun v => { v with sg := v.sg.set 0 sg }
    (match s.mach.vin 0 withSegments (.reg (.v 2)) (.reg (.v 0)) .zero anyGuard with
     | some (x, _) => (match x.sg with | some g => g.rows[(2 : Fin 16)].valid && g.rows[(9 : Fin 16)].valid | none => false) && x.yRows 2 == [2, 9]
     | none => false) = true := by
  decide +kernel

/-- A clean vector source of a word. -/
def sourceIs (s : State) (y : VSrc) (w : W32) : Bool :=
  match s.vec.source y with
  | some (r, _) => (r.at 0).tag == 0 && (r.at 0).bits == w
  | none => false

theorem source_of {s : State} {y : VSrc} {w : W32} (h : sourceIs s y w = true) : ∃ r v1, s.vec.source y = some (r, v1) ∧ (r.at 0).tag = 0 ∧ (r.at 0).bits = w := by
  unfold sourceIs at h
  split at h
  · rename_i r v1 e
    simp only [Bool.and_eq_true, beq_iff_eq] at h
    exact ⟨r, v1, e, h.1, h.2⟩
  · cases h

theorem wit_index_bases : (∃ r v1, shaped.vec.source (.lit 9) = some (r, v1) ∧ (r.at 0).tag = 0 ∧ (r.at 0).bits = 9) ∧ shaped.vfits (vwords none [.lit 9]) ∧ shaped.vfits 1 :=
  ⟨source_of (by decide +kernel), by unfold State.vfits; decide +kernel, by unfold State.vfits; decide +kernel⟩

/-- LY0 with a pointer, strides, type and kind. -/
def layout (s : State) (ptr : W64) (type : BitVec 4) (kind : BitVec 2) (rowtab : W64) : State :=
  s.onCore 0 fun k => { k with sets := k.sets.set 0 { k.sets[(0 : Fin 4)] with cur := { k.sets[(0 : Fin 4)].cur with
    ly := k.sets[(0 : Fin 4)].cur.ly.set 0 { ptr := ptr, stride := #v[4, 256, 0, 0], type := type, kind := kind, rowtab := rowtab } } } }

/-- A row table at SPM 0x200 of no sequence. -/
theorem wit_walks : ((layout shaped 0x400 0 2 0x200).core 0).layout 0 = { ptr := 0x400, stride := #v[4, 256, 0, 0], type := 0, kind := 2, rowtab := 0x200 } ∧
    ((layout shaped 0x400 0 1 0).core 0).layout 0 = { ptr := 0x400, stride := #v[4, 256, 0, 0], type := 0, kind := 1, rowtab := 0 } ∧
    (match ({ core := 0, tab := 0x200, extents := false } : RowTab).walk 0 0 (layout shaped 0x400 0 2 0x200).mach with
     | .ok (_, m1) => decide (m1.cores[(0 : Fin 128)].vec.pc.toNat + 1 < 2 ^ 18) | .error _ => false) = true := by
  decide +kernel

/-- A loop of two stages and three iterations, at one of them. -/
def looping (lj : Nat) (stop : Bool) : State :=
  (shaped.onVec 0 fun v => { v with loop := { v.loop with act := true, ls := 2, lmask := 1, lk := 3, lj := lj } }).onCore 0 fun k => { k with stop := stop }

theorem wit_loops : (∃ r v1, shaped.vec.source (.lit 3) = some (r, v1) ∧ (r.at 0).tag = 0 ∧ (r.at 0).bits = 3) ∧ shaped.vec.loop.lbase < (3 : W32).toNat ∧
    (∃ r v1, shaped.vec.source .zero = some (r, v1) ∧ (r.at 0).tag = 0 ∧ (r.at 0).bits = 0) ∧ (0 : W32).toNat ≤ shaped.vec.loop.lbase ∧ shaped.vec.loop.act = false :=
  ⟨source_of (by decide +kernel), by decide +kernel, source_of (by decide +kernel), by decide +kernel, by decide +kernel⟩

theorem wit_loop_ends : (shaped.onVec 0 fun v => { v with skip := true }).vec.skip = true ∧
    (looping 2 false).vec.skip = false ∧ (looping 2 false).vec.loop.act = true ∧
    (looping 2 false).vec.loop.lj + 1 < (looping 2 false).vec.loop.lk + (looping 2 false).vec.loop.ls - 1 ∧
    (looping 3 false).vec.loop.lk + (looping 3 false).vec.loop.ls - 1 ≤ (looping 3 false).vec.loop.lj + 1 ∧
    (((looping 1 true).core 0).stop && !(looping 1 true).vec.loop.lstop && decide ((looping 1 true).vec.loop.lj + 1 < (looping 1 true).vec.loop.lk)) = true := by
  decide +kernel

def queued : State := shaped.onCore 0 fun k => { k with sm := k.sm.set 0 9, q := k.q.set 0 [7] }

theorem wit_vector_queues : (queued.core 0).smw[(0 : Fin 15)] = [] ∧ (∃ r v1, queued.vec.source (.lit 9) = some (r, v1) ∧ (r.at 0).tag = 0 ∧ (r.at 0).bits = 9) ∧
    (9 : W32).toNat ≤ (queued.core 0).sm[(0 : Fin 15)].toNat ∧ queued.mach.keepsLoad 0 = false ∧ queued.vec.loop.act = false ∧ (queued.core 0).q[(1 : Fin 8)].length < 8 ∧ (queued.core 0).q[(0 : Fin 8)] = 7 :: [] ∧
    ∃ x v1, queued.mach.vin 0 none (.reg (.v 0)) .zero .zero anyGuard = some (x, v1) ∧ x.cleanAt fun _ => [] :=
  ⟨by decide +kernel, source_of (by decide +kernel), by decide +kernel, by decide +kernel, by decide +kernel, by decide +kernel, by decide +kernel, clean_of (s := queued) (by decide +kernel)⟩

/-- Every active lane's element of LY0 is at 0x400 + 4 k of own SPM, for an access of a kind, with its bit as asked. -/
def elementsAt (s : State) (d : VDst) (kind : Kind) (full : Bool) : Bool :=
  match s.mach.vin 0 none d .zero .zero anyGuard with
  | some (x, v1) =>
    ((List.range 1024).filter x.active == [0, 1]) && (List.range 2).all fun k =>
      okIs (ptrAdd ((s.core 0).layout 0).ptr ((x.b.at 0).bits.toInt + (k / 64 : Nat) * ((s.core 0).layout 0).stride[1].toInt +
        (k % 64 : Nat) * ((s.core 0).layout 0).stride[0].toInt + v1.iter anyGuard * ((s.core 0).layout 0).stride[2].toInt)) (BitVec.ofNat 64 (0x400 + 4 * k)) &&
      okIs (checked (s.mach.seen 0 .vector) (s.mach.vasker 0) (BitVec.ofNat 64 (0x400 + 4 * k)) 4 kind) (.store (spmKey 0 (0x400 + 4 * k)) .normal none) &&
      okIs (s.mach.elemPlace 0 4 kind (Mach.elem ((s.core 0).layout 0) x (v1.iter anyGuard) false (x.b.at 0).bits.toInt k)) (.store (spmKey 0 (0x400 + 4 * k)) .normal none) &&
      memFull s.mach.mem (locOf (spmKey 0 (0x400 + 4 * k))) == full && (x.b.at k).tag == 0 && (x.d.at k).tag == 0
  | none => false

theorem wit_vector_memory : let s := layout shaped 0x400 0 0 0
    elementsAt s (.reg (.v 1)) .read true = true ∧ elementsAt s (.reg (.v 1)) .write true = true ∧ elementsAt s .none .read true = true ∧
    ((s.core 0).layout 0).kind.toNat < 2 ∧ s.vec.oq[(3 : Fin 4)].length < 4 ∧ s.vfits (vwords none [.zero]) ∧ memWf s.mach.mem = true ∧
    [locOf (spmKey 0 0x400), locOf (spmKey 0 0x404)].eraseDups.length ≤ 32 ∧
    (∀ kind ∈ [AccKind.load, .rmw], s.mach.heldVec 0 ([0x400, 0x404].map fun a => { loc := locOf (spmKey 0 a), cls := 0, rel := kind == .rmw, mtype := .normal, kind := kind, masks := [] }) = false) ∧
    s.mach.inList (spmKey 0 0x400) = false ∧ spmKey 0 0x400 % 4 = 0 := by
  unfold State.vfits; decide +kernel

theorem wit_vector_full_empty : let s := (layout shaped 0x400 0 0 0).onMach fun m => { m with mem := memSetFull m.mem (spmKey 0 0x400) false }
    elementsAt (layout shaped 0x400 0 0 0) (.reg (.v 1)) .consume true = true ∧ elementsAt s (.reg (.v 1)) .fill false = true ∧ memWf s.mach.mem = true := by
  decide +kernel

theorem wit_operand_queue_image : let s := shaped.onVec 0 fun v => { v with oq := v.oq.set 3 [.loaded v.v[(0 : Fin 32)]] }
    (match (s.mach.cores[(0 : Fin 128)].vec.oq[(3 : Fin 4)])[(0 : Nat)]? with | some (.loaded _) => true | _ => false) = true := by
  decide +kernel

/-! Witnesses: the matrix array. -/

/-- A step of strand A fetched, for a strand whose ring runs. -/
def fetchedA (s : State) (op : Instr) (words : Nat) : State :=
  s.onCore 0 fun k => { k with rings := k.rings.set 0 { (CmdRing.absent) with run := true, lsize := 6, wp := 8 },
                               mata := { k.mata with fetched := some { at_ := 0, budget := 5, op := op, words := words } } }

def matrixA (s : State) : State := { s with cur := { core := 0, strand := .matrixA } }

theorem wit_engine_steps_wait : let s := matrixA State.reset
    let w : Sems := { aw := 14, rs := 15 }
    Instr.mrel w ∈ [Instr.fset w 0 0, .fqrd w 0, .mthr w 0, .acczero w 0 0, .mrel w, .msync w, .mjmp w 0 0] ∧ w.aw.toNat = (14 : Fin 15).val ∧
    (s.core 0).awaitOk (matStrand s.cur.strand) w.aw = false ∧ ((s.core 0).eng (strandOfB true)).report = [] ∧ (s.core 0).q[outQueue (strandOfB true)].length ≤ 6 := by
  decide +kernel

/-- Steps of the three strands whose await is not satisfied, and a strand halted by a fault as its wait had been released. -/
theorem wit_steps_wait : let s := State.reset
    let w : Sems := { aw := 14, rs := 15 }
    let x : SemWaiter := { strand := .copy, need := 1, take := true, released := some 0 }
    let k := (s.onCore 0 fun k => { k with smw := k.smw.set 14 [x] }).core 0
    (∀ i ∈ [Instr.acczero w 0 0, .mqwr w 0], matrixStep? i = some w) ∧
    (∀ i ∈ [Instr.csync w false, .tmov w { fe := .dataOnly, scope := .core, pb := false, dl := 0 } 0 0 0 0 7], copyStep? i = some w) ∧
    (∀ t ∈ [Strand.matrixA, .matrixB, .copy], (s.core 0).awaitOk t w.aw = false ∧ (s.core 0).awaitOk t 15 = true) ∧
    k.smw[(14 : Nat)] = [x] ∧ x.released ≠ none ∧ (s.core 0).semWaiter? ⟨14, by decide⟩ .copy = none := by
  decide +kernel

def leased (l : Lease) (s : State) : State := s.onCore 0 fun k => { k with lease := l }

def readyA : State := fetchedA State.reset (.acczero noSems 0 0) 1
def readyB : State := State.reset.onCore 0 fun k =>
  { k with rings := k.rings.set 1 { (CmdRing.absent) with run := true, lsize := 6, wp := 8 }, matb := { k.matb with fetched := some { at_ := 0, budget := 5, op := .acczero noSems 0 0, words := 1 } } }
def readyAB : State := readyB.onCore 0 fun k => { k with rings := k.rings.set 0 { (CmdRing.absent) with run := true, lsize := 6, wp := 8 }, mata := { k.mata with fetched := some { at_ := 0, budget := 5, op := .acczero noSems 0 0, words := 1 } } }

/-- The readiness of both strands, beside each kind of lease. -/
theorem wit_lease : (readyA.core 0).ready false = true ∧ (readyA.core 0).ready true = false ∧ (readyB.core 0).ready false = false ∧ (readyB.core 0).ready true = true ∧
    (readyAB.core 0).ready false = true ∧ (readyAB.core 0).ready true = true ∧ (State.reset.core 0).ready false = false ∧ (State.reset.core 0).ready true = false ∧
    (State.reset.core 0).lease = .free ∧ ((leased (.held false 32) readyAB).core 0).lease = .held false 32 ∧ ((leased (.held false 31) readyB).core 0).ready true = true ∧
    ((leased (.arb true 0) readyB).core 0).lease = .arb true 0 ∧ ¬ 0 + 2 ≤ (leased (.arb true 0) readyB).mach.scyc ∧
    (let s := (leased (.arb true 0) readyB).onMach fun m => { m with scyc := 2 }
     (s.core 0).lease = .arb true 0 ∧ 0 + 2 ≤ s.mach.scyc) := by
  decide +kernel

/-- An operand tile at a fixed address, or in a ring. -/
def fixedOp (ty : BitVec 4) : OpDesc := { ty := ty, fixed := true, pop := false, ring := 0, slot := 0, addr := 0x1000 }

def anyMma : MmaArgs := { tile := 63, sh := 7, fa := 0, fb := 0, opA := fixedOp 3, opB := fixedOp 3, sau := true, sbu := true, saidx := 0, sbidx := 0 }

/-- SH7 of strand A is the block N = 2, M = 2, K = 32, and strand A holds the lease. -/
def block : State :=
  matrixA (leased (.held false 31) (State.reset.onCore 0 fun k =>
    { k with sets := k.sets.set 1 { k.sets[(1 : Fin 4)] with cur := { k.sets[(1 : Fin 4)].cur with sh := k.sets[(1 : Fin 4)].cur.sh.set 7 { rank := 3, ext := #v[2, 2, 32, 0] } } } }))

def arrayOk (s : State) (w : Sems) (op : Instr) (n : Nat) : Bool :=
  (s.core s.cur.core).awaitOk (matStrand s.cur.strand) w.aw && (s.core s.cur.core).slotsFilled op && (s.core s.cur.core).lease == .held (isB (matStrand s.cur.strand)) n && decide (n < 32)

theorem array_of {s : State} {w : Sems} {op : Instr} {n : Nat} (h : arrayOk s w op n = true) : s.arrayStarts (matStrand s.cur.strand) w op n := by
  simp only [arrayOk, Bool.and_eq_true, beq_iff_eq, decide_eq_true_eq] at h
  exact ⟨h.1.1.1, h.1.1.2, h.1.2, h.2⟩

theorem wit_multiply : block.arrayStarts (matStrand block.cur.strand) noSems (.mma noSems anyMma) 31 ∧ (block.core 0).tileAddr anyMma.opA = .ok 0x1000 ∧
    (block.core 0).tileAddr anyMma.opB = .ok 0x1000 ∧ block.arrayStarts (matStrand block.cur.strand) noSems (.mmasg noSems anyMma) 31 ∧
    (blockShape (block.core 0).sets[engineNo (engineOf (matStrand block.cur.strand))].cur.sh[anyMma.sh] (some (kmaxOf anyMma.opA.ty))).isSome = true ∧
    anyMma.sau = true ∧ anyMma.sbu = true ∧ anyMma.opA.addr.toNat / 64 * 64 + 256 ≤ 2 ^ 20 :=
  ⟨array_of (by decide +kernel), ok_of (by decide +kernel), ok_of (by decide +kernel), array_of (by decide +kernel), by decide +kernel, by decide, by decide, by decide⟩

/-- Where the steps of strand A fault: no grant of zeroing, a jump out of the ring, scales past the store, misaligned, past SPM and marked, and operands
misaligned, past SPM, in no ring and in slots too small; a shape that is none, scale indexes past the store, and a segment table past SPM. -/
theorem wit_matrix_faults : let bad (o : OpDesc) : MmaArgs := { anyMma with opA := o }
    let ringed (ss : Nat) : State := block.onCore 0 fun k => { k with rg := k.rg.set 3 (some { base := 0, ss := ss, ns := 2, hd := 0, filled := 2, resv := [] }) }
    let inRing : OpDesc := { fixedOp 3 with fixed := false, ring := 3 }
    let marked := (placed block 0x108 [1]).onMach fun m => { m with mem := memSetPoison m.mem (spmKey 0 0x108) true }
    (block.mach.grantOf 0).getLsbD 2 = false ∧
    (let k := (fetchedA block (.mjmp noSems 3 56) 1).core 0
     (((k.eng .matrixA).mlc).getD (3 : BitVec 8)).toNat ≠ 0 ∧ 2 ^ k.rings[ringOf .matrixA].lsize.toNat < (k.rings[ringOf .matrixA].wp - k.rings[ringOf .matrixA].rp + (57 : BitVec 8).setWidth 32).toNat) ∧
    arrayOk block noSems (.scld noSems 0 1 0x102 0 0x3FFF) 31 = true ∧ 16384 < (0x3FFF : BitVec 14).toNat + ((1 : BitVec 14).toNat + 1) ∧ (0x102 : W32).toNat % 4 ≠ 0 ∧
    block.mach.nearRun 0 0xFFFFC 8 = none ∧ marked.mach.nearRun 0 0x100 12 = some (spmKey 0 0x100) ∧ memPoisoned marked.mach.mem (locOf (spmKey 0 0x100) + 8) = true ∧
    memPoisoned marked.mach.mem (locOf (spmKey 0 0x100)) = false ∧ block.mach.nearRun 0 0xFC040 16384 = none ∧ (0xFC040 : W32).toNat % 64 = 0 ∧
    (fixedOp 3).addr.toNat % 512 = 0 ∧ (0xF8200 : W32).toNat % 512 = 0 ∧ 2 ^ 20 < (0xF8200 : W32).toNat + 32768 ∧ (block.core 0).rg[(3 : Fin 8)] = none ∧
    arrayOk (ringed 64) noSems (.mma noSems (bad inRing)) 31 = true ∧ arrayOk block noSems (.mma noSems (bad { fixedOp 3 with addr := 0x1100 })) 31 = true ∧
    (blockShape (block.core 0).sets[engineNo .matrixA].cur.sh[(6 : Fin 8)] (some (kmaxOf 3))).isNone = true ∧
    16384 < (0x3FFF : BitVec 14).toNat + 32 / 32 * 2 ∧ 2 ^ 20 < 0xFFF40 + 256 ∧ 0xFFF40 / 64 * 64 = 0xFFF40 := by
  decide +kernel

/-- The array reads again a sector that was written since its step started. -/
theorem wit_reread : let r : Reread := { strand := .matrixA, args := anyMma, kind := .add, shape := ⟨2, 2, 32⟩, ta := 0x1000, tb := 0x1000, tick := 1, tile := .zero, old := [], oldPois := [] }
    let m := (State.reset.onCore 0 fun k => { k with reread := some r }).mach
    m.cores[(0 : Fin 128)].reread.isSome = true ∧ memWf m.mem = true ∧ memWf { cells := r.old, empt := [], pois := r.oldPois } = true ∧
    (∀ b ∈ mmaSectors 0 r.args r.kind r.shape r.ta r.tb, b % 64 = 0) := by
  decide +kernel

/-- Strand A's steps that go on at once: an entry in its queue, a grant of zeroing, a ring to jump in, and scales in range. -/
theorem wit_matrix_steps : let s := block.onCore 0 fun k => { k with q := k.q.set (inQueue .matrixA) [0x3F800000], task := some 1,
                                                                     mata := { k.mata with mlc := some 1 }, rings := k.rings.set 0 { (CmdRing.absent) with run := true, lsize := 6, wp := 8 } }
    let g := s.onMach fun m => { m with ferry := { m.ferry with tasks := [{ aTask 1 .running [0] with recd := { (aTask 1 .running [0]).recd with grant := 4 } }] } }
    (s.core 0).awaitOk (matStrand s.cur.strand) noSems.aw = true ∧ (s.core 0).q[inQueue .matrixA] = 0x3F800000 :: [] ∧ (g.mach.grantOf 0).getLsbD 2 = true ∧
    (0x3FFF : BitVec 14).toNat + 1 ≤ 16384 ∧ s.mach.nearRun 0 0x100 4 = some (spmKey 0 0x100) ∧ memPoisoned s.mach.mem (locOf (spmKey 0 0x100)) = false ∧
    s.mach.nearRun 0 0x40 16384 = some (spmKey 0 0x40) ∧ ((s.core 0).eng .matrixA).flights = [] ∧ ((s.core 0).eng .matrixA).report = [] ∧
    (s.core 0).q[outQueue .matrixA].length < 8 ∧ (((s.core 0).eng .matrixA).mlc.getD 9).toNat ≠ 0 ∧
    (((block.core 0).eng .matrixA).mlc.getD 0).toNat = 0 ∧
    ((s.core 0).rings[ringOf .matrixA].wp - (s.core 0).rings[ringOf .matrixA].rp + (56 : BitVec 8).setWidth 32).toNat ≤ 2 ^ (s.core 0).rings[ringOf .matrixA].lsize.toNat ∧
    arrayOk s noSems (.acczero noSems 63 0) 31 = true ∧ arrayOk s noSems (.accst noSems 63 0x40 0 .core) 31 = true ∧ arrayOk s noSems (.scld noSems 0 0 0x100 0 0x3FFF) 31 = true := by
  decide +kernel

theorem wit_matrix_retires : let s := State.reset.onCore 0 fun k =>
      { k with mata := { k.mata with flights := [flightOf (.mma noSems anyMma) [7]] }, rg := k.rg.set 7 (some { base := 0, ss := 64, ns := 2, hd := 1, filled := 1, resv := [] }) }
    (s.core 0).flight? (strandOfB false) 3 = some (flightOf (.mma noSems anyMma) [7]) ∧ (s.core 0).matCompletes .matrixA (flightOf (.mma noSems anyMma) [7]) = true ∧
    (flightOf (.mma noSems anyMma) [7]).failed = none ∧ (s.core 0).rg[(7 : Fin 8)] = some { base := 0, ss := 64, ns := 2, hd := 1, filled := 1, resv := [] } ∧
    (s.core 0).smw[(14 : Fin 15)] = [] := by
  decide +kernel

def anyEp : EpArgs :=
  { tile := 0, sh := 7, f := 0, act := .none, bias := false, hi := 16, otype := 0, round := 0, sat := false, fe := false, scidx := 0, cls := 0, scope := .core, baddr := 0, gen := 1,
    kill := true }

/-- LY7 of strand A is a dense FP32 layout at SPM 0x800. -/
def withLy7 (s : State) : State :=
  s.onCore 0 fun k => { k with sets := k.sets.set 1 { k.sets[(1 : Fin 4)] with cur := { k.sets[(1 : Fin 4)].cur with
    ly := k.sets[(1 : Fin 4)].cur.ly.set 7 { ptr := 0x800, stride := #v[4, 256, 0, 0], type := 0, kind := 0, rowtab := 0 } } } }

theorem wit_epilogues : let s := withLy7 block
    (blockShape (s.core 0).sets[engineNo (engineOf (matStrand s.cur.strand))].cur.sh[anyEp.sh] none).isSome = true ∧ epType anyEp.otype = 0 ∧ 2 * esizeOf 0 ≤ anyEp.hi.toNat ∧
    (0x400 : W32).toNat % 16 = 0 ∧ (s.mach.onCore 0 fun k => k.drainReport .matrixA).nearRun 0 0x400 ((2 - 1) * 16 + 8) = some (spmKey 0 0x400) ∧
    arrayOk s noSems (.epil noSems anyEp 0x400) 31 = true ∧ arrayOk s noSems (.epobj noSems { anyEp with hi := 0 } 7 0) 31 = true ∧
    arrayOk s noSems (.eprow noSems anyEp 0x2000) 31 = true ∧
    (s.core 0).sets[engineNo (engineOf (matStrand s.cur.strand))].cur.ly[(7 : Fin 8)].kind = 0 ∧ (s.core 0).sets[engineNo (engineOf (matStrand s.cur.strand))].cur.ly[(7 : Fin 8)].type.toNat = epType 0 ∧
    (match blockShape (s.core 0).sets[engineNo (engineOf (matStrand s.cur.strand))].cur.sh[anyEp.sh] none with
     | some x =>
       (match (s.mach.onCore 0 fun k => k.drainReport .matrixA).epobjPlaces 0 { anyEp with hi := 0 } (s.core 0).sets[(1 : Fin 4)].cur.ly[(7 : Fin 8)] 0 0 x with
        | .ok pls => pls.all fun p => p.2.2 == .store (spmKey 0 (0x800 + 256 * p.1.1 + 4 * p.1.2)) .normal none
        | .error _ => false) &&
       (match (s.mach.onCore 0 fun k => k.drainReport .matrixA).rowTable 0 0x2000 x with | .ok (.table _ _) => true | _ => false)
     | none => false) = true := by
  decide +kernel

/-- Where an epilogue faults: no shape, an odd number of columns of half bytes, a misaligned destination, rows closer than a row is long, a destination past SPM,
a layout of another type, and a row table misaligned, past SPM, marked, or naming a package outside the group. -/
theorem wit_epilogue_faults : let s := withLy7 block
    let m (f : Mach → Mach) : Mach := (s.onMach f).mach.onCore 0 fun k => k.drainReport .matrixA
    let x : MmaShape := ⟨2, 2, 32⟩
    let row (w : W64) : Mach := m fun m => { m with mem := memSetBytes m.mem (spmKey 0 0x2000) (leBytes w.toNat 8) }
    (blockShape (s.core 0).sets[engineNo .matrixA].cur.sh[(6 : Fin 8)] none).isNone = true ∧ (0x408 : W32).toNat % 16 ≠ 0 ∧ anyEp.hi.toNat = 16 ∧ (15 : Nat) < 2 * 8 ∧
    (m id).nearRun 0 0xFFFF0 ((2 - 1) * 16 + 8) = none ∧ (s.core 0).sets[engineNo .matrixA].cur.ly[(7 : Fin 8)].type.toNat ≠ epType 4 ∧ (0x2020 : BitVec 20).toNat % 64 ≠ 0 ∧
    (0xFFE00 : BitVec 20).toNat % 64 = 0 ∧ 2 ^ 20 < (0xFFE00 : BitVec 20).toNat + 520 ∧
    (row (BitVec.ofNat 64 (2 ^ 52))).group ≤ memNat (row (BitVec.ofNat 64 (2 ^ 52))).mem (spmKey 0 0x2000) 8 / 2 ^ 52 ∧
    (match (row (BitVec.ofNat 64 (2 ^ 52))).rowTable 0 0x2000 x with | .error _ => true | .ok _ => false) = true ∧
    memPoisoned (m fun m => { m with mem := memSetPoison m.mem (spmKey 0 0x2200) true }).mem (spmKey 0 (0x2000 + 512)) = true := by
  decide +kernel

/-! Witnesses: the copy strand. -/

/-- LY0, LY1, LY2 and LY3 of core 0's copy strand are at SPM 0x1000, at SPM 0x2000, at handle 3 (package 1) and at handle 1; the records of the tests stand from SPM 0x100. -/
def copying : State :=
  let ly (p : W64) : LayoutReg := { ptr := p, stride := #v[4, 16, 0, 0], type := 0, kind := 0, rowtab := 0 }
  let s := objects.onCore 0 fun k => { k with
    sets := k.sets.set 3 { k.sets[(3 : Fin 4)] with cur := { k.sets[(3 : Fin 4)].cur with ly := (((k.sets[(3 : Fin 4)].cur.ly.set 0 (ly 0x1000)).set 1 (ly 0x2000)).set 2 (ly h3)).set 3 (ly h1) } }
    rg := k.rg.set 7 (some { base := 0x4000, ss := 64, ns := 2, hd := 1, filled := 1, resv := [] })
    rings := k.rings.set 0 { (CmdRing.absent) with halt := true, lsize := 6, base := 0x3000 }
    q := k.q.set 6 [5] }
  { s with cur := { core := 0, strand := .copy } }

def copyOk (s : State) (pb : Bool) (dl : Fin 4) (bytes : Nat) : Bool :=
  (s.core s.cur.core).awaitOk .copy 15 && decide ((s.core s.cur.core).moversInFlight < 8) &&
    (!pb || (decide (0 < (s.mach.barrier s.cur.core dl).bytes + bytes) && decide ((s.mach.barrier s.cur.core dl).bytes + bytes < 2 ^ 28)))

theorem copy_of {s : State} {pb : Bool} {dl : Fin 4} {bytes : Nat} (h : copyOk s pb dl bytes = true) : s.copyStarts noSems pb dl bytes := by
  simp only [copyOk, Bool.and_eq_true, Bool.or_eq_true, Bool.not_eq_true', decide_eq_true_eq] at h
  refine ⟨h.1.1, h.1.2, fun hp => ?_⟩
  rcases h.2 with h2 | h2
  · rw [hp] at h2; cases h2
  · exact h2

/-- Each copy step's checks pass, with and without a counted barrier. -/
theorem wit_copy_starts : ∀ pb, copying.copyStarts noSems pb 2 8 := fun pb => copy_of (by revert pb; decide +kernel)

/-- The pairs of a run between two layouts pass their checks. -/
def pairsOk (s : State) (fe : FeMode) (l : List (W64 × Int × W64 × Int)) : Bool := isOk (s.copyMach.movePairs (s.copyMach.lighter 0) fe l)

/-- Sixteen bytes from LY0 to LY1 in each mode, the sources being full. -/
theorem wit_copy_moves : ∀ fe ∈ [FeMode.dataAndBits, .dataOnly, .setFull, .setEmpty, .requireFull],
    let s := copying
    pairsOk s fe ((List.range 2).map fun k => (0x1000, ((0 + 8 * k : Nat) : Int), 0x2000, ((0 + 8 * k : Nat) : Int))) = true ∧
    isOk (needFull s.copyMach fe ((List.range 2).map fun j => ((MoveEnd.loc (spmKey 0 (0x1000 + 8 * j)) none, MoveEnd.loc (spmKey (s.copyMach.peer 0 1) (0x2000 + 8 * j)) none),
      BitVec.ofNat 64 (0x1000 + 8 * j)))) = true ∧
    isOk (s.copyMach.runWrites (s.copyMach.lighter 0) (dstKind fe) 0x2000 0 16 (wholeBytes (leBytes 0 8)) (feActOf fe)) = true ∧
    isOk (s.copyMach.runWrites (s.copyMach.lighter 0) .bitWrite 0x2000 0 16 [] (feActOf fe)) = true := by
  decide +kernel

/-- A two-dimensional move's record: two rows of 8 bytes. -/
theorem wit_copy_record : let s := placed copying 0x100 (leBytes 0 4 ++ leBytes 8 4 ++ leBytes 8 4 ++ leBytes (2 ^ 32 - 8) 4 ++ leBytes 8 4 ++ leBytes 2 4 ++ leBytes 0 8)
    let f (o : Nat) : Nat := memNat s.copyMach.mem (spmKey 0 0x100 + o) 4
    okIs (s.copyMach.ownRun 0 0x100 32 32) (spmKey 0 0x100) = true ∧ f 16 = 8 ∧ f 20 = 2 ∧ memNat s.copyMach.mem (spmKey 0 0x100 + 24) 8 = 0 ∧ (∀ o ∈ [0, 4, 8, 12, 16], f o % 8 = 0) ∧
    pairsOk s .dataAndBits [(0x1000, 0, 0x2000, 8), (0x1000, 8, 0x2000, 0)] = true := by
  decide +kernel

/-- An index list with a row left out. -/
theorem wit_copy_rows : let s := placed copying 0x100 (leBytes 0 4 ++ leBytes (2 ^ 32 - 1) 4 ++ leBytes 2 4)
    okIs (s.copyMach.ownRun 0 0x100 12 4) (spmKey 0 0x100) = true ∧ ((List.range 3).filter fun i => memNat s.copyMach.mem (spmKey 0 0x100 + 4 * i) 4 != 0xFFFFFFFF) = [0, 2] ∧
    pairsOk s .dataOnly [(0x1000, 0, 0x2000, 0), (0x1000, 32, 0x2000, 16)] = true := by
  decide +kernel

theorem wit_copy_queues : let k := copying.core 0
    k.rg[(7 : Fin 8)] = some { base := 0x4000, ss := 64, ns := 2, hd := 1, filled := 1, resv := [] } ∧ 1 + 0 < 2 ∧
    pairsOk copying .dataAndBits ((List.range 8).map fun j => (0x1000, ((0 + 8 * j : Nat) : Int), BitVec.ofNat 64 (0x4000 + 64 * ((1 + 1 + 0) % 2)), ((8 * j : Nat) : Int))) = true ∧
    (k.rings[(0 : Fin 3)].run = true ∨ k.rings[(0 : Fin 3)].halt = true ∨ k.rings[(0 : Fin 3)].lsize ≠ 0) ∧
    (k.rings[(0 : Fin 3)].wp + BitVec.ofNat 32 64 - k.rings[(0 : Fin 3)].rp).toNat ≤ 2 ^ k.rings[(0 : Fin 3)].lsize.toNat ∧
    (match copying.copyMach.moveEnd (copying.copyMach.lighter 0) 0x1004 4 .exec with | .ok (.loc a none) => a == spmKey 0 0x1004 | _ => false) = true ∧
    k.copy.flights = [] ∧ k.copy.report = [] ∧ k.q[(6 : Fin 8)] = [5] ∧ k.q[(7 : Fin 8)].length < 8 := by
  decide +kernel

theorem wit_copy_bits : (∀ j, j < 2 → (spmKey 0 0x1000 + 8 * j) % 8 = 0 ∧ (spmKey 0 0x1008 + 8 * j) % 8 = 0) ∧ memWf State.reset.mach.mem = true ∧
    (moving State.reset.mach .dataAndBits ((List.range 2).map fun j => (.loc (spmKey 0 (0x1000 + 8 * j)) none, .loc (spmKey 0 (0x1008 + 8 * j)) none))).moves.length = 2 := by
  decide +kernel

/-- A step that asks a home: its question is sent, and an answer that all is well, that a location is empty, or that the home refuses. -/
theorem wit_copy_asks : let x : Asking := (1, [(h3, .read)])
    let s (reply : Option RemoteReply) : Mach := { copying.copyMach with remotes := [{ id := 9, core := 0, strand := .copy, lane := stepLane, home := 1, ctx := 0, ptr := h3, op := .check x.2, start := 0, reply := reply }] }
    (copying.copyMach.askHomes 0 0 [x]).2 = none ∧ ((s none).askHomes 0 0 [x]).2 = none ∧ ((s (some (.value 0))).askHomes 0 0 [x]).2 = some none ∧
    ((s (some (.empty h3))).askHomes 0 0 [x]).2 = some (some { cls := .feExpire, addr := h3 }) ∧ ((s (some .refused)).askHomes 0 0 [x]).2 = some (some { cls := .fabric, addr := h3 }) := by
  decide +kernel

/-- Where copy steps fault: a record that is no shape, one that is misaligned or past SPM, a run of a rotation past SPM, and a slot of no ring. -/
theorem wit_copy_faults : let s := placed copying 0x100 (leBytes 4 4 ++ leBytes 0 12 ++ leBytes 8 4 ++ leBytes 1 4)
    let f (o : Nat) : Nat := memNat s.copyMach.mem (spmKey 0 0x100 + o) 4
    f 0 % 8 ≠ 0 ∧ f 16 = 8 ∧ f 20 = 1 ∧ memNat copying.copyMach.mem (spmKey 0 0x100 + 16) 4 < 8 ∧ okIs (copying.copyMach.ownRun 0 0x100 32 32) (spmKey 0 0x100) = true ∧
    (0x110 : W32).toNat % 32 ≠ 0 ∧ 2 ^ 20 < (0xFFFF8 : W32).toNat + 16 ∧ (0xFFFF0 : W32).toNat + 16 ≤ 2 ^ 20 ∧ (copying.core 0).rg[(6 : Fin 8)] = none ∧
    (State.reset.core 0).rings[(1 : Fin 3)].lsize = 0 ∧ (State.reset.core 0).rings[(1 : Fin 3)].run = false ∧ (State.reset.core 0).rings[(1 : Fin 3)].halt = false := by
  decide +kernel

/-- Words of a ring in one location, and alone in one. -/
theorem wit_copy_words : let l : List (Nat × List Byte × Bool) := [(0x100, leBytes 1 4, true), (0x104, leBytes 2 4, false), (0x108, leBytes 3 4, false)]
    (∀ x ∈ l, x.1 % 4 = 0 ∧ x.2.1.length = 4) ∧ (l.map (·.1)).Nodup := by
  decide +kernel

/-! Witnesses: the fabric's steps and registrations. -/

theorem wit_fabric_steps : let s := placed copying 0x200 (leBytes 5 8 ++ leBytes 7 8)
    let m := s.copyMach
    okIs (m.remoteEnd 1 h3 16) (h3 + 16) = true ∧ okIs (ptrAdd h3 16) (h3 + 16) = true ∧ m.group = 2 ∧ ptrHandle (h3 + 16) ≠ 0 ∧ ptrOff (h3 + 16) % atomSize .cas = 0 ∧
    (m.copyLy 0 2).ptr = h3 ∧ (m.copyLy 0 0).ptr = 0x1000 ∧ okIs (m.ownRun 0 0x200 16 16) (spmKey 0 0x200) = true ∧ (0x200 : W32).toNat + 16 ≤ 2 ^ 20 ∧
    (match m.moveSource (m.lighter 0) .dataOnly 0x1008 with | .ok (.loc k none) => k == spmKey 0 0x1008 | _ => false) = true ∧
    (match m.moveEnd (m.lighter 0) 0x1008 8 (dstKind .dataOnly) with | .ok (.loc k none) => k == spmKey 0 0x1008 | _ => false) = true ∧
    copyOk s true 1 16 = true ∧ copyOk s false 0 0 = true := by
  decide +kernel

/-- A registration record's bytes. -/
def regBytes (key ver buf len spn spill flog fln rcnt : Nat) : List Byte :=
  leBytes key 4 ++ leBytes ver 4 ++ leBytes buf 8 ++ leBytes len 4 ++ leBytes spn 4 ++ leBytes spill 8 ++ leBytes flog 8 ++ leBytes fln 4 ++ leBytes rcnt 4 ++ leBytes 0 16

def readsReg (s : State) (p : RegRec → Bool) : Bool :=
  match s.copyMach.regRec 0 0x100 with
  | .ok r => p r && r.rest == 0
  | .error _ => false

def aBuf : LandBuf := { ctx := 0, coll := 0x100, core := 0, ptr := h1, len := 64 }
def aPort : Port :=
  { ctx := 0, h := 1, core := 0, ver := 0, tag := 0x8000, rows := 4, spn := 2, spill := 0x9000, flog := 0xA000, fln := 4, rcnt := 3, closed := false, redirect := none }

/-- A landing buffer, a port at its largest SPN, a port's closing, opening and redirect at its widest, and releases. -/
theorem wit_registrations : let r (l : List Byte) : State := placed copying 0x100 l
    let s := copying.onMach fun m => { m with fab := { m.fab with bufs := [aBuf], ports := [aPort] } }
    readsReg (r (regBytes 7 0 h1.toNat 64 0 0 0 0 0)) (fun r => r.ver == 0 && r.len == 64 && r.spn == 0 && r.rcnt == 0) = true ∧
    readsReg (r (regBytes (2 ^ 24 - 1) 2 h1.toNat 64 65536 8 8 4 0)) (fun r => r.key == 2 ^ 24 - 1 && r.spn == 65536 && r.rcnt == 0) = true ∧
    readsReg (r (regBytes 1 0 0 0 0 0 0 0 9)) (fun r => r.key == 1 && r.spn == 0 && r.len == 0 && r.ver == 0 && r.buf == 0) = true ∧
    readsReg (r (regBytes 1 3 (2 ^ 36 - 1) 0 0 0 0 0 0)) (fun r => r.key == 1 && r.len == 0 && r.rcnt == 0 && r.buf == 2 ^ 36 - 1) = true ∧
    copying.mach.fab.bufs.length + copying.mach.fab.ports.length < 4096 ∧ copying.mach.fab.bufs = [] ∧ copying.mach.fab.ports = [] ∧ copyOk s false 0 0 = true ∧
    s.ctl.ctxid = 0 ∧ s.mach.fab.ports.find? (fun p => p.ctx == 0 && p.h == 1) = some aPort ∧ s.mach.fab.colls = [] ∧
    (∃ b ∈ s.mach.fab.bufs, b.ctx = 0 ∧ b.coll = 0x100 ∧ b.core = 0) := by
  decide +kernel

/-- Where registrations fault: a second one, every registration taken, and a port or a buffer that is not there; a buffer that a running step uses. -/
theorem wit_registration_faults : let s := copying.onMach fun m => { m with fab := { m.fab with bufs := List.replicate 4095 aBuf, ports := [aPort] } }
    ¬ s.mach.fab.bufs.length + s.mach.fab.ports.length < 4096 ∧ aPort ∈ s.mach.fab.ports ∧ aPort.ctx = 0 ∧ aPort.h = 1 ∧ aBuf ∈ s.mach.fab.bufs ∧
    (∀ p ∈ copying.mach.fab.ports, ¬ (p.ctx = 0 ∧ p.h = 1)) ∧ (∀ b ∈ copying.mach.fab.bufs, ¬ (b.ctx = 0 ∧ b.coll = 0x100 ∧ b.core = 0)) := by
  decide +kernel

/-! Witnesses: collectives, in a domain of two ranks of which core 0 is rank 0. -/

/-- A descriptor at SPM 0x100 with its lengths at SPM 0x180: the send region SPM 0x1000, the receive region at handle 1. -/
def collDesc (red root count : Nat) : State :=
  let s := placed copying 0x100 (leBytes 7 4 ++ leBytes 0 1 ++ leBytes red 1 ++ leBytes root 2 ++ leBytes 1000 4 ++ leBytes 0x180 4 ++ leBytes 0x1000 8 ++ leBytes h1.toNat 8 ++
    leBytes 0x400 4 ++ leBytes 0 28)
  let t := placed s 0x180 ((List.range count).flatMap fun _ => leBytes 16 4)
  (t.onCore 0 fun k => { k with dom := k.dom.set 0 (1, 2, 0) }).onMach fun m => { m with fab := { m.fab with bufs := [{ ctx := 0, coll := 7, core := 0, ptr := h1, len := 4096 }] } }

/-- The checks of a collective step of kind k pass. -/
def collOk (k : Fin 4) (red root : Nat) : Bool :=
  let count := if k = 0 then 4 else if k = 3 then 1 else 2
  let s := collDesc red root count
  let m := s.copyMach
  let lens := (List.range count).map fun j => memNat m.mem (spmKey 0 0x180 + 4 * j) 4
  let p := collPlan k.val (red / 4 % 2 == 1) lens 2 0 root
  okIs (m.ownRun 0 0x100 64 64) (spmKey 0 0x100) && okIs (m.ownRun 0 0x180 (4 * count) 8) (spmKey 0 0x180) && (lens.all fun l => l % 16 == 0 && l != 0) &&
    decide (p.region ≤ 4096) && (List.range (p.region / 8)).all (fun j => okIs (ptrAdd h1 ((8 * j : Nat) : Int)) (h1 + BitVec.ofNat 64 (8 * j)) &&
      isOk (m.moveEnd (m.lighter 0) (h1 + BitVec.ofNat 64 (8 * j)) 8 .write)) &&
    p.sources.all (fun o => isOk (m.moveSource (m.lighter 0) .dataOnly (0x1000 + BitVec.ofNat 64 o))) && (m.fab.buf? 0 7 0).isSome && m.fab.colls == [] &&
    memNat m.mem (spmKey 0 0x100 + 36) 28 == 0 && copyOk s (p.sent != 0) 0 p.sent

theorem wit_collective_starts : collOk 0 0 0 = true ∧ collOk 1 4 0 = true ∧ collOk 1 2 0 = true ∧ collOk 2 0 0 = true ∧ collOk 3 0 0 = true ∧ collOk 3 0 1 = true := by
  decide +kernel

/-! Witnesses: landed pieces and ends of collectives. -/

def aRun (kind : Nat) (ready : Bool) : CollRun :=
  { core := 0, flight := 3, ctx := 0, coll := 7, level := 0, kind := kind, red := 0, ord := false, timeout := 100, rank := 0, fe := .dataOnly, staddr := 0x400, sends := [], own := (0, 16),
    slots := [(0, 16), (16, 16)], keys := (List.range 4).map fun j => some (spmKey 0 (0x1000 + 8 * j)), src := [], ready := ready, landed := [0, 0], bounces := 2, reason := 0, start := 0 }

/-- A piece for core 0's collective 7 from a rank. -/
def aPiece (rank off : Nat) : FabMsg := { src := 1, id := 1, dst := 0, ctx := 0, body := .coll { core := 0, coll := 7, rank := rank, off := off, locs := [{ data := 9, full := true, poison := false }] } }

def withRun (r : CollRun) : State :=
  (copying.onMach fun m => { m with fab := { m.fab with colls := [r] } }).onCore 0 fun k => { k with copy := { k.copy with flights := [{ flightOf (.bcast noSems { fe := .dataOnly, pb := false, dl := 0 } 0x100) [] with msgs := [] }] } }

/-- A piece for no step, and one before an `rscat` step is ready or while it or another step runs. -/
theorem wit_collective_pieces : copying.mach.arrives (aPiece 1 8) = true ∧ copying.mach.fab.colls.find? (fun r => r.core == 0 && r.coll == 7 && r.ctx == 0) = none ∧
    ∀ r ∈ [aRun 1 false, aRun 1 true, aRun 3 true],
      (withRun r).mach.arrives (aPiece 1 8) = true ∧ (withRun r).mach.fab.colls.find? (fun r => r.core == 0 && r.coll == 7 && r.ctx == 0) = some r := by
  decide +kernel

/-- The slot of rank 1 has a last location, and no slot stands past it or for rank 2. -/
theorem wit_collective_slots : (aRun 1 true).landed.length = 2 ∧ 8 + 8 ≤ ((aRun 1 true).slots.getD 1 (0, 0)).2 ∧ (aRun 1 true).lost (16 + 8) 8 = false ∧
    ((aRun 1 true).slots.getD 1 (0, 0)).2 < 16 + 8 := by
  decide +kernel

/-- Steps that end: with all received, with a reason, and at the timeout. -/
def allReceived : CollRun := { aRun 1 true with landed := [16, 16] }

theorem wit_collective_ends : (∀ r ∈ [allReceived, { aRun 3 false with reason := 2 }],
      ((withRun r).mach.cores[(0 : CoreId)].flight? .copy 3).isSome = true ∧ (withRun r).mach.fab.coll? 0 3 = some r ∧ memWf (withRun r).mach.mem = true) ∧
    allReceived.received = true ∧ allReceived.start + allReceived.timeout ≤ ((withRun allReceived).onMach fun m => { m with scyc := 100 }).mach.scyc := by
  decide +kernel

/-- Steps that may not end yet: one not all received, and one whose TIMEOUT has passed. -/
theorem wit_collective_waits : (aRun 1 true).reason = 0 ∧ (aRun 1 true).received = false ∧ ¬ ((withRun allReceived).onMach fun m => { m with scyc := 101 }).mach.scyc ≤ allReceived.start + allReceived.timeout ∧
    (withRun (aRun 1 true)).mach.scyc < (aRun 1 true).start + (aRun 1 true).timeout := by
  decide +kernel

/-- A source region read: an own piece that fits its slot, one that is longer, one whose slot is at no place, and one held apart for an ordered sum. -/
theorem wit_collective_launch : ∀ r ∈ [aRun 0 false, { aRun 0 false with own := (0, 32) }, { aRun 0 false with keys := [none, none, none, none] }, { aRun 1 false with ord := true }],
    (withRun r).mach.fab.coll? 0 3 = some r ∧ r.ready = false ∧ r.slots.getD r.rank (0, 0) = (0, 16) := by
  decide +kernel

/-! Witnesses: paging. Handle 1 stands in context 0's table in memory, at level S; its sub-tile 0 has the entry word w0. -/

def paged (w0 : Nat) (host : Nat) : State :=
  let s := copying.onMach fun m => { m with mem := memSetBytes (memSetBytes m.mem (0x100000 + 128) (record 0 4 0 0x200040)) 0x200040 (leBytes w0 8 ++ leBytes host 8) }
  s.onCore 0 fun k => { k with rings := k.rings.set 2 { k.rings[(2 : Fin 3)] with sLevel := [(4, true)], wp := 4 } }

def pageRecOk (s : State) : Bool :=
  match s.copyMach.pageRec 0 1 0 with
  | .ok r => slotOk (entrySlot (s.copyMach.entryWord r 0)) r.stsize && slotOk (65536 * 0x2FFF) r.stsize
  | .error _ => false

/-- A resident sub-tile at the last slot that fits, one that is not resident, and one that is busy. -/
theorem wit_paging_starts : (∀ res ∈ [0, 2 ^ 63], let s := paged (res + 0x1000000) 0
      memWf s.mach.mem = true ∧ copyOk s false 0 0 = true ∧ pageRecOk s = true ∧ entryBusy (s.copyMach.entryWord ((s.copyMach.memRec? 0 1).getD (parseRec [])) 0) = false ∧
      entryRes (s.copyMach.entryWord ((s.copyMach.memRec? 0 1).getD (parseRec [])) 0) = (res != 0) ∧ (0x7FFF8 : W32).toNat % 8 = 0 ∧ (0xFFFF8 : W32).toNat + 8 ≤ 2 ^ 20) ∧
    slotOk (0x3000000000 - 65536) 65536 = true := by
  decide +kernel

/-- A demotion where the host has exposed the sub-tile's slot. -/
theorem wit_paging_down (h : Config.hostExposed 0x10000 (hostSlotSize 65536) = true) :
    ∃ r, (paged (2 ^ 63 + 0x1000000) 0x10000).copyMach.memRec? 0 1 = some r ∧ (paged (2 ^ 63 + 0x1000000) 0x10000).copyMach.hostWord r 0 = 0x10000 ∧ hostOk 0x10000 r.stsize = true := by
  refine ⟨parseRec (record 0 4 0 0x200040), by decide +kernel, by decide +kernel, ?_⟩
  have e : (parseRec (record 0 4 0 0x200040)).stsize = 65536 := by decide +kernel
  rw [e]
  simp only [hostOk, h, Bool.and_true]
  decide

/-- A paging step in flight that holds its sub-tile, or holds it no longer. -/
def pagingFlight (op : Instr) (held : Bool) : State :=
  let s := paged (2 ^ 63 + 2 ^ 61 + 0x1000000) 0
  (s.onCore 0 fun k => { k with copy := { k.copy with flights := [flightOf op []] } }).onMach fun m =>
    { m with holds := if held then [{ ctx := 0, h := 1, k := 0, core := 0, step := 3 }] else [] }

theorem wit_paging_ends : (∀ op ∈ [Instr.pgmovUp noSems 1 0 0x400, .pgmovDown noSems 1 0 0x400, .obcopy noSems 1 0 0x2000], ∀ held, let s := pagingFlight op held
      s.mach.cores[(0 : CoreId)].flight? .copy 3 = some (flightOf op []) ∧ (s.mach.holdOf 0 3).isSome = held ∧
      (s.mach.memRec? 0 1).isSome = true ∧ s.mach.writesDone 0 1 0 = true ∧ s.mach.drained 0 1 0 = true ∧ (flightOf op []).msgs = [] ∧ (flightOf op []).got = [] ∧ (flightOf op []).failed = none) ∧
    (let s := (paged 0x1000000 0).onMach fun m => { m with misses := [{ ctx := 0, h := 1, k := 0, core := none }] }
     (s.mach.misses.any fun y => y.ctx == 0 && y.h == 1 && y.k == 0 && y.core.isNone) = true ∧ entryBusy (s.mach.entryWord ((s.mach.memRec? 0 1).getD (parseRec [])) 0) = false) ∧
    dataMoving (.tmov noSems { fe := .dataOnly, scope := .core, pb := false, dl := 0 } 0 1 0 0 0) = true := by
  decide +kernel

/-- Where paging faults or waits: at level U, on the physical handle, past the sub-tiles, with a slot past HBM, and while BUSY is 1; a retired strand's miss that the pager serves; an
`obcopy` at its switch; and a sub-tile to promote or to demote, of blocks of 4,096 bytes. -/
theorem wit_paging_faults : let s := paged (2 ^ 63 + 2 ^ 61 + 0x1000000) 0
    let r := (s.copyMach.memRec? 0 1).getD (parseRec [])
    (copying.core 0).rings[(2 : Fin 3)].level = false ∧ (s.core 0).rings[(2 : Fin 3)].level = true ∧ r.tiles ≤ (1 : W32).toNat ∧ r.invalid s.mach.group = false ∧ r.home = s.mach.pkg.toNat ∧
    slotOk (0x3000000000 - 65536 + 65536) 65536 = false ∧ entryBusy (s.copyMach.entryWord r 0) = true ∧ r.stsize % 4096 = 0 ∧ memWf s.mach.mem = true ∧ r.rmap + 8 ≤ hostKey 0 ∧
    0x100000 + 128 + 68 + 4 ≤ hostKey 0 ∧ 0x100000 + 128 + 68 + 4 ≤ r.rmap ∧ r.rmap + 16 * 0 + 8 ≤ 0x1000000 ∧
    (let k := (paged 0x1000000 0).onCore 0 fun k => { k with ctl := { k.ctl with status := .ended 0 } }
     ({ ctx := 0, h := 1, k := 0, core := some 0 } : Miss).core = some 0 ∧ (k.core 0).ctl.status ≠ .running) ∧
    (let s := pagingFlight (.obcopy noSems 1 0 0x200) true
     s.mach.holdOf 0 3 = some { ctx := 0, h := 1, k := 0, core := 0, step := 3 } ∧ s.mach.writesDone 0 1 0 = true ∧ (s.mach.ctxs[(0 : Nat)]?.getD none).isSome = true) := by
  decide +kernel

/-! Witnesses: attention. -/

/-- A descriptor's bytes: three rows of dimension 64 and one new token. -/
def attnDesc (depth new : Nat) : List Byte :=
  leBytes 0x1000 4 ++ leBytes 0x2000 4 ++ leBytes 0x3000 4 ++ leBytes 0x400 4 ++ leBytes 0x3F800000 4 ++ leBytes 0x80000000 4 ++ leBytes (2 ^ 32 - 1) 4 ++ leBytes 0 4 ++
    leBytes depth 1 ++ leBytes 1 1 ++ leBytes new 1 ++ leBytes 0 1 ++ leBytes 15 1 ++ leBytes 0 1 ++ leBytes 0 26

def aSeq (lc : Nat) : SeqRec :=
  { seq := 5, ctx := 0, d := 64, lc := lc, staged := [], exts := [{ base := 0, len := 1, stride := 4608 }], ver := 0, moving := none, draining := [] }

def attended (recs : List SeqRec) (ops : List AttnOp) (asks : List Ask) : State :=
  placed (State.reset.onMach fun m => { m with attn := m.attn.set 0 { m.attn[(0 : Fin 2)] with recs := recs, ops := ops, asks := asks } }) 0x100 (attnDesc 1 1)

def anAttn (snap : Option AttnSnap) : AttnOp := { id := 9, core := 0, ctx := 0, h := 5, desc := parseDesc (leNat (attnDesc 1 1)), snap := snap }

theorem wit_attention_issue : let s := attended [] [] []
    s.cleanSrcs [.lit32 0x100, .lit32 5] ∧ s.fits 3 ∧ (s.val (.lit32 0x100)).toNat % 64 = 0 ∧ (s.val (.lit32 0x100)).toNat + 64 ≤ 2 ^ 20 ∧
    (∀ i, i < 8 → memPoisoned (s.mach.flushRun 0 .control (spmKey 0 0x100) 64).mem (spmKey 0 0x100 + 8 * i) = false) ∧
    checkDesc (memNat (s.mach.flushRun 0 .control (spmKey 0 0x100) 64).mem (spmKey 0 0x100) 64) (parseDesc (memNat (s.mach.flushRun 0 .control (spmKey 0 0x100) 64).mem (spmKey 0 0x100) 64)) = none ∧
    handleOf (s.val (.lit32 5)) = some (0, 5) ∧ s.mach.attnInFlight 0 < 8 := by
  unfold State.cleanSrcs State.fits State.val; decide +kernel

/-- An operation whose sequence does not exist, is another context's, is of the other dimension, or takes it. -/
theorem wit_attention_accept : (∀ recs ∈ [[], [{ aSeq 0 with ctx := 1 }], [{ aSeq 0 with d := 128 }], [aSeq 0]], let x := (attended recs [anAttn none] []).mach.attn[(0 : Fin 2)]
      x.ops.find? (fun y => y.id == 9 && y.snap.isNone) = some (anAttn none) ∧ x.arrived 0 5 9 = true ∧ x.rec? 5 = recs.head?) ∧
    ((anAttn none).desc.dim = 64 ∧ (anAttn none).desc.new = 1 ∧ (anAttn none).desc.qpos + (anAttn none).desc.depth = 1) := by
  decide +kernel

/-- Two rows of zeros on an empty cache with no staged token, and a failure. -/
theorem wit_attention_complete : (∀ snap ∈ [AttnSnap.failed 2, .taken 0 [] [] 0 [(List.replicate 64 0, false)]], let s := attended [aSeq 0] [anAttn (some snap)] []
      s.mach.attn[(0 : Fin 2)].ops.find? (·.id == 9) = some (anAttn (some snap)) ∧ memWf s.mach.mem = true ∧ s.mach.attn[(0 : Fin 2)].rec? 5 = some (aSeq 0)) ∧
    (let q := (anAttn none).desc
     q.staddr + 8 ≤ 2 ^ 20 ∧ q.stats = false ∧ q.raise.toNat = 15 ∧ q.raddr + 4 * q.dim * 1 ≤ 2 ^ 20 ∧ (q.staddr + 8 ≤ q.raddr ∨ q.raddr + 4 * q.dim * 1 ≤ q.staddr)) ∧
    (let res := [(List.replicate 64 (0 : BitVec 16), false)].zipIdx.map fun y => rowResult (anAttn none) (fun _ => none) 0 [] y.1 y.2
     (res.filter (·.nan)).length * 2 ^ 40 + (res.filter (·.bad)).length * 2 ^ 32 + min ((res.map (·.skipped)).foldl (· + ·) 0) (2 ^ 32 - 1) < 2 ^ 56 ∧ (res.all fun y => y.words.length == 64) = true) := by
  decide +kernel

def anAsk (op : AskOp) (reply : Option AskReply) : Ask := { id := 4, core := 0, ctx := 0, op := op, reply := reply, after := [] }

/-- An operation behind an earlier one of its core on the sequence; eight in flight; statistics asked for; and a row whose one key scores NaN, or lies in a spoilt block. -/
theorem wit_attention_order : let later : AttnOp := { anAttn none with id := 10 }
    let x := (attended [aSeq 0] [anAttn none, later] []).mach.attn[(0 : Fin 2)]
    x.ops.find? (fun y => y.id == 10 && y.snap.isNone) = some later ∧ x.arrived 0 5 10 = false ∧
    8 ≤ (attended [aSeq 0] ((List.range 8).map fun i => { anAttn none with id := i }) []).mach.attnInFlight 0 ∧
    (let d := parseDesc (leNat (attnDesc 1 1 |>.set 35 1))
     d.dim = 64 ∧ d.stats = true ∧ 0x3000 + 4 * 64 * 1 + 8 ≤ 0x400 + 2 ^ 20) ∧
    rowKeys (anAttn none).desc 1 0 0 = [0] ∧ (rowBlock (anAttn none).desc 1 (fun _ _ => .nan false) (fun _ _ => .zero false) [.zero false] [0] ⟨.inf true, .zero false, [.zero false], 0, false, 0⟩).nan = true := by
  decide +kernel

theorem wit_die_requests : State.reset.cleanSrcs [.lit32 5, .lit32 1] ∧ State.reset.fits 3 ∧ State.reset.mach.askOf 0 = none ∧
    (∀ op ∈ [AskOp.commit 5 1, .drop 5 0, .alloc 5 0x90001, .free 5 0, .move 5 0xF0],
      op.die = 0 ∧
      (let x := (attended [aSeq 0] [] [anAsk op none]).mach.attn[(0 : Fin 2)]
       x.asks.find? (fun y => y.id == 4 && y.reply.isNone) = some (anAsk op none) ∧ x.mayAccept (anAsk op none) = true ∧ x.owned 0 op.handle = some (aSeq 0)) ∧
      ∀ reply ∈ [none, some AskReply.done, some (.result true 7), some (.trap 1)], (attended [aSeq 0] [] [anAsk op reply]).mach.askOf 0 = some (0, anAsk op reply)) := by
  unfold State.cleanSrcs State.fits; decide +kernel

/-- Each request's clauses at a boundary: a commit of every staged token and of one too many, an allocation of the largest chunk, a release of the last extent, and relocations. -/
theorem wit_die_effects : (aSeq 0).staged.length < (1 : W64).toNat ∧ (0 : W64).toNat ≤ (aSeq 32).staged.length ∧ (aSeq 32).lc + (0 : W64).toNat ≤ (aSeq 32).capacity ∧
    (aSeq 32).capacity < (aSeq 32).lc + 1 ∧ (0 : W64).toNat < (aSeq 0).exts.length ∧ (15 : W64).toNat ≤ 15 ∧ (0xFF : W64).toNat < 256 ∧
    (aSeq 0).exts[(0xF0 : W64).toNat % 16]? = some { base := 0, len := 1, stride := 4608 } ∧ (0xFFF0001 : W64).toNat < 2 ^ 28 ∧
    chunkOf (1 * 4608) = some 16 ∧ ((State.reset.mach.attn[(0 : Fin 2)].take 16).isSome = true) ∧ ({ State.reset.mach.attn[(0 : Fin 2)] with free := [] } : AttnDie).take 16 = none ∧
    72 * 64 ≤ 9 * 512 ∧ (0x90001 : W64).toNat / 2 ^ 16 * 512 = 4608 := by
  decide +kernel

/-- Requests that are refused: of no sequence, past the codes of an allocation, and out of turn; and a creation. An accepted operation on the sequence holds a reply back. -/
theorem wit_die_refusals : let die (l : List SeqRec) (op : AskOp) : AttnDie := (attended l [] [anAsk op none]).mach.attn[(0 : Fin 2)]
    let full : SeqRec := { aSeq 0 with exts := List.replicate 16 { base := 0, len := 1, stride := 4608 } }
    let created := die [] (.alloc 0 0x10090001)
    let early := (attended [aSeq 0] [anAttn (some (.failed 2))] [{ anAsk (.commit 5 0) (some .done) with after := [9] }]).mach.attn[(0 : Fin 2)]
    (die [] (.commit 5 0)).owned 0 5 = none ∧ (die [] (.commit 5 0)).mayAccept (anAsk (.commit 5 0) none) = true ∧ 2 ^ 31 ≤ (0x80000000 : W64).toNat ∧ full.exts.length = 16 ∧
    created.mayAccept (anAsk (.alloc 0 0x10090001) none) = true ∧ (0x10090001 : W64).getLsbD 28 = true ∧ (AskOp.alloc 0 0x10090001).creates = true ∧
    (0x10080001 : W64).toNat / 2 ^ 16 % 2 ^ 12 * 512 < 72 * 64 ∧ (die [{ aSeq 0 with moving := some { ext := 0, base := 65536, raise := 15, core := 0 } }] (.commit 5 0)).mayAccept (anAsk (.commit 5 0) none) = false ∧
    (early.asks.all fun y => y.after == [9]) = true ∧ (early.ops.map (·.id)) = [9] := by
  decide +kernel

/-- A token to commit, its block found by the extents and past them. -/
theorem wit_commits : let t : Staged := { key := List.replicate 64 0x3F80, val := List.replicate 64 0x3F80, bad := false }
    let x := (attended [{ aSeq 31 with staged := [t] }] [] []).mach.attn[(0 : Fin 2)]
    x.rec? 5 = some { aSeq 31 with staged := [t] } ∧ locate (aSeq 31).exts (31 / 32) = some 0 ∧ locate (aSeq 31).exts (32 / 32) = none ∧ t.key.length % 32 = 0 ∧
    packExp 3 [(0x3F80 : BitVec 16).toNat * 2 ^ 16] ≠ none ∧ packExp 3 [(0x7F80 : BitVec 16).toNat * 2 ^ 16] = none := by
  decide +kernel

theorem wit_relocations : let r := { aSeq 0 with moving := some { ext := 0, base := 65536, raise := 15, core := 0 } }
    let r1 := { aSeq 0 with draining := [(0, 16, 0)] }
    (attended [r] [] []).mach.attn[(0 : Fin 2)].rec? 5 = some r ∧ r.exts[0]? = some { base := 0, len := 1, stride := 4608 } ∧ (attended [r1] [] []).mach.attn[(0 : Fin 2)].rec? 5 = some r1 := by
  decide +kernel

/-! Witnesses: the samplers. Core 0's sampler is the first. -/

def aSampCtx (tcount : W64) (fb : Bool) : SampCtx :=
  { owner := 0, key := 0x0123456789ABCDEF, ctr := 5, tcount := tcount, tbias := 0x800, tmask := 0x900, tbase := 100, tlen := 64, pbase := 0x10000000, plen := 64, final := 32, budget := 0,
    fb := fb, params := Vector.replicate 8 0 }

/-- A `sample` descriptor's bytes: its record at SPM 0x400, one segment of 64 FP32 logits at SPM 0x1000 with ids from 100. -/
def sampDesc : List Byte := leBytes 0x400 4 ++ leBytes 0 4 ++ leBytes 1 1 ++ leBytes 0 1 ++ leBytes 15 1 ++ leBytes 0 5 ++ leBytes 0x1000 4 ++ leBytes 64 4 ++ leBytes 100 4 ++ leBytes 0 100

def aJob : SampJob := { id := 9, core := 0, ctx := 0, idx := 1023, desc := parseSample (leNat sampDesc), second := false }

/-- The job of a shard of the collective 7, whose root is a sampler. -/
def shardJob (root : Fin 16) (n i : Nat) : SampJob := { aJob with desc := { aJob.desc with shard := true, coll := 7, nsh := n, shidx := i, kc := 64, rootcl := root, timeout := 100 } }

def sampRun (phase : SampPhase) : SampRun :=
  { job := aJob, sc := aSampCtx 0x700 false, start := 0, w := Vector.replicate 16 (Vector.ofFn fun i : Fin 64 => BitVec.ofNat 32 (100 + i.val)), h := Vector.replicate 16 0,
    g := Vector.ofFn fun i => 5 * 256 + BitVec.ofNat 64 (64 * i.val), cand := [(0x3F800000, 101), (0x3F000000, 102)], mx := 0x3F800000, sm := 0x3F800000, flags := .clear, upd := [], accepted := 0,
    charge := 0, phase := phase, seg := 0, off := 0, blk := 0, pc := 32, held := false, committing := false, done := 0, fell := false, gath := [], sectors := [] }

def sampling (r : Option SampRun) (queue : List SampJob) (ctxs : List (Nat × SampCtx)) : State :=
  State.reset.onMach fun m => { m with samp := { m.samp with units := m.samp.units.set 0 { Sampler.reset with run := r, queue := queue, ctxs := ctxs } } }

def issuesOk (s : State) (r : SampRun) (cost : Nat) : Bool :=
  s.sampUnit.run == some r && (r.phase == .block || r.phase == .final) && (r.held || decide (r.charge + cost ≤ (if r.sc.budget = 0 then 16384 else r.sc.budget)))

theorem issues_of {s : State} {r : SampRun} {cost : Nat} (h : issuesOk s r cost = true) : s.issues r cost := by
  simp only [issuesOk, Bool.and_eq_true, Bool.or_eq_true, beq_iff_eq, decide_eq_true_eq] at h
  exact ⟨h.1.1, h.1.2, h.2⟩

/-- Every instruction fits the watchdog's default budget in both phases; an operation that has spent it has no room for one more. -/
theorem wit_sampler_issues : ∀ phase ∈ [SampPhase.block, .final], (sampling (some (sampRun phase)) [] []).issues (sampRun phase) 256 ∧
    (sampling (some { sampRun phase with charge := 16384 - 256 }) [] []).issues { sampRun phase with charge := 16384 - 256 } 256 := by
  intro phase h
  exact ⟨issues_of (by revert phase; decide +kernel), issues_of (by revert phase; decide +kernel)⟩

/-- The operands of the instructions with conditions of their own. -/
theorem wit_sampler_operands : let r := sampRun .block
    0 ≤ (r.pc : Int) + (-32 : Int) ∧ (r.pc : Int) + 31 < r.sc.plen ∧ ({ r with h := r.h.set 3 64 } : SampRun).h[(3 : Fin 16)].toNat ≤ 64 ∧ r.cand ≠ [] ∧ r.usesLeft 3 ≠ 0 ∧ (31 : BitVec 5).toNat ≤ r.usesLeft 0 ∧
    r.upd.length < 8 ∧ r.h[(0 : Fin 16)] = 0 ∧ ({ r with h := r.h.set 3 64 } : SampRun).h[(3 : Fin 16)] ≠ 0 ∧ r.held = false ∧ 16384 < 16384 + 1 := by
  decide +kernel

/-- The entries present for ids 100 to 163 of the tables of counts and of masks. -/
def tabRun : SampRun := sampRun .final
def tabMach : Mach := (sampling (some tabRun) [] [(1023, aSampCtx 0x700 false)]).mach

/-- An access of a table at a pointer, aligned to n bytes and clean. -/
def entryOk (p : Except NoPlace W64) (n : Nat) (kind : Kind) : Bool :=
  match p with
  | .ok q => ptrOff q % n == 0 && (match place tabMach tabRun.asker q n kind with | .ok (.store key _ _) => !memPoisoned tabMach.mem (locOf key) | _ => false)
  | .error _ => false

theorem wit_sampler_tables : (∀ k : Fin 64, entryOk (ptrAdd 0x700 ((4 * (tabRun.w[(0 : Fin 16)][k].toNat - tabRun.sc.tbase) : Nat) : Int)) 4 .read = true) ∧
    ∀ k : Fin 64, entryOk (ptrAdd 0x900 (((tabRun.w[(0 : Fin 16)][k].toNat - tabRun.sc.tbase) / 8 : Nat) : Int)) 1 .read = true := by
  decide +kernel

/-- A send of id 101, with no update recorded and none counted, and with one counted. -/
theorem wit_sampler_sends : tabRun.job.desc.shard = false ∧ tabRun.cand[tabRun.h[(0 : Fin 16)].toNat]? = some (0x3F800000, 101) ∧
    (tabRun.job.idx, aSampCtx 0x700 false) ∈ tabMach.samp.units[(0 : Fin 16)].ctxs ∧ (tabRun.updates 101 false).isEmpty = true ∧ tabRun.done = 0 ∧
    (match tabRun.updates 101 true with | [(u, p)] => !u.bias && u.val == 1 && entryOk p 4 .atomic | _ => false) = true ∧ memWf tabMach.mem = true ∧
    tabRun.seg < tabRun.job.desc.segs.length ∧ tabRun.job.desc.segs.length ≤ 1 := by
  decide +kernel

/-- Positions of a block that pass their draws, one that does not, and one without a ratio. -/
theorem wit_sampler_accepts : let u := fp32.decode (drawOf (cross 0x0123456789ABCDEF (5 * 256 + 1))).toNat
    (fp32.decode 0x7F800000) = .inf false ∧ ((u.mul (fp32.decode 0x3F800000)).1.lt (fp32.decode 0x3F800000)) = true ∧ ((u.mul (fp32.decode 0x3F800000)).1.lt (fp32.decode 0)) = false ∧
    (fp32.decode 0x7FC00000).isNan = true := by
  decide +kernel

/-- Two updates of one entry recorded, and the count after them; and one of an absent entry. -/
theorem wit_sampler_updates : let up (id : W32) : TabUpdate := { bias := false, id := id, val := 5 }
    let r := { tabRun with upd := [up 101, up 101, up 164] }
    r.updates 101 true = [(up 101, .ok 0x704), (up 101, .ok 0x704), ({ up 101 with val := 1 }, .ok 0x704)] ∧ (r.sc.entry .count 164).isNone = true ∧
    (match place tabMach tabRun.asker 0x704 4 .atomic with | .ok (.store key _ none) => key == spmKey 0 0x704 | _ => false) = true := by
  exact ⟨rfl, by decide +kernel, by decide +kernel⟩

def contextImage (plen : Nat) : List Byte :=
  leBytes 1 8 ++ leBytes 2 8 ++ leBytes 0 24 ++ leBytes 0 8 ++ leBytes 0x10000000 4 ++ leBytes plen 2 ++ leBytes 0 2 ++ leBytes 0 68

/-- A descriptor that passes its checks; a context's image, and one that unbinds it. -/
theorem wit_sample_issue : let s := placed State.reset 0x100 sampDesc
    let m1 := s.mach.flushRun 0 .control (spmKey 0 0x100) 128
    s.cleanSrcs [.lit32 0x100, .lit32 1023] ∧ s.fits 3 ∧ (s.val (.lit32 0x100)).toNat % 64 = 0 ∧ (s.val (.lit32 0x100)).toNat + 128 ≤ 2 ^ 20 ∧ (s.val (.lit32 1023)).toNat < 1024 ∧
    (∀ i, i < 16 → memPoisoned m1.mem (spmKey 0 0x100 + 8 * i) = false) ∧ m1.checkSample 0 s.ctl.ctxid (memNat m1.mem (spmKey 0 0x100) 128) (parseSample (memNat m1.mem (spmKey 0 0x100) 128)) = none ∧
    ((s.mach.samp.units[(0 : Fin 16)]).jobs.filter fun j => j.core == 0).length < 4 := by
  unfold State.cleanSrcs State.fits State.val; decide +kernel

theorem wit_sbind_issue : (∀ plen ∈ [0, 16384], badCtx (leNat (contextImage plen)) = (plen == 0) ∧ (parseCtx 0 (leNat (contextImage plen))).plen = plen) ∧
    (1023 : W64).toNat < 2 ^ 32 ∧ bits (1023 : W64).toNat 30 10 = 0 ∧ (1023 : W64).toNat.testBit 31 = false ∧ bits (0x800003FF : W64).toNat 30 10 = 0 ∧ (0x800003FF : W64).toNat.testBit 31 = true ∧
    (State.reset.mach.samp.units[(0 : Fin 16)]).jobs = [] ∧ (State.reset.mach.samp.units[(0 : Fin 16)]).binds = [] ∧ (State.reset.mach.samp.units[(0 : Fin 16)]).ctxs = [] := by
  decide +kernel

/-- An `sbind` whose turn has not come: an earlier operation is queued on its context; and one of a context that another owner has bound. -/
theorem wit_sbind_waits : let x := (sampling none [aJob] []).mach.samp.units[(0 : Fin 16)]
    aJob ∈ x.jobs ∧ aJob.idx = 1023 ∧ ¬ 10 ≤ aJob.id ∧ ({ aSampCtx 0 false with owner := 1 } : SampCtx).owner ≠ State.reset.ctl.ctxid := by
  decide +kernel

/-- An operation to accept whose context is not bound, is another owner's, or is its own. -/
theorem wit_sample_accept : ∀ ctxs ∈ [[], [(1023, { aSampCtx 0 false with owner := 1 })], [(1023, aSampCtx 0 false)]], let x := (sampling none [aJob] ctxs).mach.samp.units[(0 : Fin 16)]
    x.run = none ∧ x.queue = aJob :: [] ∧ x.binds = [] ∧ x.ctxs.find? (fun y => y.1 == aJob.idx) = ctxs.head? ∧ aJob.desc.shard = false ∧ aJob.desc.auxaddr = 0 := by
  decide +kernel

/-- A block of 64 clean logits, and one with a poisoned word. -/
theorem wit_sampler_block : ∀ p, let r := sampRun .load
    let s := (sampling (some r) [] []).onMach fun m => { m with mem := memSetPoison m.mem (spmKey 0 0x1008) p }
    s.mach.samp.units[(0 : Fin 16)].run = some r ∧ r.job.desc.segs[r.seg]? = some { addr := 0x1000, count := 64, id0 := 100 } ∧
    (match s.mach.nextBlock r with | some x => x.2.2 == p | none => false) = true := by
  decide +kernel

/-- The final phase, a watchdog with and without the fallback, and an ended operation. -/
theorem wit_sampler_ends : (∀ phase ∈ [SampPhase.ready, .exhausted true, .exhausted false, .ended 4 15 0xFFFFFFFF, .ended 0 0 101], let r := sampRun phase
      let s := sampling (some r) [] []
      s.mach.samp.units[(0 : Fin 16)].run = some r ∧ r.job.desc.shard = false ∧ r.sc.fb = false ∧ r.fell = false ∧ s.mach.ownRunKey 0 0 r.job.desc.resaddr 16 = some (spmKey 0 0x400) ∧
      (spmKey 0 0x400) % 8 = 0 ∧ memWf s.mach.mem = true ∧ r.job.desc.raise.toNat = 15) ∧
    (sampRun .block).status 4 15 < 2 ^ 64 := by
  decide +kernel

theorem wit_sampler_fallback : let r := { sampRun (.exhausted true) with sc := aSampCtx 0 true }
    let s := sampling (some r) [] []
    r.sc.fb = true ∧ r.done = 0 ∧ r.sc.tcount = 0 ∧ (s.mach.withoutProgram r).2 = false ∧ ((s.mach.withoutProgram r).1.fallback).isSome = true := by
  decide +kernel

/-- The same with a table of counts, whose entry of the token is in place. -/
theorem wit_sampler_fallback_counts : let r := { sampRun (.exhausted true) with sc := aSampCtx 0x700 true }
    let s := sampling (some r) [] [(1023, aSampCtx 0x700 true)]
    (match (s.mach.withoutProgram r).1.fallback with
     | some (_, tok) => (match r.sc.entry .count tok with | some (.ok p) => ptrOff p % 4 == 0 && (match place s.mach r.asker p 4 .atomic with | .ok (.store _ _ _) => true | _ => false) | _ => false)
     | none => false) = true ∧ memWf s.mach.mem = true := by
  decide +kernel

/-- Auxiliary words of an operation, clean and poisoned. -/
theorem wit_sampler_aux : ∀ p, let s := (sampling none [] []).onMach fun m => { m with mem := memSetPoison m.mem (spmKey 0 0x2008) p }
    s.mach.ownRunKey 0 0 0x2000 512 = some (spmKey 0 0x2000) ∧ memPoisoned s.mach.mem (spmKey 0 0x2000 + 8 * 1) = p ∧ memPoisoned s.mach.mem (spmKey 0 0x2000) = false := by
  decide +kernel

/-- Shard 1 of a collective of two or three, whose root is the first sampler. -/
def aContribution (failed : Bool) : ShardMsg :=
  { src := 0, cl := 1, root := 0, coll := 7, shard := 1, timeout := 100, mx := 0, sm := 0, cands := [], failed := failed, covers := none }

def sharded (run : Option SampRun) (contribs : List ShardMsg) (replies : List (Fin 16 × ShardReply)) (held : List (Nat × ShardMsg)) (now : Nat) : State :=
  State.reset.onMach fun m => { m with scyc := now, samp := { m.samp with contribs := contribs, replies := replies, units := m.samp.units.set 0 { Sampler.reset with run := run, held := held, ctxs := [(1023, aSampCtx 0 false)] } } }

def rootRun (n : Nat) : SampRun := { sampRun .gather with job := shardJob 0 n 0 }
def shardRun : SampRun := { sampRun (.sent 0) with job := shardJob 3 2 1 }

theorem wit_contributions : (∀ failed, let g := aContribution failed
      g ∈ (sharded none [g] [] [] 0).mach.samp.contribs ∧ g.src = State.reset.mach.pkg ∧ (sharded none [g] [] [] 0).mach.samp.units[(0 : Fin 16)].run = none ∧
      (sharded none [g] [] [] 0).mach.samp.units[(0 : Fin 16)].finished = [] ∧ (sharded none [g] [] [] 0).mach.samp.units[(0 : Fin 16)].held = []) ∧
    (rootRun 3).phase = .gather ∧ (rootRun 3).job.desc.coll = 7 ∧ State.reset.mach.isRoot 0 (rootRun 3).job.desc = true ∧ 1 ∈ (rootRun 2).missing ∧ (rootRun 3).missing = [1, 2] ∧
    1 ∉ ({ rootRun 2 with gath := [aContribution false] } : SampRun).missing ∧ ({ aContribution false with src := 1 } : ShardMsg).src.toNat < objects.mach.group := by
  decide +kernel

def aReply (token : Option (W32 × Bool)) : ShardReply := { coll := 7, shard := 1, token := token }

theorem wit_shards : (∀ y ∈ [aReply none, aReply (some (101, false)), aReply (some (101, true))],
      let s := sharded (some { shardRun with sc := aSampCtx 0 false }) [] [(0, y)] [] 0
      (0, y) ∈ s.mach.samp.replies ∧ shardRun.phase = .sent 0 ∧ shardRun.job.desc.coll = 7 ∧ shardRun.job.desc.shidx = 1 ∧ s.mach.isRoot 0 shardRun.job.desc = false ∧
      shardRun.done = 0 ∧ shardRun.upd = [] ∧ (aSampCtx 0 false).tcount = 0 ∧ (shardRun.job.idx, aSampCtx 0 false) ∈ s.mach.samp.units[(0 : Fin 16)].ctxs) ∧
    (rootRun 2).start + (rootRun 2).job.desc.timeout ≤ (sharded none [] [] [] 100).mach.scyc ∧ 0 + 2 * shardRun.job.desc.timeout ≤ (sharded none [] [] [] 200).mach.scyc ∧
    (sharded none [] [] [] 199).mach.scyc < 0 + 2 * shardRun.job.desc.timeout ∧ (sharded none [] [] [(0, aContribution false)] 100).mach.samp.units[(0 : Fin 16)].held[0]? = some (0, aContribution false) ∧
    0 + (aContribution false).timeout ≤ 100 := by
  decide +kernel

/-- A root's last instructions: of a shard, of a root with every contribution but its own, and of one in its final phase; and of a shard without its fallback. -/
theorem wit_shard_sends : let block (j : SampJob) : SampRun := { sampRun .block with job := j, seg := 1 }
    let root : SampRun := { sampRun .final with job := shardJob 0 2 0 }
    issuesOk (sharded (some (block (shardJob 3 2 1))) [] [] [] 0) (block (shardJob 3 2 1)) 1 = true ∧ issuesOk (sharded (some (block (shardJob 0 2 0))) [] [] [] 0) (block (shardJob 0 2 0)) 1 = true ∧
    issuesOk (sharded (some root) [] [] [] 0) root 1 = true ∧ State.reset.mach.isRoot 0 (shardJob 0 2 0).desc = true ∧ State.reset.mach.isRoot 0 (shardJob 3 2 1).desc = false ∧
    (block (shardJob 3 2 1)).job.desc.segs.length ≤ (block (shardJob 3 2 1)).seg ∧ root.upd = [] ∧ root.cand[root.h[(0 : Fin 16)].toNat]? = some (0x3F800000, 101) ∧
    ({ root with sc := aSampCtx 0 false } : SampRun).sc.entry .count 101 = none ∧ root.sc.entry .count 99 = none := by
  decide +kernel

/-- A root's operation accepted, with a held contribution and with one that failed; a contribution of a collective that has failed; and the seventeenth collective held. -/
theorem wit_root_accepts : (∀ failed, let s := (sharded none [] [] [(0, aContribution failed)] 0).onMach fun m => { m with samp := { m.samp with units := m.samp.units.set 0 { m.samp.units[(0 : Fin 16)] with queue := [shardJob 0 2 0] } } }
      let x := s.mach.samp.units[(0 : Fin 16)]
      x.run = none ∧ x.queue = [shardJob 0 2 0] ∧ x.binds = [] ∧ x.ctxs.find? (fun z => z.1 == (shardJob 0 2 0).idx) = some (1023, aSampCtx 0 false) ∧ s.mach.isRoot 0 (shardJob 0 2 0).desc = true ∧
      (shardJob 0 2 0).second = false ∧ x.finished = [] ∧ (x.held.map fun h => h.2.failed) = [failed]) ∧
    ({ Sampler.reset with finished := [(7, [1])] } : Sampler).finished = [((aContribution false).coll, [(aContribution false).shard])] ∧
    (let held : List (Nat × ShardMsg) := (List.range 16).map fun i => (0, { aContribution false with coll := BitVec.ofNat 32 (100 + i) })
     let colls := (held.map fun h => h.2.coll).eraseDups
     (aContribution false).coll ∉ colls ∧ 16 ≤ colls.length ∧ (0 : CoreId).val = 0) := by
  decide +kernel

/-! Witnesses: waits. -/

/-- An instruction's words at SPM 0, where the control and vector strands stand. -/
def withInstr (s : State) (i : Instr) : State := placed s 0 ((encode i).flatMap fun w => leBytes w.toNat 4)

def fetchIs (x : Fetch) (i : Instr) (n : Nat) : Bool :=
  match x with
  | .ok j k => j == i && k == n
  | _ => false

theorem fetch_of {x : Fetch} {i : Instr} {n : Nat} (h : fetchIs x i n = true) : x = .ok i n := by
  cases x with
  | ok j k => simp only [fetchIs, Bool.and_eq_true, beq_iff_eq] at h; obtain ⟨rfl, rfl⟩ := h; rfl
  | _ => cases h

def anyMemQ : MemQ := { cls := 0, ord := .none, scope := .core, off := 0 }
def anyAtomQ : AtomQ := { cls := 0, ord := .none, scope := .core }

/-- A wait since s-cycle 0. -/
def aWait (expiry : Expiry) : Wait :=
  { start := 0, budget := 100, ea := 0x1000, words := 1, expiry := expiry, fe := true, limit := 3, retries := 0, last := 0, moored := false, woken := false, full := false }

/-- Core 0's control strand and vector strand wait, at an s-cycle. -/
def waiting (i : Instr) (w : Wait) (now : Nat) : State :=
  withInstr ((core0 fun k => { k with ctl := { k.ctl with wait := some w, status := .running }, vec := { k.vec with wait := some w, status := .running } }).onMach fun m => { m with scyc := now }) i

theorem wit_waits_control : ∀ i ∈ [Instr.ldwait (.x 3) (.x 4) anyMemQ, .ldcons (.x 3) (.x 4) anyMemQ, .stfill (.x 3) (.x 4) anyMemQ, .moor (.x 3) (.x 4) (.x 5)],
    ∀ w ∈ [aWait .trap, { aWait .trap with woken := true }, { aWait .trap with full := true }], let s := waiting i w 256
    s.mach.openWait 0 .control = some w ∧ fetchIs (s.mach.fetch 0 (s.mach.cores[(0 : CoreId)]).ctl.pc decodeControl) i 1 = true ∧ w.last + 8 ≤ s.mach.scyc ∧ w.last + 256 ≤ s.mach.scyc ∧
    (waiting i w 7).mach.scyc < w.last + 8 := by
  decide +kernel

theorem wit_waits_vector : ∀ i ∈ [Instr.vldwait none .none 0 .zero anyGuard, .vldcons none .none 0 .zero anyGuard, .vstfill none (.v 3) 0 .zero anyGuard],
    let s := waiting i (aWait .trap) 256
    s.mach.openWait 0 .vector = some (aWait .trap) ∧ fetchIs (s.mach.fetch 0 (s.mach.cores[(0 : CoreId)]).vec.pc (decodePrefixed decodeVectorMemory)) i 1 = true := by
  decide +kernel

/-- A `moor` at its budget, and a held atomic before and at it. -/
theorem wit_wait_expiry : (∀ e ∈ [Expiry.moor (.x 3), .replay], let s := waiting (.aadd (.x 3) (.x 4) (.x 5) anyAtomQ) (aWait e) 100
      s.mach.openWait 0 .control = some (aWait e) ∧ (aWait e).start + (aWait e).budget ≤ s.mach.scyc ∧ s.mach.mayExpire 0 .control = true ∧
      (s.mach.cores[(0 : CoreId)]).ctl.pc.toNat + (aWait e).words < 2 ^ 18) ∧
    fetchIs ((waiting (.aadd (.x 3) (.x 4) (.x 5) anyAtomQ) (aWait .replay) 0).mach.fetch 0 0 decodeControl) (.aadd (.x 3) (.x 4) (.x 5) anyAtomQ) 1 = true := by
  decide +kernel

/-- A step of a running ring that waits for a semaphore, at its budget and before it. -/
theorem wit_step_wait : let w : Sems := { aw := 14, rs := 15 }
    let f : Fetched := { at_ := 0, budget := 5, op := .mrel w, words := 1 }
    ∀ now ∈ [4, 5], let s := (core0 fun k => { k with rings := k.rings.set 0 { (CmdRing.absent) with run := true, lsize := 6, wp := 8 }, mata := { k.mata with fetched := some f } }).onMach fun m => { m with scyc := now }
    ((s.core 0).eng .matrixA).fetched = some f ∧ ((s.core 0).rings[(0 : Fin 3)]).run = true ∧ (s.core 0).stop = false ∧ (s.mach.scyc < f.at_ + f.budget ↔ now = 4) ∧
    (s.core 0).awaitOk .matrixA (matrixAwait f.op) = false ∧ ((s.core 0).eng .matrixA).report = [] ∧ ((s.core 0).q[outQueue .matrixA]).length ≤ 6 := by
  decide +kernel

/-- An atomic of the copy strand on handle 1 of this package, on its way. -/
def atomMsg (src : BitVec 12) : FabMsg := { src := src, dst := 0, ctx := 0, id := 7, body := .atom h1 .add 5 0 }
def atomEntry : FabEntry :=
  { msg := atomMsg 0, core := 0, strand := .copy, flight := 3, start := 0, delivered := false, reply := none, live := true, dests := [], budget := 16777216, bounces := 0, resendAt := none, redirected := false }
def atomFlight : Flight := { flightOf (.fatom noSems .add 0 0 0 0) [] with msgs := [7], far := h1 }

/-- The atomic not watched, and watched in replay for another strand. -/
def atomHeld (mode now : Nat) : State :=
  (objects.onCore 0 fun k => { k with copy := { k.copy with flights := [atomFlight] } }).onMach fun m =>
    { m with scyc := now, fab := { m.fab with net := [atomEntry] }, replays := m.replays.set 0 { Replay.off with mode := mode, watched := [1], cur := some 0xFFF00001 } }

theorem wit_held_atomic : (∀ mode ∈ [0, 2], (atomHeld mode 0).mach.heldAtom 0 = some atomEntry ∧ ((atomHeld mode 0).mach.cores[(0 : CoreId)]).flight? .copy 3 = some atomFlight ∧
      (atomHeld mode 0).mach.arrives (atomMsg 0) = true ∧ (atomHeld mode 0).mach.gateHolds 0 (atomMsg 0) = (mode == 2)) ∧ atomFlight.failed = none ∧
    (let s := atomHeld 2 (2 ^ 32)
     atomEntry.start + (((s.mach.cores[(0 : CoreId)]).ctl.mbud[(4 : Fin 5)]).toNat) ≤ s.mach.scyc) := by
  decide +kernel

/-! Witnesses: boundaries. -/

def anEvent : UEvent := { source := 1, status := 0, tag := 9 }
def anAsync : AsyncTrap := { src := 1, trap := someTrap, miss := some (1, 0) }

/-- A control strand at U with an event, and one with a trap, enabled or not. -/
theorem wit_boundaries : (∀ en, let s := ctl0 fun k => { k with status := .running, sup := false, events := [anEvent], uiEn := en }
      (s.mach.cores[(0 : CoreId)]).ctl.status = .running ∧ s.mach.mayBound 0 = true ∧ (s.mach.cores[(0 : CoreId)]).ctl.pending = [] ∧ (s.mach.cores[(0 : CoreId)]).ctl.uiActive = false) ∧
    (∀ en, let s := tasked.onCtl 0 fun k => { k with status := .running, sup := false, pending := [anAsync], stvecEn := en }
      (s.mach.cores[(0 : CoreId)]).ctl.pending = anAsync :: [] ∧ s.mach.mayBound 0 = true ∧ (s.mach.cores[(0 : CoreId)]).task = some 1) ∧
    (attended [aSeq 0] [] []).mach.attn[(0 : Fin 2)].rec? 5 = some (aSeq 0) ∧ ((ctl0 fun k => { k with sup := false }).mach.cores[(0 : CoreId)]).ctl.sup = false ∧
    (∀ act, ((core0 fun k => { k with vec := { k.vec with loop := { k.vec.loop with act := act } } }).core 0).vec.loop.act = act) := by
  decide +kernel

/-- Sixteen traps due, and a seventeenth; a waiting vector strand of the context that has issued; images and the shape sets of a vector strand in an instruction. -/
theorem wit_boundary_traps : let many (n : Nat) : State := tasked.onCtl 0 fun k => { k with status := .running, sup := false, pending := List.replicate n { anAsync with src := 2, miss := none }, stvecEn := true }
    (∀ n ∈ [16, 17], (((many n).core 0).ctl.held ++ ((many n).core 0).ctl.pending.filter fun b => b.trap.cls != .objMiss).length = n ∧ (many n).mach.mayBound 0 = true) ∧
    (let s := shaped.onVec 0 fun v => { v with issued := true, oq := v.oq.set 3 [.loaded v.v[(0 : Fin 32)]] }
     (s.core 0).vec.issued = true ∧ (s.mach.remotes.any fun r => r.core == 0) = false ∧ ((s.core 0).vec.oq[(3 : Fin 4)]).length = 1) ∧
    (∀ phase ∈ [SampPhase.load, .block], (∀ o c tok, sampRun phase ≠ sampRun (.ended o c tok))) ∧ locate (aSeq 0).exts 0 = some 0 := by
  refine ⟨by decide +kernel, by decide +kernel, ?_, by decide +kernel⟩
  intro phase h o c tok e
  have e2 : (sampRun phase).phase = (sampRun (.ended o c tok)).phase := congrArg SampRun.phase e
  have e3 : phase = .ended o c tok := e2
  subst e3
  simp at h

/-! Witnesses: messages of package 1 at their home, on handle 1, whose first location is full, or empty. -/

def fromFar (body : FabBody) : FabMsg := { src := 1, dst := 0, ctx := 0, id := 7, body := body }
def homed (full : Bool) : State := objects.onMach fun m => { m with mem := memSetFull m.mem 0x1000000 full }

def storesAt (s : State) (g : FabMsg) (l : List (W64 × Nat × Kind)) (keys : List Nat) : Bool :=
  match s.mach.homeAll g l with
  | .stores k => k == keys
  | _ => false

def failsAt (s : State) (g : FabMsg) (l : List (W64 × Nat × Kind)) : Bool :=
  match s.mach.homeAll g l with
  | .fail => true
  | _ => false

theorem wit_home_messages : ∀ full, let s := homed full
    s.mach.arrives (fromFar (.get h1 8 true)) = true ∧ memWf s.mach.mem = true ∧
    storesAt s (fromFar (.get h1 16 true)) [(h1, 8, .read), (h1 + 8, 8, .read)] [0x1000000, 0x1000008] = true ∧ failsAt s (fromFar (.get h3 8 true)) [(h3, 8, .read)] = true ∧
    storesAt s (fromFar (.puts [])) [(h1, 8, .write)] [0x1000000] = true ∧ failsAt s (fromFar (.puts [])) [(h3, 8, .write)] = true ∧
    (∀ op ∈ [RemoteOp.load 8, .state, .wait, .consume, .fill 5], storesAt s (fromFar (.access h1 op)) (accessNeeds h1 op) [0x1000000] = true) ∧
    memFull s.mach.mem 0x1000000 = full ∧ memPoisoned s.mach.mem 0x1000000 = false ∧ 0x1000000 % 8 = 0 := by
  decide +kernel

/-- Messages at and past the payload bound, and those that carry parts of a strand's or a step's access. -/
theorem wit_home_parts : payloadOf (.get h1 4096 true) = 4096 ∧ 4096 < payloadOf (.get h1 4104 true) ∧ (∀ full, let s := homed full
    (∀ op ∈ [RemoteOp.table true 0, .check [(h1, .readFull)], .feWords 1 [h1] [], .feWords 2 [h1] [wholeWord 7]],
      storesAt s (fromFar (.access h1 op)) (accessNeeds h1 op) [0x1000000] = true) ∧
    storesAt s (fromFar (.access h1 (.gather 4 [h1, h1 + 4]))) ([h1, h1 + 4].map fun q => (q, 4, .read)) [0x1000000, 0x1000004] = true ∧
    storesAt s (fromFar (.access h1 (.scatter [(h1, wholeWord 7)]))) [(h1, 8, .write)] [0x1000000] = true) := by
  decide +kernel

/-- A mooring in a list of context 0 in device memory, in its bucket and beside it. -/
theorem wit_home_lists : let e : Mooring := { pkg := 1, ctx := 0, key := moorKey 3 h1, core := 3, strand := .control, wantEmpty := false, idx := 0 }
    let s := objects.onMach fun m => { m with ctxs := m.ctxs.set 0 ((m.ctxs[0]).map fun x => { x with mlbase := 0x200000 }), moorings := [e] }
    (s.mach.ctx? 0).isSome = true ∧ 0x200000 + 32768 + 16 * 640 ≤ hbmEnd ∧ (s.mach.moorings.filter (·.ctx == 0)).length < 640 ∧ bucketOf e.key = bucketOf (moorKey 3 h1) ∧
    bucketOf (moorKey 3 h1) ≠ bucketOf (moorKey 4 (h1 + 8)) := by
  decide +kernel

theorem wit_home_moors : (homed true).mach.ctxs[0]? = some (some { otbase := 0x100000, otlen := 64, dsmBase := 0, dsmSize := 0x10000, clmBase := 0, clmSize := 0x10000, mlbase := 0, pool := 640, stvec := 0, trefl := 0, ckpool := 0 }) ∧ ((homed true).mach.moorings.filter (·.ctx == 0)).length < 640 := by
  decide +kernel

/-- An atomic that translates, unpoisoned and poisoned, and one that does not; a message that has been answered. -/
theorem wit_home_atomics : (∀ bad, let s := objects.onMach fun m => { m with mem := memSetPoison m.mem 0x1000000 bad }
      (match s.mach.homeAt (atomMsg 1) h1 8 .atomic with | .store k => k == 0x1000000 | _ => false) = true ∧ (match s.mach.homeAt (atomMsg 1) h3 8 .atomic with | .fail => true | _ => false) = true ∧
      memPoisoned s.mach.mem (0x1000000 / 8 * 8) = bad ∧ s.mach.watched 0 (0x1000000 / 8 * 8) = false ∧ s.mach.arrives (atomMsg 1) = true) ∧
    (objects.onMach fun m => { m with fab := { m.fab with out := [(1, 7, .landed)] } }).mach.arrives (atomMsg 1) = false := by
  decide +kernel

/-! Witnesses: rows, of handle 4, a 16 by 16 FP32 object. -/

def record2 : List Byte :=
  leBytes (2 ^ 63 + 63 * 2 ^ 54 + 2 ^ 52) 8 ++ leBytes 0x300000 8 ++ leBytes 16 4 ++ leBytes 16 4 ++ leBytes 0 8 ++ leBytes 4 8 ++ leBytes 512 8 ++ leBytes 0 16 ++ leBytes 7 1 ++ leBytes 7 1 ++ leBytes 0 58

def aRow (gen : BitVec 8) (row : BitVec 28) : RowMsg :=
  { h := 4, row := row, col0 := 8, otype := 0, n := 2, gen := gen, mv := 5, add := false, fe := false, data := leBytes 0x3F800000 4 ++ leBytes 0x40000000 4, poison := false }

def rowPort : Port :=
  { ctx := 0, h := 4, core := 0, ver := 5, tag := 0x8000, rows := 4, spn := 0, spill := 0, flog := 0, fln := 0, rcnt := 0, closed := false, redirect := none }

/-- Package 0 with a port, and the tag of row 3. -/
def rowed (ports : List Port) (tag : Byte) : State :=
  (placed objects 0x8003 [tag]).onMach fun m =>
    { m with fab := { m.fab with ports := ports }, mcache := m.mcache ++ [.record none 0 4 record2, .entry none 0 4 0 (BitVec.ofNat 64 (2 ^ 63 + 0x4000000)) 0] }

def placedOk (s : State) (r : RowMsg) : Bool :=
  match s.mach.placeRow (fromFar (.row r)) r with
  | .done _ => true
  | _ => false

def notPlaced (s : State) (r : RowMsg) : Bool :=
  match s.mach.placeRow (fromFar (.row r)) r with
  | .fail => true
  | _ => false

def portStore (x : HomeAt) : Option Nat :=
  match x with
  | .store key => some key
  | _ => none

/-- Rows with and without a port, redirected, stale, squashed, and written; row 3 has a tag and row 4 has none. -/
theorem wit_rows : (rowed [] 0).mach.arrives (fromFar (.row (aRow 1 3))) = true ∧ memWf (rowed [] 0).mach.mem = true ∧ (rowed [] 0).mach.fab.port? 0 4 = none ∧
    (∀ p ∈ [rowPort, { rowPort with redirect := some (1, 9, 6) }, { rowPort with redirect := some (1, 9, 5) }, { rowPort with ver := 6 }, { rowPort with closed := true },
        { rowPort with closed := true, spill := 0x9000, spn := 1 }], (rowed [p] 0).mach.fab.port? 0 4 = some p) ∧
    placedOk (rowed [] 0) (aRow 1 15) = true ∧ notPlaced (rowed [] 0) (aRow 1 16) = true ∧ (aRow 0x81 3).gen.getLsbD 7 = true ∧
    portStore ((rowed [rowPort] 0).mach.portAt rowPort rowPort.tag 3 1 .write) = some (spmKey 0 0x8003) ∧ rowPort.tag ≠ 0 ∧ 3 < rowPort.rows ∧ ¬ 4 < rowPort.rows ∧
    (∀ tag ∈ [(0 : Byte), 1, 2, 0x81], memByte (rowed [rowPort] tag).mach.mem (spmKey 0 0x8003) = tag) ∧ placedOk (rowed [rowPort] 2) (aRow 1 3) = true ∧
    (let s := rowed [{ rowPort with closed := true, spill := 0x9000, spn := 1 }] 0
     (s.mach.spillRow { rowPort with closed := true, spill := 0x9000, spn := 1 } (fromFar (.row (aRow 1 4))) (aRow 1 4)).2 = some .landed) ∧
    ((rowed [rowPort] 0).mach.spillRow rowPort (fromFar (.row (aRow 1 4))) (aRow 1 4)).2 = some (.failed 2) := by
  decide +kernel

/-- Rows to be added, one with an element left and one with none; and a port whose tag lies in a sub-tile that is away. -/
theorem wit_row_adds : let r := { aRow 1 3 with add := true }
    let a (l : List (Nat × List Byte)) : RowAdd := { msg := fromFar (.row r), use := { ctx := 0, h := 4, k := 0, ver := 0 }, left := l }
    (∀ l ∈ [[], [(0x4000000, leBytes 0x3F800000 4)]], let s := (rowed [rowPort] 0).onMach fun m => { m with fab := { m.fab with adds := [a l] } }
      s.mach.fab.adds.find? (fun x => x.msg == fromFar (.row r)) = some (a l)) ∧ placedOk (rowed [] 0) r = true ∧
    (let p := { rowPort with tag := h2 }
     let s := (rowed [p] 0).onMach fun m => { m with mcache := (m.mcache.filter fun e => e.h != 2) ++ [.record none 0 2 (record 11 1 0 0x200080), .entry none 0 2 0 0x2000000 0] }
     match s.mach.portAt p p.tag 3 1 .write with | .miss h k => h == 2 && k == 0 | _ => false) = true := by
  decide +kernel

/-! Witnesses: answers. -/

def netOf (e : FabEntry) (op : Instr) (now : Nat) : State :=
  (objects.onCore 0 fun k => { k with copy := { k.copy with flights := [{ flightOf op [] with msgs := [7] }] } }).onMach fun m => { m with scyc := now, fab := { m.fab with net := [e] } }

/-- A message sent to package 1. -/
def sentMsg (body : FabBody) : FabEntry := { atomEntry with msg := { src := 0, dst := 1, ctx := 0, id := 7, body := body } }

/-- Each kind of message, with the answers that fit it. -/
theorem wit_answers : (∀ x ∈ [(FabBody.puts [], FabReply.landed), (.puts [], .failed 3), (.coll { core := 0, coll := 7, rank := 0, off := 0, locs := [] }, .bounced), (.get h3 8 true, .empty h3), (.get h3 8 false, .data [{ data := 1, full := true, poison := false }]),
        (.atom h3 .add 5 0, .old 4), (.row (aRow 1 3), .landed), (.row (aRow 1 3), .failed 2), (.row (aRow 1 3), .redirect 1 9)],
      let s := netOf (sentMsg x.1) (.fatom noSems .add 0 0 0 1) 0
      s.mach.fab.live? 7 = some (sentMsg x.1) ∧ s.mach.replyDue (sentMsg x.1) x.2 = true ∧ s.mach.fab.coll? 0 3 = none ∧
      ((s.mach.cores[(0 : CoreId)]).flight? .copy 3).isSome = true) ∧
    (netOf (sentMsg (.puts [])) (.csync noSems false) 0).mach.replyDue (sentMsg (.puts [])) (.old 4) = false ∧
    (netOf (sentMsg (.puts [])) (.csync noSems false) 1048575).mach.scyc < 0 + max 1048576 1 ∧ (netOf (sentMsg (.puts [])) (.csync noSems false) 1048576).mach.fab.fbtmo = 1048576 ∧
    (∀ now ∈ [63, 64], let e := { sentMsg (.puts []) with resendAt := some 64 }
      (netOf e (.csync noSems false) now).mach.fab.live? 7 = some e ∧ ((netOf e (.csync noSems false) now).mach.scyc < 64 ↔ now = 63)) := by
  decide +kernel

/-- An answer that comes after LIMIT; a step whose writes have an order, with one answer and with two to come; and a strand's access that no message of a step has the number of. -/
theorem wit_answers_late : let e := sentMsg (.get h3 8 false)
    (netOf e (.csync noSems false) 1048577).mach.fab.live? 7 = some e ∧ ¬ (netOf e (.csync noSems false) 1048577).mach.scyc ≤ e.start + max (netOf e (.csync noSems false) 0).mach.fab.fbtmo.toNat 1 ∧
    (netOf e (.csync noSems false) 1048577).mach.replyDue e (.data [{ data := 1, full := true, poison := false }]) = true ∧
    (let op : Instr := .tmov2d noSems { fe := .dataOnly, scope := .core, pb := false, dl := 0 } 0 1 0x100
     (∀ x ∈ ({ flightOf op [] with msgs := [7] } : Flight).msgs, x = 7) ∧ ∃ x ∈ ({ flightOf op [] with msgs := [7, 8] } : Flight).msgs, x ≠ 7) ∧
    (netOf e (.csync noSems false) 0).mach.heldByGate e = false ∧ (netOf e (.csync noSems false) 0).mach.fab.live? 8 = none := by
  decide +kernel

/-! Witnesses: the ferrymaster. -/

/-- Queue 5 of context 0 with one slot filled, whose slots are at handle 1 and hold a record. -/
def enqueued (bs : List Byte) (en : Bool) (tasks : List Task) : State :=
  objects.onMach fun m => { m with
    mem := memSetBytes m.mem 0x1000000 bs
    ferry := { m.ferry with tasks := tasks, queues := m.ferry.queues.set 5 { TaskQueue.reset with base := h1, en := en, lsize := 4, tail := 1 } } }

/-- Whether an agent's read of a slot gives these bytes. -/
def slotReads (m : Mach) (p : W64) (bs : List Byte) : Bool :=
  match m.agentRead 0 p 32 0 with
  | .ok l => l == bs
  | .error _ => false

def readFaults (m : Mach) (p : W64) : Bool :=
  match m.agentRead 0 p 32 0 with
  | .error (.fault _) => true
  | _ => false

def placesAre (m : Mach) (p : W64) (done st : Nat) : Bool :=
  match m.agentPlaces 0 p 2 .fill with
  | .ok l => l == [some done, some st]
  | .error _ => false

/-- A record with NPKG 0, which is refused, and COMPL at handle 1 + 4096. -/
def badTask : List Byte := (taskBytes 5 0 0).take 52 ++ leBytes 0 2 ++ ((taskBytes 5 0 0).drop 54).take 10 ++ (taskBytes 5 0 0).drop 64

theorem wit_queue_writes : let x := (enqueued [] false []).mach.ferry.queues[(5 : Fin 64)]
    x.src = false ∧ ((16 : W64).setWidth 32 - x.head).toNat ≤ 2 ^ x.lsize ∧ 2 ^ x.lsize < ((17 : W64).setWidth 32 - x.head).toNat ∧
    (0x80000400 : W64).getLsbD 31 = true ∧ 4 ≤ (0x80000400 : W64).toNat / 256 % 16 := by
  decide +kernel

theorem wit_admission : let s := enqueued (taskBytes 5 0 0) true []
    s.mach.ferry.tasks.length < 1024 ∧ s.mach.ferry.nextQueue = some 5 ∧ okIs (ptrAdd (s.mach.ferry.queues[(5 : Fin 64)]).base (256 * ((0 : Int) % 2 ^ 4))) h1 = true ∧
    slotReads s.mach h1 (taskBytes 5 0 0) = true ∧ s.mach.refusal 0 (taskBytes 5 0 0) = none ∧ (parseTask (taskBytes 5 0 0)).ranges = [] ∧ s.mach.ferry.launched = [] ∧ readFaults s.mach 0x9000000000000000 = true := by
  decide +kernel

theorem wit_admission_refused : let s := enqueued badTask true []
    slotReads s.mach h1 badTask = true ∧ (s.mach.refusal 0 badTask).isSome = true ∧ (parseTask badTask).compl.toNat % 16 = 0 := by
  decide +kernel

theorem wit_completion_places : placesAre (enqueued [] true []).mach (h1 + 4096) 0x1001000 0x1001008 = true ∧ 0x1001000 % 8 = 0 ∧ memWf (enqueued [] true []).mach.mem = true ∧ (h1 + 4096).toNat % 16 = 0 := by
  decide +kernel

/-- A full window, and a token due. -/
theorem wit_window : 1024 ≤ (enqueued [] true (List.replicate 1024 (aTask 1 .ready []))).mach.ferry.tasks.length ∧ (aTask 1 .ready []).agedAt + 65536 ≤ 65536 ∧ (aTask 1 .ready []).tokens < 255 := by
  decide +kernel

/-- A running task of one core and a PRIO, PHINT and REMAIN, and a ready task of 128 cores, on a machine whose context has checkpoint slots. -/
def runner (phint remain : Nat) (st : TaskState) : Task := { aTask 1 st [0] with recd := parseTask (taskBytes 5 phint remain) }
def waiter : Task := { aTask 2 .ready [] with tokens := 9, recd := { (aTask 2 .ready []).recd with size := 128 } }

def contended (l : List Task) (now : Nat) : State :=
  (objects.onCore 0 fun k => { k with task := some 1 }).onMach fun m => { m with
    scyc := now, group := 1, ferry := { m.ferry with tasks := l }
    ctxs := m.ctxs.set 0 (some { otbase := 0x100000, otlen := 64, dsmBase := 0, dsmSize := 0x10000, clmBase := 0, clmSize := 0x10000, mlbase := 0, pool := 640, stvec := 0, trefl := 0,
                                 ckpool := 0x100000100000000 }) }

/-- The task drains, is killed, is saved, or cannot be, under its record. -/
theorem wit_preemption : ∀ x ∈ [(0, 0), (1, 4096), (0, 4096), (2, 4096)], let t := runner x.1 x.2 .running
    let m := (contended [t, waiter] 0).mach
    m.topReady = some waiter ∧ domainOf m.freeCore waiter.recd.size = none ∧ (m.ferry.tasks.filter fun x => x.state == .running && !x.cores.isEmpty) = [t] ∧
    (m.ferry.tasks.all fun x => x.state != .draining && x.state != .stopping && x.state != .killing) = true ∧ t.recd.prio < waiter.tokens ∧ t.recd.pkg0 = m.pkg.toNat ∧
    (domainOf (fun c => m.freeCore c || t.cores.contains c) waiter.recd.size).isSome = true ∧
    (t.recd.remain * 256 < m.ferry.fmdrain.toNat * 256 ↔ x.2 = 0) ∧ t.recd.phint.getLsbD 0 = (x.1 == 1) ∧ t.recd.phint.getLsbD 1 = (x.1 == 2) ∧
    (m.freeSlots t.ctx t.slotsNeeded).isSome = true := by
  decide +kernel

theorem wit_preemption_none : (contended [runner 0 0 .running] 0).mach.topReady = none ∧
    (let m := (contended [{ waiter with recd := (aTask 2 .ready []).recd }] 0).mach
     m.topReady.isSome = true ∧ (domainOf m.freeCore 1).isSome = true) ∧
    { waiter with tokens := 5 }.tokens ≤ (runner 0 0 .running).recd.prio ∧
    (let t := { runner 0 0 .running with recd := { (runner 0 0 .running).recd with pkg0 := 1 } }
     (contended [t] 0).mach.ferry.tasks.find? (fun x => x.id == t.id && x.recd.pkg0 != 0 && x.state == .running) = some t) ∧
    (let t := runner 0 0 .draining
     (contended [t] (2 * 4096 * 256)).mach.ferry.tasks.find? (fun x => x.id == t.id && x.state == .draining) = some t ∧ t.drainAt + 2 * 4096 * 256 ≤ (contended [t] (2 * 4096 * 256)).mach.scyc) := by
  decide +kernel

/-- A ready task of one core with a place. -/
def ready1 (slimg : Nat) : Task := { aTask 1 .ready [] with recd := { (aTask 1 .ready []).recd with slimg := slimg } }

def placesOk (m : Mach) (p : W64) (n : Nat) : Bool :=
  match m.imagePlaces 0 p n with
  | .ok l => l == (List.range n).map fun j => some (0x1000000 + 8 * j)
  | .error _ => false

theorem wit_dispatch : let m := (contended [ready1 0] 0).mach
    m.placeTop 0 = some (ready1 0, [8]) ∧ (ready1 0).ckpt = none ∧ ([8] : List CoreId).Nodup ∧ placesOk m (ready1 0).recd.image ((ready1 0).recd.imglen / 8) = true ∧ (ready1 0).recd.imglen = 64 ∧
    (imageSets m.mem 0 (ready1 0).recd.slimg).isSome = true ∧ memWf m.mem = true ∧ (contended [] 0).mach.placeTop 0 = none ∧
    (match m.imagePlaces 0 0x1000 8 with | .error (.fault _) => true | _ => false) = true ∧ 0x1000000 + 64 ≤ spmKey 0 0 := by
  decide +kernel

/-- An image of shape sets that is not valid: a type past the last. -/
theorem wit_dispatch_shape : imageSets (memSetBytes State.reset.mach.mem (spmKey 0 0x1000) (List.replicate 40 0xFF)) 0 0x1000 = none := by
  decide +kernel

/-! Witnesses: ends and checkpoints. -/

def sharing (st : TaskState) (kind : BitVec 2) (shared : Bool) (status : CtlStatus) : State :=
  (contended [{ aTask 1 st [0] with kind := kind, cls := 3 }] 0).onCore 0 fun k => { k with shareDone := shared, ctl := { k.ctl with status := status }, vec := { k.vec with status := .ended } }

theorem wit_task_ends : (let k := (sharing .running 0 false (.ended 7)).core 0
      k.task = some 1 ∧ k.ctl.status = .ended 7 ∧ k.rings[ringOf .matrixA].lsize = 0 ∧ k.rings[ringOf .matrixB].lsize = 0 ∧ k.rings[ringOf .copy].lsize = 0 ∧ k.forked = []) ∧
    (∀ st ∈ [TaskState.running, .draining], ∀ done, let s := sharing st 0 done (.ended 7)
      s.mach.ferry.tasks.find? (fun x => x.id == 1 && (x.state == .running || x.state == .draining || (x.state == .ready && !s.mach.local x))) = s.mach.ferry.tasks.head? ∧
      s.mach.local (aTask 1 st [0]) = true ∧ (s.mach.cores[(0 : CoreId)]).shareDone = done ∧ (aTask 1 st [0]).recd.npkg - 1 = 0) ∧
    (∀ kind ∈ [(0 : BitVec 2), 1], ∀ status ∈ [CtlStatus.running, .ended 0], let s := sharing .killing kind false status
      s.mach.ferry.tasks.find? (fun x => x.id == 1 && x.state == .killing) = s.mach.ferry.tasks.head? ∧ s.mach.coreStopped 0 = (status != .running)) ∧
    ((0x0041 : BitVec 16).toNat / 64 % 4 = 1 ∧ (0x0700 : BitVec 16).toNat / 64 % 4 = 0) := by
  decide +kernel

/-- A task over two packages, for which the other package's code is awaited. -/
theorem wit_task_far : let t := { aTask 1 .running [0] with recd := { (aTask 1 .running [0]).recd with npkg := 2 } }
    let s := (contended [t] 0).onCore 0 fun k => { k with shareDone := true }
    s.mach.local t = true ∧ ([] : List (BitVec 16)).length ≠ t.recd.npkg - 1 ∧ ([0x0041] : List (BitVec 16)).length = t.recd.npkg - 1 ∧
    ([0x0041] : List (BitVec 16)).find? (fun r => (r.toNat / 64) % 4 != 0) = some 0x0041 := by
  decide +kernel

theorem wit_task_complete : let t := { aTask 1 .retired [] with recd := { (aTask 1 .retired []).recd with compl := h1 + 4096 } }
    let m := (contended [t] 0).mach
    m.ferry.tasks.find? (fun x => x.id == 1 && x.state == .retired && x.children == 0) = some t ∧ t.recd.pkg0 = m.pkg.toNat ∧ t.recd.compl.toNat % 16 = 0 ∧
    placesAre m t.recd.compl 0x1001000 0x1001008 = true ∧ memWf m.mem = true := by
  decide +kernel

def saved1 : Checkpoint := { first := 1, slots := 2, cores := [Core.reset 0], spm := [State.reset.mach.mem], clm := [], phases := [] }

def stopping1 (status : CtlStatus) : State :=
  (contended [{ aTask 1 .stopping [0] with ckpt := some { first := 1, slots := 2, cores := [], spm := [], clm := [], phases := [] } }] 0).onCore 0 fun k =>
    { k with ctl := { k.ctl with status := status }, vec := { k.vec with status := .ended } }

theorem wit_checkpoint_saves : ∀ status ∈ [CtlStatus.running, .stopped], let s := stopping1 status
    (s.mach.ferry.tasks.find? (fun x => x.id == 1 && x.state == .stopping)).isSome = true ∧ s.mach.coreStopped 0 = (status != .running) ∧ memWf s.mach.mem = true := by
  decide +kernel

theorem wit_checkpoint_restores : let m := (contended [{ ready1 0 with ckpt := some saved1 }] 0).mach
    (m.placeTop 0).map (fun x => x.2) = some [8] ∧ ((m.placeTop 0).bind fun x => x.1.ckpt).isSome = true ∧ saved1.cores.length = 1 ∧ saved1.spm.length = 1 ∧
    (∀ y ∈ saved1.cores, ∀ z ∈ y.liveSpans, z.1 + z.2 ≤ 2 ^ 20) ∧ (∀ y ∈ saved1.spm, memWf y = true) ∧ (∀ y ∈ saved1.cores, ∀ z ∈ y.liveSpans, z.1 % 64 = 0 ∧ z.2 % 64 = 0) ∧
    saved1.slots = 2 ∧ 0x10000 + 2490368 * (1 + 1) ≤ hbmEnd ∧ 0 + 1 ≤ 128 := by
  decide +kernel

/-- A pool header for a task of one core, with its check. -/
def poolHeader : List Byte :=
  let head := leBytes 0x4B5A4348 4 ++ leBytes 1 2 ++ leBytes 1 2 ++ leBytes 1 4 ++ leBytes 0 12
  let tail := leBytes 0 228 ++ taskBytes 5 0 0
  head ++ leBytes (crc32c (head ++ tail)).toNat 4 ++ tail

def pooled (tasks : List Task) : State := (contended tasks 0).onMach fun m => { m with mem := memSetBytes m.mem 0 poolHeader }

/-- A pool that holds no image. -/
theorem wit_readmission_refused : State.reset.mach.readPool 0 0 = none ∧ (0x8000000000000005 : W64).getLsbD 63 = true := by
  decide +kernel

set_option maxRecDepth 100000 in
/-- A pool whose header is valid is read where the image behind it is one. -/
theorem wit_readmission (m : Mach) (c : Core × Mem × W32) (hh : memBytes m.mem 0 512 = poolHeader)
    (h : imageOfBytes 0 (memBytes m.mem (0 + slotBytes * (1 + 0)) slotBytes) = some c) : (m.readPool 0 0).isSome = true := by
  have hn : byteField poolHeader 6 2 = 1 := by decide +kernel
  unfold Mach.readPool
  dsimp only
  rw [hh]
  split
  · rename_i hc
    exact absurd hc (by decide +kernel)
  · rw [hn]
    simp only [List.range_one, List.mapM_cons, List.mapM_nil, h]
    rfl

/-- Its record has a place, a context and room in the window, and spans one package; other machines lack each. -/
theorem wit_readmission_checks : let t := parseTask (taskBytes 5 0 0)
    (t.size + 7) / 8 ≤ ((List.range 16).filter fun i => !(pooled []).mach.withdrawn.getLsbD i).length ∧ (((pooled []).mach.ctxs[0]?).getD none).isSome = true ∧
    (pooled []).mach.ferry.tasks.length < 1024 ∧ t.npkg ≤ 1 ∧ 1024 ≤ (pooled (List.replicate 1024 (aTask 1 .ready []))).mach.ferry.tasks.length ∧
    (((State.reset.mach).ctxs[0]?).getD none).isSome = false ∧ ¬ (t.size + 7) / 8 ≤ ((List.range 16).filter fun i => !(0xFFFF : BitVec 16).getLsbD i).length := by
  decide +kernel

/-! Witnesses: the host port, boot and the management core. -/

/-- The boot states, with their firmware fields. -/
def booted (b : BootState) : State := { State.reset with fw := { State.reset.fw with boot := b, fwgrant := 0, attBusy := b == .verifying } }

/-- A poisoned location, and one that is not, within BAR 4's storage. -/
theorem wit_host_storage : let s := (booted .running).onMach fun m => { m with mem := memSetPoison m.mem 0x1008 true }
    s.fw.boot ≠ .rejected ∧ memWf s.mach.mem = true ∧ memPoisoned s.mach.mem (0x1008 / 8 * 8) = true ∧ (∀ i, i < 8 → memPoisoned s.mach.mem ((0x1000 + i) / 8 * 8) = false) ∧
    0x1000 + 8 ≤ 0x3004000000 ∧ 0x3004000000 - 8 + 8 ≤ 0x3004000000 ∧ 0x1008 % 8 + 7 ≤ 8 ∧ 0x300C000000 + 8 ≤ 0x4000000000 ∧ (booted .rejected).fw.boot = .rejected := by
  decide +kernel

/-- Offsets of BAR 4: the last of a cluster's CLM, one of a withdrawn cluster's, and a full/empty byte of each; and the last record of the capability list. -/
theorem wit_host_rows : let s := (booted .running).onMach fun m => { m with withdrawn := 2 }
    0x3004000000 + 0x800000 * (0 : Fin 16).val ≤ 0x30047FFFFF ∧ 0x30047FFFFF < 0x3004000000 + 0x800000 * ((0 : Fin 16).val + 1) ∧ s.mach.withdrawn.getLsbD 0 = false ∧
    s.mach.withdrawn.getLsbD 1 = true ∧ 0x4000000000 ≤ 0x4600800000 ∧ 8 * (0x4600800000 - 0x4000000000) = 0x3004000000 ∧ 8 * (0x46007FFFFF - 0x4000000000) < 0x3004000000 ∧
    (1 : BitVec 8).toNat ≤ 1 ∧ 2 ≤ (2 : BitVec 8).toNat ∧ s.bar2Read (16 * 10) = 9 + 2 ^ 16 ∧ 176 ≤ 16 * 11 := by
  decide +kernel

/-- A queue whose base may be written, one whose base is fixed, and mailbox offsets. -/
theorem wit_host_registers : (∀ en, (enqueued [] en []).mach.ferry.queues[(5 : Fin 64)].en = en) ∧ (0x10000 + 32 * 5 : Nat) < 0x10800 ∧ cellsWfFrom none State.reset.fw.mailbox = true ∧
    State.reset.fw.boot = .waiting ∧ (0x400008 : Nat) % 8 = 0 ∧ (0x7FFFFFFF : W64).getLsbD 63 = false := by
  decide +kernel

/-- A mailbox whose header passes the first check; the spec's free values decide the others. -/
def mailed : State :=
  { booted .verifying with fw := { (booted .verifying).fw with mailbox := (leBytes 0x4B5A4657 4 ++ leBytes 7 4 ++ leBytes 4 4).zipIdx.foldl (fun l x => cellsWrite l x.2 x.1) [] } }

theorem wit_boot : (let num (s : State) (a : Nat) : Nat := leNat ((List.range 4).map fun j => cellsRead s.fw.mailbox (a + j))
      num mailed 0 = 0x4B5A4657 ∧ num mailed 8 = 4 ∧ num mailed 12 = 0 ∧ num (booted .verifying) 0 ≠ 0x4B5A4657) ∧ mailed.fw.boot = .verifying ∧ mailed.fw.attBusy = true ∧
    State.reset.fw.attBusy = false ∧ (booted .running).fw.boot = .running ∧ (booted .running).fw.log.length < 1024 ∧
    1024 ≤ ({ (booted .running).fw with log := List.replicate 1024 { reg := 2, digest := 0, label := 0 } } : Fw).log.length := by
  decide +kernel

/-- The mailbox's image is rejected for its key or its signature or its version, or runs, as the free values have it: one of the clauses applies. -/
theorem wit_boot_cases : ∀ (mail : Nat → Nat → List Byte), (digest (sha256 (mail 16 48)) ≠ Config.keyDigest) ∨
    (digest (sha256 (mail 16 48)) = Config.keyDigest ∧ (Config.slhVerify (mail 16 48) (mail 0 64 ++ mail 16288 4) (mail 64 16224) = false ∨
      (Config.slhVerify (mail 16 48) (mail 0 64 ++ mail 16288 4) (mail 64 16224) = true ∧ (leNat (mail 4 4) < Config.minVersion.toNat ∨ ¬ leNat (mail 4 4) < Config.minVersion.toNat)))) := by
  intro mail
  by_cases h1 : digest (sha256 (mail 16 48)) = Config.keyDigest
  · refine .inr ⟨h1, ?_⟩
    cases Config.slhVerify (mail 16 48) (mail 0 64 ++ mail 16288 4) (mail 64 16224) with
    | false => exact .inl rfl
    | true => exact .inr ⟨rfl, Decidable.em _⟩
  · exact .inl h1

/-- A bell armed with its sources, in a group of two, and one that has rung. -/
theorem wit_bell : let s := objects.onMach fun m => { m with bell := { m.bell with arm := true, srcPin := true, srcFab := true, fwd := true, rings := [(32, 2, 0, 0, 0)] }, scyc := 32 }
    s.mach.bell.arm = true ∧ s.mach.bell.srcPin = true ∧ s.mach.bell.srcFab = true ∧ (1 : BitVec 12) ≠ s.mach.pkg ∧ (1 : BitVec 12).toNat < s.mach.group ∧ s.mach.bell.rings = (32, 2, 0, 0, 0) :: [] ∧
    s.mach.scyc = 32 ∧ ({ s.mach with scyc := 31 } : Mach).scyc ≠ 32 ∧ ({ s.mach with scyc := 31 } : Mach).scyc < 32 ∧ State.reset.mach.bell.rings = [] ∧ State.reset.mach.bell.arm = false := by
  decide +kernel

theorem wit_clocks : (∀ a ∈ [350, 700], 350 ≤ ({ State.reset.fw with aclk := a } : Fw).aclk ∧ ({ State.reset.fw with aclk := a } : Fw).aclk ≤ 700 ∧ a % 50 = 0) ∧
    ({ State.reset with fw := { State.reset.fw with down := true }, turn := .strand 0 .control } : State).fw.down = true ∧ (1 : BitVec 12).toNat < 4096 := by
  decide +kernel

/-- Bounds within which firmware's accesses lie, and past which they do not. -/
def bound : BoundSet :=
  { hdma := Vector.replicate 16 (0x1000, 0x2000), fwreg := BitVec.ofNat 64 (2 ^ 40 + 2 ^ 16), pcapmax := 2000, fspan := BitVec.ofNat 64 (2 ^ 24 + 3 * 2 ^ 12 + 1), lock := true }

/-- The least cap and one below it; a context whose object firmware may read. -/
theorem wit_firmware_grants : ¬ 1200 ≤ (1199 : BitVec 16).toNat ∧ 1200 ≤ (1200 : BitVec 16).toNat ∧
    (let s : State := { objects with fw := { (booted .running).fw with bounds := bound, fwgrant := 1 } }
     s.fw.fwgrant.getLsbD 0 = true ∧ (match place s.mach (agent 0) h1 8 .write with | .ok (.store key _ _) => key == 0x1000000 | _ => false) = true ∧ ptrOff h1 % 8 = 0 ∧
     memPoisoned s.mach.mem (0x1000000 / 8 * 8) = false) := by
  decide +kernel

theorem wit_firmware : let s : State := { booted .running with fw := { (booted .running).fw with bounds := bound } }
    let b := s.fw.bounds
    s.fw.boot = .running ∧ (2000 : BitVec 16).toNat ≤ b.pcapmax.toNat % 65536 ∧ b.pcapmax.toNat % 65536 < (2001 : BitVec 16).toNat ∧
    (∃ w ∈ b.hdma.toList, w.1.toNat ≤ 0x1FF8 ∧ 0x1FF8 + 8 ≤ w.2.toNat) ∧ ¬ (∃ w ∈ b.hdma.toList, w.1.toNat ≤ 0x1FF9 ∧ 0x1FF9 + 8 ≤ w.2.toNat) ∧
    (b.fwreg.toNat / 2 ^ 16 % 2 ^ 24 * 65536 = 65536 ∧ b.fwreg.toNat / 2 ^ 40 * 65536 = 65536) ∧
    (b.fspan.toNat % 2 ^ 12 ≤ 3 ∧ 3 ≤ b.fspan.toNat / 2 ^ 12 % 2 ^ 12 ∧ b.fspan.getLsbD 24 = true ∧ b.fspan.getLsbD 25 = false) ∧ memWf s.mach.mem = true ∧
    s.fw.fwgrant.getLsbD 5 = false ∧ memPoisoned s.mach.mem 65536 = false := by
  decide +kernel

/-- A context that may be created beside context 0, one that may not, and one that may be destroyed. -/
def aConfig (dsm : Nat) : ContextCfg :=
  { otbase := 4096, otlen := 2 ^ 24, dsmBase := dsm, dsmSize := 1024 - dsm, clmBase := 128, clmSize := 0, mlbase := 65536, pool := 63488, stvec := 0, trefl := 0, ckpool := 0 }

def windowed : State :=
  (booted .running).onMach fun m => { m with ctxs := m.ctxs.set 0 (some { otbase := 0x100000, otlen := 64, dsmBase := 0, dsmSize := 512, clmBase := 0, clmSize := 128, mlbase := 0, pool := 640,
                                                                             stvec := 0, trefl := 0, ckpool := 0 }) }

theorem wit_contexts : (let x := aConfig 512
      windowed.fw.boot = .running ∧ windowed.mach.ctxs[(1 : Fin 64)] = none ∧ x.otbase % 4096 = 0 ∧ x.otbase + 128 * x.otlen ≤ hbmEnd ∧ x.dsmBase + x.dsmSize ≤ 1024 ∧
      x.mlbase + 32768 + 16 * x.pool ≤ hbmEnd ∧
      (∀ j : Fin 64, windowed.mach.ctxs[j].isSome = true → j = 0) ∧ 0 + 512 ≤ x.dsmBase ∧ 0 + 128 ≤ x.clmBase) ∧
    (aConfig 511).dsmBase ≤ 511 ∧ 511 < 512 ∧ windowed.mach.ctxs[(0 : Fin 64)].isSome = true ∧ windowed.mach.ferry.tasks = [] ∧ tasked.mach.ferry.tasks.any (fun t => t.ctx == 0) = true := by
  decide +kernel

/-! Witnesses: steps. -/

/-- Core 0's control and vector strands run at SPM 0, on an instruction each decodes. -/
def running (i : Instr) (t : Turn) : State :=
  let s := withInstr (core0 fun k => { k with ctl := { k.ctl with status := .running }, vec := { k.vec with status := .running } }) i
  { s with turn := t }

def decodes (d : Decoded) (i : Instr) (n : Nat) : Bool :=
  match d with
  | .ok j k => j == i && k == n
  | _ => false

def wordsAt (m : Mach) (a n : Nat) : List W32 := (List.range n).map fun j => mem32 m.mem (spmKey 0 (a + 4 * j))

theorem wit_step_control : let i : Instr := .add (.x 3) (.lit64 0x600000005) (.x 2)
    let s := running i (.strand 0 .control)
    s.fw.down = false ∧ s.turn = .strand 0 .control ∧ (s.core 0).ctl.status = .running ∧ s.mach.boundary 0 = none ∧ (s.core 0).ctl.wait = none ∧
    decodes (decodeControl (wordsAt (s.mach.beforeFetch 0 .control 0) 0 4)) i 3 = true ∧
    (∀ j, j < 3 → memPoisoned (s.mach.beforeFetch 0 .control 0).mem (locOf (spmKey 0 (4 * j))) = false) := by
  decide +kernel

theorem wit_step_vector : let i : Instr := .vadd none (.reg (.v 1)) (.reg (.v 2)) (.reg (.v 3)) anyGuard
    let s := running i (.strand 0 .vector)
    (s.core 0).vec.status = .running ∧ (s.core 0).vec.skip = false ∧ (s.core 0).stop = false ∧ (s.core 0).sets[(0 : Fin 4)].swap = false ∧ (s.core 0).vec.wait = none ∧
    decodes (decodeVector (wordsAt (s.mach.beforeFetch 0 .vector 0) 0 4)) i 1 = true := by
  decide +kernel

/-- A vector strand in an instruction it has issued, and a multiply step that still reads its operands as its strand's turn comes; neither holds the fetch back. -/
theorem wit_step_issued : let i : Instr := .vadd none (.reg (.v 1)) (.reg (.v 2)) (.reg (.v 3)) anyGuard
    let s := (running i (.strand 0 .vector)).onVec 0 fun v => { v with issued := true }
    (s.core 0).vec.issued = true ∧ s.mach.heldVec 0 (fetchLoads 0 (s.core 0).vec.pc) = false ∧ ((s.mach.settleFor s.turn).rereadFor s.turn).cores[(0 : CoreId)].reread = none := by
  decide +kernel

/-- The copy ring at SPM 0x3000 with one step, not fetched and fetched. -/
theorem wit_step_engine : let i : Instr := .csync noSems false
    let s := placed ((core0 fun k => { k with rings := k.rings.set 2 { (CmdRing.absent) with run := true, lsize := 6, base := 0x3000, wp := 1 } })) 0x3000 ((encode i).flatMap fun w => leBytes w.toNat 4)
    (s.core 0).sets[engineNo (engineOf .copy)].swap = false ∧ (s.core 0).rings[ringOf .copy].run = true ∧ (s.core 0).stop = false ∧ ((s.core 0).eng .copy).fetched = none ∧
    (let r := (s.core 0).rings[ringOf .copy]
     r.addr (r.rp + 0) = 0x3000 ∧ (r.wp - r.rp).toNat = 1) ∧ decodes (decodeCopy (wordsAt s.mach 0x3000 1)) i 1 = true := by
  decide +kernel

/-- A sampler's program of two words in core 0's cluster's CLM. -/
theorem wit_step_sampler : let i : Instr := .shmov 3 (.lit 0x12345678)
    let r := { sampRun .block with pc := 0 }
    let s := (sampling (some r) [] []).onMach fun m => { (withObject m 1 0 4 0) with mem := memSetBytes m.mem (clmKey 0 0) ((encode i).flatMap fun w => leBytes w.toNat 4) }
    (match s.mach.progWord 0 r 0, s.mach.progWord 0 r 1 with
     | some (w, false), some (w2, false) => decodes (decodeSampler [w, w2]) i 2 && (match decodeSampler [w] with | .short => true | _ => false)
     | _, _ => false) = true := by
  decide +kernel

/-- An event of the table has no words; an instruction has. -/
theorem wit_step_event : encode (.throttleDown) = [] ∧ encode (.throttleUp) = [] ∧ encode .uiret ≠ [] := by
  decide +kernel

/-- A value between two of FP32, one past its largest, and one with the mark; a result that `.ftz` replaces. -/
theorem wit_rounding : fp32 ∈ [fp32, bf16, fp16, e5m2, e4m3, e3m2, e2m3, e2m1, fx40, ue8m12] ∧ (fp32.round (.fin false (2 ^ 24 + 1) 0 false) .rne false).fl.nx = true ∧
    (fp32.round (.fin false 1 128 false) .rne false).fl.of = true ∧ fp32.fb + 1 ≤ Nat.log2 (2 ^ 24) ∧ ([fp32, bf16, fp16, e4m3, e5m2, e2m3, e3m2, e2m1] : List Fmt)[(7 : Nat)]? = some e2m1 ∧
    fp32.decode (fp32.round (.fin false 1 (-149) false) .rne false).bits = .fin false 1 (-149) false := by
  decide +kernel

theorem wit_invariants : memWf State.reset.mach.mem = true ∧ State.reset.fw.aclk % 50 = 0 ∧ wellFormed (.add (.x 3) (.lit64 0x600000005) (.x 2)) = true := by
  decide +kernel

/-! Well-formedness: for each kind of check, a term that it refuses beside one that it admits (02 R39). -/

def plainQ : MoveQ := { fe := .dataOnly, scope := .core, pb := false, dl := 0 }

/-- Two literals, or three; the order, scope and mask of an access (R45 to R47, R293). -/
theorem test_wf_sources : wellFormed (.add (.x 1) (.lit32 1) (.lit32 1)) = false ∧ wellFormed (.add (.x 1) (.lit32 1) (.x 1)) = true ∧
    wellFormed (.acas (.lit32 1) (.x 1) (.lit32 2) anyAtomQ) = false ∧ wellFormed (.ld (.x 1) (.x 2) { anyMemQ with scope := .die }) = false ∧
    wellFormed (.ld (.x 1) (.x 2) { anyMemQ with ord := .rel }) = false ∧ wellFormed (.st (.x 1) (.x 2) { anyMemQ with ord := .acq }) = false ∧ wellFormed (.fence 0) = false ∧ wellFormed (.fence 1) = true := by
  decide +kernel

/-- A literal that names another row of the table (R102, R323, R335, R413, R425). -/
theorem test_wf_rows : wellFormed (.srw 0x102 (.x 1)) = false ∧ wellFormed (.yieldEnd (.lit32 0)) = false ∧ wellFormed (.yieldPoint (.lit32 1)) = false ∧
    wellFormed (.allocRing (.x 1) (.x 2) (.lit32 8)) = false ∧ wellFormed (.freeRing (.x 1) (.lit32 8)) = false ∧ wellFormed (.retsEnd (.lit32 1)) = false ∧
    wellFormed (.retsReturn (.lit32 2)) = false ∧ wellFormed (.rpctlCk (.x 1) (.x 2) (.lit32 2)) = false := by
  decide +kernel

/-- A guard of no lanes, predicate 0 as a destination, types, rounding, saturation, segments and literals of the vector engine (R51 to R53, R143, R144). -/
theorem test_wf_vector : let q : Qual := { type := 0, round := 0, sat := false, ftz := false, spec := false, sg := 0, sgen := false, sh := 0 }
    let r : VSrc := .reg (.v 1)
    wellFormed (.vadd none (.reg (.v 1)) r r { p := 0, pn := true }) = false ∧ wellFormed (.vpand 0 1 2) = false ∧ wellFormed (.vceq none 0 r r anyGuard) = false ∧
    wellFormed (.vfma (some { q with type := 8 }) (.reg (.v 1)) r r anyGuard) = false ∧ wellFormed (.vadd (some { q with round := 5 }) (.reg (.v 1)) r r anyGuard) = false ∧
    wellFormed (.vmin (some { q with sat := true }) (.reg (.v 1)) r r anyGuard) = false ∧ wellFormed (.vadd (some { q with sg := 1 }) (.reg (.v 1)) r r anyGuard) = false ∧
    wellFormed (.vadd (some { q with type := 1 }) (.reg (.v 1)) r (.lit 0x10000) anyGuard) = false ∧ wellFormed (.vadd (some { q with type := 8 }) (.reg (.v 1)) r (.lit 0x80) anyGuard) = false ∧
    wellFormed (.vadd (some { q with type := 8 }) (.reg (.v 1)) r (.lit 0xFFFFFF80) anyGuard) = true ∧ wellFormed (.vxred none (.reg (.v 1)) r 3 anyGuard) = false ∧
    wellFormed (.vsgred none (.reg (.v 1)) r 0 anyGuard) = false ∧ wellFormed (.vpack none (.reg (.v 1)) r 0 anyGuard) = false ∧ wellFormed (.vloop 0 0 .zero) = false ∧
    wellFormed (.vqput r 1) = false ∧ wellFormed (.vst (some { q with spec := true }) (.v 1) 0 .zero anyGuard) = false := by
  decide +kernel

/-- Descriptors, shapes and epilogues of the matrix array (R181, R182, R195, R197 to R201). -/
theorem test_wf_matrix : wellFormed (.mma noSems { anyMma with opA := fixedOp 1 }) = false ∧ wellFormed (.mma noSems { anyMma with opA := { fixedOp 3 with ty := 0 } }) = false ∧
    wellFormed (.mma noSems { anyMma with opA := { fixedOp 3 with slot := 1 } }) = false ∧ wellFormed (.mmasg noSems anyMma) = false ∧ wellFormed (.mma noSems { anyMma with saidx := 1 }) = false ∧
    wellFormed (.acczero noSems 63 1) = false ∧ wellFormed (.epil noSems anyEp 0) = false ∧ wellFormed (.epil noSems { anyEp with gen := 0 } 0) = true ∧
    wellFormed (.epil noSems { anyEp with gen := 0, otype := 14 } 0) = false ∧ wellFormed (.epil noSems { anyEp with gen := 0, hi := 8 } 0) = false ∧
    wellFormed (.eprow noSems { anyEp with otype := 9 } 0) = false ∧ wellFormed (.epadd noSems { anyEp with fe := true } 0) = false ∧ wellFormed (.mjmp noSems 1 0) = false := by
  decide +kernel

/-- Counters, scopes, modes, offsets and counts of the copy strand (R299 to R309, R348). -/
theorem test_wf_copy : wellFormed (.tmov noSems { plainQ with dl := 1 } 0 1 0 0 7) = false ∧ wellFormed (.tmov noSems { plainQ with pb := true, dl := 1 } 0 1 0 0 7) = false ∧
    wellFormed (.tmov noSems plainQ 0 1 4 0 7) = false ∧ wellFormed (.tmov noSems plainQ 0 1 0 0 6) = false ∧ wellFormed (.tmov noSems { plainQ with fe := .requireFull } 0 1 0 0 65543) = false ∧
    wellFormed (.tmov noSems plainQ 0 1 8 8 7) = true ∧ wellFormed (.rrot noSems { plainQ with scope := .cluster } 0 0 0 7) = false ∧ wellFormed (.rrot noSems plainQ 1 0 0 7) = false ∧
    wellFormed (.gath noSems plainQ 0 1 0 4 0) = false ∧ wellFormed (.cfill noSems { plainQ with fe := .requireFull } 1 0 7 0) = false ∧ wellFormed (.crstr noSems { plainQ with fe := .setFull } 0 .copy 0 0) = false ∧
    wellFormed (.feset noSems plainQ 1 0 7) = false ∧ wellFormed (.fwr noSems { fe := .dataOnly, pb := false, dl := 0 } 0 1 0 0 0 7) = false ∧
    wellFormed (.a2av noSems { fe := .dataOnly, pb := false, dl := 1 } 0) = false := by
  decide +kernel

/-- An odd register pair, and the span of `saccept` (R236, R243). -/
theorem test_wf_sampler : wellFormed (.sld 1 0 0) = false ∧ wellFormed (.scst 1 0) = false ∧ wellFormed (.saccept 0 1 2 0 0) = false ∧ wellFormed (.saccept 0 1 2 17 0) = false ∧
    wellFormed (.saccept 0 1 2 16 0) = true := by
  decide +kernel

/-! Decoding: words of the spec's worked examples, and words written out field by field from its formats. -/

/-- The listing of 02, "Worked control encodings". -/
theorem test_decode_control_listing : decodes (decodeControl [0x1C200028]) (.movi (.x 1) 40) 1 = true ∧
    decodes (decodeControl [0x0441F800, 0x000186A0]) (.add (.x 2) (.x 1) (.lit32 100000)) 2 = true ∧
    decodes (decodeControl [0x40873282]) (.ld (.x 4) (.x 7) { cls := 3, ord := .acq, scope := .die, off := 2 }) 1 = true ∧
    decodes (decodeControl [0x08217FFF]) (.addi (.x 1) (.x 1) 0x7FFF) 1 = true ∧ decodes (decodeControl [0x24210800]) (.cmpi 1 (.x 1) .ne 0) 1 = true ∧
    decodes (decodeControl [0xBCBFFFFE]) (.bc 1 0x3FFFFE) 1 = true := by
  decide +kernel

/-- The listing of 03, "Worked example: a speculative load". -/
theorem test_decode_control_speculative : decodes (decodeControl [0xD8090001]) (.srw 1 (.x 9)) 1 = true ∧ decodes (decodeControl [0xD0440001]) (.pchk 2 (.x 4)) 1 = true ∧
    decodes (decodeControl [0xD0A41000]) (.csel (.x 5) (.x 4) 2) 1 = true ∧ decodes (decodeControl [0xBD400002]) (.bcn 2 2) 1 = true ∧ decodes (decodeControl [0xC0000002]) .ret 1 = true ∧
    decodes (decodeControl [0xD1040002]) (.pclr (.x 8) (.x 4)) 1 = true := by
  decide +kernel

/-- The worked vector instruction of 02: `vadd.bf16.rtz v9, vi1.2, 1.5`. -/
theorem test_decode_vector_listing : decodes (decodeVector [0xFC240000, 0x022557F0, 0x00003FC0])
    (.vadd (some { type := 1, round := 1, sat := false, ftz := false, spec := false, sg := 0, sgen := false, sh := 0 }) (.reg (.v 9)) (.reg (.ind 1 2)) (.lit 0x3FC0) anyGuard) 3 = true := by
  decide +kernel

/-- `msync.aw3.rs4` and `msync` of 02 R56. -/
theorem test_decode_matrix_listing : decodes (decodeMatrix [0x40D00000]) (.msync { aw := 3, rs := 4 }) 1 = true ∧ decodes (decodeMatrix [0x43FC0000]) (.msync noSems) 1 = true := by
  decide +kernel

/-- `fwr.rs5.pb3 ly1, 0, ly2, 0x200, 2, 4096` of 12 R348, and `pgmov.rs6 up, 7, 5, 0x800` of 13 R384. -/
theorem test_decode_copy_listing : decodes (decodeCopy [0x27D70394, 0, 0x200, 0x00200FFF])
      (.fwr { aw := 15, rs := 5 } { fe := .dataAndBits, pb := true, dl := 3 } 1 2 0 0x200 2 4095) 4 = true ∧
    decodes (decodeCopy [0x53DB0000, 7, 5, 0x800]) (.pgmovUp { aw := 15, rs := 6 } 7 5 0x800) 4 = true := by
  decide +kernel

/-- The greedy program of 08. -/
theorem test_decode_sampler_listing : decodes (decodeSampler [0x08000000]) (.scst 0 0) 1 = true ∧ decodes (decodeSampler [0x78000002]) (.sendBlock 0) 1 = true ∧
    decodes (decodeSampler [0x3CC00001]) (.shmov 3 (.imm 1)) 1 = true ∧ decodes (decodeSampler [0x5C0C0000]) (.spsort 3) 1 = true ∧ decodes (decodeSampler [0x78100001]) (.sendCount 4) 1 = true := by
  decide +kernel

/-- Words that no encoding has: a reserved major, a reserved field, a reserved condition and an extension count that does not fit (R39, R46, R55). -/
theorem test_decode_illegal : (match decodeControl [0xFFFFFFFF] with | .illegal => true | _ => false) = true ∧ (match decodeControl [0x04611040] with | .illegal => true | _ => false) = true ∧
    (match decodeControl [0x24215000] with | .illegal => true | _ => false) = true ∧ (match decodeMatrix [0x43FD0000] with | .illegal => true | _ => false) = true ∧
    (match decodeSampler [0x0C48C001] with | .illegal => true | _ => false) = true := by
  decide +kernel

/-! Number formats: the worked conversions of 04 R124, from exact FP32 sources. -/

theorem test_round_e4m3 : e4m3.round (.fin false 5 (-4) false) .rne false = { bits := 0x2A, fl := {} } ∧ e4m3.round (.fin false 17 0 false) .rne false = { bits := 0x58, fl := { nx := true } } ∧
    e4m3.round (.fin false 17 0 false) .rup false = { bits := 0x59, fl := { nx := true } } ∧ e4m3.round (.fin false 35 (-1) false) .rne false = { bits := 0x59, fl := { nx := true } } ∧
    e4m3.round (.fin false 460 0 false) .rne false = { bits := 0x7E, fl := { nx := true } } ∧ e4m3.round (.fin false 470 0 false) .rne false = { bits := 0x7F, fl := { of := true, nx := true } } ∧
    (e4m3.round (.fin false 470 0 false) .rne true).bits = 0x7E := by
  decide +kernel

theorem test_round_e2m1 : e2m1.round (.fin false 5 (-1) false) .rne false = { bits := 4, fl := { nx := true } } ∧ e2m1.round (.fin false 5 (-1) false) .rna false = { bits := 5, fl := { nx := true } } ∧
    e2m1.round (.fin false 13 0 false) .rne false = { bits := 7, fl := { of := true, nx := true } } ∧ e2m1.round (.fin false 1 (-2) false) .rne false = { bits := 0, fl := { uf := true, nx := true } } := by
  decide +kernel

/-! Single steps, with the results that the spec's worked examples give. -/

/-- What one instruction leaves in a part of the state. -/
def after {α : Type} (i : Instr) (s : State) (f : State → α) : Option α :=
  match exec i s with
  | .next t => some (f t)
  | _ => none

/-- The jump table of 03: `jtab x2, x3, 3` at 0x100, its table at 0x400 holding 8, 16 and -4. -/
def jumping (x2 x3 : W64) : State :=
  let s := withX (withX (ctl0 fun k => { k with pc := 0x40, k := k.k.set 0 true }) 2 x2 0) 3 x3 0
  placed s 0x400 (leBytes 8 4 ++ leBytes 16 4 ++ leBytes (2 ^ 32 - 4) 4)

theorem test_jtab : (∀ x ∈ [(1, 0x50, false), (2, 0x3C, false), (3, 0x41, true), (0xFFFFFFFFFFFFFFFF, 0x41, true)],
      after (.jtab (.x 2) (.x 3) 3) (jumping (BitVec.ofNat 64 x.1) 0x400) (fun t => (t.ctl.pc.toNat, t.ctl.k[0])) = some (x.2.1, x.2.2)) ∧
    after (.jtab (.x 2) (.x 3) 3) ((jumping 1 0x402).onCtl 0 fun k => { k with stvec := 0x1000, stvecEn := true }) (fun t => (t.ctl.pc, t.ctl.sepc, t.ctl.causeClass, t.ctl.sfaddr)) =
      some (0x1000, 0x40, TrapClass.align.code, 0x406) := by
  decide +kernel

/-- A speculative load past the end of an object of 65,536 bytes defers SHAPE (03, "a speculative load"); it is chosen against, and cleared. -/
theorem test_speculative_load : let s := (withX objects 7 (h1 + 65528) 0).onCtl 0 fun k => { k with specEn := true }
    after (.ld (.x 4) (.x 7) { anyMemQ with off := 1 }) s (fun t => t.ctl.x[4]) = some { val := h1 + 65536, tag := TrapClass.shape.code } ∧
    after (.pchk 2 (.x 4)) (withX s 4 (h1 + 65536) TrapClass.shape.code) (fun t => t.ctl.k[2]) = some false ∧
    after (.pclr (.x 8) (.x 4)) (withX s 4 (h1 + 65536) TrapClass.shape.code) (fun t => t.ctl.x[8]) = some { val := h1 + 65536, tag := 0 } := by
  decide +kernel

/-- A sum that wraps, with a source that is also the destination (03 R87). -/
theorem test_add_wraps : after (.add (.x 3) (.x 3) (.lit32 1)) (withX State.reset 3 0xFFFFFFFFFFFFFFFF 0) (fun t => (t.ctl.x[3], t.ctl.pc)) = some ({ val := 0, tag := 0 }, 2) := by
  decide +kernel

/-- The first poisoned source passes on unchanged (03 R73). -/
theorem test_add_poison : after (.add (.x 3) (.x 4) (.x 5)) (withX (withX State.reset 4 5 7) 5 6 8) (fun t => t.ctl.x[3]) = some { val := 5, tag := 7 } := by
  decide +kernel

/-- A store waits in the buffer, and its own strand's load sees it (09 R277). -/
theorem test_store_then_load : let s := withX (withX State.reset 1 0x1122334455667788 0) 2 0x1000 0
    after (.st (.x 1) (.x 2) anyMemQ) s (fun t => (mem64 t.mach.mem (spmKey 0 0x1000), t.mach.pend.length, after (.ld32 (.x 3) (.x 2) anyMemQ) t fun u => u.ctl.x[3].val)) =
      some (0, 1, some 0x55667788) := by
  decide +kernel

/-- `scst` of the greedy program of 08: the masses 1.0, 1.25 and 2.25 for the logits 1.0, 3.0 and 3.0, and `spsort` of their best. -/
theorem test_greedy : let w : Vector W32 64 := Vector.ofFn fun i => if i.val = 0 then 0x3F800000 else if i.val < 3 then 0x40400000 else 0xFF800000
    let ids : Vector W32 64 := Vector.ofFn fun i => if i.val < 3 then BitVec.ofNat 32 (100 + i.val) else 0xFFFFFFFF
    let r : SampRun := { sampRun .block with w := ((Vector.replicate 16 (Vector.replicate 64 0)).set 0 w).set 1 ids, h := (Vector.replicate 16 0).set 0 3, cand := [], mx := 0xFF800000, sm := 0 }
    after (.scst 0 0) (sampling (some r) [] []) (fun t => (t.mach.samp.units[(0 : Fin 16)]).run.map fun z => (z.mx, z.sm, z.cand)) =
      some (some (0x40400000, 0x40100000, [(0x3F800000, 100), (0x40400000, 101), (0x40400000, 102)])) ∧
    bestOf [(0x3F800000, 100), (0x40400000, 101), (0x40400000, 102)] 1 = [(0x40400000, 101)] := by
  decide +kernel

end Sys2Proof.Tests
end

section
/-! What every step keeps of the bound set, the power cap and the arithmetic clock (01 R16, R17, 13 R396, R397), and the state after reset
(01 R29): statements O58 and O59. -/

namespace Sys2Proof.Machine

/-! Outcomes that leave the limits as they are: one rule for each shared operation. -/

/-- What the bound set, the power cap and the arithmetic clock are. -/
def Fw.limits (f : Fw) : BoundSet × Nat × Nat := (f.bounds, f.pcap, f.aclk)

theorem Fw.limits_ext {f g : Fw} (hb : g.bounds = f.bounds) (hp : g.pcap = f.pcap) (ha : g.aclk = f.aclk) : g.limits = f.limits := by
  simp only [Fw.limits, hb, hp, ha]

/-- An outcome goes on, with the limits as they are in `f`. -/
def KeepsLimits (f : Fw) (o : Host.Outcome State Fault Refusal) : Prop := ∃ t, o = .next t ∧ t.fw.limits = f.limits

theorem keepsLimits_next {f : Fw} {t : State} (h : t.fw.limits = f.limits) : KeepsLimits f (.next t) := ⟨t, rfl, h⟩

theorem State.control_keepsLimits (s : State) (n : Nat) (f : Mach → Run) : KeepsLimits s.fw (s.control n f) := by
  obtain ⟨_, _, h⟩ | ⟨_, _, h⟩ | ⟨_, _, _, h⟩ | ⟨_, _, _, _, _, h⟩ := s.control_cases n f <;> exact ⟨_, h, rfl⟩

theorem State.vector_keepsLimits (s : State) (f : Mach → Run) : KeepsLimits s.fw (s.vector f) := by
  unfold State.vector
  cases f s.mach <;> exact keepsLimits_next rfl

theorem State.engine_keepsLimits (s : State) (t : Strand) (w : Sems) (op : Instr) (words : Nat) (f : Mach → Run) :
    KeepsLimits s.fw (s.engine t w op words f) := by
  simp only [State.engine]
  repeat' split
  all_goals exact keepsLimits_next rfl

theorem State.sampler_keepsLimits (s : State) (cost : SampRun → Nat) (words : Nat) (f : Mach → SampRun → SampGo) :
    KeepsLimits s.fw (s.sampler cost words f) := by
  simp only [State.sampler]
  repeat' split
  all_goals exact keepsLimits_next rfl

theorem State.ctlStep_keepsLimits (s : State) (words : Nat) (f : Ctl → Except Trap Ctl) :
    KeepsLimits s.fw (s.ctlStep words f) := s.control_keepsLimits _ _

theorem State.alu2_keepsLimits (s : State) (d : Dst) (a b : Src) (f : W64 → W64 → AluOut) :
    KeepsLimits s.fw (s.alu2 d a b f) := s.ctlStep_keepsLimits _ _

theorem State.alu1_keepsLimits (s : State) (d : Dst) (a : Src) (f : W64 → AluOut) :
    KeepsLimits s.fw (s.alu1 d a f) := s.ctlStep_keepsLimits _ _

theorem State.load_keepsLimits (s : State) (d : Dst) (base : Src) (q : MemQ) (n : Nat) (ext : Nat → W64) :
    KeepsLimits s.fw (s.load d base q n ext) := by
  unfold State.load
  exact s.control_keepsLimits _ _

theorem State.waitingLoad_keepsLimits (s : State) (d : Dst) (base : Src) (q : MemQ) (consume : Bool) :
    KeepsLimits s.fw (s.waitingLoad d base q consume) := by
  unfold State.waitingLoad
  exact s.control_keepsLimits _ _

theorem State.store_keepsLimits (s : State) (v base : Src) (q : MemQ) (n : Nat) :
    KeepsLimits s.fw (s.store v base q n) := by
  unfold State.store
  exact s.control_keepsLimits _ _

theorem State.atomic_keepsLimits (s : State) (op : AtomOp) (d : Dst) (base b : Src) (e : Option Src) (q : AtomQ) :
    KeepsLimits s.fw (s.atomic op d base b e q) := by
  unfold State.atomic
  exact s.control_keepsLimits _ _

theorem State.branchIf_keepsLimits (s : State) (taken : Bool) (disp : BitVec 22) :
    KeepsLimits s.fw (s.branchIf taken disp) := s.control_keepsLimits _ _

theorem State.loadImage_keepsLimits (s : State) (a : Src) (e : Engine) (size : Nat) (write : Nat → Option (RegSet → RegSet)) :
    KeepsLimits s.fw (s.loadImage a e size write) := by
  unfold State.loadImage
  exact s.control_keepsLimits _ _

theorem State.writeSys_keepsLimits (s : State) (n : BitVec 15) (a : Src) :
    KeepsLimits s.fw (s.writeSys n a) := by
  unfold State.writeSys
  exact s.control_keepsLimits _ _

theorem State.yield_keepsLimits (s : State) (a : Src) :
    KeepsLimits s.fw (s.yield a) := by
  unfold State.yield
  exact s.control_keepsLimits _ _

theorem State.allocate_keepsLimits (s : State) (d : Dst) (a b : Src) :
    KeepsLimits s.fw (s.allocate d a b) := by
  unfold State.allocate
  exact s.control_keepsLimits _ _

theorem State.free_keepsLimits (s : State) (a b : Src) :
    KeepsLimits s.fw (s.free a b) := by
  unfold State.free
  exact s.control_keepsLimits _ _

theorem State.ask_keepsLimits (s : State) (d : Dst) (srcs : List Src) (op : AskOp) :
    KeepsLimits s.fw (s.ask d srcs op) := by
  unfold State.ask
  exact s.control_keepsLimits _ _

theorem State.rets_keepsLimits (s : State) (a : Src) :
    KeepsLimits s.fw (s.rets a) := by
  unfold State.rets
  exact s.control_keepsLimits _ _

theorem State.rpctl_keepsLimits (s : State) (d : Dst) (a b : Src) :
    KeepsLimits s.fw (s.rpctl d a b) := by
  unfold State.rpctl
  exact s.control_keepsLimits _ _

theorem State.vload_keepsLimits (s : State) (q : Option Qual) (d : VDst) (ly : Fin 8) (b : VSrc) (g : Guard) (indexed : Bool) :
    KeepsLimits s.fw (s.vload q d ly b g indexed) := by
  unfold State.vload
  exact s.vector_keepsLimits _

theorem State.vstore_keepsLimits (s : State) (q : Option Qual) (v : VReg) (ly : Fin 8) (b : VSrc) (g : Guard) (indexed : Bool) :
    KeepsLimits s.fw (s.vstore q v ly b g indexed) := by
  unfold State.vstore
  exact s.vector_keepsLimits _

theorem State.vfe_keepsLimits (s : State) (q : Option Qual) (d : VDst) (data : Option VReg) (ly : Fin 8) (b : VSrc) (g : Guard) (form : Nat) :
    KeepsLimits s.fw (s.vfe q d data ly b g form) := by
  unfold State.vfe
  exact s.vector_keepsLimits _

theorem State.array_keepsLimits (s : State) (t : Strand) (w : Sems) (op : Instr) (words : Nat) (f : Mach → Run) :
    KeepsLimits s.fw (s.array t w op words f) := by
  unfold State.array
  exact s.engine_keepsLimits _ _ _ _ _

theorem State.mma_keepsLimits (s : State) (w : Sems) (a : MmaArgs) (kind : MmaKind) (op : Instr) :
    KeepsLimits s.fw (s.mma w a kind op) := by
  unfold State.mma
  exact s.array_keepsLimits _ _ _ _ _

theorem State.epilogue_keepsLimits (s : State) (w : Sems) (e : EpArgs) (op : Instr) (add : Bool) (dest : Mach → MmaShape → Except (NoPlace × W64) EpDest) :
    KeepsLimits s.fw (s.epilogue w e op add dest) := by
  unfold State.epilogue
  exact s.array_keepsLimits _ _ _ _ _

theorem State.queuePush_keepsLimits (s : State) (t : Strand) (w : Sems) (op : Instr) (entry : Mach → W64 × (EngStrand → EngStrand)) :
    KeepsLimits s.fw (s.queuePush t w op entry) := by
  unfold State.queuePush
  exact s.engine_keepsLimits _ _ _ _ _

theorem State.copyStep_keepsLimits (s : State) (w : Sems) (op : Instr) (words : Nat) (pb : Bool) (dl : Fin 4) (plan : Mach → Except (NoPlace × W64) Plan) :
    KeepsLimits s.fw (s.copyStep w op words pb dl plan) := by
  unfold State.copyStep
  exact s.engine_keepsLimits _ _ _ _ _

theorem State.indexed_keepsLimits (s : State) (w : Sems) (op : Instr) (q : MoveQ) (lys lyd : Fin 8) (iaddr : W32) (rowb rows : Nat) (scatter : Bool) :
    KeepsLimits s.fw (s.indexed w op q lys lyd iaddr rowb rows scatter) := by
  unfold State.indexed
  exact s.copyStep_keepsLimits _ _ _ _ _ _

theorem State.register_keepsLimits (s : State) (w : Sems) (op : Instr) (rec : W32) (f : Mach → RegRec → Except (NoPlace × W64) (Mach → Mach)) :
    KeepsLimits s.fw (s.register w op rec f) := by
  unfold State.register
  exact s.copyStep_keepsLimits _ _ _ _ _ _

theorem State.portStep_keepsLimits (s : State) (w : Sems) (op : Instr) (rec : W32) (f : Mach → Port → Mach) :
    KeepsLimits s.fw (s.portStep w op rec f) := by
  unfold State.portStep
  exact s.register_keepsLimits _ _ _ _

theorem State.pgmov_keepsLimits (s : State) (w : Sems) (op : Instr) (h : BitVec 24) (k staddr : W32) (down : Bool) :
    KeepsLimits s.fw (s.pgmov w op h k staddr down) := by
  unfold State.pgmov
  exact s.copyStep_keepsLimits _ _ _ _ _ _

theorem State.lanes_keepsLimits (s : State) (q : Option Qual) (d : VDst) (a b : VSrc) (g : Guard) (out : VIn → Nat → Option LaneOut) :
    KeepsLimits s.fw (s.lanes q d a b g out) := by
  unfold State.lanes
  exact s.vector_keepsLimits _

theorem State.activeLanes_keepsLimits (s : State) (q : Option Qual) (d : VDst) (a b : VSrc) (g : Guard) (out : VIn → Nat → LaneOut) :
    KeepsLimits s.fw (s.activeLanes q d a b g out) := s.lanes_keepsLimits _ _ _ _ _ _

theorem State.laneOp2_keepsLimits (s : State) (q : Option Qual) (d : VDst) (a b : VSrc) (g : Guard) (f : Ex → Ex → Ex × Bool) (n : Nat → Int → Int → Int × Bool) :
    KeepsLimits s.fw (s.laneOp2 q d a b g f n) := by
  unfold State.laneOp2
  exact s.activeLanes_keepsLimits _ _ _ _ _ _

theorem State.fused_keepsLimits (s : State) (q : Option Qual) (d : VDst) (a b : VSrc) (g : Guard) (neg : Bool) :
    KeepsLimits s.fw (s.fused q d a b g neg) := by
  unfold State.fused
  exact s.activeLanes_keepsLimits _ _ _ _ _ _

theorem State.signOp_keepsLimits (s : State) (q : Option Qual) (d : VDst) (a : VSrc) (g : Guard) (f : Bool → Bool) (n : Int → Int) :
    KeepsLimits s.fw (s.signOp q d a g f n) := by
  unfold State.signOp
  exact s.activeLanes_keepsLimits _ _ _ _ _ _

theorem State.compare_keepsLimits (s : State) (q : Option Qual) (pd : Fin 8) (a b : VSrc) (g : Guard) (rel : Relation) :
    KeepsLimits s.fw (s.compare q pd a b g rel) := by
  unfold State.compare
  exact s.vector_keepsLimits _

theorem State.bitOp1_keepsLimits (s : State) (q : Option Qual) (d : VDst) (a : VSrc) (g : Guard) (f : W32 → W32) :
    KeepsLimits s.fw (s.bitOp1 q d a g f) := s.activeLanes_keepsLimits _ _ _ _ _ _

theorem State.bitOp2_keepsLimits (s : State) (q : Option Qual) (d : VDst) (a b : VSrc) (g : Guard) (f : W32 → W32 → W32) :
    KeepsLimits s.fw (s.bitOp2 q d a b g f) := s.activeLanes_keepsLimits _ _ _ _ _ _

theorem State.rotate_keepsLimits (s : State) (q : Option Qual) (d : VDst) (a b : VSrc) (g : Guard) (grp : VIn → Nat → List Nat) :
    KeepsLimits s.fw (s.rotate q d a b g grp) := s.activeLanes_keepsLimits _ _ _ _ _ _

theorem State.broadcast_keepsLimits (s : State) (q : Option Qual) (d : VDst) (a b : VSrc) (g : Guard) (grp : VIn → Nat → List Nat) :
    KeepsLimits s.fw (s.broadcast q d a b g grp) := s.activeLanes_keepsLimits _ _ _ _ _ _

theorem State.special_keepsLimits (s : State) (q : Option Qual) (d : VDst) (a : VSrc) (g : Guard) (f : Ex → Ex × FpFlags) :
    KeepsLimits s.fw (s.special q d a g f) := by
  unfold State.special
  exact s.activeLanes_keepsLimits _ _ _ _ _ _

theorem State.predOp_keepsLimits (s : State) (d : Fin 8) (f : Vec → BitVec 1024) :
    KeepsLimits s.fw (s.predOp d f) := by
  unfold State.predOp
  exact s.vector_keepsLimits _

theorem State.baseWrite_keepsLimits (s : State) (n : Fin 4) (x : VSrc) (f : BitVec 3 → W32 → BitVec 3) :
    KeepsLimits s.fw (s.baseWrite n x f) := by
  unfold State.baseWrite
  exact s.vector_keepsLimits _

theorem State.sampReg_keepsLimits (s : State) (cost : SampRun → Nat) (words : Nat) (f : SampRun → SampRun) :
    KeepsLimits s.fw (s.sampReg cost words f) := s.sampler_keepsLimits _ _ _

theorem State.sampLane2_keepsLimits (s : State) (d a b : Fin 16) (f : W32 → W32 → Fl) :
    KeepsLimits s.fw (s.sampLane2 d a b f) := s.sampReg_keepsLimits _ _ _

theorem State.sampLane1_keepsLimits (s : State) (d a : Fin 16) (f : W32 → Fl) :
    KeepsLimits s.fw (s.sampLane1 d a f) := s.sampReg_keepsLimits _ _ _

theorem State.sampTable_keepsLimits (s : State) (a : Fin 16) (t : Tab) (n : Nat) (f : SampRun → List (Option Nat) → SampRun) :
    KeepsLimits s.fw (s.sampTable a t n f) := s.sampler_keepsLimits _ _ _

theorem State.sdraw_keepsLimits (s : State) (d a b : Fin 16) (cut : Bool) :
    KeepsLimits s.fw (s.sdraw d a b cut) := s.sampler_keepsLimits _ _ _

theorem State.sendTok_keepsLimits (s : State) (a : Fin 16) (count : Bool) :
    KeepsLimits s.fw (s.sendTok a count) := by
  unfold State.sendTok
  exact s.sampler_keepsLimits _ _ _

theorem State.collective_keepsLimits (s : State) (w : Sems) (op : Instr) (q : FabQ) (desc : W32) (kind : Nat) :
    KeepsLimits s.fw (s.collective w op q desc kind) := by
  unfold State.collective
  exact s.copyStep_keepsLimits _ _ _ _ _ _

theorem State.collStart_keepsLimits (s : State) (w : Sems) (op : Instr) (q : FabQ) (desc : W32) (kind : Nat) :
    KeepsLimits s.fw (s.collStart w op q desc kind) := by
  obtain ⟨t, ht, hl⟩ := s.collective_keepsLimits w op q desc kind
  simp only [State.collStart, ht]
  exact keepsLimits_next hl

theorem State.home_keepsLimits (s : State) (g : FabMsg) (l : List (W64 × Nat × Kind)) (f : Mach → List Nat → Mach × FabReply) :
    KeepsLimits s.fw (s.home g l f) := by
  simp only [State.home]
  split <;> exact keepsLimits_next rfl

theorem State.homeElems_keepsLimits (s : State) (g : FabMsg) (l : List (W64 × Nat × Option (List (Byte × Byte)))) :
    KeepsLimits s.fw (s.homeElems g l) := by
  simp only [State.homeElems]
  split <;> exact keepsLimits_next rfl

theorem keepsLimits_onMach (s : State) (f : Mach → Mach) : KeepsLimits s.fw (.next (s.onMach f)) := keepsLimits_next rfl

theorem execFabricMessageArrival_keepsLimits (g : FabMsg) (s : State) : KeepsLimits s.fw (execFabricMessageArrival g s) := by
  simp only [execFabricMessageArrival]
  split
  · exact keepsLimits_next rfl
  · split
    case h_3 =>
      split
      · exact keepsLimits_next rfl
      · exact s.homeElems_keepsLimits _ _
      · exact s.homeElems_keepsLimits _ _
      · exact s.home_keepsLimits _ _ _
    case h_6 => exact keepsLimits_next rfl
    all_goals exact s.home_keepsLimits _ _ _

theorem execCkrqctlGo_keepsLimits (v : W64) (s : State) : KeepsLimits s.fw (execCkrqctlGo v s) := by
  rw [execCkrqctlGo]
  repeat' split
  all_goals exact keepsLimits_next rfl

theorem execRegisterWrite_keepsLimits (off : Nat) (v : W64) (fw : Bool) (s : State) : KeepsLimits s.fw (execRegisterWrite off v fw s) := by
  unfold execRegisterWrite
  extract_lets onFw
  have hfw (f : Fw → Fw) (hf : (f s.fw).limits = s.fw.limits) : KeepsLimits s.fw (onFw f) := keepsLimits_next hf
  have same : KeepsLimits s.fw (.next s) := keepsLimits_next rfl
  clear_value onFw
  split
  · split
    · exact hfw _ rfl
    · exact same
  · split
    · exact same
    · split
      · split
        · exact keepsLimits_onMach _ _
        · exact same
      · split
        · split
          · exact same
          · exact hfw _ (Fw.limits_ext rfl rfl rfl)
        · split
          · exact keepsLimits_onMach _ _
          · exact keepsLimits_onMach _ _
          · split
            · exact same
            · exact hfw _ rfl
          · exact hfw _ rfl
          · exact hfw _ rfl
          · split
            · exact same
            · exact hfw _ rfl
          · exact hfw _ rfl
          · exact keepsLimits_onMach _ _
          · exact same

theorem State.countError_limits (s : State) (core : Option CoreId) (corrected : Bool) : (s.countError core corrected).fw.limits = s.fw.limits := by
  cases core with
  | some c => rfl
  | none => cases corrected <;> rfl

theorem State.error_limits (s : State) (e : Ecc) : (s.error e).fw.limits = s.fw.limits := by
  cases e <;> exact State.countError_limits _ _ _

theorem execAsyncTrapDelivery_keepsLimits (c : CoreId) (e : Option Ecc) (s : State) : KeepsLimits s.fw (execAsyncTrapDelivery c e s) := by
  cases e with
  | some e => exact keepsLimits_next (s.error_limits e)
  | none =>
    simp only [execAsyncTrapDelivery]
    repeat' split
    all_goals exact keepsLimits_next rfl

/-! Steps that run a waiting instruction again. -/

theorem State.waitingForm_keepsLimits {s : State} {i : Instr} {o : Host.Outcome State Fault Refusal} (h : s.waitingForm i = some o) :
    KeepsLimits s.fw o := by
  unfold State.waitingForm at h
  split at h <;> cases h
  · exact s.waitingLoad_keepsLimits _ _ _ _
  · exact s.waitingLoad_keepsLimits _ _ _ _
  · simp only [execStfill, State.control_keepsLimits]
  · simp only [execMoor, State.control_keepsLimits]
  all_goals exact s.vfe_keepsLimits _ _ _ _ _ _ _

theorem State.atomicForm_keepsLimits {s : State} {i : Instr} {o : Host.Outcome State Fault Refusal} (h : s.atomicForm i = some o) :
    KeepsLimits s.fw o := by
  unfold State.atomicForm at h
  split at h <;> cases h
  all_goals exact s.atomic_keepsLimits _ _ _ _ _ _

theorem State.attempt_keepsLimits (s : State) (c : CoreId) (t : Strand) {form : State → Instr → Option (Host.Outcome State Fault Refusal)}
    (h : ∀ {s : State} {i : Instr} {o}, form s i = some o → KeepsLimits s.fw o) : KeepsLimits s.fw (s.attempt c t form) := by
  simp only [State.attempt]
  split
  next i _ _ =>
    cases hf : form { s with cur := { core := c, strand := t } } i with
    | none => exact keepsLimits_next rfl
    | some o =>
      have := h hf
      exact this
  next => exact keepsLimits_next rfl

theorem execWaitRetry_keepsLimits (c : CoreId) (t : Strand) (s : State) : KeepsLimits s.fw (execWaitRetry c t s) := by
  unfold execWaitRetry
  split
  · split
    · exact s.attempt_keepsLimits _ _ State.waitingForm_keepsLimits
    · exact keepsLimits_next rfl
  · exact keepsLimits_next rfl

theorem execMoorPoolRetry_keepsLimits (c : CoreId) (t : Strand) (s : State) : KeepsLimits s.fw (execMoorPoolRetry c t s) := by
  unfold execMoorPoolRetry
  split
  · split
    · exact s.attempt_keepsLimits _ _ State.waitingForm_keepsLimits
    · exact keepsLimits_next rfl
  · exact keepsLimits_next rfl

theorem execMoorWakeAttempt_keepsLimits (c : CoreId) (t : Strand) (s : State) : KeepsLimits s.fw (execMoorWakeAttempt c t s) := by
  unfold execMoorWakeAttempt
  split
  · split
    · exact s.attempt_keepsLimits _ _ State.waitingForm_keepsLimits
    · split
      · exact (s.onMach fun m => m.wakeStrand c t).attempt_keepsLimits _ _ State.waitingForm_keepsLimits
      · exact keepsLimits_next rfl
  · exact keepsLimits_next rfl

theorem execFabricAtomicHome_keepsLimits (g : FabMsg) (s : State) : KeepsLimits s.fw (execFabricAtomicHome g s) := by
  simp only [execFabricAtomicHome]
  repeat' split
  all_goals exact keepsLimits_next rfl

theorem execGateRelease_keepsLimits (c : CoreId) (t : Strand) (s : State) : KeepsLimits s.fw (execGateRelease c t s) := by
  unfold execGateRelease
  split
  · split
    · split
      · exact s.attempt_keepsLimits _ _ State.atomicForm_keepsLimits
      · exact keepsLimits_next rfl
    · exact keepsLimits_next rfl
  · split
    · exact execFabricAtomicHome_keepsLimits _ s
    · exact keepsLimits_next rfl
  · exact keepsLimits_next rfl

theorem KeepsLimits.setCur {f : Fw} {o : Host.Outcome State Fault Refusal} (h : KeepsLimits f o) (a : Agent) :
    KeepsLimits f (match (generalizing := false) o with | .next t => .next { t with cur := a } | r => r) := by
  obtain ⟨t, rfl, ht⟩ := h
  exact keepsLimits_next ht

theorem execMoorExpire_keepsLimits (c : CoreId) (s : State) : KeepsLimits s.fw (execMoorExpire c s) := by
  simp only [execMoorExpire]
  split
  next w _ =>
    split
    · split
      · exact (State.control_keepsLimits { s with cur := { core := c, strand := .control } } w.words _).setCur s.cur
      · exact keepsLimits_next rfl
    · exact keepsLimits_next rfl
  next => exact keepsLimits_next rfl

theorem execVtrans_keepsLimits (q : Option Qual) (d : VDst) (a : VSrc) (g : Guard) (s : State) : KeepsLimits s.fw (execVtrans q d a g s) := by
  unfold execVtrans
  extract_lets same
  split
  · exact s.vector_keepsLimits _
  · exact s.activeLanes_keepsLimits _ _ _ _ _ _

theorem execAttnAccept_keepsLimits (ad : Fin 2) (id : Nat) (s : State) : KeepsLimits s.fw (execAttnAccept ad id s) := by
  simp only [execAttnAccept]
  repeat' split
  all_goals exact keepsLimits_next rfl

theorem execAttnComplete_keepsLimits (ad : Fin 2) (id : Nat) (s : State) : KeepsLimits s.fw (execAttnComplete ad id s) := by
  simp only [execAttnComplete]
  repeat' split
  all_goals exact keepsLimits_next rfl

theorem execExclusiveAccept_keepsLimits (ad : Fin 2) (id : Nat) (s : State) : KeepsLimits s.fw (execExclusiveAccept ad id s) := by
  simp only [execExclusiveAccept]
  repeat' split
  all_goals exact keepsLimits_next rfl

theorem execExinvSwitch_keepsLimits (ad : Fin 2) (seq : Nat) (s : State) : KeepsLimits s.fw (execExinvSwitch ad seq s) := by
  simp only [execExinvSwitch]
  repeat' split
  all_goals exact keepsLimits_next rfl

theorem execExinvDrain_keepsLimits (ad : Fin 2) (seq : Nat) (s : State) : KeepsLimits s.fw (execExinvDrain ad seq s) := by
  simp only [execExinvDrain]
  repeat' split
  all_goals exact keepsLimits_next rfl

theorem execVqrdImageArrival_keepsLimits (c : CoreId) (oq : Fin 4) (k : Fin 4) (s : State) : KeepsLimits s.fw (execVqrdImageArrival c oq k s) := by
  simp only [execVqrdImageArrival]
  repeat' split
  all_goals exact keepsLimits_next rfl

theorem execLeaseGrant_keepsLimits (c : CoreId) (s : State) : KeepsLimits s.fw (execLeaseGrant c s) := by
  simp only [execLeaseGrant]
  repeat' split
  all_goals exact keepsLimits_next rfl

theorem execMatrixStepComplete_keepsLimits (c : CoreId) (b : Bool) (id : Nat) (s : State) : KeepsLimits s.fw (execMatrixStepComplete c b id s) := by
  simp only [execMatrixStepComplete]
  repeat' split
  all_goals exact keepsLimits_next rfl

theorem execCopyStepComplete_keepsLimits (c : CoreId) (id : Nat) (s : State) : KeepsLimits s.fw (execCopyStepComplete c id s) := by
  simp only [execCopyStepComplete]
  repeat' split
  all_goals exact keepsLimits_next rfl

theorem execCollectiveMessageArrival_keepsLimits (g : FabMsg) (s : State) : KeepsLimits s.fw (execCollectiveMessageArrival g s) := by
  simp only [execCollectiveMessageArrival]
  repeat' split
  all_goals exact keepsLimits_next rfl

theorem execBounceResend_keepsLimits (id : Nat) (s : State) : KeepsLimits s.fw (execBounceResend id s) := by
  simp only [execBounceResend]
  repeat' split
  all_goals exact keepsLimits_next rfl

theorem execCollectiveComplete_keepsLimits (c : CoreId) (id : Nat) (s : State) : KeepsLimits s.fw (execCollectiveComplete c id s) := by
  simp only [execCollectiveComplete]
  repeat' split
  all_goals exact keepsLimits_next rfl

theorem execCollectiveTimeout_keepsLimits (c : CoreId) (id : Nat) (s : State) : KeepsLimits s.fw (execCollectiveTimeout c id s) := by
  simp only [execCollectiveTimeout]
  repeat' split
  all_goals exact keepsLimits_next rfl

theorem execObcopySwitch_keepsLimits (c : CoreId) (id : Nat) (s : State) : KeepsLimits s.fw (execObcopySwitch c id s) := by
  simp only [execObcopySwitch]
  repeat' split
  all_goals exact keepsLimits_next rfl

theorem execSampleAccept_keepsLimits (cl : Fin 16) (s : State) : KeepsLimits s.fw (execSampleAccept cl s) := by
  simp only [execSampleAccept]
  repeat' split
  all_goals exact keepsLimits_next rfl

theorem execSamplerBlock_keepsLimits (cl : Fin 16) (s : State) : KeepsLimits s.fw (execSamplerBlock cl s) := by
  simp only [execSamplerBlock]
  repeat' split
  all_goals exact keepsLimits_next rfl

theorem execSamplerFinalPhase_keepsLimits (cl : Fin 16) (s : State) : KeepsLimits s.fw (execSamplerFinalPhase cl s) := by
  simp only [execSamplerFinalPhase]
  repeat' split
  all_goals exact keepsLimits_next rfl

theorem execWatchdogExhausted_keepsLimits (cl : Fin 16) (s : State) : KeepsLimits s.fw (execWatchdogExhausted cl s) := by
  simp only [execWatchdogExhausted]
  repeat' split
  all_goals exact keepsLimits_next rfl

theorem execSampleComplete_keepsLimits (cl : Fin 16) (s : State) : KeepsLimits s.fw (execSampleComplete cl s) := by
  simp only [execSampleComplete]
  repeat' split
  all_goals exact keepsLimits_next rfl

theorem execShardTokenArrival_keepsLimits (cl : Fin 16) (r : ShardReply) (s : State) : KeepsLimits s.fw (execShardTokenArrival cl r s) := by
  simp only [execShardTokenArrival]
  repeat' split
  all_goals exact keepsLimits_next rfl

theorem execRootTimeout_keepsLimits (cl : Fin 16) (s : State) : KeepsLimits s.fw (execRootTimeout cl s) := by
  simp only [execRootTimeout]
  repeat' split
  all_goals exact keepsLimits_next rfl

theorem execShardReplyTimeout_keepsLimits (cl : Fin 16) (s : State) : KeepsLimits s.fw (execShardReplyTimeout cl s) := by
  simp only [execShardReplyTimeout]
  repeat' split
  all_goals exact keepsLimits_next rfl

theorem execContributionHoldTimeout_keepsLimits (cl : Fin 16) (k : Nat) (s : State) : KeepsLimits s.fw (execContributionHoldTimeout cl k s) := by
  simp only [execContributionHoldTimeout]
  repeat' split
  all_goals exact keepsLimits_next rfl

theorem execRowArrival_keepsLimits (g : FabMsg) (s : State) : KeepsLimits s.fw (execRowArrival g s) := by
  simp only [execRowArrival]
  repeat' split
  all_goals exact keepsLimits_next rfl

theorem execRowAck_keepsLimits (id : Nat) (reply : FabReply) (s : State) : KeepsLimits s.fw (execRowAck id reply s) := by
  simp only [execRowAck]
  repeat' split
  all_goals exact keepsLimits_next rfl

theorem execFabricReply_keepsLimits (id : Nat) (reply : FabReply) (s : State) : KeepsLimits s.fw (execFabricReply id reply s) := by
  simp only [execFabricReply]
  repeat' split
  all_goals exact keepsLimits_next rfl

theorem execFabricReplyTimeout_keepsLimits (id : Nat) (s : State) : KeepsLimits s.fw (execFabricReplyTimeout id s) := by
  simp only [execFabricReplyTimeout]
  repeat' split
  all_goals exact keepsLimits_next rfl

theorem execFeExpire_keepsLimits (c : CoreId) (t : Strand) (s : State) : KeepsLimits s.fw (execFeExpire c t s) := by
  simp only [execFeExpire]
  repeat' split
  all_goals exact keepsLimits_next rfl

theorem execStepWaitExpire_keepsLimits (c : CoreId) (r : RingNo) (s : State) : KeepsLimits s.fw (execStepWaitExpire c r s) := by
  simp only [execStepWaitExpire]
  repeat' split
  all_goals exact keepsLimits_next rfl

theorem execReplayHoldExpire_keepsLimits (c : CoreId) (t : Strand) (s : State) : KeepsLimits s.fw (execReplayHoldExpire c t s) := by
  simp only [execReplayHoldExpire]
  repeat' split
  all_goals exact keepsLimits_next rfl

theorem execSwapPoint_keepsLimits (c : CoreId) (e : Engine) (s : State) : KeepsLimits s.fw (execSwapPoint c e s) := by
  simp only [execSwapPoint]
  repeat' split
  all_goals exact keepsLimits_next rfl

theorem execPagerPromotion_keepsLimits (ctx h k : Nat) (s : State) : KeepsLimits s.fw (execPagerPromotion ctx h k s) := by
  simp only [execPagerPromotion]
  repeat' split
  all_goals exact keepsLimits_next rfl

theorem execTaskDispatch_keepsLimits (s : State) : KeepsLimits s.fw (execTaskDispatch s) := by
  simp only [execTaskDispatch]
  repeat' split
  all_goals exact keepsLimits_next rfl

theorem execPreemptionDecision_keepsLimits (far : Option (Nat × Fin 3)) (s : State) : KeepsLimits s.fw (execPreemptionDecision far s) := by
  simp only [execPreemptionDecision]
  repeat' split
  all_goals exact keepsLimits_next rfl

theorem execDrainTimeout_keepsLimits (id : Nat) (s : State) : KeepsLimits s.fw (execDrainTimeout id s) := by
  simp only [execDrainTimeout]
  repeat' split
  all_goals exact keepsLimits_next rfl

theorem execCheckpointSave_keepsLimits (id : Nat) (s : State) : KeepsLimits s.fw (execCheckpointSave id s) := by
  simp only [execCheckpointSave]
  repeat' split
  all_goals exact keepsLimits_next rfl

theorem execTaskKill_keepsLimits (id : Nat) (s : State) : KeepsLimits s.fw (execTaskKill id s) := by
  simp only [execTaskKill]
  repeat' split
  all_goals exact keepsLimits_next rfl

theorem execRestore_keepsLimits (s : State) : KeepsLimits s.fw (execRestore s) := by
  simp only [execRestore]
  repeat' split
  all_goals exact keepsLimits_next rfl

theorem execTaskRetire_keepsLimits (id : Nat) (far : List (BitVec 16)) (s : State) : KeepsLimits s.fw (execTaskRetire id far s) := by
  simp only [execTaskRetire]
  repeat' split
  all_goals exact keepsLimits_next rfl

theorem execTaskComplete_keepsLimits (id : Nat) (s : State) : KeepsLimits s.fw (execTaskComplete id s) := by
  simp only [execTaskComplete]
  repeat' split
  all_goals exact keepsLimits_next rfl

theorem execContextDestroy_keepsLimits (ctx : Fin 64) (s : State) : KeepsLimits s.fw (execContextDestroy ctx s) := by
  simp only [execContextDestroy]
  repeat' split
  all_goals exact keepsLimits_next rfl

theorem execSnapshotLatch_keepsLimits (s : State) : KeepsLimits s.fw (execSnapshotLatch s) := by
  simp only [execSnapshotLatch]
  repeat' split
  all_goals exact keepsLimits_next rfl

theorem execShardContribution_keepsLimits (msg : ShardMsg) (s : State) : KeepsLimits s.fw (execShardContribution msg s) := by
  simp only [execShardContribution]
  repeat' split
  all_goals exact keepsLimits_next rfl

theorem execUserEventDelivery_keepsLimits (c : CoreId) (s : State) : KeepsLimits s.fw (execUserEventDelivery c s) := by
  simp only [execUserEventDelivery]
  repeat' split
  all_goals exact keepsLimits_next rfl

theorem execTqtailWrite_keepsLimits (q : Fin 64) (v : W64) (s : State) : KeepsLimits s.fw (execTqtailWrite q v s) := by
  simp only [execTqtailWrite]
  repeat' split
  all_goals exact keepsLimits_next rfl

theorem execHostBar4Write_keepsLimits (off : Nat) (data : List (BitVec 8)) (s : State) : KeepsLimits s.fw (execHostBar4Write off data s) := by
  simp only [execHostBar4Write]
  repeat' split
  all_goals exact keepsLimits_next rfl

theorem execHostFeByteWrite_keepsLimits (off : Nat) (v : BitVec 8) (s : State) : KeepsLimits s.fw (execHostFeByteWrite off v s) := by
  simp only [execHostFeByteWrite]
  repeat' split
  all_goals exact keepsLimits_next rfl

theorem execTaskAdmission_keepsLimits (far : Option FarTask) (s : State) : KeepsLimits s.fw (execTaskAdmission far s) := by
  simp only [execTaskAdmission]
  repeat' split
  all_goals exact keepsLimits_next rfl

theorem execCoreShareEnd_keepsLimits (c : CoreId) (s : State) : KeepsLimits s.fw (execCoreShareEnd c s) := by
  simp only [execCoreShareEnd]
  repeat' split
  all_goals exact keepsLimits_next rfl

theorem execBootctlGo_keepsLimits (v : W64) (s : State) : KeepsLimits s.fw (execBootctlGo v s) := by
  simp only [execBootctlGo]
  repeat' split
  all_goals exact keepsLimits_next rfl

theorem execFirmwareVerifyDone_keepsLimits (s : State) : KeepsLimits s.fw (execFirmwareVerifyDone s) := by
  simp only [execFirmwareVerifyDone]
  repeat' split
  all_goals exact keepsLimits_next rfl

theorem execAttctlGo_keepsLimits (v : W64) (s : State) : KeepsLimits s.fw (execAttctlGo v s) := by
  simp only [execAttctlGo]
  repeat' split
  all_goals exact keepsLimits_next rfl

theorem execAttestationResponse_keepsLimits (s : State) : KeepsLimits s.fw (execAttestationResponse s) := by
  simp only [execAttestationResponse]
  repeat' split
  all_goals exact keepsLimits_next rfl

theorem execMeasurementExtend_keepsLimits (i : Fin 8) (d : BitVec 256) (label : BitVec 128) (s : State) : KeepsLimits s.fw (execMeasurementExtend i d label s) := by
  simp only [execMeasurementExtend]
  repeat' split
  all_goals exact keepsLimits_next rfl

theorem execRouteWrite_keepsLimits (dst : BitVec 12) (port : Fin 16) (s : State) : KeepsLimits s.fw (execRouteWrite dst port s) := by
  simp only [execRouteWrite]
  repeat' split
  all_goals exact keepsLimits_next rfl

theorem execFirmwareDma_keepsLimits (write : Bool) (addr n : Nat) (data : List (BitVec 8)) (s : State) : KeepsLimits s.fw (execFirmwareDma write addr n data s) := by
  simp only [execFirmwareDma]
  repeat' split
  all_goals exact keepsLimits_next rfl

theorem execFirmwareHbmAccess_keepsLimits (write : Bool) (acc : HbmAccess) (n : Nat) (data : List (BitVec 8)) (s : State) : KeepsLimits s.fw (execFirmwareHbmAccess write acc n data s) := by
  simp only [execFirmwareHbmAccess]
  repeat' split
  all_goals exact keepsLimits_next rfl

theorem execContextCreate_keepsLimits (ctx : Fin 64) (cfg : ContextCfg) (s : State) : KeepsLimits s.fw (execContextCreate ctx cfg s) := by
  simp only [execContextCreate]
  repeat' split
  all_goals exact keepsLimits_next rfl

theorem execBellMessage_keepsLimits (src : BitVec 12) (s : State) : KeepsLimits s.fw (execBellMessage src s) := by
  simp only [execBellMessage]
  repeat' split
  all_goals exact keepsLimits_next rfl

theorem execFabricBringUp_keepsLimits (pkg : BitVec 12) (group : Nat) (ports : BitVec 16) (s : State) : KeepsLimits s.fw (execFabricBringUp pkg group ports s) := by
  simp only [execFabricBringUp]
  repeat' split
  all_goals exact keepsLimits_next rfl

/-- Every instruction but the power cap's, the throttles' and the cold reset leaves the limits as they are. -/
theorem exec_keepsLimits (i : Instr) (s : State) (hcap : ∀ w, i ≠ .powerCapWrite w) (hdown : i ≠ .throttleDown) (hup : i ≠ .throttleUp)
    (hreset : ∀ x, i ≠ .coldReset x) : KeepsLimits s.fw (exec i s) := by
  unfold exec
  cases i
  case powerCapWrite w => exact absurd rfl (hcap w)
  case throttleDown => exact absurd rfl hdown
  case throttleUp => exact absurd rfl hup
  case coldReset x => exact absurd rfl (hreset x)
  case add | sub | mul | mulh | mulhn | div | divn | rem | remn | and | or | xor | andn | shl | shr | sar | rol | min | max | minn | maxn | adds | subs
    | addsn | subsn | muls | padd | psub | pmake => exact s.alu2_keepsLimits _ _ _ _
  case abs | neg | clz | ctz | popc | sext8 | sext16 | sext32 | mov | addi | andi | ori | xori | shli | shri | sari | roli | phdl | poff | paddi =>
    exact s.alu1_keepsLimits _ _ _
  case movi | cmp | cmpi | sel | kand | kor | kxor | knot | kmov | csel | pchk | pclr => exact s.ctlStep_keepsLimits _ _
  case ld | ld32 | ld32s | ld16 | ld16s | ld8 | ld8s => exact s.load_keepsLimits _ _ _ _ _
  case ldwait | ldcons => exact s.waitingLoad_keepsLimits _ _ _ _
  case st | st32 | st16 | st8 => exact s.store_keepsLimits _ _ _ _
  case b | call | jr | callr | ret | trap => exact s.control_keepsLimits _ _
  case stfill | fence | cireq | jtab | qrd | qwr | qtryrd | qtrywr | shswap | srr | uiret | smwait | smadd | mxlock | mxfree | dbar | moor | launch |
    attn | sample | sbind | hins | htop | hclr | obqry | obprobe | snap =>
    simp only [execStfill, execFence, execCireq, execJtab, execQrd, execQwr, execQtryrd, execQtrywr, execShswap, execSrr, execUiret, execSmwait,
      execSmadd, execMxlock, execMxfree, execDbar, execMoor, execLaunch, execAttn, execSample, execSbind, execHins, execHtop, execHclr, execObqry,
      execObprobe, execSnap, State.control_keepsLimits]
  case aadd | afadd | axchg | acas | amin | amax | aminn | amaxn | aand | aor | axor => exact s.atomic_keepsLimits _ _ _ _ _ _
  case bc | bcn => exact s.branchIf_keepsLimits _ _
  case shwr | lywr => exact s.loadImage_keepsLimits _ _ _ _
  case srw | crcfgWrite | crrpWrite | crwpWrite | mcinvWrite | vstatWrite | mlcfgWrite => exact s.writeSys_keepsLimits _ _
  case yieldPoint | yieldEnd => exact s.yield_keepsLimits _
  case allocRing | allocBump | allocStatus => exact s.allocate_keepsLimits _ _ _
  case freeRing | freeBump => exact s.free_keepsLimits _ _
  case atcommit | atdrop | exalloc | exfree | exinv => exact s.ask_keepsLimits _ _ _
  case retsReturn | retsEnd => exact s.rets_keepsLimits _
  case rpctlRdst | rpctlCk | rpctlRdhash | rpctlConfig | rpctlStop => exact s.rpctl_keepsLimits _ _ _
  case vld | vgath => exact s.vload_keepsLimits _ _ _ _ _ _
  case vst | vscat => exact s.vstore_keepsLimits _ _ _ _ _ _
  case vldwait | vldcons | vstfill => exact s.vfe_keepsLimits _ _ _ _ _ _ _
  case mma | mmaz | mmasg => exact s.mma_keepsLimits _ _ _ _
  case fset | fqrd | mthr | mrel | msync | mjmp | csync =>
    simp only [execFset, execFqrd, execMthr, execMrel, execMsync, execMjmp, execCsync, State.engine_keepsLimits]
  case scld | acczero | accst | accld =>
    simp only [execScld, execAcczero, execAccst, execAccld, State.array_keepsLimits]
  case epil | epobj | eprow | epadd => exact s.epilogue_keepsLimits _ _ _ _ _
  case mqwr | cqwr => exact s.queuePush_keepsLimits _ _ _ _
  case mqwrSt =>
    simp only [execMqwrSt, State.queuePush_keepsLimits]
  case tmov | tmov2d | rrot | rpush | cfill | crstr | fwr | frd | fatom | lbrelBuffer | lbrelPort | feset | obcopy =>
    simp only [execTmov, execTmov2d, execRrot, execRpush, execCfill, execCrstr, execFwr, execFrd, execFatom, execLbrelBuffer, execLbrelPort, execFeset,
      execObcopy, State.copyStep_keepsLimits]
  case gath | scat => exact s.indexed_keepsLimits _ _ _ _ _ _ _ _ _
  case lbregBuffer | lbregPort | lbregRedirect =>
    simp only [execLbregBuffer, execLbregPort, execLbregRedirect, State.register_keepsLimits]
  case lbregOpen => exact s.portStep_keepsLimits _ _ _ _
  case lbregClose =>
    simp only [execLbregClose, State.portStep_keepsLimits]
  case a2av | rscat | agath | bcast => exact s.collStart_keepsLimits _ _ _ _ _
  case pgmovUp | pgmovDown => exact s.pgmov_keepsLimits _ _ _ _ _ _
  case vadd | vsub | vmul | vmin | vmax | vadds | vsubs | vmulh => exact s.laneOp2_keepsLimits _ _ _ _ _ _ _
  case vfma | vfnma => exact s.fused_keepsLimits _ _ _ _ _ _
  case vabs | vneg => exact s.signOp_keepsLimits _ _ _ _ _ _
  case vceq | vcne | vclt | vcle | vcgt | vcge => exact s.compare_keepsLimits _ _ _ _ _ _
  case vsel | vxred | vyred | vsgred | vsgscan => exact s.lanes_keepsLimits _ _ _ _ _ _
  case vcsel | vwalk | vqrd | vloop | vlend | vsmwait | vsmadd | vqget | vqput =>
    simp only [execVcsel, execVwalk, execVqrd, execVloop, execVlend, execVsmwait, execVsmadd, execVqget, execVqput, State.vector_keepsLimits]
  case vpack | vperm | vshuf => exact s.activeLanes_keepsLimits _ _ _ _ _ _
  case vcvt =>
    simp only [execVcvt, State.activeLanes_keepsLimits]
  case vmov | vnot => exact s.bitOp1_keepsLimits _ _ _ _ _
  case vand | vor | vxor => exact s.bitOp2_keepsLimits _ _ _ _ _ _
  case vshl | vshr | vsar =>
    simp only [execVshl, execVshr, execVsar, State.bitOp2_keepsLimits]
  case vxrot | vyrot => exact s.rotate_keepsLimits _ _ _ _ _ _
  case vxbc | vybc => exact s.broadcast_keepsLimits _ _ _ _ _ _
  case vrcp | vrsqrt | vsqrt | vexp2 | vlog2 | vtanh | vsigm => exact s.special_keepsLimits _ _ _ _ _
  case vpand | vpor | vpxor | vpnot => exact s.predOp_keepsLimits _ _
  case vbset | vbadd => exact s.baseWrite_keepsLimits _ _ _
  case sld | sfma | sbc | sxred | smov | shmov | shadd | shmul | ssel | spsort | scsum | ssoft => exact s.sampReg_keepsLimits _ _ _
  case scst | stbw | sgen | saccept | sbnz | sjmp => exact s.sampler_keepsLimits _ _ _
  case sendBlock | sendNone =>
    simp only [execSendBlock, execSendNone, State.sampler_keepsLimits]
  case sadd | ssub | smul | smax | smin | scmp => exact s.sampLane2_keepsLimits _ _ _ _
  case sexp2 | slog2 | srcp => exact s.sampLane1_keepsLimits _ _ _
  case stbl | smask => exact s.sampTable_keepsLimits _ _ _ _
  case sdrawDraw | sdrawCut => exact s.sdraw_keepsLimits _ _ _ _
  case sendToken | sendCount => exact s.sendTok_keepsLimits _ _
  case attnAccept => exact execAttnAccept_keepsLimits _ _ _
  case attnComplete => exact execAttnComplete_keepsLimits _ _ _
  case exclusiveAccept => exact execExclusiveAccept_keepsLimits _ _ _
  case exinvSwitch => exact execExinvSwitch_keepsLimits _ _ _
  case exinvDrain => exact execExinvDrain_keepsLimits _ _ _
  case vqrdImageArrival => exact execVqrdImageArrival_keepsLimits _ _ _ _
  case leaseGrant => exact execLeaseGrant_keepsLimits _ _
  case matrixStepComplete => exact execMatrixStepComplete_keepsLimits _ _ _ _
  case copyStepComplete => exact execCopyStepComplete_keepsLimits _ _ _
  case collectiveMessageArrival => exact execCollectiveMessageArrival_keepsLimits _ _
  case bounceResend => exact execBounceResend_keepsLimits _ _
  case collectiveComplete => exact execCollectiveComplete_keepsLimits _ _ _
  case collectiveTimeout => exact execCollectiveTimeout_keepsLimits _ _ _
  case obcopySwitch => exact execObcopySwitch_keepsLimits _ _ _
  case sampleAccept => exact execSampleAccept_keepsLimits _ _
  case samplerBlock => exact execSamplerBlock_keepsLimits _ _
  case samplerFinalPhase => exact execSamplerFinalPhase_keepsLimits _ _
  case watchdogExhausted => exact execWatchdogExhausted_keepsLimits _ _
  case sampleComplete => exact execSampleComplete_keepsLimits _ _
  case shardTokenArrival => exact execShardTokenArrival_keepsLimits _ _ _
  case rootTimeout => exact execRootTimeout_keepsLimits _ _
  case shardReplyTimeout => exact execShardReplyTimeout_keepsLimits _ _
  case contributionHoldTimeout => exact execContributionHoldTimeout_keepsLimits _ _ _
  case rowArrival => exact execRowArrival_keepsLimits _ _
  case rowAck => exact execRowAck_keepsLimits _ _ _
  case fabricReply => exact execFabricReply_keepsLimits _ _ _
  case fabricReplyTimeout => exact execFabricReplyTimeout_keepsLimits _ _
  case feExpire => exact execFeExpire_keepsLimits _ _ _
  case stepWaitExpire => exact execStepWaitExpire_keepsLimits _ _ _
  case replayHoldExpire => exact execReplayHoldExpire_keepsLimits _ _ _
  case swapPoint => exact execSwapPoint_keepsLimits _ _ _
  case pagerPromotion => exact execPagerPromotion_keepsLimits _ _ _ _
  case taskDispatch => exact execTaskDispatch_keepsLimits _
  case preemptionDecision => exact execPreemptionDecision_keepsLimits _ _
  case drainTimeout => exact execDrainTimeout_keepsLimits _ _
  case checkpointSave => exact execCheckpointSave_keepsLimits _ _
  case taskKill => exact execTaskKill_keepsLimits _ _
  case restore => exact execRestore_keepsLimits _
  case taskRetire => exact execTaskRetire_keepsLimits _ _ _
  case taskComplete => exact execTaskComplete_keepsLimits _ _
  case contextDestroy => exact execContextDestroy_keepsLimits _ _
  case snapshotLatch => exact execSnapshotLatch_keepsLimits _
  case shardContribution => exact execShardContribution_keepsLimits _ _
  case userEventDelivery => exact execUserEventDelivery_keepsLimits _ _
  case tqtailWrite => exact execTqtailWrite_keepsLimits _ _ _
  case hostBar4Write => exact execHostBar4Write_keepsLimits _ _ _
  case hostFeByteWrite => exact execHostFeByteWrite_keepsLimits _ _ _
  case taskAdmission => exact execTaskAdmission_keepsLimits _ _
  case coreShareEnd => exact execCoreShareEnd_keepsLimits _ _
  case bootctlGo => exact execBootctlGo_keepsLimits _ _
  case firmwareVerifyDone => exact execFirmwareVerifyDone_keepsLimits _
  case attctlGo => exact execAttctlGo_keepsLimits _ _
  case attestationResponse => exact execAttestationResponse_keepsLimits _
  case measurementExtend => exact execMeasurementExtend_keepsLimits _ _ _ _
  case routeWrite => exact execRouteWrite_keepsLimits _ _ _
  case firmwareDma => exact execFirmwareDma_keepsLimits _ _ _ _ _
  case firmwareHbmAccess => exact execFirmwareHbmAccess_keepsLimits _ _ _ _ _
  case contextCreate => exact execContextCreate_keepsLimits _ _ _
  case bellMessage => exact execBellMessage_keepsLimits _ _
  case fabricBringUp => exact execFabricBringUp_keepsLimits _ _ _ _
  case thermalTrip | hostBar4Read => exact keepsLimits_next rfl
  case bellPin | tqctlWrite | tokenAging => exact keepsLimits_onMach _ _
  case registerWrite => exact execRegisterWrite_keepsLimits _ _ _ _
  case ckrqctlGo => exact execCkrqctlGo_keepsLimits _ _
  case vtrans => exact execVtrans_keepsLimits _ _ _ _ _
  case fabricMessageArrival => exact execFabricMessageArrival_keepsLimits _ _
  case asyncTrapDelivery => exact execAsyncTrapDelivery_keepsLimits _ _ _
  case waitRetry => exact execWaitRetry_keepsLimits _ _ _
  case moorWakeAttempt => exact execMoorWakeAttempt_keepsLimits _ _ _
  case moorPoolRetry => exact execMoorPoolRetry_keepsLimits _ _ _
  case fabricAtomicHome => exact execFabricAtomicHome_keepsLimits _ _
  case gateRelease => exact execGateRelease_keepsLimits _ _ _
  case moorExpire => exact execMoorExpire_keepsLimits _ _

/-! The limits themselves. -/

/-- The bound set is locked, and the power cap and the arithmetic clock lie within their limits. -/
def Fw.WithinLimits (f : Fw) : Prop :=
  f.bounds.lock = true ∧ 1200 ≤ f.bounds.pcapmax.toNat ∧ f.bounds.pcapmax.toNat ≤ 2200 ∧ 1200 ≤ f.pcap ∧ f.pcap ≤ 2200 ∧ 350 ≤ f.aclk ∧ f.aclk ≤ 700 ∧
    f.aclk % 50 = 0

theorem BoundSet.boot_pcapmax (tick : Nat) : 1200 ≤ (BoundSet.boot tick).pcapmax.toNat ∧ (BoundSet.boot tick).pcapmax.toNat ≤ 2200 := by
  simp only [BoundSet.boot, BitVec.toNat_ofNat]
  generalize (Config.boundWord tick 33).toNat % 65536 = w
  omega

theorem Fw.reset_withinLimits (tick : Nat) : (Fw.reset tick).WithinLimits :=
  ⟨rfl, (BoundSet.boot_pcapmax tick).1, (BoundSet.boot_pcapmax tick).2,
    show 1200 ≤ 1200 ∧ 1200 ≤ 2200 ∧ 350 ≤ 700 ∧ 700 ≤ 700 ∧ 700 % 50 = 0 by decide⟩

/-- From `f` to `g` the bound set is the same, and limits that hold go on to hold. -/
def LimitsKept (f g : Fw) : Prop := g.bounds = f.bounds ∧ (f.WithinLimits → g.WithinLimits)

theorem limitsKept_of_eq {f g : Fw} (h : g.limits = f.limits) : LimitsKept f g := by
  simp only [Fw.limits, Prod.mk.injEq] at h
  obtain ⟨hb, hp, ha⟩ := h
  exact ⟨hb, fun hf => by simpa only [Fw.WithinLimits, hb, hp, ha] using hf⟩

/-- An outcome goes on, and keeps the limits. -/
def HoldsLimits (f : Fw) (o : Host.Outcome State Fault Refusal) : Prop := ∃ t, o = .next t ∧ LimitsKept f t.fw

theorem KeepsLimits.holds {f : Fw} {o : Host.Outcome State Fault Refusal} (h : KeepsLimits f o) : HoldsLimits f o := by
  obtain ⟨t, ht, hl⟩ := h
  exact ⟨t, ht, limitsKept_of_eq hl⟩

theorem execPowerCapWrite_holdsLimits (w : BitVec 16) (s : State) : HoldsLimits s.fw (execPowerCapWrite w s) := by
  simp only [execPowerCapWrite]
  split
  next => exact ⟨s, rfl, rfl, id⟩
  next hrun =>
    have hleast : ¬ w.toNat < 1200 := (not_or.1 hrun).2
    split
    all_goals
      refine ⟨_, rfl, rfl, fun ⟨hlock, hlo, hhi, _, _, haclk⟩ => ⟨hlock, hlo, hhi, ?_, ?_, haclk⟩⟩
      all_goals dsimp only; omega

theorem execThrottleDown_holdsLimits (s : State) : HoldsLimits s.fw (execThrottleDown s) := by
  refine ⟨_, rfl, rfl, fun ⟨hlock, hlo, hhi, hcap, hcap', hmin, hmax, hmod⟩ => ⟨hlock, hlo, hhi, hcap, hcap', ?_⟩⟩
  dsimp only
  split <;> omega

theorem execThrottleUp_holdsLimits (s : State) : HoldsLimits s.fw (execThrottleUp s) := by
  refine ⟨_, rfl, rfl, fun ⟨hlock, hlo, hhi, hcap, hcap', hmin, hmax, hmod⟩ => ⟨hlock, hlo, hhi, hcap, hcap', ?_⟩⟩
  dsimp only
  split <;> omega

theorem exec_holdsLimits (i : Instr) (s : State) (hreset : ∀ x, i ≠ .coldReset x) : HoldsLimits s.fw (exec i s) := by
  by_cases hcap : ∃ w, i = .powerCapWrite w
  · obtain ⟨w, rfl⟩ := hcap
    exact execPowerCapWrite_holdsLimits w s
  by_cases hdown : i = .throttleDown
  · subst hdown
    exact execThrottleDown_holdsLimits s
  by_cases hup : i = .throttleUp
  · subst hup
    exact execThrottleUp_holdsLimits s
  exact (exec_keepsLimits i s (not_exists.1 hcap) hdown hup hreset).holds

/-! The work of a turn. -/

/-- The state a turn's work leaves, or has its instruction run from. -/
def Work.state : Work → State
  | .idle s => s
  | .run _ s => s

/-- A turn's work leaves the management core, the host port and the count of steps as they are in `s`. -/
def Work.sparesFw (s : State) (w : Work) : Prop := w.state.fw = s.fw ∧ w.state.tick = s.tick

theorem State.controlTurn_sparesFw (s : State) (c : CoreId) : (s.controlTurn c).sparesFw s := by
  simp only [State.controlTurn]
  repeat' split
  all_goals exact ⟨rfl, rfl⟩

theorem State.vectorTurn_sparesFw (s : State) (c : CoreId) : (s.vectorTurn c).sparesFw s := by
  simp only [State.vectorTurn]
  repeat' split
  all_goals exact ⟨rfl, rfl⟩

theorem State.engineTurn_sparesFw (s : State) (c : CoreId) (t : Strand) : (s.engineTurn c t).sparesFw s := by
  simp only [State.engineTurn]
  repeat' split
  all_goals exact ⟨rfl, rfl⟩

theorem State.strandTurn_sparesFw (s : State) (c : CoreId) (t : Strand) : (s.strandTurn c t).sparesFw s := by
  cases t with
  | control => exact s.controlTurn_sparesFw c
  | vector => exact s.vectorTurn_sparesFw c
  | matrixA => exact s.engineTurn_sparesFw c .matrixA
  | matrixB => exact s.engineTurn_sparesFw c .matrixB
  | copy => exact s.engineTurn_sparesFw c .copy

theorem State.samplerTurn_sparesFw (s : State) (cl : Fin 16) : (s.samplerTurn cl).sparesFw s := by
  simp only [State.samplerTurn]
  repeat' split
  all_goals exact ⟨rfl, rfl⟩

theorem State.onMach_sparesFw (s : State) (f : Mach → Mach) : (Work.idle (s.onMach f)).sparesFw s := ⟨rfl, rfl⟩

theorem State.work_sparesFw (s : State) : s.work.sparesFw s := by
  unfold State.work
  split
  · split <;> exact ⟨rfl, rfl⟩
  · extract_lets s1
    have hs1 : s1.fw = s.fw ∧ s1.tick = s.tick := ⟨rfl, rfl⟩
    clear_value s1
    have settled {w : Work} (h : w.sparesFw s1) : w.sparesFw s := ⟨h.1.trans hs1.1, h.2.trans hs1.2⟩
    cases s1.turn with
    | strand c t => exact settled (s1.strandTurn_sparesFw c t)
    | sampler cl => exact settled (s1.samplerTurn_sparesFw cl)
    | event i =>
      apply settled
      dsimp only
      split <;> exact ⟨rfl, rfl⟩
    | _ => exact settled (s1.onMach_sparesFw _)

/-! Steps. -/

theorem State.afterTurn_reset {s : State} {tick : Nat} {x : BitVec 16} (hf : s.fw = Fw.reset tick) (hm : s.mach = { Mach.reset with withdrawn := x }) :
    { s.afterTurn.mach with scyc := 0 } = { Mach.reset with withdrawn := x } := by
  have hdown : s.fw.down = false := by rw [hf]; rfl
  simp only [State.afterTurn, hdown, hm]
  rfl

theorem step_limits_cases {s t : State} (h : step s = .next t) :
    LimitsKept s.fw t.fw ∨ (t.fw = Fw.reset s.tick ∧ ∃ x, { t.mach with scyc := 0 } = { Mach.reset with withdrawn := x }) := by
  obtain ⟨hfw, htick⟩ := s.work_sparesFw
  unfold step at h
  cases hw : s.work with
  | idle s1 =>
    rw [hw] at h hfw
    obtain rfl := Host.Outcome.next.inj h
    exact .inl (limitsKept_of_eq (congrArg Fw.limits hfw))
  | run i s1 =>
    rw [hw] at h hfw htick
    have hs1 : s1.fw = s.fw := hfw
    by_cases hi : ∃ x, i = .coldReset x
    · obtain ⟨x, rfl⟩ := hi
      obtain rfl := Host.Outcome.next.inj h
      exact .inr ⟨congrArg Fw.reset htick, x, State.afterTurn_reset rfl rfl⟩
    · obtain ⟨u, hu, hkept⟩ := exec_holdsLimits i s1 (not_exists.1 hi)
      simp only [hu, finishStep] at h
      obtain rfl := Host.Outcome.next.inj h
      exact .inl (hs1 ▸ hkept)

/-- Settles O58: a turn's work and every instruction but the power cap's, the throttles' and the cold reset leave the limits as they are; those four
keep them within their bounds. -/
theorem everyStepKeepsTheBoundSetAndTheCap : Obligations.EveryStepKeepsTheBoundSetAndTheCap := by
  intro s t inv hs hstep
  obtain ⟨hb, hk⟩ | ⟨hreset, hmach⟩ := step_limits_cases hstep
  · exact ⟨hk hs, .inl hb⟩
  · exact ⟨hreset ▸ Fw.reset_withinLimits s.tick, .inr ⟨hreset, hmach⟩⟩

/-! The state after reset (O59). -/

theorem memReset_reads (a : Nat) : memByte Mach.reset.mem a = 0 ∧ memFull Mach.reset.mem a = true ∧ memPoisoned Mach.reset.mem a = false := ⟨rfl, rfl, rfl⟩

@[simp] theorem State.reset_core (c : CoreId) : State.reset.core c = Core.reset c := by
  simp [State.core, State.reset, Mach.reset]

/-- Settles O59: the memory of the reset state has no entry, its bound set is the boot ROM's, and each of its cores is the reset core of its number. -/
theorem resetMeetsTheInvariants : Obligations.ResetMeetsTheInvariants := by
  refine ⟨reset_wf, memReset_reads, rfl, (BoundSet.boot_pcapmax 0).1, (BoundSet.boot_pcapmax 0).2, rfl, rfl, rfl, rfl, rfl, rfl, rfl, rfl, rfl, rfl, rfl, fun c => ?_⟩
  simp only [State.reset_core]
  exact ⟨rfl, rfl, rfl, rfl, rfl, rfl, rfl, rfl, rfl⟩
end Sys2Proof.Machine
end

section
/-! A mooring whose entry has an index past the two bytes of an entry's link (11 R337, 13 R387): statement O42. -/

namespace Sys2Proof.Machine

/-! Numbers read from memory are bounded by their width. -/

theorem leNat_lt (bs : List Byte) : leNat bs < 256 ^ bs.length := by
  induction bs with
  | nil => exact Nat.zero_lt_one
  | cons b bs ih =>
    have hb : b.toNat < 256 := b.isLt
    rw [leNat, List.length_cons, Nat.pow_succ]
    omega

theorem length_memBytes (m : Mem) (a n : Nat) : (memBytes m a n).length = n := by
  induction n generalizing a with
  | zero => rfl
  | succ n ih => rw [memBytes, List.length_cons, ih]

theorem memNat_lt (m : Mem) (a n : Nat) : memNat m a n < 256 ^ n := by
  simpa only [memNat, length_memBytes] using leNat_lt (memBytes m a n)

/-! The counterexample: a context whose pool holds 65,537 entries, of which 65,536 are in use. -/

namespace WidePool

/-- A context whose pool needs a 17-bit index; firmware creates none whose pool passes 63,488 entries, but the statement bounds a pool by its place in HBM alone. -/
def context : Context :=
  { otbase := 0x100000, otlen := 64, dsmBase := 0, dsmSize := 0x10000, clmBase := 0, clmSize := 0x10000, mlbase := 0x2000000, pool := 65537,
    stvec := 0, trefl := 0, ckpool := 0 }

/-- The record of a resident object of 16,384 elements of 4 bytes, with every permission and open to other packages, at home in package 0. -/
def record : List Byte :=
  leBytes (2 ^ 63 + 63 * 2 ^ 54 + 2 ^ 51) 8 ++ leBytes 0x200000 8 ++ leBytes 16384 16 ++ leBytes 4 32 ++ leBytes 14 4 ++ leBytes 1 60

/-- The first location of the object, of handle 1. -/
def location : W64 := mkPtr 1 0

/-- Where the location stands in HBM. -/
def storage : Nat := 0x1000000

/-- The entry of core 3's control strand on the location, at an index of the list. -/
def entry (idx : Nat) : Mooring :=
  { pkg := 1, ctx := 0, key := moorKey 3 location, core := 3, strand := .control, wantEmpty := false, idx := idx }

/-- The entries with the first n indices. -/
def entries (n : Nat) : List Mooring := (List.range n).map entry

/-- The machine after reset, in a group of two packages, with the object and with all but one entry of the pool in use. -/
def state : State := State.reset.onMach fun m =>
  { m with
    group := 2
    mcache := [.record none 0 1 record, .entry none 0 1 0 (BitVec.ofNat 64 (2 ^ 63 + storage)) 0]
    ctxs := m.ctxs.set 0 (some context)
    moorings := entries 65536 }

/-- Core 3 of package 1 moors on the location until it is empty. -/
def message : FabMsg := { src := 1, dst := 0, ctx := 0, id := 7, body := .moor location true 3 .control }

theorem mem_entries {e : Mooring} {n : Nat} : e ∈ entries n ↔ ∃ i < n, entry i = e := by
  simp only [entries, List.mem_map, List.mem_range]

theorem filter_entries (n : Nat) : (entries n).filter (·.ctx == 0) = entries n := by
  rw [List.filter_eq_self]
  intro e he
  obtain ⟨i, -, rfl⟩ := mem_entries.mp he
  rfl

theorem length_entries (n : Nat) : (entries n).length = n := by
  rw [entries, List.length_map, List.length_range]

/-- An index that no entry has lies past theirs. -/
theorem le_of_fresh {n idx : Nat} (h : ∀ e ∈ entries n, e.idx ≠ idx) : n ≤ idx :=
  Nat.le_of_not_lt fun hlt => h (entry idx) (mem_entries.mpr ⟨idx, hlt, rfl⟩) rfl

theorem moorings_state : state.mach.moorings = entries 65536 := by
  rw [state, State.onMach_mach]

theorem context_state : state.mach.ctx? 0 = some context := by decide +kernel

theorem arrives_message : state.mach.arrives message = true := by decide +kernel

theorem memWf_state : memWf state.mach.mem = true := by decide +kernel

theorem memFull_storage : memFull state.mach.mem (storage / 8 * 8) = true := by decide +kernel

theorem context_fits : context.mlbase + 32768 + 16 * context.pool ≤ hbmEnd := by decide

theorem homeAt_location :
    (match state.mach.homeAt message location 8 .read with | .store key => some key | _ => none) = some storage := by decide +kernel

theorem homeAll_location : state.mach.homeAll message [(location, 8, .read)] = .stores [storage] := by
  have hat : state.mach.homeAt message location 8 .read = .store storage := by
    have h := homeAt_location
    split at h
    next key hkey => rw [hkey, Option.some.inj h]
    next => cases h
  simp only [Mach.homeAll, hat]

end WidePool

open WidePool in
/-- Refutes O42: the clause on moorings says that a new entry's index is read back from the two bytes of the link of the entry at TAIL (13 R387), and
bounds neither index nor pool by what two bytes hold. In `WidePool.state` a context's pool has 65,537 entries, of which the first 65,536 are in use and
moored on one location; a further mooring on it takes the index 65,536, which no two bytes give. No context that firmware creates is so large. -/
theorem not_fabricMessagesArePerformedAtTheirHome : ¬ Obligations.FabricMessagesArePerformedAtTheirHome := by
  unfold Obligations.FabricMessagesArePerformedAtTheirHome
  intro h
  obtain ⟨-, -, hperformed⟩ := h state message
  obtain ⟨-, -, -, -, -, -, -, -, -, -, -, -, -, -, -, hmoor, -⟩ := hperformed arrives_message memWf_state
  obtain ⟨-, -, hlands⟩ := hmoor location true 3 .control storage rfl homeAll_location
  have hmine : state.mach.moorings.filter (·.ctx == message.ctx) = entries 65536 := by
    rw [moorings_state]; exact filter_entries 65536
  have hroom : (state.mach.moorings.filter (·.ctx == message.ctx)).length < context.pool := by
    rw [hmine, length_entries]; decide
  obtain ⟨u, -, -, -, -, idx, -, hfresh, -, -, -, hlinked⟩ := hlands context memFull_storage context_state context_fits hroom
  rw [hmine] at hfresh hlinked
  have htaken : ¬ ∀ e ∈ entries 65536, bucketOf e.key ≠ bucketOf (moorKey 3 location) := fun hfirst =>
    hfirst (entry 0) (mem_entries.mpr ⟨0, by decide, rfl⟩) rfl
  obtain ⟨-, hlink, -⟩ := hlinked htaken (Nat.lt_trans (memNat_lt _ _ 2) (by decide))
  have hbound := memNat_lt u.mach.mem (context.mlbase + 32768 +
    16 * memNat state.mach.mem (context.mlbase + 8 * bucketOf (moorKey 3 location) + 2) 2 + 8) 2
  rw [hlink] at hbound
  exact absurd (le_of_fresh hfresh) (Nat.not_le.mpr hbound)

end Sys2Proof.Machine
end

section
/-! No instruction and no step stops the machine (02 R39, 14 R403 to R410): statement O56. -/

namespace Sys2Proof.Machine

theorem exec_next (i : Instr) (s : State) : ∃ t, exec i s = .next t := by
  by_cases hreset : ∃ x, i = .coldReset x
  · obtain ⟨x, rfl⟩ := hreset
    exact ⟨_, rfl⟩
  · obtain ⟨t, ht, -⟩ := exec_holdsLimits i s (not_exists.1 hreset)
    exact ⟨t, ht⟩

theorem step_of_idle {s s1 : State} (h : s.work = .idle s1) : step s = .next s1.afterTurn := by
  simp only [step, h]

theorem step_of_run {s s1 : State} {i : Instr} (h : s.work = .run i s1) : step s = finishStep (exec i s1) := by
  simp only [step, h]

theorem step_next (s : State) : ∃ t, step s = .next t := by
  cases hw : s.work with
  | idle s1 => exact ⟨_, step_of_idle hw⟩
  | run i s1 =>
    obtain ⟨u, hu⟩ := exec_next i s1
    exact ⟨u.afterTurn, by rw [step_of_run hw, hu]; rfl⟩

/-- Settles O56: every instruction but a cold reset leaves a next state that holds the limits, as O58's proof found, and a cold reset leaves one too;
a turn's work is a state or an instruction to run. -/
theorem everyInstructionAndEveryStepGoesOn : Obligations.EveryInstructionAndEveryStepGoesOn :=
  ⟨exec_next, step_next⟩

end Sys2Proof.Machine
end

section
/-! A step runs the instruction that its strand's bytes decode to (02 R42 to R44, 03 R82, 08 R230): statement O55. -/

namespace Sys2Proof

/-! Every decoder's answer takes at least its first word. -/

/-- An instruction that a decoder answers takes a word. -/
def Decoded.TakesWord (o : Decoded) : Prop :=
  match o with
  | .ok _ n => 0 < n
  | _ => True

theorem Decoded.TakesWord.pos {o : Decoded} (h : o.TakesWord) {i : Instr} {n : Nat} (hok : o = .ok i n) : 0 < n := by
  subst hok
  exact h

theorem takesWord_illegal : Decoded.illegal.TakesWord := trivial

theorem takesWord_short : Decoded.short.TakesWord := trivial

theorem takesWord_finish (o : Option Instr) {words : Nat} (h : 0 < words) : (finish o words).TakesWord := by
  unfold finish
  split
  · split
    · exact h
    · exact takesWord_illegal
  · exact takesWord_illegal

theorem takesWord_lacking (o : Option Instr) : (lacking o).TakesWord := by
  cases o with
  | none => exact takesWord_illegal
  | some i =>
    cases h : wellFormed i with
    | true => simp only [lacking, finish, h, if_true, takesWord_short]
    | false => simp only [lacking, finish, h, Bool.false_eq_true, if_false, takesWord_illegal]

theorem takesWord_ite {p : Prop} [Decidable p] {a b : Decoded} (ha : a.TakesWord) (hb : b.TakesWord) : (if p then a else b).TakesWord := by
  split
  · exact ha
  · exact hb

theorem takesWord_withLit (l : Nat) (srcs : List Nat) (rest : List W32) (k : (Nat → Src) → Option Instr) : (withLit l srcs rest k).TakesWord := by
  unfold withLit
  split
  · exact takesWord_finish _ Nat.one_pos
  · split
    · exact takesWord_finish _ Nat.two_pos
    · exact takesWord_lacking _
  · split
    · exact takesWord_finish _ (Nat.succ_pos 2)
    · exact takesWord_lacking _
  · exact takesWord_illegal

theorem takesWord_memForm (n : Nat) (rest : List W32) (store : Bool) (ld : Dst → Src → MemQ → Instr) (st : Src → Src → MemQ → Instr) :
    (memForm n rest store ld st).TakesWord := by
  unfold memForm
  split
  · exact takesWord_withLit _ _ _ _
  · exact takesWord_illegal

theorem takesWord_atomForm (n : Nat) (rest : List W32) (c : Dst → Src → Src → AtomQ → Instr) : (atomForm n rest c).TakesWord := by
  unfold atomForm
  split
  · exact takesWord_ite takesWord_illegal (takesWord_withLit _ _ _ _)
  · exact takesWord_illegal

theorem takesWord_casForm (n : Nat) (rest : List W32) : (casForm n rest).TakesWord := by
  unfold casForm
  split
  · exact takesWord_ite takesWord_illegal (takesWord_withLit _ _ _ _)
  · exact takesWord_illegal

theorem takesWord_immForm (n : Nat) (rest : List W32) (c : Dst → Src → BitVec 15 → Instr) : (immForm n rest c).TakesWord := by
  unfold immForm
  split
  · exact takesWord_withLit _ _ _ _
  · exact takesWord_illegal

theorem takesWord_vectorLits (shape : VShape) (a b : Nat) (rest : List W32) (k : W32 → W32 → Option Instr) {base : Nat} (h : 0 < base) :
    (vectorLits shape a b rest k base).TakesWord := by
  unfold vectorLits
  extract_lets la lb
  clear_value la lb
  split
  · exact takesWord_finish _ h
  · exact takesWord_finish _ (Nat.succ_pos _)
  · exact takesWord_finish _ (Nat.succ_pos _)
  · exact takesWord_finish _ (Nat.succ_pos _)
  · exact takesWord_lacking _

theorem takesWord_withExt (ext n : Nat) (rest : List W32) (k : List Nat → Option Instr) : (withExt ext n rest k).TakesWord :=
  takesWord_ite takesWord_illegal (takesWord_ite takesWord_short (takesWord_finish _ (Nat.succ_pos _)))

theorem takesWord_decodeCR (op d a b l fn : Nat) (rest : List W32) : (decodeCR op d a b l fn rest).TakesWord := by
  unfold decodeCR
  extract_lets two one zero dd
  have htwo c : (two c).TakesWord := takesWord_withLit _ _ _ _
  have hone c : (one c).TakesWord := takesWord_withLit _ _ _ _
  have hzero c : (zero c).TakesWord := takesWord_ite (takesWord_finish _ Nat.one_pos) takesWord_illegal
  clear_value two one zero
  repeat' split
  all_goals simp only [htwo, hone, hzero, takesWord_illegal]

theorem takesWord_decodeControl (ws : List W32) : (decodeControl ws).TakesWord := by
  unfold decodeControl
  cases ws with
  | nil => exact takesWord_short
  | cons w rest => ?_
  dsimp only
  repeat' split
  all_goals
    simp only [loadForm, storeForm, takesWord_illegal, takesWord_immForm, takesWord_memForm, takesWord_atomForm, takesWord_casForm,
      takesWord_withLit, takesWord_decodeCR, takesWord_finish _ Nat.one_pos]

theorem takesWord_decodeVectorMemory (q : Option Qual) (w : W32) (rest : List W32) {words : Nat} (h : 0 < words) :
    (decodeVectorMemory q w rest words).TakesWord := by
  unfold decodeVectorMemory
  split
  · exact takesWord_ite (takesWord_vectorLits _ _ _ _ _ h) (takesWord_ite (takesWord_vectorLits _ _ _ _ _ h) takesWord_illegal)
  · exact takesWord_illegal

theorem takesWord_decodeVectorWord (q : Option Qual) (w : W32) (rest : List W32) {words : Nat} (h : 0 < words) :
    (decodeVectorWord q w rest words).TakesWord := by
  unfold decodeVectorWord
  repeat' split
  all_goals simp only [takesWord_ite, takesWord_illegal, takesWord_vectorLits _ _ _ _ _ h, takesWord_finish _ h, takesWord_decodeVectorMemory _ _ _ h]

theorem takesWord_decodeVector (ws : List W32) : (decodeVector ws).TakesWord := by
  unfold decodeVector decodePrefixed
  repeat' split
  all_goals simp only [takesWord_illegal, takesWord_short, takesWord_decodeVectorWord _ _ _ Nat.one_pos, takesWord_decodeVectorWord _ _ _ Nat.two_pos]

theorem takesWord_decodeMatrix (ws : List W32) : (decodeMatrix ws).TakesWord := by
  unfold decodeMatrix
  repeat' split
  all_goals
    simp only [mmaForm, epForm, accForm, takesWord_illegal, takesWord_short, takesWord_withExt, takesWord_finish _ Nat.one_pos, plainStep]
  all_goals exact takesWord_ite (takesWord_finish _ Nat.one_pos) takesWord_illegal

theorem takesWord_decodeCopy (ws : List W32) : (decodeCopy ws).TakesWord := by
  unfold decodeCopy
  repeat' split
  all_goals simp only [takesWord_illegal, takesWord_short, takesWord_withExt, takesWord_finish _ Nat.one_pos]

end Sys2Proof

namespace Sys2Proof.Machine

/-! What a fetch brings. -/

/-- A search that no number below n answers. -/
theorem find?_range_none {n : Nat} {p : Nat → Bool} (h : ∀ j, j < n → p j = false) : (List.range n).find? p = none := by
  rw [List.find?_eq_none]
  intro j hj
  simp only [h j (List.mem_range.mp hj), Bool.false_eq_true, not_false_eq_true]

theorem Mach.codePoison_none {m : Mach} {c : CoreId} {pc : BitVec 18} {n : Nat}
    (h : ∀ j, j < n → memPoisoned m.mem (locOf (spmKey c (4 * (pc.toNat + j)))) = false) : m.codePoison c pc n = none := by
  rw [Mach.codePoison, find?_range_none h, Option.map_none]

/-- Clean words that decode are the instruction that the fetch brings (02 R42, R43). -/
theorem Mach.fetch_of_decode {m : Mach} {c : CoreId} {pc : BitVec 18} {dec : List W32 → Decoded} {i : Instr} {n : Nat}
    (hdec : dec (m.codeWords c pc) = .ok i n) (hword : (dec (m.codeWords c pc)).TakesWord)
    (hclean : ∀ j, j < n → memPoisoned m.mem (locOf (spmKey c (4 * (pc.toNat + j)))) = false) : m.fetch c pc dec = .ok i n := by
  have hfirst : m.codePoison c pc 1 = none := Mach.codePoison_none fun j hj => hclean j (Nat.lt_of_lt_of_le hj (hword.pos hdec))
  simp only [Mach.fetch, hfirst, hdec, Mach.codePoison_none hclean]

/-- The words of a strand's step code that a decoder is given: at most four, up to the write pointer (03 R82). -/
def Mach.stepWords (m : Mach) (c : CoreId) (t : Strand) : List W32 :=
  let r := m.cores[c].rings[ringOf t]
  (List.range (min 4 (r.wp - r.rp).toNat)).map fun j => mem32 m.mem (spmKey c (r.addr (r.rp + BitVec.ofNat 32 j)))

/-- The decoder of a matrix or copy strand's step words. -/
def decodeStep (t : Strand) (ws : List W32) : Decoded := if t = .copy then decodeCopy ws else decodeMatrix ws

theorem decodeStep_nil (t : Strand) : decodeStep t [] = .short := by
  unfold decodeStep
  split <;> rfl

theorem takesWord_decodeStep (t : Strand) (ws : List W32) : (decodeStep t ws).TakesWord :=
  takesWord_ite (takesWord_decodeCopy ws) (takesWord_decodeMatrix ws)

/-- Clean step words between the pointers that decode are the step that the fetch brings (02 R44, 03 R82). -/
theorem Mach.stepFetch_of_decode {m : Mach} {c : CoreId} {t : Strand} {i : Instr} {n : Nat} (hdec : decodeStep t (m.stepWords c t) = .ok i n)
    (hclean : ∀ j, j < n → memPoisoned m.mem (locOf (spmKey c (m.cores[c].rings[ringOf t].addr (m.cores[c].rings[ringOf t].rp + BitVec.ofNat 32 j)))) = false) :
    m.stepFetch c t = some (.ok i n) := by
  have hn : 0 < n := (takesWord_decodeStep t _).pos hdec
  have havail : (m.cores[c].rings[ringOf t].wp - m.cores[c].rings[ringOf t].rp).toNat ≠ 0 := fun h0 => by
    have hnil : m.stepWords c t = [] := by simp only [Mach.stepWords, h0, Nat.min_zero, List.range_zero, List.map_nil]
    rw [hnil, decodeStep_nil] at hdec
    cases hdec
  have hfirst := find?_range_none fun j (hj : j < 1) => hclean j (Nat.lt_of_lt_of_le hj hn)
  have hall := find?_range_none hclean
  simp only [decodeStep, Mach.stepWords] at hdec
  simp only [Mach.stepFetch, if_neg havail, hfirst, hall, Option.map_none, hdec]

theorem Mach.progFetch_of_decode {m : Mach} {cl : Fin 16} {r : SampRun} {w : W32} {i : Instr} {n : Nat} (hw : m.progWord cl r r.pc = some (w, false))
    (hdec : decodeSampler [w] = .ok i n) : m.progFetch cl r = .ok i := by
  simp only [Mach.progFetch, hw, hdec, Bool.false_eq_true, if_false]

theorem Mach.progFetch_of_decode_two {m : Mach} {cl : Fin 16} {r : SampRun} {w w2 : W32} {i : Instr} {n : Nat}
    (hw : m.progWord cl r r.pc = some (w, false)) (hshort : decodeSampler [w] = .short) (hw2 : m.progWord cl r (r.pc + 1) = some (w2, false))
    (hdec : decodeSampler [w, w2] = .ok i n) : m.progFetch cl r = .ok i := by
  simp only [Mach.progFetch, hw, hshort, hw2, hdec, Bool.false_eq_true, if_false]

/-! The turns that run an instruction. -/

theorem any_not_due {w : Option Wait} {now : Nat} (h : ∀ x, w = some x → x.attemptDue now = true) : (w.any fun x => !x.attemptDue now) = false := by
  cases w with
  | none => rfl
  | some x => simp only [Option.any_some, h x rfl, Bool.not_true]

theorem State.controlTurn_run {s : State} {c : CoreId} {i : Instr} {n : Nat} (hrun : s.mach.cores[c].ctl.status = .running)
    (hbound : s.mach.boundary c = none) (hdue : ∀ w, s.mach.cores[c].ctl.wait = some w → w.attemptDue s.mach.scyc = true)
    (hfetch : (s.mach.beforeFetch c .control s.mach.cores[c].ctl.pc).fetch c s.mach.cores[c].ctl.pc decodeControl = .ok i n) :
    s.controlTurn c =
      .run i { s.asAgent c .control with mach := (s.mach.beforeFetch c .control s.mach.cores[c].ctl.pc).keepEarly c i } := by
  simp only [State.controlTurn, hrun, ne_eq, not_true, if_false, hbound, any_not_due hdue, Bool.false_eq_true, hfetch]

theorem State.controlTurn_boundary {s : State} {c : CoreId} {m1 : Mach} (hrun : s.mach.cores[c].ctl.status = .running)
    (hbound : s.mach.boundary c = some m1) : s.controlTurn c = .idle { s with mach := m1 } := by
  simp only [State.controlTurn, hrun, ne_eq, not_true, if_false, hbound]

/-- Inside a loop, or with neither a stop nor an exchange that its first issue would meet, the vector strand fetches (05 R171, 03 R100). -/
theorem State.vectorTurn_run {s : State} {c : CoreId} {i : Instr} {n : Nat} (hrun : s.mach.cores[c].vec.status = .running)
    (hskip : s.mach.cores[c].vec.skip = false) (hstop : s.mach.cores[c].stop = false ∨ s.mach.cores[c].vec.loop.act = true)
    (hswap : s.mach.cores[c].sets[0].swap = false ∨ s.mach.cores[c].vec.issued = true ∨ s.mach.cores[c].vec.loop.act = true)
    (hdue : ∀ w, s.mach.cores[c].vec.wait = some w → w.attemptDue s.mach.scyc = true)
    (hheld : s.mach.heldVec c (fetchLoads c s.mach.cores[c].vec.pc) = false)
    (hfetch : (s.mach.beforeFetch c .vector s.mach.cores[c].vec.pc).fetch c s.mach.cores[c].vec.pc decodeVector = .ok i n) :
    s.vectorTurn c = .run i { s.asAgent c .vector with mach := s.mach.beforeFetch c .vector s.mach.cores[c].vec.pc } := by
  have hgo : (!s.mach.cores[c].vec.loop.act && s.mach.cores[c].stop) = false := by
    rcases hstop with h | h <;> simp only [h, Bool.and_false, Bool.not_true, Bool.false_and]
  have hset : s.mach.cores[c].swapPending .vector = s.mach.cores[c].sets[0].swap := rfl
  have hkeep : (!s.mach.cores[c].vec.loop.act && !s.mach.cores[c].vec.issued && s.mach.cores[c].swapPending .vector) = false := by
    rcases hswap with h | h | h <;> simp only [hset, h, Bool.and_false, Bool.not_true, Bool.false_and]
  simp only [State.vectorTurn, hrun, ne_eq, not_true, if_false, hskip, Bool.not_false, Bool.and_true, hgo, any_not_due hdue, hkeep, hheld,
    Bool.false_eq_true, hfetch, Bool.false_and]

/-- The step word that a strand has fetched now, with its budget (03 R81). -/
def Mach.fetchedNow (m : Mach) (c : CoreId) (t : Strand) (i : Instr) (n : Nat) : Fetched :=
  { at_ := m.scyc, budget := (m.cores[c].ctl.mbud[strandNo t]?.getD 0).toNat, op := i, words := n }

section EngineTurn

variable {s : State} {c : CoreId} {t : Strand} (hswap : s.mach.cores[c].sets[engineNo (engineOf t)].swap = false)
  (hrun : s.mach.cores[c].rings[ringOf t].run = true) (hstop : s.mach.cores[c].stop = false)
include hswap hrun hstop

theorem State.engineTurn_fetched {f : Fetched} (hfetched : (s.mach.cores[c].eng t).fetched = some f) :
    s.engineTurn c t = .run f.op (s.asAgent c t) := by
  simp only [State.engineTurn, Core.swapPending, hswap, Core.fetches, hrun, hstop, hfetched, Bool.not_false, Bool.and_self, Bool.not_true,
    Bool.false_eq_true, if_false]

theorem State.engineTurn_fetches {i : Instr} {n : Nat} (hfetched : (s.mach.cores[c].eng t).fetched = none)
    (hfetch : s.mach.stepFetch c t = some (.ok i n)) :
    s.engineTurn c t = .run i { s.asAgent c t with mach := (s.mach.giveUpAsks c t).onEng c t fun e =>
      { e with fetched := some (s.mach.fetchedNow c t i n) } } := by
  simp only [Mach.fetchedNow, State.engineTurn, Core.swapPending, hswap, Core.fetches, hrun, hstop, hfetched, hfetch, Bool.not_false, Bool.and_self, Bool.not_true,
    Bool.false_eq_true, if_false]

end EngineTurn

theorem State.strandTurn_engine (s : State) (c : CoreId) {t : Strand} (h : t = .matrixA ∨ t = .matrixB ∨ t = .copy) :
    s.strandTurn c t = s.engineTurn c t := by
  rcases h with rfl | rfl | rfl <;> rfl

theorem State.samplerTurn_run {s : State} {cl : Fin 16} {r : SampRun} {i : Instr} (hr : s.mach.samp.units[cl].run = some r)
    (hphase : r.phase = .block ∨ r.phase = .final) (hfetch : s.mach.progFetch cl r = .ok i) :
    s.samplerTurn cl = .run i (s.asAgent (firstCore cl) s.cur.strand) := by
  have hidle : ¬ (r.phase ≠ .block ∧ r.phase ≠ .final) := fun ⟨hb, hf⟩ => hphase.elim hb hf
  simp only [State.samplerTurn, hr, if_neg hidle, hfetch]

/-! The work of a turn while the clocks run. -/

/-- The state from which a turn works: the stores that other agents could find are performed, and the last multiply steps have read their
operands (09 R257, 06 R184). -/
def State.settled (s : State) : State := s.onMach fun m => (m.settleFor s.turn).rereadFor s.turn

section Work

variable {s : State} (hup : s.fw.down = false)
include hup

theorem State.work_strand {c : CoreId} {t : Strand} (h : s.turn = .strand c t) : s.work = s.settled.strandTurn c t := by
  simp only [State.work, hup, Bool.false_eq_true, if_false, State.onMach_turn, h, State.settled]

theorem State.work_sampler {cl : Fin 16} (h : s.turn = .sampler cl) : s.work = s.settled.samplerTurn cl := by
  simp only [State.work, hup, Bool.false_eq_true, if_false, State.onMach_turn, h, State.settled]

theorem State.work_event {i : Instr} (h : s.turn = .event i) (hwordless : wordless i = true) : s.work = .run i s.settled := by
  simp only [State.work, hup, Bool.false_eq_true, if_false, State.onMach_turn, h, hwordless, if_true, State.settled]

end Work

/-- Settles O55: the turn's work is the fetched instruction, by the rule of its strand, sampler or event; the step runs it and the turn passes. -/
theorem aStepRunsTheDecodedInstruction : Obligations.AStepRunsTheDecodedInstruction := by
  intro s c i n m k goesOn runsIn runs words clean hup
  have runsIn_of_work {s1 : State} (h : s.work = .run i s1) : runsIn s1 := (step_of_run h).trans rfl
  refine ⟨?control, ?boundary, ?vector, ?engine, ?sampler, ?event⟩
  case control =>
    intro hturn hrun hbound hdue m1 hdec hclean
    have hfetch := Mach.fetch_of_decode hdec (takesWord_decodeControl _) hclean
    exact runsIn_of_work ((State.work_strand hup hturn).trans (State.controlTurn_run (s := s.settled) hrun hbound hdue hfetch))
  case boundary =>
    intro hturn hrun m1 hbound
    exact step_of_idle ((State.work_strand hup hturn).trans (State.controlTurn_boundary (s := s.settled) hrun hbound))
  case vector =>
    intro hturn hrun hskip hstop hswap hdue hheld m1 hdec hclean
    have hfetch := Mach.fetch_of_decode hdec (takesWord_decodeVector _) hclean
    exact runsIn_of_work ((State.work_strand hup hturn).trans (State.vectorTurn_run (s := s.settled) hrun hskip hstop hswap hdue hheld hfetch))
  case engine =>
    intro t ht hturn hswap hrun hstop
    have hwork : s.work = s.settled.engineTurn c t := (State.work_strand hup hturn).trans (s.settled.strandTurn_engine c ht)
    refine ⟨?_, ?_⟩
    · rintro f hfetched rfl
      exact runsIn_of_work (hwork.trans (State.engineTurn_fetched (s := s.settled) hswap hrun hstop hfetched))
    · intro hfetched r at_ ws hdec hclean
      have hfetch : m.stepFetch c t = some (.ok i n) := Mach.stepFetch_of_decode hdec hclean
      exact ⟨_, rfl, rfl, rfl, rfl, runsIn_of_work (hwork.trans (State.engineTurn_fetches (s := s.settled) hswap hrun hstop hfetched hfetch))⟩
  case sampler =>
    intro cl r w w2 hturn hr hphase hcore hw
    obtain rfl : c = firstCore cl := Fin.ext hcore
    have runs_of_fetch (hfetch : m.progFetch cl r = .ok i) : runs m s.cur.strand :=
      runsIn_of_work ((State.work_sampler hup hturn).trans (State.samplerTurn_run (s := s.settled) hr hphase hfetch))
    exact ⟨fun hdec => runs_of_fetch (Mach.progFetch_of_decode hw hdec),
      fun hshort hw2 hdec => runs_of_fetch (Mach.progFetch_of_decode_two hw hshort hw2 hdec)⟩
  case event =>
    intro hturn hencode
    exact runsIn_of_work (State.work_event hup hturn (List.isEmpty_iff.2 hencode))

end Sys2Proof.Machine
end

section
/-! Branches, calls, jumps and the jump table (02 R48, 03 R93 to R95): statement O4. -/

namespace Sys2Proof.Machine

/-- The running core's control strand takes a trap of an instruction of n words, which has no other effect (14 R404, R407). -/
def State.trapped (s : State) (n : Nat) (t : Trap) : State := { s with mach := s.mach.takeTrap s.cur.core (s.ctl.pc + BitVec.ofNat 18 n) t }

/-! Jumps to an address. -/

theorem Mach.jumpTo_inside (m : Mach) (c : CoreId) {t : Int} (h : 0 ≤ t ∧ t ≤ 0xFFFFC) :
    m.jumpTo c t = .done (m.onCtl c fun k => { k with pc := BitVec.ofNat 18 (t / 4).toNat, wait := none }) := by
  have hword : t.toNat / 4 = (t / 4).toNat := by omega
  rw [Mach.jumpTo, if_neg (by omega), hword]

theorem Mach.jumpTo_outside (m : Mach) (c : CoreId) {t : Int} (h : t < 0 ∨ 0xFFFFC < t) :
    m.jumpTo c t = .trap { cls := .perm, addr := BitVec.ofInt 64 t } := by
  rw [Mach.jumpTo, if_pos h]

theorem Ctl.target_eq (k : Ctl) (disp : Int) : k.target disp = 4 * k.pc.toNat + 4 * disp := by
  rw [Ctl.target, Int.mul_add]

/-! Register targets, in the order of their checks (02 R48, 03 R94). -/

theorem Mach.jumpReg_poisoned (m : Mach) (c : CoreId) {a : XVal} (h : a.tag ≠ 0) : m.jumpReg c a = .trap { cls := tagClass a.tag, addr := a.val } := by
  simp only [Mach.jumpReg, needClean, if_neg h, orTrap_error]

section CleanTarget

variable (m : Mach) (c : CoreId) {a : XVal} (hclean : a.tag = 0)
include hclean

theorem Mach.jumpReg_far (h : 0xFFFFF < a.val.toNat) : m.jumpReg c a = .trap { cls := .perm, addr := a.val } := by
  simp only [Mach.jumpReg, needClean, if_pos hclean, orTrap_ok, if_pos h]

theorem Mach.jumpReg_misaligned (hle : a.val.toNat ≤ 0xFFFFF) (h : a.val.toNat % 4 ≠ 0) :
    m.jumpReg c a = .trap { cls := .align, addr := a.val } := by
  simp only [Mach.jumpReg, needClean, if_pos hclean, orTrap_ok, if_neg (Nat.not_lt.2 hle), if_pos h]

theorem Mach.jumpReg_inside (hle : a.val.toNat ≤ 0xFFFFF) (h : a.val.toNat % 4 = 0) : m.jumpReg c a = m.jumpTo c a.val.toNat := by
  simp only [Mach.jumpReg, needClean, if_pos hclean, orTrap_ok, if_neg (Nat.not_lt.2 hle), h, ne_eq, not_true, if_false]

end CleanTarget

/-! The link. -/

theorem pcAddr_add (pc : BitVec 18) (n : Nat) : pcAddr pc + BitVec.ofNat 64 (4 * n) = BitVec.ofInt 64 (4 * pc.toNat + 4 * n) := by
  rw [pcAddr, ← BitVec.ofNat_add, ← BitVec.ofInt_natCast]
  push_cast
  rfl

@[simp] theorem Run.link_trap (t : Trap) (c : CoreId) (v : W64) : (Run.trap t).link c v = .trap t := rfl

@[simp] theorem Run.link_done (m : Mach) (c : CoreId) (v : W64) : (Run.done m).link c v = .done (m.onCtl c fun k => k.setX 30 (clean v)) := rfl

/-! The jump table (03 R95): the first of its sources, its index, its entry's address and its entry. -/

/-- A poisoned source among two traps, the first before the second. -/
theorem Ctl.clean?_two_first (k : Ctl) {a : Src} (b : Src) (h : (k.src a).tag ≠ 0) :
    k.clean? [a, b] = .error { cls := tagClass (k.src a).tag, addr := (k.src a).val } := by
  simp only [Ctl.clean?, List.map_cons, needClean, if_neg h]

theorem Ctl.clean?_two_second (k : Ctl) {a b : Src} (ha : (k.src a).tag = 0) (h : (k.src b).tag ≠ 0) :
    k.clean? [a, b] = .error { cls := tagClass (k.src b).tag, addr := (k.src b).val } := by
  simp only [Ctl.clean?, List.map_cons, needClean, if_pos ha, if_neg h]

theorem execJtab_poisoned {s : State} {a b : Src} (len : BitVec 15) {t : Trap} (h : s.ctl.clean? [a, b] = .error t) :
    execJtab a b len s = .next (s.trapped (1 + litWords [a, b]) t) :=
  s.control_trap _ (fun _ => orTrap (s.ctl.clean? [a, b]) _) t (by simp only [h, orTrap_error])

section Table

variable {s : State} {a b : Src} {len : BitVec 15} (hclean : s.cleanSrcs [a, b])
include hclean

theorem execJtab_past (h : len.toNat ≤ (s.val a).toNat) (hfits : s.fits (1 + litWords [a, b])) :
    execJtab a b len s = .next (s.ctlNext (1 + litWords [a, b]) fun q => { q with k := q.k.set 0 true }) := by
  have h' : len.toNat ≤ (s.ctl.src a).val.toNat := h
  unfold execJtab
  exact s.control_onward _ _ s.mach (fun q => q.setK 0 true) (by simp only [s.cleanSrcs_ok _ hclean, orTrap_ok, if_pos h']) rfl hfits

variable (hin : (s.val a).toNat < len.toNat)
include hin

/-- An entry past the offsets of its pointer. -/
theorem execJtab_pointerPast (h : 2 ^ 40 ≤ (s.val b).toNat % 2 ^ 40 + 4 * (s.val a).toNat) :
    execJtab a b len s = .next (s.trapped (1 + litWords [a, b]) { cls := .perm, addr := s.val b }) := by
  have hin' : ¬ len.toNat ≤ (s.ctl.src a).val.toNat := Nat.not_le.2 hin
  have hpast : ptrAdd (s.ctl.src b).val (4 * (s.ctl.src a).val.toNat) = .error (trapOf .perm (s.ctl.src b).val) := by
    simp only [State.val] at h
    simp only [ptrAdd, ptrOff]
    exact if_pos (by omega)
  unfold execJtab
  exact s.control_trap _ _ _ (by simp only [s.cleanSrcs_ok _ hclean, orTrap_ok, if_neg hin', hpast]; rfl)

variable {e : W64} (he : ptrAdd (s.val b) (4 * (s.val a).toNat) = .ok e)
include he

/-- With its entry's address, `jtab` goes on as the load of the entry says. -/
theorem execJtab_entry :
    execJtab a b len s = s.control (1 + litWords [a, b]) fun m => (m.ctlLoad s.cur.core e 4 0).run e fun m1 w =>
      (m1.onCtl s.cur.core fun k => k.setK 0 false).jumpTo s.cur.core (s.ctl.target (sgn 32 w)) := by
  have hin' : ¬ len.toNat ≤ (s.ctl.src a).val.toNat := Nat.not_le.2 hin
  have he' : ptrAdd (s.ctl.src b).val (4 * (s.ctl.src a).val.toNat) = .ok e := he
  simp only [execJtab, s.cleanSrcs_ok _ hclean, orTrap_ok, if_neg hin', he']

theorem execJtab_loadFault {m1 : Mach} {t : Trap} (h : s.mach.ctlLoad s.cur.core e 4 0 = .fault m1 t) :
    execJtab a b len s = .next { s with mach := m1.takeTrap s.cur.core (s.ctl.pc + BitVec.ofNat 18 (1 + litWords [a, b])) t } :=
  (execJtab_entry hclean hin he).trans (s.control_trapFrom _ _ _ _ (by simp only [h, Got.run]))

variable {m1 : Mach} {w : Nat} (hload : s.mach.ctlLoad s.cur.core e 4 0 = .val m1 w)
include hload

theorem execJtab_inside (h : 0 ≤ s.ctl.target (sgn 32 w) ∧ s.ctl.target (sgn 32 w) ≤ 0xFFFFC) :
    execJtab a b len s = .next { s with mach := m1.onCtl s.cur.core fun q =>
      { q with k := q.k.set 0 false, pc := BitVec.ofNat 18 (s.ctl.target (sgn 32 w) / 4).toNat, wait := none } } := by
  refine (execJtab_entry hclean hin he).trans (s.control_done _ _ _ ?_)
  simp only [hload, Got.run, Mach.jumpTo_inside _ _ h, Mach.onCtl_onCtl]
  rfl

theorem execJtab_outside (h : s.ctl.target (sgn 32 w) < 0 ∨ 0xFFFFC < s.ctl.target (sgn 32 w)) :
    execJtab a b len s = .next (s.trapped (1 + litWords [a, b]) { cls := .perm, addr := BitVec.ofInt 64 (s.ctl.target (sgn 32 w)) }) :=
  (execJtab_entry hclean hin he).trans (s.control_trap _ _ _ (by simp only [hload, Got.run, Mach.jumpTo_outside _ _ h]))

end Table

/-- A load of a word at a byte that is not a word's faults ALIGN before any other check (10 R279). -/
theorem Mach.ctlLoad_misaligned (m : Mach) (c : CoreId) {e : W64} (cls : BitVec 4) (h : e.toNat % 4 ≠ 0) :
    m.ctlLoad c e 4 cls = .fault m { cls := .align, addr := e } := by
  have hoff : ptrOff e % 4 ≠ 0 := by unfold ptrOff; omega
  simp only [Mach.ctlLoad, checked, if_pos hoff, trapOf, NoPlace.got]

/-- The signed value of a word below 2^32. -/
theorem sgn_32 {w : Nat} (h : w < 2 ^ 32) : sgn 32 w = (BitVec.ofNat 32 w).toInt := by
  simp only [sgn, BitVec.toInt_eq_toNat_cond, BitVec.toNat_ofNat, Nat.mod_eq_of_lt h]
  split <;> split <;> omega

/-! Where branches, calls and register jumps go. -/

/-- The running core's control strand at a byte address, with `f` done to its registers. -/
def State.jumped (s : State) (m : Mach) (t : Int) (f : Ctl → Ctl) : State :=
  { s with mach := m.onCtl s.cur.core fun q => { f q with pc := BitVec.ofNat 18 (t / 4).toNat, wait := none } }

/-- X30 holds the address after an instruction of n words, clean (02 R48). -/
def State.linked (s : State) (n : Nat) (q : Ctl) : Ctl := { q with x := q.x.set 30 { val := BitVec.ofInt 64 (4 * s.ctl.pc.toNat + 4 * n), tag := 0 } }

section Jump

variable (s : State) (n : Nat) {f : Mach → Run} {t : Int}

theorem State.control_jump (h : 0 ≤ t ∧ t ≤ 0xFFFFC) (hf : f s.mach = s.mach.jumpTo s.cur.core t) : s.control n f = .next (s.jumped s.mach t id) :=
  s.control_done n f _ (hf.trans (s.mach.jumpTo_inside _ h))

theorem State.control_jump_link (h : 0 ≤ t ∧ t ≤ 0xFFFFC)
    (hf : f s.mach = (s.mach.jumpTo s.cur.core t).link s.cur.core (pcAddr s.ctl.pc + BitVec.ofNat 64 (4 * n))) :
    s.control n f = .next (s.jumped s.mach t (s.linked n)) := by
  rw [s.mach.jumpTo_inside _ h, Run.link_done, Mach.onCtl_onCtl, pcAddr_add] at hf
  exact s.control_done n f _ hf

theorem State.control_jump_outside (h : t < 0 ∨ 0xFFFFC < t) (hf : ∀ x, s.mach.jumpTo s.cur.core t = .trap x → f s.mach = .trap x) :
    s.control n f = .next (s.trapped n { cls := .perm, addr := BitVec.ofInt 64 t }) :=
  s.control_trap n f _ (hf _ (s.mach.jumpTo_outside _ h))

end Jump

section Relative

variable (s : State) (disp : BitVec 26) (disp22 : BitVec 22)

theorem execB_inside (h : 0 ≤ s.ctl.target disp.toInt ∧ s.ctl.target disp.toInt ≤ 0xFFFFC) :
    execB disp s = .next (s.jumped s.mach (s.ctl.target disp.toInt) id) := by
  unfold execB
  exact s.control_jump 1 h rfl

theorem execCall_inside (h : 0 ≤ s.ctl.target disp.toInt ∧ s.ctl.target disp.toInt ≤ 0xFFFFC) :
    execCall disp s = .next (s.jumped s.mach (s.ctl.target disp.toInt) (s.linked 1)) := by
  unfold execCall
  exact s.control_jump_link 1 h rfl

theorem State.branchIf_inside (h : 0 ≤ s.ctl.target disp22.toInt ∧ s.ctl.target disp22.toInt ≤ 0xFFFFC) :
    s.branchIf true disp22 = .next (s.jumped s.mach (s.ctl.target disp22.toInt) id) := by
  unfold State.branchIf
  exact s.control_jump 1 h (if_pos rfl)

theorem State.branchIf_passed (h : s.fits 1) : s.branchIf false disp22 = .next (s.ctlNext 1 id) := by
  unfold State.branchIf
  exact s.control_advance 1 _ s.mach (if_neg Bool.false_ne_true) h

theorem execB_outside (h : s.ctl.target disp.toInt < 0 ∨ 0xFFFFC < s.ctl.target disp.toInt) :
    execB disp s = .next (s.trapped 1 { cls := .perm, addr := BitVec.ofInt 64 (s.ctl.target disp.toInt) }) := by
  unfold execB
  exact s.control_jump_outside 1 h fun _ => id

theorem execCall_outside (h : s.ctl.target disp.toInt < 0 ∨ 0xFFFFC < s.ctl.target disp.toInt) :
    execCall disp s = .next (s.trapped 1 { cls := .perm, addr := BitVec.ofInt 64 (s.ctl.target disp.toInt) }) := by
  unfold execCall
  exact s.control_jump_outside 1 h fun x hx => by rw [hx, Run.link_trap]

theorem State.branchIf_outside (h : s.ctl.target disp22.toInt < 0 ∨ 0xFFFFC < s.ctl.target disp22.toInt) :
    s.branchIf true disp22 = .next (s.trapped 1 { cls := .perm, addr := BitVec.ofInt 64 (s.ctl.target disp22.toInt) }) := by
  unfold State.branchIf
  exact s.control_jump_outside 1 h fun x hx => by rw [if_pos rfl, hx]

end Relative

section Register

variable (s : State) {v : XVal} (hclean : v.tag = 0) (hle : v.val.toNat ≤ 0xFFFFF) (hmult : v.val.toNat % 4 = 0)
include hclean hle hmult

theorem State.control_jumpReg (n : Nat) {f : Mach → Run} (hf : f s.mach = s.mach.jumpReg s.cur.core v) :
    s.control n f = .next (s.jumped s.mach v.val.toNat id) :=
  s.control_jump n (by omega) (hf.trans (s.mach.jumpReg_inside _ hclean hle hmult))

theorem State.control_jumpReg_link (n : Nat) {f : Mach → Run}
    (hf : f s.mach = (s.mach.jumpReg s.cur.core v).link s.cur.core (pcAddr s.ctl.pc + BitVec.ofNat 64 (4 * n))) :
    s.control n f = .next (s.jumped s.mach v.val.toNat (s.linked n)) :=
  s.control_jump_link n (by omega) (by rw [hf, s.mach.jumpReg_inside _ hclean hle hmult])

end Register

/-- The traps of a register jump through `v`, whatever it does once it has jumped. -/
theorem State.control_jumpReg_traps (s : State) (n : Nat) {f : Mach → Run} {v : XVal}
    (hf : ∀ t, s.mach.jumpReg s.cur.core v = .trap t → f s.mach = .trap t) :
    (v.tag = 0 → 0xFFFFF < v.val.toNat → s.control n f = .next (s.trapped n { cls := .perm, addr := v.val })) ∧
    (v.tag = 0 → v.val.toNat ≤ 0xFFFFF → v.val.toNat % 4 ≠ 0 → s.control n f = .next (s.trapped n { cls := .align, addr := v.val })) ∧
    (v.tag ≠ 0 → s.control n f = .next (s.trapped n { cls := tagClass v.tag, addr := v.val })) :=
  ⟨fun hclean h => s.control_trap n f _ (hf _ (s.mach.jumpReg_far _ hclean h)),
    fun hclean hle h => s.control_trap n f _ (hf _ (s.mach.jumpReg_misaligned _ hclean hle h)),
    fun h => s.control_trap n f _ (hf _ (s.mach.jumpReg_poisoned _ h))⟩

/-- An instruction whose one word is the last of SPM traps as it would go on (02 R42). -/
theorem execMovi_lastWord (s : State) (d : Dst) (imm : BitVec 15) (h : s.ctl.pc.toNat = 2 ^ 18 - 1) :
    execMovi d imm s = .next (s.trapped 1 pastSpm) := by
  unfold execMovi State.ctlStep
  refine s.control_trap 1 _ _ (Mach.advance_past _ _ _ ?_)
  rw [Mach.onCtl_self, Ctl.propagate_pc]
  exact Nat.le_of_eq (congrArg (· + 1) h).symm

/-- Settles O4: each target, link and trap by the rule of its kind of jump, and the jump table by the order of its checks. -/
theorem branchesReachTheirTargetsOrTrap : Obligations.BranchesReachTheirTargetsOrTrap := by
  refine ⟨?goes, ?traps⟩
  case goes =>
    intro s a b k disp disp26 len c here inside goTo link
    have htarget (d : Int) : s.ctl.target d = here + 4 * d := s.ctl.target_eq d
    refine ⟨fun h => ?relative, fun h => ?taken, fun hfits => ⟨fun hk => ?bcPassed, fun hk => ?bcnPassed⟩,
      fun hclean hle hmult => ⟨?jr, ?callr⟩, fun hclean hle hmult => ?ret, fun hclean hpast hfits => ?jtabPast, ?jtab⟩
    case relative =>
      rw [← htarget] at h ⊢
      exact ⟨execB_inside s disp26 h, execCall_inside s disp26 h⟩
    case taken =>
      rw [← htarget] at h ⊢
      exact ⟨fun hk => by rw [exec_bc, execBc, hk, s.branchIf_inside disp h]; rfl,
        fun hk => by rw [exec_bcn, execBcn, hk, Bool.not_false, s.branchIf_inside disp h]; rfl⟩
    case bcPassed => rw [exec_bc, execBc, hk, s.branchIf_passed disp hfits]
    case bcnPassed => rw [exec_bcn, execBcn, hk, Bool.not_true, s.branchIf_passed disp hfits]
    case jr =>
      rw [exec_jr, execJr]
      exact s.control_jumpReg (hclean a (.head _)) hle hmult _ rfl
    case callr =>
      rw [exec_callr, execCallr]
      exact s.control_jumpReg_link (hclean a (.head _)) hle hmult _ rfl
    case ret =>
      rw [exec_ret, execRet]
      exact s.control_jumpReg hclean hle hmult 1 rfl
    case jtabPast => exact execJtab_past hclean hpast hfits
    case jtab =>
      intro e m1 w hclean hin he hload hinside hw
      have hto : s.ctl.target (sgn 32 w) = here + 4 * (BitVec.ofNat 32 w).toInt := by rw [htarget, sgn_32 hw]
      rw [← hto] at hinside ⊢
      exact execJtab_inside hclean hin he hload hinside
  case traps =>
    intro s a b k disp disp26 len imm d c here outside trap reg n x far
    have htarget (d : Int) : s.ctl.target d = here + 4 * d := s.ctl.target_eq d
    refine ⟨fun h => ?b, fun h => ?call, fun hk h => ?bc, fun hk h => ?bcn, ?jr, ?callr, ?ret, fun hpoison => ?jtabFirst,
      fun hclean hpoison => ?jtabSecond, fun hclean hin => ⟨fun hpast => ?jtabPointer, fun e he => ⟨fun hodd => ?jtabAlign, ?jtabLoad, ?jtabTarget⟩⟩,
      fun hlast => execMovi_lastWord s d imm hlast⟩
    case b =>
      rw [← htarget] at h ⊢
      exact execB_outside s disp26 h
    case call =>
      rw [← htarget] at h ⊢
      exact execCall_outside s disp26 h
    case bc =>
      rw [← htarget] at h ⊢
      rw [exec_bc, execBc, hk, s.branchIf_outside disp h]
      rfl
    case bcn =>
      rw [← htarget] at h ⊢
      rw [exec_bcn, execBcn, hk, Bool.not_false, s.branchIf_outside disp h]
      rfl
    case jr => exact s.control_jumpReg_traps (f := fun m => m.jumpReg c (s.ctl.src a)) _ fun _ => id
    case callr =>
      refine s.control_jumpReg_traps (f := fun m => (m.jumpReg c (s.ctl.src a)).link c _) _ fun t ht => ?_
      rw [ht, Run.link_trap]
    case ret => exact s.control_jumpReg_traps (f := fun m => m.jumpReg c s.ctl.x[30]) 1 fun _ => id
    case jtabFirst => exact execJtab_poisoned len (s.ctl.clean?_two_first b hpoison)
    case jtabSecond => exact execJtab_poisoned len (s.ctl.clean?_two_second (hclean a (.head _)) hpoison)
    case jtabPointer => exact execJtab_pointerPast hclean hin hpast
    case jtabAlign => exact execJtab_loadFault hclean hin he (s.mach.ctlLoad_misaligned c 0 hodd)
    case jtabLoad =>
      intro m1 t hload
      exact execJtab_loadFault hclean hin he hload
    case jtabTarget =>
      intro m1 w hload hw houtside
      have hto : s.ctl.target (sgn 32 w) = here + 4 * (BitVec.ofNat 32 w).toInt := by rw [htarget, sgn_32 hw]
      rw [← hto] at houtside ⊢
      exact execJtab_outside hclean hin he hload houtside

end Sys2Proof.Machine
end

section
/-! A collective whose await is not satisfied, in a state in which a flight already stands under the next operation number (12 R354, 02 R56): statement O26. -/

namespace Sys2Proof.Machine

/-! A step that waits. -/

theorem Core.awaitOk_congr {k k' : Core} (hsm : k'.sm = k.sm) (hsmw : k'.smw = k.smw) (t : Strand) (aw : BitVec 4) : k'.awaitOk t aw = k.awaitOk t aw := by
  simp only [Core.awaitOk, Core.semWaiter?, hsm, hsmw]

theorem State.drainedFor_awaitOk (s : State) (t : Strand) (aw : BitVec 4) :
    (s.drainedFor t).cores[s.cur.core].awaitOk t aw = (s.core s.cur.core).awaitOk t aw := by
  rw [State.drainedFor, Mach.onCore_self]
  exact Core.awaitOk_congr (Core.onEng_sm _ _ _) (Core.onEng_smw _ _ _) t aw

/-- The state in which a step has joined its semaphore's waiters (02 R56). -/
def State.joined (s : State) (t : Strand) (w : Sems) : State := { s with mach := (s.drainedFor t).onCore s.cur.core fun k => k.awaitJoin t w.aw }

theorem State.engine_waits (s : State) {t : Strand} {w : Sems} (op : Instr) (words : Nat) (f : Mach → Run) (h : ¬ s.steps t w) :
    s.engine t w op words f = .next (s.joined t w) := by
  have hdrained : (s.drainedFor t).cores[s.cur.core].awaitOk t w.aw = false := by
    rw [s.drainedFor_awaitOk]
    exact Bool.eq_false_iff.2 h
  have hwait : ((s.mach.onCore s.cur.core fun k => k.drainReport t).cores[s.cur.core].awaitOk t w.aw) = false := hdrained
  simp only [State.engine, hwait, Bool.not_false, if_true]
  rfl

/-- A collective that waits goes on with whatever flight stands under the number that its own flight would have. -/
theorem State.collStart_waits (s : State) {w : Sems} (op : Instr) (q : FabQ) (desc : W32) (kind : Nat) {f : Flight} (h : ¬ s.steps .copy w)
    (hflight : (s.joined .copy w).mach.cores[s.cur.core].flight? .copy s.mach.nextOp = some f) (hmsgs : f.msgs.isEmpty = true) :
    s.collStart w op q desc kind = .next ((s.joined .copy w).onMach fun m => m.collLaunch s.cur.core s.mach.nextOp) := by
  have hwait : s.collective w op q desc kind = .next (s.joined .copy w) := by
    unfold State.collective State.copyStep
    exact s.engine_waits op 2 _ h
  simp only [State.collStart, hwait, hflight, hmsgs, if_true]
  rfl

/-! The counterexample. -/

namespace StaleFlight

/-- A collective that awaits semaphore 0. -/
def sems : Sems := { aw := 0, rs := 15 }

def mode : FabQ := { fe := .dataOnly, pb := false, dl := 0 }

/-- A flight under the number that the next operation takes. Every start counts the number on (`Mach.launchStep`), so that no step leaves such a flight, but the
statement is of every state. -/
def flight : Flight :=
  { id := 1, op := .a2av sems mode 0, rp := 0, words := 2, startAt := 0, raise := 15, moves := [], pops := [], msgs := [], got := [], push := none, wpTo := none,
    uses := [], pb := none, far := 0, failed := none, order := false }

/-- Where the flight's own piece lands. -/
def landing : Nat := 0x1000000

/-- The flight's collective, whose source region has been read and not yet sent: its own piece is one location, of data 1. -/
def run : CollRun :=
  { core := 0, flight := 1, ctx := 0, coll := 7, level := 0, kind := 0, red := 0, ord := false, timeout := 100, rank := 0, fe := .dataOnly, staddr := 0,
    sends := [], own := (0, 8), slots := [(0, 8)], keys := [some landing], src := [(0, { data := 1, full := true, poison := false })], ready := false,
    landed := [0], bounces := 0, reason := 0, start := 0 }

/-- The machine after reset, with the flight and its collective. -/
def state : State := State.reset.onMach fun m =>
  (m.onEng 0 .copy fun e => { e with flights := [flight] }).onFab fun g => { g with colls := [run] }

theorem not_steps : ¬ state.steps .copy sems := by
  unfold State.steps
  decide +kernel

theorem flight_found : (state.joined .copy sems).mach.cores[state.cur.core].flight? .copy state.mach.nextOp = some flight := by decide +kernel

theorem landing_before : memByte state.mach.mem landing = 0 := by decide +kernel

theorem landing_after : memByte ((state.joined .copy sems).mach.collLaunch state.cur.core state.mach.nextOp).mem landing = 1 := by decide +kernel

end StaleFlight

open StaleFlight in
/-- Refutes O26: its first clause says of every state that a step whose await is not satisfied leaves storage as it is. In `StaleFlight.state` the copy strand
has a flight of a collective under the number that the next operation takes. An `a2av` that awaits semaphore 0, which is 0, starts nothing, but the flight that
`State.collStart` then finds under that number is the other one, and its own piece lands. No run reaches such a state, since each start counts the number on. -/
theorem not_engineStepsWaitHaltAndPassTheLease : ¬ Obligations.EngineStepsWaitHaltAndPassTheLease := by
  intro h
  obtain ⟨⟨hwaits, -⟩, -⟩ := h
  obtain ⟨t', hexec, hmem, -⟩ := hwaits state (.a2av sems mode 0) sems 0 .copy (.inr ⟨rfl, rfl⟩) rfl not_steps
  have hlaunched : exec (.a2av sems mode 0) state =
      .next ((state.joined .copy sems).onMach fun m => m.collLaunch state.cur.core state.mach.nextOp) :=
    state.collStart_waits (.a2av sems mode 0) mode 0 0 not_steps flight_found rfl
  obtain rfl := Host.Outcome.next.inj (hlaunched.symm.trans hexec)
  have hbyte := congrArg (memByte · landing) hmem
  simp only [State.onMach_mach, landing_before, landing_after] at hbyte
  exact absurd hbyte (by decide)

end Sys2Proof.Machine
end

section
/-! Rounding to a floating-point format (04 R107, R110, R118 to R120): statement O60. A rounded magnitude is `v` of the spacing at its exponent;
its encoding counts the exponent above `v`, and `units` gives an encoding's value back. -/

namespace Sys2Proof.Machine

/-! A format's magnitudes: the encodings without their sign bit. -/

namespace Fmt

/-- A magnitude's significand: the fraction, with the leading bit of a normal value. -/
def significand (f : Fmt) (mag : Nat) : Nat := if mag < 2 ^ f.fb then mag else 2 ^ f.fb + mag % 2 ^ f.fb

/-- How far a magnitude's exponent lies above the subnormals'. -/
def binade (f : Fmt) (mag : Nat) : Nat := mag / 2 ^ f.fb - 1

/-- A magnitude's value, counted in the smallest subnormal. -/
def units (f : Fmt) (mag : Nat) : Nat := f.significand mag * 2 ^ f.binade mag

/-- Whether an encoding has its sign bit set; UE8M12 has none. -/
def signOf (f : Fmt) (w : Nat) : Bool := f.kind != .scale && w / 2 ^ f.magBits % 2 == 1

variable {f : Fmt}

theorem units_of_lt {mag : Nat} (h : mag < 2 ^ f.fb) : f.units mag = mag := by
  simp [units, significand, binade, h, Nat.div_eq_of_lt h]

/-- Rounding makes a magnitude of the binade's number and the rounded integer, whose leading bit counts the binade on. -/
theorem units_binade_add {n v : Nat} (hlo : n = 0 ∨ 2 ^ f.fb ≤ v) (hhi : v ≤ 2 ^ (f.fb + 1)) :
    f.units (n * 2 ^ f.fb + v) = v * 2 ^ n := by
  have hpos : 0 < 2 ^ f.fb := Nat.two_pow_pos _
  rw [Nat.pow_succ] at hhi
  by_cases hv : v < 2 ^ f.fb
  · obtain rfl : n = 0 := by omega
    simpa using units_of_lt hv
  · obtain ⟨r, rfl⟩ := Nat.exists_eq_add_of_le (Nat.not_lt.mp hv)
    have hsplit : n * 2 ^ f.fb + (2 ^ f.fb + r) = r + (n + 1) * 2 ^ f.fb := by rw [Nat.succ_mul]; omega
    have hge : ¬ r + (n + 1) * 2 ^ f.fb < 2 ^ f.fb := by
      have := Nat.le_mul_of_pos_left (2 ^ f.fb) (Nat.succ_pos n)
      omega
    rw [hsplit, units, significand, binade, if_neg hge, Nat.add_mul_mod_self_right, Nat.add_mul_div_right _ _ hpos]
    rcases (show r < 2 ^ f.fb ∨ r = 2 ^ f.fb by omega) with hr | rfl
    · simp [Nat.mod_eq_of_lt hr, Nat.div_eq_of_lt hr]
    · rw [Nat.mod_self, Nat.div_self hpos, show 1 + (n + 1) - 1 = n + 1 by omega,
        Nat.add_zero, Nat.pow_succ', ← Nat.mul_assoc, ← Nat.mul_two]

theorem units_lt_succ (mag : Nat) : f.units mag < f.units (mag + 1) := by
  have hpos : 0 < 2 ^ f.fb := Nat.two_pow_pos _
  by_cases h : mag < 2 ^ f.fb
  · have := units_binade_add (f := f) (n := 0) (v := mag + 1) (.inl rfl) (by rw [Nat.pow_succ]; omega)
    rw [units_of_lt h]
    simp only [Nat.zero_mul, Nat.zero_add, Nat.pow_zero, Nat.mul_one] at this
    omega
  · obtain ⟨q, hq⟩ := Nat.exists_eq_add_of_le' ((Nat.one_le_div_iff hpos).mpr (Nat.not_lt.mp h))
    have hr := Nat.mod_lt mag hpos
    have hmag : mag = q * 2 ^ f.fb + (2 ^ f.fb + mag % 2 ^ f.fb) := by
      have := Nat.div_add_mod mag (2 ^ f.fb)
      rw [hq, Nat.mul_comm, Nat.add_mul, Nat.one_mul] at this
      omega
    generalize mag % 2 ^ f.fb = r at hr hmag
    subst hmag
    rw [Nat.add_assoc, units_binade_add (.inr (by omega)) (by rw [Nat.pow_succ]; omega),
      units_binade_add (.inr (by omega)) (by rw [Nat.pow_succ]; omega)]
    exact Nat.mul_lt_mul_of_pos_right (Nat.lt_succ_self _) (Nat.two_pow_pos q)

theorem units_le_of_le {a b : Nat} (h : a ≤ b) : f.units a ≤ f.units b := by
  induction h with
  | refl => exact Nat.le_refl _
  | step _ ih => exact Nat.le_trans ih (Nat.le_of_lt (units_lt_succ _))

theorem units_lt_iff {a b : Nat} : f.units a < f.units b ↔ a < b :=
  ⟨fun h => Nat.lt_of_not_le fun hle => Nat.not_le_of_lt h (units_le_of_le hle), fun h => Nat.lt_of_lt_of_le (units_lt_succ a) (units_le_of_le h)⟩

theorem units_le_iff {a b : Nat} : f.units a ≤ f.units b ↔ a ≤ b :=
  ⟨fun h => Nat.le_of_not_lt fun hlt => Nat.not_lt_of_le h (units_lt_iff.mpr hlt), units_le_of_le⟩

/-! Decoding (R107). -/

theorem maxMag_lt : f.maxMag < 2 ^ f.magBits := by
  have hb : 0 < 2 ^ f.magBits := Nat.two_pow_pos _
  have he : (2 ^ f.eb - 1) * 2 ^ f.fb ≤ 2 ^ f.magBits := by
    rw [magBits, Nat.pow_add]; exact Nat.mul_le_mul_right _ (Nat.sub_le _ _)
  unfold maxMag
  split <;> omega

/-- Every subnormal is finite. -/
theorem lt_fb_le_maxMag (heb : 0 < f.eb) {mag : Nat} (h : mag < 2 ^ f.fb) : mag ≤ f.maxMag := by
  have hpos : 0 < 2 ^ f.fb := Nat.two_pow_pos _
  have htwo : 2 ≤ 2 ^ f.eb := Nat.pow_le_pow_right Nat.two_pos heb
  have hbits : 2 * 2 ^ f.fb ≤ 2 ^ f.magBits := by rw [magBits, Nat.pow_add]; exact Nat.mul_le_mul_right _ htwo
  have htop : 2 ^ f.fb ≤ (2 ^ f.eb - 1) * 2 ^ f.fb := Nat.le_mul_of_pos_left _ (by omega)
  unfold maxMag
  split <;> omega

theorem withSign_mod {neg : Bool} {mag : Nat} (h : mag < 2 ^ f.magBits) : f.withSign neg mag % 2 ^ f.magBits = mag := by
  cases neg <;> simp [withSign, Nat.mod_eq_of_lt h]

theorem withSign_lt {neg : Bool} {mag : Nat} (h : mag < 2 ^ f.magBits) : f.withSign neg mag < 2 ^ (f.eb + f.fb + 1) := by
  rw [Nat.pow_succ, ← magBits]
  cases neg <;> simp only [withSign, if_true, Bool.false_eq_true, if_false] <;> omega

theorem signOf_withSign {neg : Bool} {mag : Nat} (hneg : f.kind = .scale → neg = false) (h : mag < 2 ^ f.magBits) :
    f.signOf (f.withSign neg mag) = neg := by
  have hpos : 0 < 2 ^ f.magBits := Nat.two_pow_pos _
  cases neg with
  | false => simp [signOf, withSign, Nat.div_eq_of_lt h]
  | true =>
    have hkind : f.kind ≠ .scale := fun hk => Bool.noConfusion (hneg hk)
    simp [signOf, withSign, hkind, Nat.add_div_left _ hpos, Nat.div_eq_of_lt h]

/-- The exponent field is all ones just past the largest finite magnitude of the formats whose exponent marks infinities and NaNs. -/
theorem exponent_eq_top_iff {mag : Nat} (heb : 0 < f.eb) (h : mag < 2 ^ f.magBits) :
    mag / 2 ^ f.fb = 2 ^ f.eb - 1 ↔ (2 ^ f.eb - 1) * 2 ^ f.fb - 1 < mag := by
  have hpos : 0 < 2 ^ f.fb := Nat.two_pow_pos _
  have htwo : 2 ≤ 2 ^ f.eb := Nat.pow_le_pow_right Nat.two_pos heb
  have htop : 2 ^ f.fb ≤ (2 ^ f.eb - 1) * 2 ^ f.fb := Nat.le_mul_of_pos_left _ (by omega)
  have hlt : mag / 2 ^ f.fb < 2 ^ f.eb := Nat.div_lt_of_lt_mul (by rwa [← Nat.pow_add, Nat.add_comm])
  have hle := Nat.le_div_iff_mul_le (x := 2 ^ f.eb - 1) (y := mag) hpos
  omega

/-- The encodings up to the largest finite magnitude are finite. -/
theorem decode_of_le_maxMag (heb : 0 < f.eb) {w : Nat} (h : w % 2 ^ f.magBits ≤ f.maxMag) :
    f.decode w = .fin (f.signOf w) (f.significand (w % 2 ^ f.magBits)) (f.emin - f.fb + f.binade (w % 2 ^ f.magBits)) false := by
  have hlt := Nat.mod_lt w (Nat.two_pow_pos f.magBits)
  have htop := exponent_eq_top_iff heb hlt
  have hfinite : f.decode w = if w % 2 ^ f.magBits / 2 ^ f.fb = 0
      then .fin (f.signOf w) (w % 2 ^ f.magBits % 2 ^ f.fb) (1 - (f.bias : Int) - f.fb) false
      else .fin (f.signOf w) (2 ^ f.fb + w % 2 ^ f.magBits % 2 ^ f.fb) ((w % 2 ^ f.magBits / 2 ^ f.fb : Nat) - (f.bias : Int) - f.fb) false := by
    unfold maxMag at h
    cases hk : f.kind <;> simp only [hk] at h
    case ieee | scale => simp only [decode, hk, signOf, if_neg (mt htop.mp (Nat.not_lt.mpr h)), Option.getD_none]
    case e4m3 =>
      have hnan : w % 2 ^ f.magBits ≠ 2 ^ f.magBits - 1 := by
        have : 2 ≤ 2 ^ f.magBits := Nat.le_self_pow (by rw [magBits]; omega) 2
        omega
      simp only [decode, hk, signOf, if_neg hnan, Option.getD_none]
    case finite => simp only [decode, hk, signOf, Option.getD_none]
  rw [hfinite, significand, binade, emin]
  by_cases hsub : w % 2 ^ f.magBits < 2 ^ f.fb
  · simp [hsub, Nat.div_eq_of_lt hsub, Nat.mod_eq_of_lt hsub]
  · have hpos : 0 < w % 2 ^ f.magBits / 2 ^ f.fb := Nat.div_pos (Nat.not_lt.mp hsub) (Nat.two_pow_pos _)
    rw [if_neg (Nat.ne_of_gt hpos), if_neg hsub]
    congr 1
    omega

/-- The encodings past the largest finite magnitude are infinities and NaNs. -/
theorem decode_ne_fin_of_maxMag_lt (heb : 0 < f.eb) {w : Nat} (h : f.maxMag < w % 2 ^ f.magBits) (n : Bool) (m : Nat) (e : Int)
    (d : Bool) : f.decode w ≠ .fin n m e d := by
  have hlt := Nat.mod_lt w (Nat.two_pow_pos f.magBits)
  have htop := exponent_eq_top_iff heb hlt
  unfold maxMag at h
  cases hk : f.kind <;> simp only [hk] at h
  case ieee =>
    simp only [decode, hk, if_pos (htop.mpr h)]
    split <;> simp
  case scale => simp [decode, hk, htop.mpr h]
  case e4m3 =>
    have hnan : w % 2 ^ f.magBits = 2 ^ f.magBits - 1 := by omega
    simp [decode, hk, hnan]
  case finite => omega

theorem infMag_lt (f : Fmt) : f.infMag < 2 ^ f.magBits := by
  rw [magBits, Nat.pow_add]
  exact Nat.mul_lt_mul_of_pos_right (Nat.sub_lt (Nat.two_pow_pos _) Nat.one_pos) (Nat.two_pow_pos _)

theorem decode_infMag (hk : f.kind = .ieee) (neg : Bool) : f.decode (f.withSign neg f.infMag) = .inf neg := by
  have hsign : f.signOf (f.withSign neg f.infMag) = neg := signOf_withSign (by simp [hk]) f.infMag_lt
  have he : f.infMag / 2 ^ f.fb = 2 ^ f.eb - 1 := Nat.mul_div_cancel _ (Nat.two_pow_pos _)
  have hfr : f.infMag % 2 ^ f.fb = 0 := Nat.mul_mod_left _ _
  simp only [signOf] at hsign
  simp only [decode, hk, withSign_mod f.infMag_lt, he, hfr, if_true, Option.getD_some]
  simpa [hk] using hsign

/-! The value of an encoding, counted in units of `2 ^ j`. -/

/-- The encoding `w` is finite, of sign `n`, and its magnitude is `z` times `2 ^ j`. -/
def HasSize (f : Fmt) (j : Int) (w : Nat) (n : Bool) (z : Nat) : Prop :=
  w < 2 ^ (f.eb + f.fb + 1) ∧ ∃ m e, f.decode w = .fin n m e false ∧ z = m * 2 ^ (e - j).toNat

/-- The encoding `w` is the format's largest value, of sign `n`. -/
def IsTop (f : Fmt) (j : Int) (n : Bool) (w : Nat) : Prop :=
  ∃ z, f.HasSize j w n z ∧ ∀ w' n' z', f.HasSize j w' n' z' → z' ≤ z

/-- Some encoding's magnitude is at least `v`. -/
def Fits (f : Fmt) (j : Int) (v : Nat) : Prop := ∃ w n z, f.HasSize j w n z ∧ v ≤ z

variable {j : Int}

/-- The exponent of the format's smallest subnormal, less `j`. -/
def depth (f : Fmt) (j : Int) : Nat := (f.emin - f.fb - j).toNat

theorem hasSize_iff (heb : 0 < f.eb) (hj : j ≤ f.emin - f.fb) {w : Nat} {n : Bool} {z : Nat} :
    f.HasSize j w n z ↔ w < 2 ^ (f.eb + f.fb + 1) ∧ w % 2 ^ f.magBits ≤ f.maxMag ∧ f.signOf w = n ∧
      z = f.units (w % 2 ^ f.magBits) * 2 ^ f.depth j := by
  have hexp (b : Nat) : (f.emin - f.fb + b - j).toNat = b + f.depth j := by unfold depth; omega
  refine and_congr_right fun _ => ?_
  by_cases hmag : w % 2 ^ f.magBits ≤ f.maxMag
  · rw [decode_of_le_maxMag heb hmag]
    simp only [Ex.fin.injEq, and_true, hmag, true_and]
    constructor
    · rintro ⟨m, e, ⟨hn, rfl, rfl⟩, rfl⟩
      exact ⟨hn, by rw [hexp, units, Nat.pow_add, Nat.mul_assoc]⟩
    · rintro ⟨hn, rfl⟩
      exact ⟨_, _, ⟨hn, rfl, rfl⟩, by rw [hexp, units, Nat.pow_add, Nat.mul_assoc]⟩
  · simp [hmag, decode_ne_fin_of_maxMag_lt heb (Nat.not_le.mp hmag)]

theorem hasSize_withSign (heb : 0 < f.eb) (hj : j ≤ f.emin - f.fb) {neg : Bool} (hneg : f.kind = .scale → neg = false) {mag : Nat}
    (h : mag ≤ f.maxMag) : f.HasSize j (f.withSign neg mag) neg (f.units mag * 2 ^ f.depth j) := by
  have hlt := Nat.lt_of_le_of_lt h maxMag_lt
  rw [hasSize_iff heb hj, withSign_mod hlt]
  exact ⟨withSign_lt hlt, h, signOf_withSign hneg hlt, rfl⟩

theorem size_le_maxMag (heb : 0 < f.eb) (hj : j ≤ f.emin - f.fb) {w : Nat} {n : Bool} {z : Nat} (h : f.HasSize j w n z) :
    z ≤ f.units f.maxMag * 2 ^ f.depth j := by
  obtain ⟨-, hmag, -, rfl⟩ := (hasSize_iff heb hj).mp h
  exact Nat.mul_le_mul_right _ (units_le_of_le hmag)

theorem isTop_withSign_maxMag (heb : 0 < f.eb) (hj : j ≤ f.emin - f.fb) {neg : Bool} (hneg : f.kind = .scale → neg = false) :
    f.IsTop j neg (f.withSign neg f.maxMag) :=
  ⟨_, hasSize_withSign heb hj hneg (Nat.le_refl _), fun _ _ _ => size_le_maxMag heb hj⟩

theorem fits_units_iff (heb : 0 < f.eb) (hj : j ≤ f.emin - f.fb) {mag : Nat} :
    f.Fits j (f.units mag * 2 ^ f.depth j) ↔ mag ≤ f.maxMag := by
  constructor
  · rintro ⟨w, n, z, hsize, hle⟩
    have hunits := Nat.le_of_mul_le_mul_right (Nat.le_trans hle (size_le_maxMag heb hj hsize)) (Nat.two_pow_pos _)
    exact units_le_iff.mp hunits
  · exact fun h => ⟨_, _, _, hasSize_withSign heb hj (neg := false) (fun _ => rfl) h, (Nat.le_refl _)⟩

end Fmt

namespace Fmt

/-! Which neighbour a mode takes (R118, R119). -/

/-- Of the multiples of `spacing` next to `a`, the one that the mode takes for a magnitude of that sign. -/
def neighbour (mode : RMode) (neg : Bool) (a spacing : Nat) : Nat :=
  let lo := a / spacing * spacing
  let hi := lo + spacing
  if a = lo then lo
  else match mode with
    | .rne => if a - lo < hi - a then lo else if hi - a < a - lo then hi else if lo / spacing % 2 = 0 then lo else hi
    | .rna => if a - lo < hi - a then lo else hi
    | .rtz => lo
    | .rup => if neg then lo else hi
    | .rdn => if neg then hi else lo

/-- A quotient and remainder rounded as `roundsUp` decides. -/
def roundQuotient (mode : RMode) (neg : Bool) (q r unit : Nat) (more : Bool) : Nat :=
  if roundsUp mode neg (q % 2 == 1) r unit more then q + 1 else q

theorem roundQuotient_zero (mode : RMode) (neg : Bool) (q : Nat) {unit : Nat} (h : 0 < unit) :
    roundQuotient mode neg q 0 unit false = q := by
  have hne : unit ≠ 0 := Nat.ne_of_gt h
  cases mode <;> simp [roundQuotient, roundsUp, hne, hne.symm]

theorem roundQuotient_le (mode : RMode) (neg : Bool) (q r unit : Nat) (more : Bool) : roundQuotient mode neg q r unit more ≤ q + 1 := by
  unfold roundQuotient; split <;> omega

theorem le_roundQuotient (mode : RMode) (neg : Bool) (q r unit : Nat) (more : Bool) : q ≤ roundQuotient mode neg q r unit more := by
  unfold roundQuotient; split <;> omega

theorem neighbour_mul_self (mode : RMode) (neg : Bool) (q : Nat) {spacing : Nat} (h : 0 < spacing) :
    neighbour mode neg (q * spacing) spacing = q * spacing := by
  simp [neighbour, Nat.mul_div_cancel _ h]

/-- Both sides of a magnitude that lies `r` of `unit` parts past the multiple `q` of the spacing. -/
theorem neighbour_eq_roundQuotient (mode : RMode) (neg : Bool) {q r unit t : Nat} (hr : r < unit) (ht : 0 < t) :
    neighbour mode neg ((q * unit + r) * t) (unit * t) = roundQuotient mode neg q r unit false * (unit * t) := by
  have hunit : 0 < unit := Nat.zero_lt_of_lt hr
  have hsp : 0 < unit * t := Nat.mul_pos hunit ht
  rcases Nat.eq_zero_or_pos r with rfl | hpos
  · rw [roundQuotient_zero _ _ _ hunit, Nat.add_zero, Nat.mul_assoc, neighbour_mul_self _ _ _ hsp]
  have hq : (q * unit + r) * t / (unit * t) = q := by
    rw [Nat.mul_div_mul_right _ _ ht, Nat.mul_comm q, Nat.mul_add_div hunit, Nat.div_eq_of_lt hr, Nat.add_zero]
  have ha : (q * unit + r) * t = q * (unit * t) + r * t := by rw [Nat.add_mul, Nat.mul_assoc]
  have hbelow : (q * unit + r) * t - q * (unit * t) = r * t := by omega
  have habove : q * (unit * t) + unit * t - (q * unit + r) * t = (unit - r) * t := by rw [ha, Nat.sub_mul]; omega
  have hne : (q * unit + r) * t ≠ q * (unit * t) := by have := Nat.mul_pos hpos ht; omega
  have hup : (q + 1) * (unit * t) = q * (unit * t) + unit * t := Nat.succ_mul _ _
  simp only [neighbour, hq, hbelow, habove, if_neg hne, Nat.mul_lt_mul_right ht, Nat.mul_div_cancel _ hsp]
  have hr0 : (r != 0) = true := bne_iff_ne.mpr (Nat.ne_of_gt hpos)
  cases mode with
  | rtz => simp [roundQuotient, roundsUp]
  | rup => cases neg <;> simp [roundQuotient, roundsUp, hr0, hup]
  | rdn => cases neg <;> simp [roundQuotient, roundsUp, hr0, hup]
  | rna =>
    have hhalf : r < unit - r ↔ ¬ unit ≤ 2 * r := by omega
    by_cases h : unit ≤ 2 * r <;> simp [roundQuotient, roundsUp, hhalf, h, hup]
  | rne =>
    have hlow : r < unit - r ↔ 2 * r < unit := by omega
    have hhigh : unit - r < r ↔ unit < 2 * r := by omega
    simp only [roundQuotient, roundsUp, hlow, hhigh, Bool.false_or]
    rcases Nat.lt_trichotomy (2 * r) unit with h | h | h
    · simp [h, Nat.lt_asymm h, Nat.ne_of_lt h]
    · rcases Nat.mod_two_eq_zero_or_one q with hp | hp <;> simp [h, hp, hup]
    · simp [h, Nat.lt_asymm h, hup]

/-! `Round` (R119). -/

/-- The exponent of the leading digit of `m * 2 ^ e`, and of the smallest normal value at least. -/
def leadExp (f : Fmt) (m : Nat) (e : Int) : Int := max ((Nat.log2 m : Int) + e) f.emin

/-- The result of a magnitude rounded to `v` of the spacing at the exponent `ex`. -/
def finish (f : Fmt) (neg : Bool) (mode : RMode) (sat : Bool) (ex : Int) (v : Nat) (inexact : Bool) : FpOut :=
  let uf := inexact && ex == f.emin && decide (v < 2 ^ f.fb)
  let mag : Nat := if v < 2 ^ f.fb then v else ((ex + f.bias - 1).toNat) * 2 ^ f.fb + v
  if f.maxMag < mag then { bits := f.overflow neg mode sat, fl := { of := true, nx := true, uf := uf } }
  else { bits := f.withSign neg mag, fl := { nx := inexact, uf := uf } }

variable {f : Fmt} {neg : Bool} {mode : RMode} {sat : Bool} {m : Nat} {e : Int}

theorem round_of_step_le (hm : m ≠ 0) (hk : f.leadExp m e - f.fb ≤ e) :
    f.round (.fin neg m e false) mode sat =
      f.finish neg mode sat (f.leadExp m e) (m * 2 ^ (e - (f.leadExp m e - f.fb)).toNat) false := by
  have hsame := roundQuotient_zero mode neg (m * 2 ^ (e - (f.leadExp m e - f.fb)).toNat) Nat.two_pos
  unfold roundQuotient at hsame
  unfold leadExp at hk hsame ⊢
  simp only [round, hm, false_and, if_false, if_pos hk, hsame]
  rfl

theorem round_of_lt_step {more : Bool} (hm : m ≠ 0) (hk : e < f.leadExp m e - f.fb) :
    f.round (.fin neg m e more) mode sat =
      let unit := 2 ^ (f.leadExp m e - f.fb - e).toNat
      f.finish neg mode sat (f.leadExp m e) (roundQuotient mode neg (m / unit) (m % unit) unit more) (m % unit != 0 || more) := by
  unfold leadExp at hk ⊢
  simp only [round, hm, false_and, if_false, if_neg (Int.not_le.mpr hk)]
  rfl

/-- A magnitude `m * 2 ^ e` counted in units of `2 ^ j`. -/
def scaled (m : Nat) (e j : Int) : Nat := m * 2 ^ (e - j).toNat

/-- The format's spacing at the magnitude `m * 2 ^ e`, counted in units of `2 ^ j`. -/
def spacing (f : Fmt) (m : Nat) (e j : Int) : Nat := 2 ^ (f.leadExp m e - f.fb - j).toNat

theorem spacing_pos {j : Int} : 0 < f.spacing m e j := Nat.two_pow_pos _

/-- `Round` takes `v` of the spacing: the neighbour of its mode, which the fraction's digits and one digit more hold. -/
structure RoundsTo (f : Fmt) (neg : Bool) (mode : RMode) (sat : Bool) (m : Nat) (e j : Int) (v : Nat) : Prop where
  normal : f.leadExp m e = f.emin ∨ 2 ^ f.fb ≤ v
  le : v ≤ 2 ^ (f.fb + 1)
  value : neighbour mode neg (scaled m e j) (f.spacing m e j) = v * f.spacing m e j
  round : f.round (.fin neg m e false) mode sat =
    f.finish neg mode sat (f.leadExp m e) v (decide (scaled m e j ≠ scaled m e j / f.spacing m e j * f.spacing m e j))

theorem leadExp_eq (f : Fmt) (m : Nat) (e : Int) : f.leadExp m e = f.emin ∨ f.leadExp m e = Nat.log2 m + e := by
  unfold leadExp
  omega

theorem emin_le_leadExp (f : Fmt) (m : Nat) (e : Int) : f.emin ≤ f.leadExp m e := Int.le_max_right _ _

theorem log2_add_le_leadExp (f : Fmt) (m : Nat) (e : Int) : (Nat.log2 m : Int) + e ≤ f.leadExp m e := Int.le_max_left _ _

/-- A whole number of spacings is its own rounding. -/
theorem roundsTo_of_step_le (hm : m ≠ 0) {j : Int} (hj : j ≤ f.emin - f.fb) (hk : f.leadExp m e - f.fb ≤ e) :
    f.RoundsTo neg mode sat m e j (m * 2 ^ (e - (f.leadExp m e - f.fb)).toNat) := by
  have hemin := f.emin_le_leadExp m e
  have hlead := f.log2_add_le_leadExp m e
  have hscaled : scaled m e j = m * 2 ^ (e - (f.leadExp m e - f.fb)).toNat * f.spacing m e j := by
    have hexp : (e - j).toNat = (e - (f.leadExp m e - f.fb)).toNat + (f.leadExp m e - f.fb - j).toNat := by omega
    rw [scaled, spacing, hexp, Nat.pow_add, Nat.mul_assoc]
  refine ⟨(f.leadExp_eq m e).imp_right fun h => ?_, ?_, ?_, ?_⟩
  · have hexp : f.fb = Nat.log2 m + (e - (f.leadExp m e - f.fb)).toNat := by omega
    rw [hexp, Nat.pow_add, ← hexp]
    exact Nat.mul_le_mul_right _ (Nat.log2_self_le hm)
  · have hexp : Nat.log2 m + 1 + (e - (f.leadExp m e - f.fb)).toNat ≤ f.fb + 1 := by omega
    refine Nat.le_trans ?_ (Nat.pow_le_pow_right Nat.two_pos hexp)
    rw [Nat.pow_add]
    exact Nat.mul_le_mul_right _ (Nat.le_of_lt Nat.lt_log2_self)
  · rw [hscaled, neighbour_mul_self _ _ _ spacing_pos]
  · rw [round_of_step_le hm hk, hscaled, Nat.mul_div_cancel _ spacing_pos]
    simp

/-- A value between digits of the spacing is rounded on its quotient and remainder. -/
theorem roundsTo_of_lt_step (hm : m ≠ 0) {j : Int} (hje : j ≤ e) (hk : e < f.leadExp m e - f.fb) :
    let unit := 2 ^ (f.leadExp m e - f.fb - e).toNat
    f.RoundsTo neg mode sat m e j (roundQuotient mode neg (m / unit) (m % unit) unit false) := by
  intro unit
  have hunit : 0 < unit := Nat.two_pow_pos _
  have hpos : 0 < 2 ^ (e - j).toNat := Nat.two_pow_pos _
  have hlead := f.log2_add_le_leadExp m e
  have hscaled : scaled m e j = (m / unit * unit + m % unit) * 2 ^ (e - j).toNat := by rw [Nat.div_add_mod', scaled]
  have hspacing : f.spacing m e j = unit * 2 ^ (e - j).toNat := by
    have hexp : (f.leadExp m e - f.fb - j).toNat = (f.leadExp m e - f.fb - e).toNat + (e - j).toNat := by omega
    rw [spacing, hexp, Nat.pow_add]
  refine ⟨(f.leadExp_eq m e).imp_right fun h => ?_, ?_, ?_, ?_⟩
  · have hexp : f.fb + (f.leadExp m e - f.fb - e).toNat = Nat.log2 m := by omega
    refine Nat.le_trans ?_ (le_roundQuotient ..)
    rw [Nat.le_div_iff_mul_le hunit, ← Nat.pow_add, hexp]
    exact Nat.log2_self_le hm
  · have hexp : Nat.log2 m + 1 ≤ (f.leadExp m e - f.fb - e).toNat + (f.fb + 1) := by omega
    refine Nat.le_trans (roundQuotient_le ..) (Nat.div_lt_of_lt_mul ?_)
    rw [← Nat.pow_add]
    exact Nat.lt_of_lt_of_le Nat.lt_log2_self (Nat.pow_le_pow_right Nat.two_pos hexp)
  · rw [hscaled, hspacing, neighbour_eq_roundQuotient mode neg (Nat.mod_lt _ hunit) hpos]
  · have hquot : scaled m e j / f.spacing m e j * f.spacing m e j = m / unit * unit * 2 ^ (e - j).toNat := by
      rw [scaled, hspacing, Nat.mul_div_mul_right _ _ hpos, Nat.mul_assoc]
    have hexact : scaled m e j = m / unit * unit * 2 ^ (e - j).toNat ↔ m % unit = 0 := by
      rw [hscaled, Nat.mul_right_cancel_iff hpos, Nat.add_eq_left]
    have hinexact : decide (scaled m e j ≠ m / unit * unit * 2 ^ (e - j).toNat) = (m % unit != 0 || false) := by
      rw [Bool.or_false, Bool.eq_iff_iff, decide_eq_true_iff, bne_iff_ne]
      exact not_congr hexact
    rw [round_of_lt_step hm hk, hquot, hinexact]

theorem exists_roundsTo (f : Fmt) (neg : Bool) (mode : RMode) (sat : Bool) (hm : m ≠ 0) {j : Int} (hje : j ≤ e) (hj : j ≤ f.emin - f.fb) :
    ∃ v, f.RoundsTo neg mode sat m e j v := by
  by_cases hk : f.leadExp m e - f.fb ≤ e
  · exact ⟨_, roundsTo_of_step_le hm hj hk⟩
  · exact ⟨_, roundsTo_of_lt_step hm hje (Int.not_le.mp hk)⟩

/-! The result's magnitude and flags. -/

/-- The magnitude of a result rounded to `v` of the spacing at the exponent of `m * 2 ^ e`. -/
def resultMag (f : Fmt) (m : Nat) (e : Int) (v : Nat) : Nat := (f.leadExp m e - f.emin).toNat * 2 ^ f.fb + v

variable {j : Int} {v : Nat}

theorem RoundsTo.units_resultMag (h : f.RoundsTo neg mode sat m e j v) (hj : j ≤ f.emin - f.fb) :
    f.units (f.resultMag m e v) * 2 ^ f.depth j = neighbour mode neg (scaled m e j) (f.spacing m e j) := by
  have hemin := f.emin_le_leadExp m e
  have hexp : (f.leadExp m e - f.fb - j).toNat = (f.leadExp m e - f.emin).toNat + f.depth j := by unfold depth; omega
  rw [h.value, resultMag, units_binade_add (h.normal.imp_left (by omega)) h.le, spacing, hexp, Nat.pow_add, Nat.mul_assoc]

/-- The result lies below the smallest normal value just where `Round` says so. -/
theorem RoundsTo.subnormal_iff (h : f.RoundsTo neg mode sat m e j v) (hj : j ≤ f.emin - f.fb) :
    neighbour mode neg (scaled m e j) (f.spacing m e j) < 2 ^ (f.emin - j).toNat ↔ f.leadExp m e = f.emin ∧ v < 2 ^ f.fb := by
  have hexp : (f.emin - j).toNat = f.fb + f.depth j := by unfold depth; omega
  rw [← h.units_resultMag hj, hexp, Nat.pow_add, Nat.mul_lt_mul_right (Nat.two_pow_pos _)]
  have hnormal : f.units (2 ^ f.fb) = 2 ^ f.fb := by
    simpa using units_binade_add (f := f) (n := 0) (.inl rfl) (Nat.pow_le_pow_right Nat.two_pos (Nat.le_succ _))
  rw [← hnormal, units_lt_iff, resultMag, hnormal]
  have hemin := f.emin_le_leadExp m e
  obtain ⟨n, hn⟩ := Int.eq_ofNat_of_zero_le (Int.sub_nonneg.mpr hemin)
  have hzero : f.leadExp m e = f.emin ↔ n = 0 := by omega
  rw [hn, Int.toNat_natCast, hzero]
  cases n with
  | zero => simp
  | succ n =>
    rw [Nat.succ_mul]
    omega

theorem resultMag_eq (hnormal : f.leadExp m e = f.emin ∨ 2 ^ f.fb ≤ v) :
    (if v < 2 ^ f.fb then v else (f.leadExp m e + f.bias - 1).toNat * 2 ^ f.fb + v) = f.resultMag m e v := by
  have hexp : f.leadExp m e + f.bias - 1 = f.leadExp m e - f.emin := by unfold emin; omega
  rw [hexp, resultMag]
  split
  next hlt =>
    have hlead : f.leadExp m e = f.emin := by omega
    simp [hlead]
  next => rfl

theorem RoundsTo.round_of_le (h : f.RoundsTo neg mode sat m e j v) (hj : j ≤ f.emin - f.fb) (hmag : f.resultMag m e v ≤ f.maxMag) :
    f.round (.fin neg m e false) mode sat =
      let inexact := decide (scaled m e j ≠ scaled m e j / f.spacing m e j * f.spacing m e j)
      { bits := f.withSign neg (f.resultMag m e v)
        fl := { nx := inexact, uf := inexact && decide (neighbour mode neg (scaled m e j) (f.spacing m e j) < 2 ^ (f.emin - j).toNat) } } := by
  simp only [h.round, finish, resultMag_eq h.normal, if_neg (Nat.not_lt.mpr hmag), h.subnormal_iff hj, Bool.decide_and, Bool.and_assoc]
  rfl

/-- Past the largest finite magnitude no result lies below the smallest normal value. -/
theorem RoundsTo.round_of_lt (h : f.RoundsTo neg mode sat m e j v) (heb : 0 < f.eb) (hmag : f.maxMag < f.resultMag m e v) :
    f.round (.fin neg m e false) mode sat = { bits := f.overflow neg mode sat, fl := { of := true, nx := true } } := by
  have hnormal : ¬ (f.leadExp m e = f.emin ∧ v < 2 ^ f.fb) := fun ⟨hlead, hv⟩ => by
    have := lt_fb_le_maxMag heb hv
    simp only [resultMag, hlead, Int.sub_self, Int.toNat_zero, Nat.zero_mul, Nat.zero_add] at hmag
    omega
  have huf : (f.leadExp m e == f.emin && decide (v < 2 ^ f.fb)) = false := by
    rw [Bool.eq_false_iff]
    simpa using hnormal
  simp only [h.round, finish, resultMag_eq h.normal, if_pos hmag, Bool.and_assoc, huf, Bool.and_false]

/-! Overflow (R120). -/

/-- Whether an overflow gives the largest finite value rather than an infinity or a NaN. -/
def toMax (neg : Bool) (mode : RMode) (sat : Bool) : Bool :=
  sat || (match mode with
    | .rne | .rna => false
    | .rtz => true
    | .rup => neg
    | .rdn => !neg)

theorem toMax_iff : toMax neg mode sat = true ↔ sat = true ∨ mode = .rtz ∨ (mode = .rup ∧ neg = true) ∨ (mode = .rdn ∧ neg = false) := by
  cases mode <;> simp [toMax]

theorem overflow_of_ieee (hk : f.kind = .ieee) : f.overflow neg mode sat = f.withSign neg (if toMax neg mode sat then f.maxMag else f.infMag) := by
  simp only [overflow, hk]
  rfl

theorem overflow_of_e4m3 (hk : f.kind = .e4m3) : f.overflow neg mode sat = if toMax neg mode sat then f.withSign neg f.maxMag else f.nan := by
  simp only [overflow, hk]
  rfl

theorem overflow_of_finite (hk : f.kind = .finite) : f.overflow neg mode sat = f.withSign neg f.maxMag := by
  simp only [overflow, hk]

theorem overflow_of_scale (hk : f.kind = .scale) : f.overflow neg mode sat = f.withSign false f.maxMag := by
  simp only [overflow, hk]
  rfl

theorem isTop_overflow (heb : 0 < f.eb) (hj : j ≤ f.emin - f.fb) (hneg : f.kind = .scale → neg = false)
    (h : f.kind = .finite ∨ f.kind = .scale ∨ toMax neg mode sat = true) : f.IsTop j neg (f.overflow neg mode sat) := by
  have hmaxMag : f.overflow neg mode sat = f.withSign neg f.maxMag := by
    cases hk : f.kind with
    | ieee =>
      have hmax : toMax neg mode sat = true := by simpa [hk] using h
      rw [overflow_of_ieee hk, if_pos hmax]
    | e4m3 =>
      have hmax : toMax neg mode sat = true := by simpa [hk] using h
      rw [overflow_of_e4m3 hk, if_pos hmax]
    | finite => exact overflow_of_finite hk
    | scale => rw [overflow_of_scale hk, hneg hk]
  exact hmaxMag ▸ isTop_withSign_maxMag heb hj hneg

theorem decode_overflow_of_ieee (hk : f.kind = .ieee) (h : ¬ toMax neg mode sat = true) : f.decode (f.overflow neg mode sat) = .inf neg := by
  rw [overflow_of_ieee hk, if_neg h, decode_infMag hk]

theorem overflow_of_e4m3_of_not_toMax (hk : f.kind = .e4m3) (h : ¬ toMax neg mode sat = true) : f.overflow neg mode sat = f.nan := by
  rw [overflow_of_e4m3 hk, if_neg h]

/-! A value between two integers times a power of two. -/

/-- With two parts of the unit at least, a remainder with more above it rounds as the remainder half a part further on. -/
theorem roundQuotient_more (mode : RMode) (neg : Bool) (q r : Nat) {unit : Nat} (heven : unit % 2 = 0) :
    roundQuotient mode neg q r unit true = roundQuotient mode neg q (2 * r + 1) (2 * unit) false := by
  have hsame : roundsUp mode neg (q % 2 == 1) r unit true = roundsUp mode neg (q % 2 == 1) (2 * r + 1) (2 * unit) false := by
    cases mode with
    | rtz => rfl
    | rup | rdn => simp [roundsUp]
    | rna => simp only [roundsUp, decide_eq_decide]; omega
    | rne =>
      have hne : ¬ 2 * (2 * r + 1) = 2 * unit := by omega
      have hor : 2 * unit < 2 * (2 * r + 1) ↔ unit < 2 * r ∨ 2 * r = unit := by omega
      rw [Bool.eq_iff_iff]
      simp [roundsUp, hne, hor]
  simp only [roundQuotient, hsame]

theorem log2_two_mul_add_one (hm : m ≠ 0) : Nat.log2 (2 * m + 1) = Nat.log2 m + 1 := by
  have hlo := Nat.log2_self_le hm
  have hhi := @Nat.lt_log2_self m
  rw [Nat.log2_eq_iff (Nat.succ_ne_zero _), Nat.pow_succ, Nat.pow_succ 2 (Nat.log2 m + 1)]
  omega

theorem round_more (f : Fmt) (neg : Bool) (mode : RMode) (sat : Bool) (e : Int) (hm : m ≠ 0) (hlog : f.fb + 1 ≤ Nat.log2 m) :
    f.round (.fin neg m e true) mode sat = f.round (.fin neg (2 * m + 1) (e - 1) false) mode sat := by
  have hlead : f.leadExp (2 * m + 1) (e - 1) = f.leadExp m e := by
    rw [leadExp, leadExp, log2_two_mul_add_one hm]
    congr 1
    omega
  have hle := f.log2_add_le_leadExp m e
  obtain ⟨s, hs⟩ := Int.eq_ofNat_of_zero_le (show 0 ≤ f.leadExp m e - f.fb - e - 1 by omega)
  have hunit : (f.leadExp m e - f.fb - e).toNat = s + 1 := by omega
  have hunit' : (f.leadExp m e - f.fb - (e - 1)).toNat = s + 1 + 1 := by omega
  rw [round_of_lt_step hm (by omega), round_of_lt_step (m := 2 * m + 1) (by omega) (by omega), hlead, hunit, hunit']
  have hdouble : 2 ^ (s + 1 + 1) = 2 * 2 ^ (s + 1) := Nat.pow_succ'
  have hquot : (2 * m + 1) / (2 * 2 ^ (s + 1)) = m / 2 ^ (s + 1) := by
    rw [← Nat.div_div_eq_div_mul]
    congr 1
    omega
  have hrem : (2 * m + 1) % (2 * 2 ^ (s + 1)) = 2 * (m % 2 ^ (s + 1)) + 1 := by
    have hhalf : (2 * m + 1) / 2 = m := by omega
    rw [Nat.mod_mul, hhalf]
    omega
  have heven : 2 ^ (s + 1) % 2 = 0 := by rw [Nat.pow_succ]; exact Nat.mul_mod_left _ _
  simp [hdouble, hquot, hrem, roundQuotient_more mode neg _ _ heven]

end Fmt

namespace Fmt

/-! What `Round` gives of a finite value (R119, R120). -/

section Finite
variable {f : Fmt} {neg : Bool} {mode : RMode} {sat : Bool} {m : Nat} {e j : Int}

theorem round_of_fits (heb : 0 < f.eb) (hneg : f.kind = .scale → neg = false) (hm : m ≠ 0) (hje : j ≤ e) (hj : j ≤ f.emin - f.fb) :
    let a := scaled m e j
    let v := neighbour mode neg a (f.spacing m e j)
    let r := f.round (.fin neg m e false) mode sat
    let inexact := decide (a ≠ a / f.spacing m e j * f.spacing m e j)
    f.Fits j v → f.HasSize j r.bits neg v ∧ r.fl = { nx := inexact, uf := inexact && decide (v < 2 ^ (f.emin - j).toNat) } := by
  intro a v r inexact hfits
  obtain ⟨q, hq⟩ := exists_roundsTo f neg mode sat hm hje hj
  have hv : v = f.units (f.resultMag m e q) * 2 ^ f.depth j := (hq.units_resultMag hj).symm
  have hmag : f.resultMag m e q ≤ f.maxMag := (fits_units_iff heb hj).mp (hv ▸ hfits)
  have hr := hq.round_of_le hj hmag
  refine ⟨?_, congrArg FpOut.fl hr⟩
  rw [show r.bits = f.withSign neg (f.resultMag m e q) from congrArg FpOut.bits hr, hv]
  exact hasSize_withSign heb hj hneg hmag

theorem round_of_not_fits (heb : 0 < f.eb) (hm : m ≠ 0) (hje : j ≤ e) (hj : j ≤ f.emin - f.fb)
    (h : ¬ f.Fits j (neighbour mode neg (scaled m e j) (f.spacing m e j))) :
    f.round (.fin neg m e false) mode sat = { bits := f.overflow neg mode sat, fl := { of := true, nx := true } } := by
  obtain ⟨q, hq⟩ := exists_roundsTo f neg mode sat hm hje hj
  rw [← hq.units_resultMag hj, fits_units_iff heb hj, Nat.not_le] at h
  exact hq.round_of_lt heb h

/-- The zero that `Round` gives of a zero. -/
theorem hasSize_zero (heb : 0 < f.eb) (hj : j ≤ f.emin - f.fb) (hneg : f.kind = .scale → neg = false) :
    f.HasSize j (f.withSign neg 0) neg 0 := by
  have hunits : f.units 0 = 0 := units_of_lt (Nat.two_pow_pos _)
  have hsize := hasSize_withSign heb hj hneg (Nat.zero_le f.maxMag)
  rwa [hunits, Nat.zero_mul] at hsize

end Finite

/-! Infinities (R119). -/

theorem infOut_of_ieee {f : Fmt} {neg sat : Bool} (hk : f.kind = .ieee) : f.infOut neg sat = { bits := f.withSign neg f.infMag, fl := {} } := by
  simp only [infOut, hk]

theorem infOut_of_finite {f : Fmt} {neg sat : Bool} (hk : f.kind = .finite) :
    f.infOut neg sat = { bits := f.withSign neg f.maxMag, fl := { nv := true } } := by
  simp only [infOut, hk]

/-! The formats of R106, by the family of their special values. -/

theorem eb_pos_of_mem : ∀ f ∈ [fp32, bf16, fp16, e5m2, e4m3, e3m2, e2m3, e2m1, fx40, ue8m12], 0 < f.eb := by decide

theorem eb_pos_of_lane {t : Nat} {f : Fmt} (h : ([fp32, bf16, fp16, e4m3, e5m2, e2m3, e3m2, e2m1] : List Fmt)[t]? = some f) : 0 < f.eb :=
  (by decide : ∀ f ∈ [fp32, bf16, fp16, e4m3, e5m2, e2m3, e3m2, e2m1], 0 < f.eb) f (List.mem_of_getElem? h)

theorem eq_ue8m12_of_scale :
    ∀ f ∈ [fp32, bf16, fp16, e5m2, e4m3, e3m2, e2m3, e2m1, fx40, ue8m12], f.kind = .scale → f = ue8m12 := by decide

theorem kind_of_mem_ieee : ∀ f ∈ [fp32, bf16, fp16, e5m2, fx40], f.kind = .ieee := by decide

theorem kind_of_mem_small : ∀ f ∈ [e3m2, e2m3, e2m1], f.kind = .finite := by decide

end Fmt

/-! The lane of a floating result (R110). -/

/-- A value of the format that lies below its smallest normal one and is not 0. -/
def Fmt.IsSubnormal (f : Fmt) (w : Nat) (n : Bool) : Prop :=
  ∃ m, m ≠ 0 ∧ m < 2 ^ f.fb ∧ f.decode w = .fin n m (1 - (f.bias : Int) - f.fb) false

theorem Fmt.isSubnormal_iff {f : Fmt} (heb : 0 < f.eb) {w : Nat} {n : Bool} :
    f.IsSubnormal w n ↔ f.signOf w = n ∧ w % 2 ^ f.magBits ≠ 0 ∧ w % 2 ^ f.magBits < 2 ^ f.fb := by
  constructor
  · rintro ⟨m, hm, hlt, hdec⟩
    have hmag : w % 2 ^ f.magBits ≤ f.maxMag := Nat.not_lt.mp fun h => decode_ne_fin_of_maxMag_lt heb h _ _ _ _ hdec
    rw [decode_of_le_maxMag heb hmag, Ex.fin.injEq] at hdec
    obtain ⟨hsign, hsig, -, -⟩ := hdec
    unfold significand at hsig
    split at hsig <;> exact ⟨hsign, by omega, by omega⟩
  · rintro ⟨hsign, hpos, hlt⟩
    refine ⟨_, hpos, hlt, ?_⟩
    rw [decode_of_le_maxMag heb (lt_fb_le_maxMag heb hlt), hsign]
    simp [significand, binade, hlt, Nat.div_eq_of_lt hlt, emin]

theorem FpOut.flush_eq_self {f : Fmt} (heb : 0 < f.eb) (o : FpOut) (h : ∀ n, ¬ f.IsSubnormal o.bits n) : o.flush f = o :=
  if_neg fun ⟨hpos, hlt⟩ => h _ ((Fmt.isSubnormal_iff heb).mpr ⟨rfl, hpos, hlt⟩)

theorem FpOut.flush_of_isSubnormal {f : Fmt} (heb : 0 < f.eb) (o : FpOut) {n : Bool} (h : f.IsSubnormal o.bits n) :
    (∃ e, f.decode (o.flush f).bits = .fin n 0 e false) ∧ (o.flush f).fl = { o.fl with uf := true, nx := true } := by
  obtain ⟨hsign, hpos, hlt⟩ := (Fmt.isSubnormal_iff heb).mp h
  have hflush : o.flush f = { bits := o.bits - o.bits % 2 ^ f.magBits, fl := { o.fl with uf := true, nx := true } } := if_pos ⟨hpos, hlt⟩
  have hbits : o.bits - o.bits % 2 ^ f.magBits = 2 ^ f.magBits * (o.bits / 2 ^ f.magBits) := by
    have := Nat.div_add_mod o.bits (2 ^ f.magBits)
    omega
  have hmag : (o.bits - o.bits % 2 ^ f.magBits) % 2 ^ f.magBits = 0 := by rw [hbits, Nat.mul_mod_right]
  have hsame : f.signOf (o.bits - o.bits % 2 ^ f.magBits) = n := by
    rw [← hsign, Fmt.signOf, hbits, Nat.mul_div_cancel_left _ (Nat.two_pow_pos _), Fmt.signOf]
  rw [hflush]
  refine ⟨⟨f.emin - f.fb + f.binade 0, ?_⟩, rfl⟩
  rw [Fmt.decode_of_le_maxMag heb (hmag ▸ Nat.zero_le _), hsame, hmag]
  simp only [Fmt.significand, Nat.two_pow_pos, if_true]

theorem fmtOf_eq_getElem? (t : Nat) : fmtOf t = ([fp32, bf16, fp16, e4m3, e5m2, e2m3, e3m2, e2m1] : List Fmt)[t]? := by
  match t with
  | 0 | 1 | 2 | 3 | 4 | 5 | 6 | 7 => rfl
  | _ + 8 => rfl

theorem rmodeOf_eq (c : BitVec 3) :
    rmodeOf c = if c = 0 then .rne else if c = 1 then .rtz else if c = 2 then .rup else if c = 3 then .rdn else .rna := by
  revert c
  decide

theorem modeOf_some (y : Qual) :
    modeOf (some y) = if y.round = 0 then .rne else if y.round = 1 then .rtz else if y.round = 2 then .rup else if y.round = 3 then .rdn else .rna :=
  rmodeOf_eq y.round

/-- A lane of a floating result: rounded once, and a subnormal flushed to its zero under `.ftz`. -/
theorem floatOut_spec {t : Nat} {f : Fmt} (hf : ([fp32, bf16, fp16, e4m3, e5m2, e2m3, e3m2, e2m1] : List Fmt)[t]? = some f) (q : Option Qual)
    (v : Ex × Bool) :
    let o := f.round v.1 (modeOf q) (satOf q)
    let fl := { o.fl with nv := o.fl.nv || v.2 }
    ((ftzOf q = false ∨ ∀ n, ¬ f.IsSubnormal o.bits n) → floatOut t q v = { bits := o.bits, fl := fl }) ∧
    ∀ n, ftzOf q = true → f.IsSubnormal o.bits n →
      (∃ e, f.decode (floatOut t q v).bits = .fin n 0 e false) ∧ (floatOut t q v).fl = { fl with uf := true, nx := true } := by
  intro o fl
  have heb : 0 < f.eb := Fmt.eb_pos_of_lane hf
  have hfmt : fmt! t = f := by rw [fmt!, fmtOf_eq_getElem?, hf, Option.getD_some]
  have hout : floatOut t q v = if ftzOf q then FpOut.flush { bits := o.bits, fl := fl } f else { bits := o.bits, fl := fl } := by
    rw [floatOut, hfmt]
  rw [hout]
  constructor
  · rintro (hoff | hnone)
    · rw [hoff]
      rfl
    · rw [FpOut.flush_eq_self heb { bits := o.bits, fl := fl } hnone, ite_self]
  · intro n hftz hsub
    rw [if_pos hftz]
    exact FpOut.flush_of_isSubnormal heb { bits := o.bits, fl := fl } hsub

/-- Settles O60: the result's magnitude counts its binade above its rounded integer, so that its value is the mode's neighbour, and it is finite
just where some value of the format is as large. -/
theorem roundingGivesTheValueOfItsMode : Obligations.RoundingGivesTheValueOfItsMode := by
  refine ⟨?_, fun _ _ _ => ⟨rfl, rfl, rfl, rfl, rfl, rfl, rfl, rfl, rfl, rfl⟩, ?_⟩
  · intro f neg m e mode sat hf hneg ieee small emin j a spacing lo hi v size top fits toMax r zero inf
    have heb : 0 < f.eb := Fmt.eb_pos_of_mem f hf
    have hscale : f.kind = .scale → neg = false := fun hk => hneg (Fmt.eq_ue8m12_of_scale f hf hk)
    have hje : j ≤ e := Int.min_le_left _ _
    have hj : j ≤ f.emin - f.fb := Int.min_le_right _ _
    have hieee : ieee → f.kind = .ieee := Fmt.kind_of_mem_ieee f
    have hsmall : small → f.kind = .finite := Fmt.kind_of_mem_small f
    have htop : top neg (f.withSign neg f.maxMag) := Fmt.isTop_withSign_maxMag heb hj hscale
    have hoverflow : f.kind = .finite ∨ f.kind = .scale ∨ Fmt.toMax neg mode sat = true → top neg (f.overflow neg mode sat) :=
      Fmt.isTop_overflow heb hj hscale
    have htoMax : Fmt.toMax neg mode sat = true ↔ toMax := Fmt.toMax_iff
    refine ⟨fun hm => ⟨Fmt.round_of_fits heb hscale hm hje hj, fun hfits => ?_, Fmt.round_more f neg mode sat e hm⟩,
      ⟨Fmt.hasSize_zero heb hj hscale, rfl⟩, fun h => ?_, ?_, fun h => ?_, ?_⟩
    · have hr : r = { bits := f.overflow neg mode sat, fl := { of := true, nx := true } } :=
        Fmt.round_of_not_fits heb hm hje hj hfits
      rw [hr]
      refine ⟨rfl, fun _ hmax => hoverflow (.inr (.inr (htoMax.mpr hmax))),
        fun h hmax => Fmt.decode_overflow_of_ieee (hieee h) (mt htoMax.mp hmax),
        fun _ hmax => hoverflow (.inr (.inr (htoMax.mpr hmax))), ?_, fun h => hoverflow (.inl (hsmall h)), ?_⟩
      · rintro rfl hmax
        exact Fmt.overflow_of_e4m3_of_not_toMax (f := e4m3) rfl (mt htoMax.mp hmax)
      · rintro rfl
        obtain rfl := hneg rfl
        exact hoverflow (.inr (.inl rfl))
    · have hinf : inf = { bits := f.withSign neg f.infMag, fl := {} } := Fmt.infOut_of_ieee (hieee h)
      exact ⟨hinf ▸ Fmt.decode_infMag (hieee h) neg, congrArg FpOut.fl hinf⟩
    · rintro rfl
      exact ⟨by rintro rfl; rfl, by rintro rfl; exact htop, rfl⟩
    · have hinf : inf = { bits := f.withSign neg f.maxMag, fl := { nv := true } } := Fmt.infOut_of_finite (hsmall h)
      exact ⟨hinf ▸ htop, congrArg FpOut.fl hinf⟩
    · rintro rfl
      rfl
  · intro t f q v hf
    cases q with
    | none => exact floatOut_spec hf none v
    | some y =>
      have hspec := floatOut_spec hf (some y) v
      rw [modeOf_some] at hspec
      exact hspec

end Sys2Proof.Machine
end
